-- ==== Sys2Proof/Word.lean ====
section
/-! DEFINITION. The plainest types of the model: the 64-bit register word (R488), the byte, and the sparse table
(`Memory`) in which every addressed store of the model is kept. The operations over them are in Machine/Ops.lean. -/
namespace Sys2Proof

/-- A 64-bit register or tile word. -/
abbrev W64 := BitVec 64

/-- One byte. -/
abbrev Byte := BitVec 8

/-- A sparse table: (key, value) pairs. Its canonical form (`Memory.wf` in Machine/Ops.lean) has keys strictly rising and
no value equal to what an unlisted key reads as. -/
abbrev Memory (α : Type) := List (Nat × α)

end Sys2Proof
end

