-- ==== Sys2Proof/Syntax.lean ====
section
/-! DEFINITION. The commands of the block: the types of their operands, then `Instr`, one constructor per row of
spec/opcode_table.json. Each constructor's docstring names its row and the rule that describes it. -/
namespace Sys2Proof.Machine

/-! ## Parts, links and time -/

/-- The two parts of the model: the die unit and the aggregator (the chapter "Tusor at a glance"). -/
inductive Part where | tdu | tta
  deriving DecidableEq, Repr

/-- One end of a link: a TDU port, or a TTA port (0 to 15 tray ports, 16 the twin link; R186). -/
inductive LinkEnd where
  | tdu (p : Fin 2)
  | tta (p : Fin 17)
  deriving DecidableEq, Repr

/-- The two time domains (R140). -/
inductive Dom where | a | b
  deriving DecidableEq, Repr

/-- Domain state (R142): UNSET 0, LOCKED 1, HOLDOVER 2. -/
inductive DomState where | unset | locked | holdover
  deriving DecidableEq, Repr

/-- The payload of a TIME frame (R153). `latDone` says whether LAT_PS comes from a completed set of 64 exchanges (R154). -/
structure TimeMsg where
  inForce : Dom
  stA : DomState
  stB : DomState
  lead : Bool
  /-- SWITCH with its target: the scheduled switch, SW_AT in presented ns. -/
  switchTo : Option (Dom × Nat)
  seq : BitVec 16
  latPs : BitVec 26
  latDone : Bool
  slewPpm : BitVec 6
  /-- T_A and T_B in units of 2^-32 ns. -/
  ta : BitVec 96
  tb : BitVec 96
  /-- BRIDGE, signed, units of 2^-16 ns. -/
  bridge : BitVec 64
  deriving DecidableEq, Repr

/-- A PTP event message: fabric port, PTP version-independent facts the timestamp unit needs (R159, R160). -/
structure PtpMsg where
  port : Fin 4
  transmit : Bool
  /-- domainNumber of the message. -/
  domainNum : BitVec 8
  /-- PROFILE of the message's transport: false G.8275.1 over Ethernet, true UDP/IPv6. -/
  udp : Bool
  /-- A Sync message (originTimestamp is inserted on one-step transmission). -/
  isSync : Bool
  /-- A management message, counted and discarded. -/
  management : Bool
  deriving DecidableEq, Repr

/-- What the ORIGIN word of a forwarded frame says (R167). -/
structure Origin where
  down : Bool
  port : Fin 2
  die : Fin 16
  ttaId : BitVec 14
  deriving DecidableEq, Repr

/-- The TRAIN payload (R181). `role` is true for a TTA. -/
structure Train where
  version : BitVec 8
  minVersion : BitVec 8
  role : BitVec 8
  port : BitVec 8
  ttaId : BitVec 16
  lanes : BitVec 8
  credS : BitVec 16
  credW : BitVec 16
  deriving DecidableEq, Repr

/-- What a receiver learns of an arriving frame besides its payload: the link header (R167), and whether the CRC-32C
was correct and the tag verified (R175). -/
structure RxHdr where
  crcOk : Bool
  tagOk : Bool
  prot : Bool
  fwd : Option Origin
  seq : BitVec 12
  cls : Fin 8
  len : BitVec 16
  allotIdx : BitVec 6
  deriving DecidableEq, Repr

/-- An event record (R442). `source` is the SOURCE byte; `crc` is the stored CRC-32C of bytes 0 to 27. -/
structure Rec where
  code : BitVec 16
  flags : BitVec 8
  source : BitVec 8
  stamp : BitVec 32
  p0 : BitVec 32
  p1 : BitVec 32
  p2 : BitVec 32
  p3 : BitVec 32
  p4 : BitVec 32
  crc : BitVec 32
  deriving DecidableEq, Repr

/-- A stage stamp on the wire (R171), without the DIE that the TTA adds. -/
structure StageStamp where
  pipe : Fin 64
  last : Bool
  stage : Fin 16
  slotNum : BitVec 16
  stamp : BitVec 32
  deriving DecidableEq, Repr

/-- An entry of the egress slot table (R193), in the layout of TTA_EGR_SLOT. -/
structure SlotWin where
  valid : Bool
  startUs : BitVec 16
  lenUs : BitVec 9
  deriving DecidableEq, Repr

/-- Control messages (R172). -/
inductive CtlMsg where
  | regWrite (off : BitVec 16) (mask value : W64)
  | trigger (slots : BitVec 8) (start stop : Bool) (cause : BitVec 8) (origin : BitVec 32)
  | partnerQuery
  | park (on : Bool)
  | slotTable (boundaryNs : Nat) (entries : List SlotWin)
  | snapshot (tNs : Nat)
  | reset (level : BitVec 8) (port : BitVec 8)
  | mirror (on : Bool)
  | ack (status : BitVec 8)
  deriving DecidableEq, Repr

/-- Check messages (R173). -/
inductive ChkMsg where
  | testOrder (classMask : BitVec 16)
  | testDone (failures : BitVec 16)
  | bins (stamp : BitVec 32) (values : List W64)
  | unitState (unit : BitVec 16) (withdrawn : Bool)
  deriving DecidableEq, Repr

/-! ## Reset, start-up and power -/

/-- What the fuse array holds for this model (R461): the reset level map (3 bits a source), the debug enable, the
security version count, the product identity of the chapter "Register map", and the calibration set's check (R462). -/
structure Fuses where
  levels : BitVec 30
  debugEnable : Bool
  secFuse : BitVec 8
  variant : BitVec 16
  serial : W64
  deriving DecidableEq, Repr

/-- How a fuse load ended (R461): the failed reads of each section in order (3 means the section failed all reads), the
contents read, and for the TTA the stored and computed CRC and the boundary rail setting of the calibration set (R462). -/
structure FuseLoad where
  failedReads : List (Fin 4)
  contents : Fuses
  calStored : BitVec 32
  calComputed : BitVec 32
  boundaryMv : BitVec 10
  deriving DecidableEq, Repr

/-- A fetched firmware image as the ROM's checks see it (R463). -/
structure FwImage where
  formOk : Bool
  bodyBytes : Nat
  keyOk : Bool
  sigOk : Bool
  hashOk : Bool
  secVersion : BitVec 8
  fwVersion : BitVec 32
  linkVer : BitVec 8
  twinVer : BitVec 8
  wrnVer : BitVec 8
  deriving DecidableEq, Repr

/-- The end of a fetch attempt (R464): it failed (0 address, 1 DHCPv6, 2 TFTP), or it brought an image. -/
inductive FetchResult where
  | failed (reason : Fin 3)
  | image (i : FwImage)
  deriving DecidableEq, Repr

/-- An AVSBus response (R482): a write response with good CRC, valid data and action taken followed by a voltage read of
`mv`; a busy response; any other response. -/
inductive AvsResponse where
  | read (writeOk : Bool) (mv : Nat)
  | busy
  deriving DecidableEq, Repr

/-- The register spaces an access can use (R488): the PF map by the physical function, the same map by the Lodge, the map
of virtual function `n`. (The TDU window is reached by the register port.) -/
inductive RegSpace where
  | pf
  | lodge
  | vf (n : Fin 256)
  deriving DecidableEq, Repr

/-- A detected lane fault (R185): a lane with more than 16 invalid sync headers in 1 ms, a lane that lost block lock, or
every active lane within the same 1 µs. -/
inductive LaneFault where
  | syncHeaders (lane : Fin 8)
  | blockLock (lane : Fin 8)
  | allLanes
  deriving DecidableEq, Repr

/-- A request to a deadline-first arbiter (R195): the requester's index, its deadline if it carries one, and its
service estimate in ns. -/
structure ArbReq where
  index : Nat
  deadline : Option (BitVec 32)
  serviceNs : Nat
  deriving DecidableEq, Repr

/-! ## The die unit's host ports -/

/-- A flush word of the event tap bus (R63). -/
structure FlushWord where
  counter : BitVec 16
  allot : Fin 64
  sat : Bool
  incr : BitVec 24
  deriving DecidableEq, Repr

/-- A word on one lane of the trace input port with its sideband (R81). -/
structure TraceIn where
  lane : Fin 2
  word : W64
  src : Fin 64
  priv : BitVec 2
  allot : Fin 64
  first : Bool
  pd : Bool
  wk : Bool
  deriving DecidableEq, Repr

/-! ## Host queues -/

/-- The owner of a ring set (R408): a virtual function, the PF, the Lodge, the TDU. -/
inductive Fn where
  | vf (n : Fin 256)
  | pf
  | lodge
  | tdu
  deriving DecidableEq, Repr

/-- A started descriptor: its function, ring and index, and the common header (R405). A descriptor of the TDU's mirror on
port p has ring 16 + p. -/
structure Desc where
  fn : Fn
  ring : Fin 64
  index : BitVec 16
  flags : BitVec 8
  allot : BitVec 16
  tag : BitVec 32
  length : BitVec 24
  slackUs : BitVec 16
  deriving DecidableEq, Repr

/-- How a fetch from host memory ended (R85, R404): the bytes, or POISON, DENIED, TIMEOUT. -/
inductive Fetch where
  | data (bs : List Byte)
  | poison
  | denied
  | timeout
  deriving DecidableEq, Repr

/-- A relief hint (R368): 16 bytes. -/
structure Hint where
  version : BitVec 8
  flags : BitVec 8
  pipe : Fin 64
  stage : BitVec 8
  slotNum : BitVec 16
  excess : BitVec 16
  stamp : BitVec 32
  forecast : BitVec 32
  deriving DecidableEq, Repr

/-! ## Tile instructions (R246) -/

/-- Fields of format R. -/
structure RFmt where
  ty : BitVec 4
  d : BitVec 5
  a : BitVec 5
  b : BitVec 5
  c : BitVec 5
  deriving DecidableEq, Repr

/-- Fields of formats I and M: the 10-bit signed field is IMM10 or OFF10. -/
structure IFmt where
  ty : BitVec 4
  d : BitVec 5
  a : BitVec 5
  imm : BitVec 10
  deriving DecidableEq, Repr

/-- Fields of format Q. -/
structure QFmt where
  qtr : BitVec 2
  d : BitVec 5
  imm : BitVec 16
  deriving DecidableEq, Repr

/-- Fields of format S. -/
structure SFmt where
  count : BitVec 8
  obj : BitVec 16
  deriving DecidableEq, Repr

/-- Fields of format L. -/
structure LFmt where
  n : BitVec 12
  len : BitVec 12
  deriving DecidableEq, Repr

/-- A bit error that an instruction's read met (R231): place 0 register, 1 SRAM, 2 inbox; uncorrectable or corrected. -/
structure TileErr where
  place : Fin 3
  word : BitVec 13
  ue : Bool
  deriving DecidableEq, Repr

/-- What the ECC found while a tile fetched and read for an instruction: an uncorrectable error in the code word (R233), and
the word errors. -/
structure TileEcc where
  code : Bool := false
  errs : List TileErr := []
  deriving DecidableEq, Repr



/-! ## The twin protocol (chapter "The aggregator fabric") -/

/-- The path a twin message came by (R216): a frame of the twin link, or fabric Ethernet. -/
inductive TwinPath where
  | link (h : RxHdr)
  | eth
  deriving DecidableEq, Repr

/-- The header of an arriving twin message. -/
structure TwinHdr where
  path : TwinPath
  version : BitVec 8
  sender : BitVec 16
  epochSec : BitVec 48
  epochIdx : BitVec 16
  deriving DecidableEq, Repr

/-- The presence map of a die for an ingest epoch (R211). -/
structure DieMap where
  die : Fin 16
  bits : BitVec 384
  deriving DecidableEq, Repr

/-- An operation that the lead twin orders (R304, R365, R420). -/
inductive OrdOp where
  | create (offset rows rowWords kind entity tid : Nat)
  | write (tid firstRow : Nat) (bytes : List Byte)
  | commit (tid req : Nat)
  | delete (tid req : Nat)
  | route (gid die : Nat) (mask : W64)
  | traceSlot (die slot : Nat) (cfg : W64)
  | serial (min : Nat)
  deriving DecidableEq, Repr

/-- What a ROLE message says. Epochs are numbered n = EPOCH_SEC × 4,000 + EPOCH_IDX. -/
inductive RoleMsg where
  /-- The sender has committed a graph's plan, or the shadow plan of a replacement (R282, R284). -/
  | commit (allot gid : Nat) (shadow : Bool)
  /-- The first-run agreement (R282): primary twin, first graph epoch, TREE_NAN of the lead (R296). -/
  | firstRun (allot gid primary epoch : Nat) (treeNan : Bool)
  /-- The boundary of a replacement's first run (R284). -/
  | planSwitch (allot gid epoch : Nat)
  | pause (allot gid : Nat)
  | kReq (allot k : Nat)
  | dieClear (die : Nat)
  | wmCfg (v : W64)
  /-- The allotment index that the lead chose on a die (R98). -/
  | index (die allot ix : Nat)
  /-- An operation forwarded to the lead with the sender's reference; an operation that the lead applies, with its number and the
  reference it answers; its acknowledgement; a commit's or delete's boundary (R304, R305). -/
  | forward (ref allot : Nat) (op : OrdOp)
  | apply (num allot : Nat) (op : OrdOp) (ref : Option Nat)
  | applied (num : Nat)
  | boundary (allot tid epoch : Nat) (del : Bool)
  /-- ROTATE_STORE at a boundary (R418); asked of the lead with epoch 0. -/
  | rotate (allot epoch : Nat)
  /-- Both banks of a table, at rejoin (R307). -/
  | tableBanks (allot tid : Nat) (shape : List Nat) (active shadow : List W64) (gen act : Nat)
  /-- The budget log, to a keeper twin that returns (R363): tray, die, second of each grant. -/
  | budgetLog (grants : List (Nat × Nat × Nat))
  /-- A retirement re-binds an allotment at a boundary: the partner re-binds too (R225). -/
  | rebind (allot epoch : Nat)
  /-- The image of a graph, for a twin on which its allotment has become ACTIVE (R469), with the epoch of its next run. -/
  | graphImage (allot epoch : Nat) (image : List Byte)
  deriving DecidableEq, Repr

/-- A logged epoch (R214): decided maps and flags FILLED 1, EXCLUDED 2, SOLO 4, ADOPTED 8. -/
structure LogEntry where
  epoch : Nat
  maps : List DieMap
  flags : Nat
  deriving DecidableEq, Repr

/-- A twin message without its header. -/
inductive TwinMsg where
  /-- HEARTBEAT: for each graph the sender is primary of, the last epoch whose verdicts it posted (R215). -/
  | heartbeat (posted : List (Nat × Nat × Nat))
  | propose (maps : List DieMap)
  | have_ (maps : List DieMap)
  | decide (maps : List DieMap)
  | role (m : RoleMsg)
  | ckptDone (allot gid bytes : Nat)
  | logSync (entries : List LogEntry)
  /-- PAGE: asked for with no content; content as (word index in the page, word). -/
  | page (page : Nat) (content : Option (List (Nat × W64)))
  | decision (slot gid run replay site winner : Nat)
  | linkInst (allot port : Nat) (inst : W64)
  deriving DecidableEq, Repr

/-! ## Warren, Bandstand and the budget -/

/-- The protection of an arriving packet (R315): key instance, counter, and whether the tag verified under that instance's key. -/
structure PktAuth where
  inst : W64
  ctr : W64
  tagOk : Bool
  deriving DecidableEq, Repr

/-- A Warren header (R314) without TYPE, which the command names. -/
structure WrnHdr where
  version : BitVec 8
  flags : BitVec 8
  level : BitVec 8
  allot : BitVec 16
  job : BitVec 16
  epochSec : BitVec 48
  epochIdx : BitVec 16
  group : BitVec 16
  sub : BitVec 8
  replay : BitVec 8
  sender : BitVec 16
  segIdx : BitVec 8
  segCnt : BitVec 8
  length : BitVec 32
  kind : BitVec 8
  deriving DecidableEq, Repr

/-- A Bandstand header (R314) without TYPE. -/
structure BstHdr where
  version : BitVec 8
  flags : BitVec 8
  level : BitVec 8
  allot : BitVec 16
  job : BitVec 16
  attempt : BitVec 8
  status : BitVec 8
  failTta : BitVec 16
  timeSec : BitVec 48
  timeNs : BitVec 32
  sender : BitVec 16
  length : BitVec 32
  reqTag : BitVec 32
  deriving DecidableEq, Repr

/-- A budget message (R362) without TYPE. -/
structure BudgetMsg where
  version : BitVec 8
  flags : BitVec 8
  cause : BitVec 8
  tray : BitVec 16
  die : BitVec 8
  result : BitVec 8
  serial : BitVec 32
  sender : BitVec 16
  used : BitVec 8
  budget : BitVec 8
  grantSec : BitVec 48
  deriving DecidableEq, Repr

/-! ## The Sett -/

/-- What the Sett knows of an SPDM request besides its code (R37, R39): the transport (none: the management port, a tray port or fabric
Ethernet; else the function whose DOE mailbox it came through), the session, whether the session is mutually authenticated, and the
digest of the requester's public key. -/
structure SpdmReq where
  doe : Option Fn
  session : Option (BitVec 32)
  mutualAuth : Bool
  keyDigest : List Byte
  deriving DecidableEq, Repr

/-- A trace grant as the Sett's checks see it (R49, R50): the 160 bytes and whether the signature verifies under the holder's key
and under the platform trace authority key. -/
structure GrantImage where
  bytes : List Byte
  holderSig : Bool
  platformSig : Bool
  deriving DecidableEq, Repr

/-- How a host fetch of a grant ended. -/
inductive GrantFetch where
  | grant (g : GrantImage)
  | failed (f : Fetch)
  deriving DecidableEq, Repr

/-- What a SETT frame carries, in the plaintext of its SPDM session (R38, R41, R50, R52): a LINK key installation for an allotment index,
the removal of an index's key, a grant to install, a new minimum serial, the end of all grants of an allotment at release, and a TDU's
measurement. -/
inductive SettMsg where
  | linkKey (ix allot : Nat) (inst : W64)
  | dropKey (ix : Nat)
  | grant (allot flags : Nat) (sources : W64) (notBefore notAfter serial : Nat)
  | minSerial (allot min : Nat)
  | release (allot : Nat)
  | evidence (measurement : List Byte)
  deriving DecidableEq, Repr

/-- TDISP requests that move a TDI (R425). -/
inductive TdispReq where
  | lock
  | start
  | stop
  | error
  deriving DecidableEq, Repr

/-- The bytes of a twin message after its 16-byte header, where R215's section lays them out; the others take 16 bytes an item
(log 27). -/
def twinBody : TwinMsg → Nat
  | .heartbeat l => 16 * l.length
  | .propose m | .have_ m | .decide m => 8 + 48 * m.length
  | .role _ => 16
  | .ckptDone .. => 16
  | .logSync l => (l.map fun e => 16 + 48 * e.maps.length).sum
  | .page _ c => 8 + 16 * ((c.map (·.length)).getD 0)
  | .decision .. | .linkInst .. => 16

/-- LEN of a twin message's frame. -/
def twinLen (m : TwinMsg) : Nat := 16 + twinBody m

/-! ## Frames -/

/-- What a frame carries (R169), by frame type. -/
inductive Payload where
  /-- DATA 0x01: the fast pack chunks. -/
  | data (chunks : List (List Byte))
  /-- TRACE 0x02: one trace segment. -/
  | trace (seg : List Byte)
  | stamps (l : List StageStamp)
  | time (m : TimeMsg)
  | echo (t2 t3 : BitVec 64)
  | record (rs : List Rec)
  | control (tag : BitVec 32) (ackReq : Bool) (m : CtlMsg)
  | check (tag : BitVec 32) (m : ChkMsg)
  | hint (l : List Hint)
  /-- RING 0x0B: KIND, INDEX, OFFSET and content (R174). -/
  | ring (kind : BitVec 8) (index : BitVec 16) (offset : BitVec 32) (content : List Byte)
  | sett (m : SettMsg)
  /-- CHECKPOINT: graph, byte offset and bytes of a checkpoint in transfer (R217). -/
  | checkpoint (allot gid off : Nat) (part : List Byte)
  /-- TWIN: version, epoch number (0 for none) and message (R215). -/
  | twin (version epoch : Nat) (m : TwinMsg)
  deriving DecidableEq, Repr

/-- A frame of a transmitter (R167): its class, protection, length in data bytes, and, once it was sent, its SEQ and the
tick its END block left. -/
structure Frame where
  payload : Payload
  cls : Fin 8
  prot : Bool
  fwd : Option Origin
  allotIdx : BitVec 6
  len : Nat
  seq : Nat
  sentAt : Nat
  /-- Formation number: frames of one weighted class leave in this order (R113). -/
  born : Nat := 0
  /-- Invocation counter of its IV, for a protected frame once sent (R42, R167). -/
  iv : Nat := 0
  deriving DecidableEq, Repr

/-- A job entry of the DEFLATE engine (R436) as the engine fetched it; `reserved` is set when a reserved byte is not 0. -/
structure CmpJob where
  op : BitVec 8
  flags : BitVec 8
  allot : BitVec 16
  reserved : Bool
  src : BitVec 64
  srcLen : BitVec 32
  dst : BitVec 64
  dstCap : BitVec 32
  deriving DecidableEq, Repr


end Sys2Proof.Machine

namespace Sys2Proof
open Machine

/-! ## The commands -/

/-- The commands of the opcode table: the tile instructions first, then the others in its order. -/
inductive Instr where
  /-- NOP (R250). Tile instruction that does nothing for 1 step. -/
  | nop (t : Fin 10240) (f : RFmt) (x : TileEcc)
  /-- ADD (R240). Tile instruction of tile `t`: lane-wise wrapping add. -/
  | add (t : Fin 10240) (f : RFmt) (x : TileEcc)
  /-- SUB (R240). Tile instruction of tile `t`: lane-wise wrapping subtract. -/
  | sub (t : Fin 10240) (f : RFmt) (x : TileEcc)
  /-- ADDS (R240). Tile instruction of tile `t`: lane-wise saturating add. -/
  | adds (t : Fin 10240) (f : RFmt) (x : TileEcc)
  /-- SUBS (R240). Tile instruction of tile `t`: lane-wise saturating subtract. -/
  | subs (t : Fin 10240) (f : RFmt) (x : TileEcc)
  /-- MUL (R240). Tile instruction of tile `t`: low w bits of the lane product. -/
  | mul (t : Fin 10240) (f : RFmt) (x : TileEcc)
  /-- MULH (R240). Tile instruction of tile `t`: high w bits of the lane product. -/
  | mulh (t : Fin 10240) (f : RFmt) (x : TileEcc)
  /-- MIN (R250). Tile instruction of tile `t`: lane-wise integer minimum. -/
  | min (t : Fin 10240) (f : RFmt) (x : TileEcc)
  /-- MAX (R250). Tile instruction of tile `t`: lane-wise integer maximum. -/
  | max (t : Fin 10240) (f : RFmt) (x : TileEcc)
  /-- AND (R250). Tile instruction of tile `t`: bitwise AND. -/
  | and (t : Fin 10240) (f : RFmt) (x : TileEcc)
  /-- OR (R250). Tile instruction of tile `t`: bitwise OR. -/
  | or (t : Fin 10240) (f : RFmt) (x : TileEcc)
  /-- XOR (R250). Tile instruction of tile `t`: bitwise XOR. -/
  | xor (t : Fin 10240) (f : RFmt) (x : TileEcc)
  /-- SHL (R240). Tile instruction of tile `t`: lane-wise shift left by B mod w. -/
  | shl (t : Fin 10240) (f : RFmt) (x : TileEcc)
  /-- SHR (R240). Tile instruction of tile `t`: lane-wise arithmetic or logical shift right. -/
  | shr (t : Fin 10240) (f : RFmt) (x : TileEcc)
  /-- CMPLT (R250). Tile instruction of tile `t`: lane-wise integer less-than mask. -/
  | cmplt (t : Fin 10240) (f : RFmt) (x : TileEcc)
  /-- CMPEQ (R250). Tile instruction of tile `t`: lane-wise integer equality mask. -/
  | cmpeq (t : Fin 10240) (f : RFmt) (x : TileEcc)
  /-- SEL (R250). Tile instruction of tile `t`: bitwise select by mask C. -/
  | sel (t : Fin 10240) (f : RFmt) (x : TileEcc)
  /-- ADDI (R250). Tile instruction of tile `t`: lane-wise add of a sign-extended immediate. -/
  | addi (t : Fin 10240) (f : IFmt) (x : TileEcc)
  /-- LIQ (R250). Tile instruction of tile `t`: loads a 16-bit immediate into one quarter of D. -/
  | liq (t : Fin 10240) (f : QFmt) (x : TileEcc)
  /-- CLZ (R250). Tile instruction of tile `t`: lane-wise leading zero count. -/
  | clz (t : Fin 10240) (f : RFmt) (x : TileEcc)
  /-- POPC (R250). Tile instruction of tile `t`: lane-wise population count. -/
  | popc (t : Fin 10240) (f : RFmt) (x : TileEcc)
  /-- LIDX (R248). Tile instruction of tile `t`: reads a loop level's iteration index. -/
  | lidx (t : Fin 10240) (f : IFmt) (x : TileEcc)
  /-- FADD (R235). Tile instruction of tile `t`: lane-wise float add, rounded once. -/
  | fadd (t : Fin 10240) (f : RFmt) (x : TileEcc)
  /-- FSUB (R235). Tile instruction of tile `t`: lane-wise float subtract. -/
  | fsub (t : Fin 10240) (f : RFmt) (x : TileEcc)
  /-- FMUL (R235). Tile instruction of tile `t`: lane-wise float multiply. -/
  | fmul (t : Fin 10240) (f : RFmt) (x : TileEcc)
  /-- FMA (R245). Tile instruction of tile `t`: fused multiply-add with a single rounding. -/
  | fma (t : Fin 10240) (f : RFmt) (x : TileEcc)
  /-- FMIN (R238). Tile instruction of tile `t`: lane-wise float minimum. -/
  | fmin (t : Fin 10240) (f : RFmt) (x : TileEcc)
  /-- FMAX (R238). Tile instruction of tile `t`: lane-wise float maximum. -/
  | fmax (t : Fin 10240) (f : RFmt) (x : TileEcc)
  /-- FDIV (R250). Tile instruction of tile `t`: lane-wise float divide in 12 steps. -/
  | fdiv (t : Fin 10240) (f : RFmt) (x : TileEcc)
  /-- FSQRT (R250). Tile instruction of tile `t`: lane-wise float square root in 12 steps. -/
  | fsqrt (t : Fin 10240) (f : RFmt) (x : TileEcc)
  /-- FCMPLT (R238). Tile instruction of tile `t`: lane-wise float less-than mask. -/
  | fcmplt (t : Fin 10240) (f : RFmt) (x : TileEcc)
  /-- FCMPEQ (R238). Tile instruction of tile `t`: lane-wise float equality mask. -/
  | fcmpeq (t : Fin 10240) (f : RFmt) (x : TileEcc)
  /-- FSGN (R250). Tile instruction of tile `t`: clears, inverts or copies the sign bit. -/
  | fsgn (t : Fin 10240) (f : RFmt) (x : TileEcc)
  /-- CVT (R239). Tile instruction of tile `t`: converts a lane group between formats. -/
  | cvt (t : Fin 10240) (f : RFmt) (x : TileEcc)
  /-- DOT (R245). Tile instruction of tile `t`: ordered dot product into an FP32 accumulator. -/
  | dot (t : Fin 10240) (f : RFmt) (x : TileEcc)
  /-- ACC_CLR (R250). Tile instruction of tile `t`: clears an exact accumulator and its flags. -/
  | accClr (t : Fin 10240) (f : RFmt) (x : TileEcc)
  /-- ACC_ADD (R242). Tile instruction of tile `t`: adds every lane exactly into an accumulator. -/
  | accAdd (t : Fin 10240) (f : RFmt) (x : TileEcc)
  /-- ACC_RD (R243). Tile instruction of tile `t`: reads an accumulator out, rounded once. -/
  | accRd (t : Fin 10240) (f : RFmt) (x : TileEcc)
  /-- ACC_MRG (R242). Tile instruction of tile `t`: merges one accumulator into another. -/
  | accMrg (t : Fin 10240) (f : RFmt) (x : TileEcc)
  /-- ACC_LD (R244). Tile instruction of tile `t`: loads an accumulator from its 48-byte image. -/
  | accLd (t : Fin 10240) (f : IFmt) (x : TileEcc)
  /-- ACC_ST (R244). Tile instruction of tile `t`: stores an accumulator as its 48-byte image. -/
  | accSt (t : Fin 10240) (f : IFmt) (x : TileEcc)
  /-- LD (R251). Tile instruction of tile `t`: loads an SRAM word. -/
  | ld (t : Fin 10240) (f : IFmt) (x : TileEcc)
  /-- ST (R251). Tile instruction of tile `t`: stores an SRAM word. -/
  | st (t : Fin 10240) (f : IFmt) (x : TileEcc)
  /-- GLD (R252). Tile instruction of tile `t`: indexed lane gather from SRAM. -/
  | gld (t : Fin 10240) (f : RFmt) (x : TileEcc)
  /-- NPUT (R257). Tile instruction of tile `t`: writes an inbox word of a cluster tile, waiting while FULL. -/
  | nput (t : Fin 10240) (f : IFmt) (x : TileEcc)
  /-- INRD (R257). Tile instruction of tile `t`: reads its own inbox word once FULL, and clears FULL. -/
  | inrd (t : Fin 10240) (f : IFmt) (x : TileEcc)
  /-- HBKT (R259). Tile instruction of tile `t`: computes the log histogram bucket. -/
  | hbkt (t : Fin 10240) (f : RFmt) (x : TileEcc)
  /-- HADD (R259). Tile instruction of tile `t`: increments a histogram bucket count. -/
  | hadd (t : Fin 10240) (f : RFmt) (x : TileEcc)
  /-- TWALK (R295). Tile instruction of tile `t`: walks a depth-d tree and returns the leaf index. -/
  | twalk (t : Fin 10240) (f : RFmt) (x : TileEcc)
  /-- XFER (R254). Tile instruction of tile `t`: issues a boundary transfer described in SRAM. -/
  | xfer (t : Fin 10240) (f : IFmt) (x : TileEcc)
  /-- SWAIT (R276). Tile instruction of tile `t`: waits on a sync object. -/
  | swait (t : Fin 10240) (f : SFmt) (x : TileEcc)
  /-- SSIG (R276). Tile instruction of tile `t`: signals a sync object. -/
  | ssig (t : Fin 10240) (f : SFmt) (x : TileEcc)
  /-- LOOP (R248). Tile instruction of tile `t`: repeats the next LEN instructions N times. -/
  | loop (t : Fin 10240) (f : LFmt) (x : TileEcc)
  /-- END (R229). Tile instruction of tile `t`: ends the task. -/
  | end_ (t : Fin 10240) (f : RFmt) (x : TileEcc)
  /-- POR (R455). Power-on reset of a part; whether its always-on supply was lost. -/
  | por (p : Part) (aon : Bool)
  /-- PIN_RESET (R455). RESET_N or TDU_RST_N held low for at least 1 µs. -/
  | pinReset (p : Part)
  /-- WATCHDOG_EXPIRY (R455). Watchdog of Lodge core 0 to 3, or (4) a core PLL that loses lock. -/
  | watchdogExpiry (src : Fin 5)
  /-- RST_REQ (R455). Write of `v` to TTA_RST_CTL. -/
  | rstReq (v : W64)
  /-- THERMAL_TRIP (R505). Junction passes the trip limit. -/
  | thermalTrip
  /-- THERMAL_TRIP_CLEAR (R456). Junction 10 °C below the trip limit. -/
  | thermalTripClear
  /-- BROWN_OUT (R502). Brown-out of a part. -/
  | brownOut (p : Part)
  /-- DEBUG_RESET (R455). IEEE 1149.1 reset instruction. -/
  | debugReset (p : Part) (level : Fin 3)
  /-- RESET_RELEASE (R458). The clock-good of the domains released at this order of the start-up sequence is up for 16 cycles; TWIN_SEL as the pin reads, sampled at ORDER 1 of the TTA. -/
  | resetRelease (p : Part) (order : Fin 14) (twinSel : Bool)
  /-- FUSE_LOAD_DONE (R461). The fuse array load ends. -/
  | fuseLoadDone (p : Part) (l : FuseLoad)
  /-- READY_SWEEP_DONE (R459). The sweep ends; clusters without a token, and tiles that fail the memory test. -/
  | readySweepDone (missing : List (Fin 640)) (failed : List (Fin 10240))
  /-- MEM_TRAINING_DONE (R465). Memory training ends; bit ch set for a failed channel. -/
  | memTrainingDone (failed : BitVec 64)
  /-- FETCH_ATTEMPT_DONE (R464). A fetch attempt ends. -/
  | fetchAttemptDone (r : FetchResult)
  /-- FETCH_ATTEMPT_TIMEOUT (R464). 30 s since the attempt started. -/
  | fetchAttemptTimeout
  /-- FETCH_RETRY (R464). The 5 s gap expires. -/
  | fetchRetry
  /-- START_TIMER_EXPIRY (R466). The 300 s start timer expires. -/
  | startTimerExpiry
  /-- RECOVERY_FETCH (R467). The 10 s interval of recovery mode expires. -/
  | recoveryFetch
  /-- BOOT_OK (R465). Write of BOOT_OK to TTA_BOOT_CTL. -/
  | bootOk
  /-- TRAY_GO (R465). Write of TRAY_GO = 1 to TTA_BOOT_CTL. -/
  | trayGo
  /-- ROLL_FWD (R463). Write of ROLL_FWD with KEY to TTA_BOOT_CTL. -/
  | rollFwd (key : BitVec 16)
  /-- CAL_PROGRAM (R462). Write of PROGRAM with KEY to TTA_CAL_CTL. -/
  | calProgram (key : BitVec 16)
  /-- CAL_PROGRAM_DONE (R462). Programming completes. -/
  | calProgramDone
  /-- POS_WRITE (R495). Write of `v` to TTA_POS, by the PF or the Lodge. -/
  | posWrite (pf : Bool) (v : W64)
  /-- COMPAT_WRITE (R496). Write of `v` to TTA_COMPAT by the Lodge. -/
  | compatWrite (v : W64)
  /-- REGISTER_WRITE (R489). Write of the enabled bytes of `v` at an offset of a register space. -/
  | registerWrite (space : RegSpace) (off : BitVec 21) (be : BitVec 8) (v : W64)
  /-- PM_REQ_CHANGE (R471). PM_REQ[1:0] changes. -/
  | pmReqChange (v : BitVec 2)
  /-- D2_DRAIN_DEADLINE (R472). 1 ms since PM_REQ was sampled. -/
  | d2DrainDeadline
  /-- D2_ENTRY_DONE (R472). The entry sequence completes. -/
  | d2EntryDone
  /-- D2_EXIT_DONE (R473). The exit sequence completes; cycles of the 32 MHz clock spent in D2. -/
  | d2ExitDone (cycles : Nat)
  /-- WAKE_PATTERN_DETECTED (R184). 0.5 µs of wake pattern on a port. -/
  | wakePatternDetected (e : LinkEnd)
  /-- PWR_GO (R476). Write of `v` to TTA_PWR_CTL. -/
  | pwrGo (v : W64)
  /-- TTA_ENTRY_DONE (R477). The TTA's entry sequence completes. -/
  | ttaEntryDone
  /-- TTA_EXIT_DONE (R477). The TTA's exit sequence completes. -/
  | ttaExitDone
  /-- PWR_WAKE_WRITE (R474). Write of TTA_PWR_WAKE. -/
  | pwrWakeWrite (ports : BitVec 17)
  /-- WAKE_PACKET (R479). A management wake packet. -/
  | wakePacket (tagOk : Bool) (version type : BitVec 8) (ttaId : BitVec 16) (seq : BitVec 64) (src : BitVec 32)
  /-- PCIE_WAKE (R478). A PCIe memory write or host-initiated L1 exit. -/
  | pcieWake
  /-- FABRIC_WAKE_FRAME (R478). A fabric Ethernet frame addressed to the TTA, other than PTP or ESMC. -/
  | fabricWakeFrame
  /-- LODGE_PLL_WRITE (R481). Write of LODGE_PLL. -/
  | lodgePllWrite (on : Bool)
  /-- LODGE_CLOCK_SWITCH (R481). The PLL locks and the clock switches. -/
  | lodgeClockSwitch
  /-- AVS_RESPONSE (R482). An AVSBus response or voltage read. -/
  | avsResponse (r : AvsResponse)
  /-- AVS_BUSY_RETRY (R482). The 10 µs retry interval expires. -/
  | avsBusyRetry
  /-- AVS_TIMEOUT (R483). 200 µs since the write of the request. -/
  | avsTimeout
  /-- AVS_CLR (R483). Write of AVS_CLR. -/
  | avsClr
  /-- THROTTLE_TICK (R487). The 1 ms throttle check; readings of the quadrant bridge sensors. -/
  | throttleTick (bridges : List (BitVec 8))
  /-- HOST_CLK_GOOD_FALL (R62). HOST_CLK_GOOD falls. -/
  | hostClkGoodFall
  /-- TRC_CLK_GOOD_FALL (R127). TRC_CLK_GOOD falls. -/
  | trcClkGoodFall
  /-- FLUSH_WORD (R95). The flush words presented in one host-main cycle, at most one a lane. -/
  | flushWord (lanes : List FlushWord)
  /-- CMD_START (R103). CMD_START pulse. -/
  | cmdStart (a : Fin 64) (id : BitVec 16)
  /-- STAGE_STAMP (R70). A stage stamp is presented on the slot interface. -/
  | stageStamp (pipe : Fin 64) (slot : BitVec 16) (stage : Fin 16) (last : Bool)
  /-- HINT_ACCEPTED (R73). The host takes the hint on HINT_DATA with HINT_READY, and the next hint is placed with its LATE flag set as due. -/
  | hintAccepted
  /-- CHK_ITEM (R373). A completed work item; the junction temperature and the rail at CHK_KEEP. -/
  | chkItem (item : BitVec 48) (unit : Fin 4096) (a : Fin 64) (step : BitVec 32) (sig : W64) (poison : Bool) (tempC : Int) (railMv : BitVec 16)
  /-- CHK_REQ_ISSUE (R375). The TDU issues the oldest request that is due and has an eligible unit. -/
  | chkReqIssue
  /-- CHK_RSP (R376). A shadow or third response. -/
  | chkRsp (item : BitVec 48) (a : Fin 64) (unit : Fin 4096) (sig : W64) (poison : Bool)
  /-- CHK_RESPONSE_TIMEOUT (R376). No response 10 ms after the request. -/
  | chkResponseTimeout (item : BitVec 48) (a : Fin 64) (unit : Fin 4096)
  /-- CHK_STEP_END (R378). CHK_STEP_END for an index and step. -/
  | chkStepEnd (a : Fin 64) (step : BitVec 32)
  /-- CHK_TEST_DONE (R392). The host reports the field test's result. -/
  | chkTestDone (pass : Bool)
  /-- FIELD_TEST_TIMEOUT (R392). No CHK_TEST_DONE 2 ms after the request. -/
  | fieldTestTimeout
  /-- PERIODIC_TEST_TIMER (R392). PERIOD_MS expires. -/
  | periodicTestTimer
  /-- TRACE_WORD (R121). A valid trace input word at a TRC_CLK cycle. -/
  | traceWord (w : TraceIn) (cycle : Nat)
  /-- TRIGGER_POINT (R133). The trigger point of the trace input domain: every trigger raised since the last one reaches it. -/
  | triggerPoint
  /-- TRC_TRIG_START (R129). Write of START to TDU_TRC_TRIG. -/
  | trcTrigStart (mask : BitVec 8)
  /-- TRC_TRIG_STOP (R129). Write of STOP to TDU_TRC_TRIG. -/
  | trcTrigStop (mask : BitVec 8)
  /-- TRACE_SEGMENT (R135). Egress or the spill ring takes the next segment of a draining slot. -/
  | traceSegment (slot : Fin 8)
  /-- REG_PORT_REQUEST (R84). A register port request of the host die: read or write, REG_PRIV, offset, byte enables, data. -/
  | regPortRequest (write : Bool) (priv : Bool) (addr : BitVec 16) (be : BitVec 8) (v : W64)
  /-- MEM_RESPONSE (R85). A memory port response: its tag and MEM_RSTAT. -/
  | memResponse (tag : Fin 64) (stat : Fin 4)
  /-- MEM_REQUEST_TIMEOUT (R85). No response 100 µs after issue. -/
  | memRequestTimeout (tag : Fin 64)
  /-- EPOCH_BOUNDARY (R107). A TDU sampling-epoch boundary. -/
  | epochBoundary (tick : Nat)
  /-- CNT_GROUP_WRITE (R97). Write of TDU_CNT_GROUP[g]. -/
  | cntGroupWrite (g : Fin 256) (v : W64)
  /-- CHK_CLASS_WRITE (R75). Write of TDU_CHK_CLASS[c]. -/
  | chkClassWrite (c : Fin 16) (v : W64)
  /-- UNIT_CLEAR (R392). Write of CLEAR to TDU_CHK_UNIT. -/
  | unitClear
  /-- BIN_CLR (R391). Write of BIN_CLR to TDU_CHK_TEST. -/
  | binClr
  /-- WHOLE_SECOND (R151). Presented time of the part reaches a whole second at tick `tick`. -/
  | wholeSecond (p : Part) (tick : Nat)
  /-- TIME_RATE_WRITE (R141). Write of TTA_TIME_RATE. -/
  | timeRateWrite (d : Dom) (rate : BitVec 32)
  /-- TIME_SET (R141). Write of TTA_TIME_SET_NS. -/
  | timeSet (d : Dom) (ns : W64)
  /-- TIME_STEP (R144). Write of TTA_TIME_STEP. -/
  | timeStep (d : Dom) (k : W64)
  /-- DOM_CMD_LOCKED (R142). CMD 1. -/
  | domCmdLocked (d : Dom)
  /-- DOM_CMD_HOLDOVER (R142). CMD 2. -/
  | domCmdHoldover (d : Dom)
  /-- HOLD_TIMER_EXPIRY (R142). The hold timer reaches HOLD_MS at tick `tick`. -/
  | holdTimerExpiry (d : Dom) (tick : Nat)
  /-- TIME_SWITCH_REQUEST (R146). Write of TTA_TIME_SWITCH with GO. -/
  | timeSwitchRequest (target : Dom)
  /-- SWITCH_AT (R147). Presented time of the part reaches SW_AT at tick `tick`. -/
  | switchAt (p : Part) (tick : Nat)
  /-- BRIDGE_SLEW_COMPLETE (R144). The bridge of the part reaches 0 at tick `tick`. -/
  | bridgeSlewComplete (p : Part) (tick : Nat)
  /-- TIME_SEND (R153). The 10 µs TIME interval of the TTA expires at tick `tick`. -/
  | timeSend (tick : Nat)
  /-- TIME_FRAME (R156). A TIME frame arrives at tick `tick` of the receiver. -/
  | timeFrame (e : LinkEnd) (h : RxHdr) (m : TimeMsg) (tick : Nat)
  /-- ECHO_FRAME (R154). An ECHO frame arrives on a TTA port at tick `tick`. -/
  | echoFrame (p : Fin 17) (h : RxHdr) (t2 t3 : BitVec 64) (tick : Nat)
  /-- LEAD_MESSAGE_TIMEOUT (R156). 100 µs without a TIME message with LEAD. -/
  | leadMessageTimeout (tick : Nat)
  /-- TIME_MESSAGE_TIMEOUT (R157). 100 µs without a usable TIME message. -/
  | timeMessageTimeout (tick : Nat)
  /-- PTP_EVENT_MESSAGE (R159). A PTP event message passes the timestamp point. -/
  | ptpEventMessage (m : PtpMsg) (tick : Nat)
  /-- SYNCE_RATE_UPDATE (R161). The 1 ms frequency measurement of the selected recovered clock. -/
  | synceRateUpdate (d : Dom) (freq : BitVec 32)
  /-- SYNCE_CLOCK_LOST (R161). The recovered clock of the domain is lost. -/
  | synceClockLost (d : Dom)
  /-- SYNCE_CLOCK_RESTORED (R161). The recovered clock of the domain returns. -/
  | synceClockRestored (d : Dom)
  /-- PPS_IN_EDGE (R162). A PPS_IN rising edge. -/
  | ppsInEdge (tick : Nat)
  /-- LINK_ENABLE (R180). Write of ENABLE. -/
  | linkEnable (e : LinkEnd) (en : Bool)
  /-- LINK_RETRAIN (R180). Write of RETRAIN = 1. -/
  | linkRetrain (e : LinkEnd)
  /-- RETIRE_CLR (R185). Write of RETIRE_CLR = 1. -/
  | retireClr (e : LinkEnd)
  /-- WAKE_PATTERN_DONE (R180). The sent wake pattern completes. -/
  | wakePatternDone (e : LinkEnd)
  /-- LOCK_ACHIEVED (R180). Lanes with 64 consecutive valid sync headers when LOCK ends. -/
  | lockAchieved (e : LinkEnd) (locked : BitVec 8)
  /-- DESKEW_DONE (R180). ALIGN aligned; lanes whose skew exceeds R165. -/
  | deskewDone (e : LinkEnd) (skewed : BitVec 8)
  /-- TRAINING_STATE_TIMEOUT (R512). The training state passes its bound. -/
  | trainingStateTimeout (e : LinkEnd)
  /-- LINK_RETRY_TIMER (R180). The 1 ms retry delay expires. -/
  | linkRetryTimer (e : LinkEnd)
  /-- LANE_FAULT (R185). A lane fault is detected. -/
  | laneFault (e : LinkEnd) (f : LaneFault)
  /-- TRAIN_FRAME (R182). A TRAIN frame arrives. -/
  | trainFrame (e : LinkEnd) (crcOk : Bool) (t : Train)
  /-- ACK_BLOCK (R177). An ACK control block arrives. -/
  | ackBlock (e : LinkEnd) (crcOk : Bool) (sq : BitVec 12) (nakS : Bool) (wq : BitVec 12) (nakW : Bool)
  /-- CREDIT (R179). A CREDIT block arrives. -/
  | credit (e : LinkEnd) (crcOk : Bool) (sc wc : BitVec 16)
  /-- LANE (R185). A LANE block arrives. -/
  | lane (e : LinkEnd) (crcOk : Bool) (ln : BitVec 8) (kind : BitVec 8)
  /-- ABORT_BLOCK (R166). An ABORT block arrives. -/
  | abortBlock (e : LinkEnd)
  /-- REPLAY_TIMEOUT (R177). The oldest unacknowledged frame of the space reaches its bound at tick `tick`. -/
  | replayTimeout (e : LinkEnd) (strict : Bool) (tick : Nat)
  /-- CREDIT_RETURN (R179). The 1 µs credit interval expires. -/
  | creditReturn (e : LinkEnd)
  /-- FRAME_BOUNDARY (R188). A frame or IDLE finishes on the transmitter. -/
  | frameBoundary (e : LinkEnd) (tick : Nat)
  /-- SLOT_TABLE_COMMIT (R194). Write of COMMIT to TTA_EGR_SLOT_CTL. -/
  | slotTableCommit
  /-- SLOT_TABLE_SWITCH (R194). The chosen radio frame boundary arrives. -/
  | slotTableSwitch (p : Part) (tick : Nat)
  /-- ARBITER_GRANT (R195). An arbiter takes the requests that arrived and grants one. -/
  | arbiterGrant (a : Nat) (arrivals : List ArbReq)
  /-- DATA_FRAME (R175). A DATA frame arrives on a TTA port at tick `tick`: its data bytes in plaintext. -/
  | dataFrame (p : Fin 17) (h : RxHdr) (bytes : List Byte) (tick : Nat)
  /-- TRACE_FRAME (R135). A TRACE frame arrives: one trace segment. -/
  | traceFrame (p : Fin 17) (h : RxHdr) (seg : List Byte)
  /-- STAMP_FRAME (R281). A STAMP frame arrives at tick `tick`. -/
  | stampFrame (p : Fin 17) (h : RxHdr) (l : List StageStamp) (tick : Nat)
  /-- HINT_FRAME (R24). A HINT frame arrives at a TDU port, or on the twin link on its way to a die. -/
  | hintFrame (e : LinkEnd) (h : RxHdr) (hints : List Hint)
  /-- RECORD_FRAME (R448). A RECORD frame arrives. -/
  | recordFrame (p : Fin 17) (h : RxHdr) (recs : List Rec)
  /-- SETT_FRAME (R41). A SETT frame arrives at a link end. -/
  | settFrame (e : LinkEnd) (h : RxHdr) (m : SettMsg)
  /-- CHECKPOINT_FRAME (R217). A CHECKPOINT frame arrives: bytes of a checkpoint from a byte offset. -/
  | checkpointFrame (path : TwinPath) (allot gid : BitVec 16) (off : Nat) (part : List Byte)
  /-- REG_WRITE (R172). CONTROL message 0x01. `h` is absent for a further message of the frame accepted last. -/
  | regWrite (p : Fin 2) (h : Option RxHdr) (tag : BitVec 32) (ackReq : Bool) (off : BitVec 16) (mask value : W64)
  /-- CONTROL_TRIGGER (R172). CONTROL message 0x02. -/
  | controlTrigger (p : Fin 2) (h : Option RxHdr) (tag : BitVec 32) (ackReq : Bool) (slots : BitVec 8) (start stop : Bool) (cause : BitVec 8) (origin : BitVec 32)
  /-- PARTNER_QUERY (R219). CONTROL message 0x03. -/
  | partnerQuery (p : Fin 2) (h : Option RxHdr) (tag : BitVec 32) (ackReq : Bool)
  /-- PARK (R476). CONTROL message 0x04. -/
  | park (p : Fin 2) (h : Option RxHdr) (tag : BitVec 32) (ackReq : Bool) (on : Bool)
  /-- SLOT_TABLE (R194). CONTROL message 0x05. -/
  | slotTable (p : Fin 2) (h : Option RxHdr) (tag : BitVec 32) (ackReq : Bool) (boundaryNs : W64) (entries : List SlotWin)
  /-- SNAPSHOT (R451). CONTROL message 0x06. -/
  | snapshot (p : Fin 2) (h : Option RxHdr) (tag : BitVec 32) (ackReq : Bool) (tNs : W64)
  /-- CONTROL_RESET (R455). CONTROL message 0x07. -/
  | controlReset (p : Fin 2) (h : Option RxHdr) (tag : BitVec 32) (ackReq : Bool) (level port : BitVec 8)
  /-- MIRROR (R427). CONTROL message 0x08. -/
  | mirror (p : Fin 2) (h : Option RxHdr) (tag : BitVec 32) (ackReq : Bool) (on : Bool)
  /-- CONTROL_ACK (R172). An acknowledgement arrives in an up CONTROL frame. -/
  | controlAck (p : Fin 17) (h : RxHdr) (tag : BitVec 32) (status : BitVec 8)
  /-- TEST_ORDER (R173). CHECK message 0x01. -/
  | testOrder (p : Fin 2) (h : RxHdr) (tag : BitVec 32) (classMask : BitVec 16)
  /-- TEST_DONE (R173). CHECK message 0x02. -/
  | testDone (p : Fin 17) (h : RxHdr) (tag : BitVec 32) (failures : BitVec 16)
  /-- BINS (R391). CHECK message 0x03. -/
  | bins (p : Fin 17) (h : RxHdr) (stamp : BitVec 32) (values : List W64)
  /-- UNIT_STATE (R173). CHECK message 0x04. -/
  | unitState (p : Fin 17) (h : RxHdr) (unit : BitVec 16) (withdrawn : Bool)
  /-- RING_DESCRIPTOR (R427). RING message 0x01. -/
  | ringDescriptor (p : Fin 2) (h : RxHdr) (index : BitVec 16) (bytes : List Byte)
  /-- RING_OUTPUT (R174). RING message 0x02. -/
  | ringOutput (p : Fin 17) (h : RxHdr) (index : BitVec 16) (off : BitVec 32) (content : List Byte)
  /-- RING_WRITEBACK (R174). RING message 0x03. -/
  | ringWriteback (p : Fin 17) (h : RxHdr) (index : BitVec 16) (content : List Byte)
  /-- RING_COMPLETION (R174). RING message 0x04. -/
  | ringCompletion (p : Fin 17) (h : RxHdr) (index : BitVec 16) (content : List Byte)
  /-- RING_NOTICE (R174). RING message 0x05. -/
  | ringNotice (p : Fin 17) (h : RxHdr) (content : List Byte)
  /-- HEARTBEAT_SEND (R215). The 10 µs heartbeat interval expires at tick `tick`. -/
  | heartbeatSend (tick : Nat)
  /-- HEARTBEAT (R215). A HEARTBEAT arrives: allotment, graph and last posted epoch of each graph the partner is primary of. -/
  | heartbeat (t : TwinHdr) (posted : List (Nat × Nat × Nat)) (tick : Nat)
  /-- PROPOSE (R211). A PROPOSE arrives. -/
  | propose (t : TwinHdr) (maps : List DieMap) (tick : Nat)
  /-- HAVE (R211). A HAVE arrives. -/
  | haveMsg (t : TwinHdr) (maps : List DieMap) (tick : Nat)
  /-- DECIDE (R211). A DECIDE arrives. -/
  | decide (t : TwinHdr) (maps : List DieMap) (tick : Nat)
  /-- ROLE (R282). A ROLE message arrives. -/
  | role (t : TwinHdr) (m : RoleMsg) (tick : Nat)
  /-- CKPT_DONE (R217). A CKPT_DONE arrives: the graph and its byte count. -/
  | ckptDone (t : TwinHdr) (allot gid : BitVec 16) (n : Nat) (tick : Nat)
  /-- LOG_SYNC (R220). A LOG_SYNC arrives. -/
  | logSync (t : TwinHdr) (entries : List LogEntry) (tick : Nat)
  /-- PAGE (R207). A PAGE message arrives: a request, or the page's words. -/
  | page (t : TwinHdr) (pg : BitVec 16) (content : Option (List (Nat × W64))) (tick : Nat)
  /-- DECISION (R201). A DECISION arrives. -/
  | decision (t : TwinHdr) (slot : Fin 256) (gid : BitVec 16) (run replay site winner : Nat) (tick : Nat)
  /-- LINK_INST (R42). A LINK_INST arrives. -/
  | linkInst (t : TwinHdr) (allot : BitVec 16) (port : Fin 16) (inst : W64) (tick : Nat)
  /-- INGEST_EPOCH_BOUNDARY (R210). Presented time of the TTA passes a 250 µs ingest boundary at tick `tick`. -/
  | ingestEpochBoundary (tick : Nat)
  /-- WATERMARK_CLOSE (R211). HOLD_US after the boundary of ingest epoch `epoch`. -/
  | watermarkClose (epoch : Nat) (tick : Nat)
  /-- FILL_BOUND (R211). FILL_US after the CLOSE of ingest epoch `epoch`. -/
  | fillBound (epoch : Nat) (tick : Nat)
  /-- PARTNER_SILENT (R219). LOSS_US without a twin message. -/
  | partnerSilent (tick : Nat)
  /-- PARTNER_QUERY_DONE (R220). 20 µs after the partner queries left. -/
  | partnerQueryDone (tick : Nat)
  /-- FAILOVER_REPLAY_DONE (R221). The failover replay of every graph is complete. -/
  | failoverReplayDone (tick : Nat)
  /-- CLUSTER_WINDOW_END (R223). A WINDOW_MS window ends: cluster temperatures in °C and quadrant rails in mV. -/
  | clusterWindowEnd (tick : Nat) (temps : List Int) (railMv : List Nat)
  /-- MEM_CHANNEL_ERROR (R207). A channel reports a corrected or an uncorrectable error. -/
  | memChannelError (ch : Fin 64) (ue : Bool) (tick : Nat)
  /-- REBIND_COMPLETE (R53). The re-bind sequence of the slot reaches its end. -/
  | rebindComplete (slot : Fin 256) (tick : Nat)
  /-- RELEASE_COMPLETE (R56). The release sequence of the slot reaches its end. -/
  | releaseComplete (slot : Fin 256) (tick : Nat)
  /-- PLATFORM_KEY_ROUND (R40). A round ends: bit 0, 1, 2 set when TTA 0x0000, TTA 0x0001, the own twin holds the platform ARK; the ARK of the first that does. -/
  | platformKeyRound (served : BitVec 3) (ark : BitVec 256) (tick : Nat)
  /-- PKEY_GENERATE (R40). Write of GENERATE with KEY to TTA_SETT_PKEY by the Lodge; whether TTA 0x0001 holds the platform ARK. -/
  | pkeyGenerate (key : BitVec 16) (peerHeld : Bool)
  /-- GET_VERSION (R37). SPDM GET_VERSION. -/
  | getVersion (r : SpdmReq)
  /-- GET_CAPABILITIES (R37). SPDM GET_CAPABILITIES. -/
  | getCapabilities (r : SpdmReq)
  /-- NEGOTIATE_ALGORITHMS (R37). SPDM NEGOTIATE_ALGORITHMS; whether the request offers the supported algorithms. -/
  | negotiateAlgorithms (r : SpdmReq) (common : Bool)
  /-- GET_DIGESTS (R37). SPDM GET_DIGESTS. -/
  | getDigests (r : SpdmReq)
  /-- GET_CERTIFICATE (R37). SPDM GET_CERTIFICATE. -/
  | getCertificate (r : SpdmReq) (off len : BitVec 16)
  /-- CHALLENGE (R37). SPDM CHALLENGE. -/
  | challenge (r : SpdmReq)
  /-- GET_MEASUREMENTS (R38). SPDM GET_MEASUREMENTS. -/
  | getMeasurements (r : SpdmReq)
  /-- KEY_EXCHANGE (R37). SPDM KEY_EXCHANGE; the session ID that it forms. -/
  | keyExchange (r : SpdmReq) (session : BitVec 32)
  /-- FINISH (R37). SPDM FINISH of a session; whether its signature and MAC verify. -/
  | finish (r : SpdmReq) (session : BitVec 32) (verified : Bool)
  /-- SPDM_HEARTBEAT (R37). SPDM HEARTBEAT. -/
  | spdmHeartbeat (r : SpdmReq)
  /-- KEY_UPDATE (R37). SPDM KEY_UPDATE. -/
  | keyUpdate (r : SpdmReq)
  /-- END_SESSION (R37). SPDM END_SESSION. -/
  | endSession (r : SpdmReq)
  /-- SET_ALLOTMENT_KEY (R39). Vendor-defined request of a holder: the allotment root key. -/
  | setAllotmentKey (r : SpdmReq) (allot : BitVec 16) (ark : BitVec 256)
  /-- GET_PLATFORM_KEY (R40). Vendor-defined request of another TTA's Sett. -/
  | getPlatformKey (r : SpdmReq)
  /-- COARSE_WINDOW_END (R48). A coarse-view window ends at tick `tick`. -/
  | coarseWindowEnd (tick : Nat)
  /-- GRANT_EXPIRY (R52). Grants of the TDU reach NOT_AFTER at tick `tick`. -/
  | grantExpiry (tick : Nat)
  /-- DOORBELL (R409). Write of `v` to the ring's Q_DB. -/
  | doorbell (fn : Fn) (ring : Fin 64) (v : BitVec 16)
  /-- DESCRIPTOR_FETCH (R411). The fetch of the ring's next descriptor ends. -/
  | descriptorFetch (fn : Fn) (ring : Fin 64) (r : Fetch)
  /-- Q_ENABLE (R414). Write of ENABLE to the ring's Q_CFG. -/
  | qEnable (fn : Fn) (ring : Fin 64) (en : Bool)
  /-- FLR (R422). Function level reset. -/
  | flr (fn : Fn)
  /-- VF_ENABLE_CLEAR (R422). VF Enable is cleared. -/
  | vfEnableClear
  /-- MIRROR_TIMEOUT (R427). 1 ms since the mirrored descriptor was sent. -/
  | mirrorTimeout (p : Fin 16) (index : BitVec 16)
  /-- TDU_MIRROR_WRITE (R427). Write of TTA_TDU_MIRROR. -/
  | tduMirrorWrite (v : W64)
  /-- ALLOT_OPEN (R417). Descriptor 0x08 with its fetched buffer. -/
  | allotOpen (q : Desc) (slot cls : BitVec 8) (addr : W64) (list : Fetch)
  /-- ALLOT_CLOSE (R32). Descriptor 0x09. -/
  | allotClose (q : Desc)
  /-- ALLOT_REBIND (R32). Descriptor 0x0A with its fetched buffer. -/
  | allotRebind (q : Desc) (addr : W64) (list : Fetch)
  /-- ROTATE_STORE (R32). Descriptor 0x0B. -/
  | rotateStore (q : Desc)
  /-- FN_QUIESCE (R421). Descriptor 0x10. -/
  | fnQuiesce (q : Desc) (vf : BitVec 8)
  /-- FN_RESUME (R421). Descriptor 0x11. -/
  | fnResume (q : Desc) (vf : BitVec 8)
  /-- FN_FREEZE (R421). Descriptor 0x12. -/
  | fnFreeze (q : Desc) (vf : BitVec 8)
  /-- FN_SAVE (R423). Descriptor 0x13. -/
  | fnSave (q : Desc) (vf : BitVec 8) (addr : W64)
  /-- FN_RESTORE (R424). Descriptor 0x14: the fetched image, whether its tag verifies, and the body in plaintext. -/
  | fnRestore (q : Desc) (vf : BitVec 8) (addr : W64) (img : Fetch) (tagOk : Bool) (body : List Byte)
  /-- FN_RESET (R421). Descriptor 0x15. -/
  | fnReset (q : Desc) (vf : BitVec 8) (allot : Bool)
  /-- HIST_READ (R419). Descriptor 0x20; for SOURCE 3, `count` is CAPTURE and the low 32 bits of `fromSec` are OFFSET. -/
  | histRead (q : Desc) (source die : BitVec 8) (first : BitVec 16) (count : BitVec 32) (addr : W64) (fromSec : BitVec 48) (fromIdx : BitVec 16) (toSec : BitVec 48) (toIdx : BitVec 16)
  /-- TRACE_SLOT (R420). Descriptor 0x28. -/
  | traceSlot (q : Desc) (die : BitVec 8) (free : Bool) (size64k : BitVec 8) (rearm : Bool) (post4k : BitVec 16) (startMask stopMask : BitVec 8)
  /-- TRACE_TRIG (R420). Descriptor 0x29. -/
  | traceTrig (q : Desc) (dieMask : BitVec 16) (start stop : Bool)
  /-- GRANT_INSTALL (R50). Descriptor 0x2A with its fetched grant. -/
  | grantInstall (q : Desc) (addr : W64) (g : GrantFetch)
  /-- GRANT_SERIAL (R52). Descriptor 0x2B. -/
  | grantSerial (q : Desc) (min : BitVec 32)
  /-- REC_COPY (R426). Descriptor 0x70. -/
  | recCopy (q : Desc) (area : BitVec 8) (addr : W64)
  /-- AON_COPY (R426). Descriptor 0x71. -/
  | aonCopy (q : Desc) (addr : W64)
  /-- CHK_COPY (R426). Descriptor 0x72. -/
  | chkCopy (q : Desc) (addr : W64)
  /-- GRAPH_ADMIT (R265). Descriptor 0x30 with its fetched image. -/
  | graphAdmit (q : Desc) (addr : W64) (img : Fetch)
  /-- GRAPH_REPLACE (R284). Descriptor 0x31 with its fetched image. -/
  | graphReplace (q : Desc) (addr : W64) (img : Fetch) (actSec : BitVec 48)
  /-- GRAPH_REMOVE (R285). Descriptor 0x32. -/
  | graphRemove (q : Desc) (gid : BitVec 16)
  /-- GRAPH_PAUSE (R287). Descriptor 0x33. -/
  | graphPause (q : Desc) (gid : BitVec 16)
  /-- GRAPH_RESUME (R289). Descriptor 0x34. -/
  | graphResume (q : Desc) (gid : BitVec 16) (skip : Bool)
  /-- GRAPH_SAVE (R288). Descriptor 0x35. -/
  | graphSave (q : Desc) (gid : BitVec 16)
  /-- GRAPH_RESTORE (R288). Descriptor 0x36. -/
  | graphRestore (q : Desc) (gid : BitVec 16)
  /-- ADMISSION_DONE (R265). The admission of the graph with handle `h`, or of its shadow plan, reaches its commit. -/
  | admissionDone (h : Fin 1024) (tick : Nat)
  /-- RUN_START (R279). The conditions for the next run of graph `h` are looked at. -/
  | runStart (h : Fin 1024) (tick : Nat)
  /-- EDGE_COPY (R269). The COPY entry that tile `t` has reached completes. -/
  | edgeCopy (t : Fin 10240)
  /-- RUN_END (R280). The run of graph `h` is over. -/
  | runEnd (h : Fin 1024) (tick : Nat)
  /-- PAUSE_DONE (R287). Every tile of the pausing graph `h` has stopped. -/
  | pauseDone (h : Fin 1024)
  /-- REPLACE_TIMEOUT (R284). ACT_SEC + 1 s has passed for the shadow plan of graph `h`. -/
  | replaceTimeout (h : Fin 1024) (tick : Nat)
  /-- SYNC_WAIT_END (R276). The sync object that tile `t` waits on, in an SWAIT or in its list, reaches its condition. -/
  | syncWaitEnd (t : Fin 10240)
  /-- INBOX_WAIT_END (R257). The inbox word that tile `t` waits for becomes FULL or free. -/
  | inboxWaitEnd (t : Fin 10240)
  /-- XFER_COMPLETE (R255). The boundary transfer of tile `t` with issue number `id` completes. -/
  | xferComplete (t : Fin 10240) (id : Nat)
  /-- TABLE_CREATE (R303). Descriptor 0x38. -/
  | tableCreate (q : Desc) (offset rows : BitVec 32) (rowWords : BitVec 16) (kind entity : BitVec 8)
  /-- TABLE_WRITE (R304). Descriptor 0x39 with its fetched rows. -/
  | tableWrite (q : Desc) (tid : BitVec 8) (first : BitVec 32) (addr : W64) (data : Fetch)
  /-- TABLE_COMMIT (R305). Descriptor 0x3A. -/
  | tableCommit (q : Desc) (tid : BitVec 8) (actSec : BitVec 48) (actIdx : BitVec 16)
  /-- TABLE_DELETE (R305). Descriptor 0x3B. -/
  | tableDelete (q : Desc) (tid : BitVec 8) (actSec : BitVec 48) (actIdx : BitVec 16)
  /-- TABLE_RETAIN_EXPIRE (R305). 10 s after a commit's boundary. -/
  | tableRetainExpire (slot : Fin 256) (tid : BitVec 8) (tick : Nat)
  /-- TABLE_WINDOW_FREE (R305). 10 s after a delete's boundary. -/
  | tableWindowFree (slot : Fin 256) (tid : BitVec 8) (tick : Nat)
  /-- CONTRIB (R323). A CONTRIB segment arrives. -/
  | contrib (h : WrnHdr) (a : PktAuth) (seg : List Byte) (tick : Nat)
  /-- RESULT (R324). A RESULT segment arrives. -/
  | result (h : WrnHdr) (a : PktAuth) (seg : List Byte) (tick : Nat)
  /-- COPY (R322). A COPY segment arrives. -/
  | copy (h : WrnHdr) (a : PktAuth) (seg : List Byte)
  /-- WARREN_ACK (R316). An ACK arrives that answers this TTA's packet number `no`. -/
  | warrenAck (no : Nat) (sender : BitVec 16) (a : PktAuth) (version : BitVec 8) (busy : Bool)
  /-- WARREN_RESEND (R316). RETX_US since packet `no` was sent. -/
  | warrenResend (no : Nat) (tick : Nat)
  /-- SUSPECT_RESEND (R316). SLOW_US since packet `no` was sent to a suspect destination. -/
  | suspectResend (no : Nat) (tick : Nat)
  /-- JOB_START (R332). Descriptor 0x40 with its fetched job description. -/
  | jobStart (q : Desc) (addr : W64) (desc : Fetch)
  /-- JOB_END (R331). Descriptor 0x41. -/
  | jobEnd (q : Desc) (job : BitVec 16)
  /-- BANDSTAND_REQUEST (R333). A REQUEST arrives. -/
  | bandstandRequest (h : BstHdr) (a : PktAuth) (desc : List Byte) (tick : Nat)
  /-- PREPARE (R334). A PREPARE arrives. -/
  | prepare (h : BstHdr) (a : PktAuth) (desc : List Byte) (tick : Nat)
  /-- READY (R334). A READY arrives. -/
  | ready (h : BstHdr) (a : PktAuth) (tick : Nat)
  /-- GO (R336). A GO arrives. -/
  | go (h : BstHdr) (a : PktAuth) (tick : Nat)
  /-- ABORT (R335). An ABORT arrives. -/
  | abort (h : BstHdr) (a : PktAuth) (tick : Nat)
  /-- BANDSTAND_END (R339). An END arrives. -/
  | bandstandEnd (h : BstHdr) (a : PktAuth) (tick : Nat)
  /-- QUERY (R338). A QUERY arrives. -/
  | query (h : BstHdr) (a : PktAuth) (tick : Nat)
  /-- PREPARE_DEADLINE (R335). GO_TIME − GO_LEAD of the attempt arrives at the decider. -/
  | prepareDeadline (allot job : BitVec 16) (tick : Nat)
  /-- QUERY_TIMER (R336). QUERY_MS has passed without an outcome. -/
  | queryTimer (allot job : BitVec 16) (tick : Nat)
  /-- JOB_CLOSE (R339). END_TIME + 1 ms. -/
  | jobClose (allot job : BitVec 16) (tick : Nat)
  /-- OUTCOME_EXPIRY (R338). 10 s since the job reached NONE. -/
  | outcomeExpiry (allot job : BitVec 16) (tick : Nat)
  /-- SLOT_ROUTE (R365). Descriptor 0x48. -/
  | slotRoute (q : Desc) (gid : BitVec 16) (die : BitVec 8) (mask : W64)
  /-- DIE_STATE_CLEAR (R357). Write of CLEAR to TTA_DIE_STATE. -/
  | dieStateClear (die : Fin 16)
  /-- BUDGET_REQUEST (R361). A budget REQUEST arrives. -/
  | budgetRequest (m : BudgetMsg) (a : PktAuth) (tick : Nat)
  /-- ANSWER (R357). A budget ANSWER arrives. -/
  | answer (m : BudgetMsg) (a : PktAuth) (tick : Nat)
  /-- LOG (R361). A budget LOG arrives. -/
  | log (m : BudgetMsg) (a : PktAuth) (tick : Nat)
  /-- BUDGET_ACK (R362). A budget ACK arrives that answers this TTA's packet number `no`. -/
  | budgetAck (no : Nat) (m : BudgetMsg) (a : PktAuth) (tick : Nat)
  /-- EXPEL_ANSWER_TIMEOUT (R357). EXPEL_TO_MS since the expulsion request of the die. -/
  | expelAnswerTimeout (die : Fin 16) (tick : Nat)
  /-- LOG_LOST_EXPIRY (R363). WINDOW_H hours since the keeper's presented time became valid. -/
  | logLostExpiry (tick : Nat)
  /-- CHECK_SET (R374). Descriptor 0x50. -/
  | checkSet (q : Desc) (k : BitVec 8)
  /-- STEP_REOPEN (R381). Descriptor 0x51. -/
  | stepReopen (q : Desc) (job : BitVec 16) (sec : BitVec 48) (idx : BitVec 16)
  /-- FIELD_TEST (R393). Descriptor 0x52. -/
  | fieldTest (q : Desc) (dieMask classMask : BitVec 16)
  /-- TILE_TEST_SWEEP (R394). The sweep interval expires; the result of the test program on the next free tile. -/
  | tileTestSweep (pass : Bool)
  /-- REPORT_ACK (R401). The collector's ACK of report `num` arrives. -/
  | reportAck (num : W64) (tagOk : Bool)
  /-- REPORT_RESEND (R400). 1 ms since the last send of report `num`; whether the management port is up. -/
  | reportResend (num : W64) (mgmtUp : Bool)
  /-- RPT_KEY_WRITE (R401). Write of TTA_RPT_KEY[i]. -/
  | rptKeyWrite (k : Fin 4) (v : W64)
  /-- EVENT_RECORD (R445). The recorder of the part stores the next accepted record. -/
  | eventRecord (p : Part) (mgmtUp : Bool)
  /-- FREEZE (R449). Write of FREEZE. -/
  | freeze (p : Part) (on : Bool)
  /-- FREEZE_TIMEOUT (R449). FREEZE_MS since the last write of FREEZE = 1. -/
  | freezeTimeout (p : Part)
  /-- PERM_CLR (R445). Write of PERM_CLR = 1. -/
  | permClr (p : Part)
  /-- REC_SEL (R450). Write of REC_SEL. -/
  | recSel (p : Part) (v : W64)
  /-- VF_SYNC_SEL (R498). Write of TTA_VF_SYNC_SEL of VF n. -/
  | vfSyncSel (n : Fin 256) (v : W64)
  /-- SNAP_TRIG (R451). Write of TRIG. -/
  | snapTrig (p : Part)
  /-- SNAP_ARM_AT (R451). Write of ARM_AT. -/
  | snapArmAt
  /-- SNAP_DEBUG_TRIGGER (R451). The snapshot/debug port triggers. -/
  | snapDebugTrigger (p : Part)
  /-- SNAP_LATCH (R452). The latch instant T arrives. -/
  | snapLatch (p : Part) (tick : Nat)
  /-- TILE_CAPTURE (R453). The marker has reached the tile at an instruction boundary without a transfer in flight. -/
  | tileCapture (t : Fin 10240)
  /-- SNAP_COMPLETE (R453). All captures are written. -/
  | snapComplete
  /-- CMP_DOORBELL (R441). Write of TTA_CMP_DB. -/
  | cmpDoorbell (pi : BitVec 16)
  /-- CMP_ENABLE (R441). Write of ENABLE in TTA_CMP_RING_CFG. -/
  | cmpEnable (on : Bool)
  /-- COMPRESS (R439). The job at CI runs; `stream` is what the match search made of its input, valid DEFLATE unless the compressor failed. -/
  | compress (j : CmpJob) (stream : List (BitVec 8))
  /-- DECOMPRESS (R440). The job at CI runs. -/
  | decompress (j : CmpJob)
  /-- D0_D1_TRANSITION_DONE (R471). A transition of the TDU between D0 and D1 completes. -/
  | d0D1TransitionDone
  /-- TDU_RAIL_REMOVAL (R509). The host removes the TDU's rails other than VDD_AON, and in D0 or D1 the TDU treats this as a loss of HOST_CLK_GOOD. -/
  | tduRailRemoval
  /-- PPS_OUT_EDGE (R162). The rising or falling edge of PPS_OUT becomes due. -/
  | ppsOutEdge (rise : Bool) (tick : Nat)
  /-- TDISP_REQUEST (R425). A TDISP request for the TDI of VF n. -/
  | tdispRequest (n : Fin 256) (r : TdispReq)
  deriving DecidableEq, Repr

end Sys2Proof
end

