-- ==== Sys2Proof/Decode.lean ====
section
/-! DEFINITION. The opcode table gives its rows no bits, so `decodeTableWord` answers none. The 32-bit words of the tile
instructions (R246, R250) are decoded and encoded here: the admission scheduler decodes every instruction of an image (R247),
and a tile fetches its code from SRAM (R229). -/
namespace Sys2Proof

/-- No row of spec/opcode_table.json gives bits. -/
def decodeTableWord (_nbits _w : Nat) : Option Instr := none

open Machine

/-! ## Fields of a tile word (R246) -/

def fieldsR (w : BitVec 32) : RFmt :=
  { ty := w.extractLsb' 20 4, d := w.extractLsb' 15 5, a := w.extractLsb' 10 5, b := w.extractLsb' 5 5, c := w.extractLsb' 0 5 }

def fieldsI (w : BitVec 32) : IFmt :=
  { ty := w.extractLsb' 20 4, d := w.extractLsb' 15 5, a := w.extractLsb' 10 5, imm := w.extractLsb' 0 10 }

def fieldsQ (w : BitVec 32) : QFmt := { qtr := w.extractLsb' 22 2, d := w.extractLsb' 17 5, imm := w.extractLsb' 0 16 }

def fieldsS (w : BitVec 32) : SFmt := { count := w.extractLsb' 16 8, obj := w.extractLsb' 0 16 }

def fieldsL (w : BitVec 32) : LFmt := { n := w.extractLsb' 12 12, len := w.extractLsb' 0 12 }

def wordR (opc : BitVec 8) (f : RFmt) : BitVec 32 := opc ++ f.ty ++ f.d ++ f.a ++ f.b ++ f.c

def wordI (opc : BitVec 8) (f : IFmt) : BitVec 32 := opc ++ f.ty ++ f.d ++ f.a ++ f.imm

def wordQ (opc : BitVec 8) (f : QFmt) : BitVec 32 := opc ++ f.qtr ++ f.d ++ 0#1 ++ f.imm

def wordS (opc : BitVec 8) (f : SFmt) : BitVec 32 := opc ++ f.count ++ f.obj

def wordL (opc : BitVec 8) (f : LFmt) : BitVec 32 := opc ++ f.n ++ f.len

/-! ## What an opcode accepts (R247, R250) -/

/-- TY of the integer opcodes. -/
def tyInt (ty : BitVec 4) : Bool := ty.toNat < 8
/-- "Float": TY 10, 11 or 12. -/
def tyFloat (ty : BitVec 4) : Bool := 10 ≤ ty.toNat && ty.toNat ≤ 12
/-- Width in bits of a type code. -/
def tyWidth (ty : Nat) : Nat :=
  match ty with
  | 0 | 4 | 8 | 9 => 8
  | 1 | 5 | 10 | 11 => 16
  | 2 | 6 | 12 => 32
  | _ => 64

/-- The CVT lane group of R253 lies in range, and the source type exists. -/
def cvtOk (f : RFmt) : Bool :=
  let src := f.c.toNat % 16
  let ws := tyWidth src
  let wd := tyWidth f.ty.toNat
  let n := 64 / max ws wd
  f.ty.toNat ≤ 12 && src ≤ 12 && decide ((f.b.toNat + 1) * n ≤ 64 / min ws wd)

/-- DOT takes E4M3 and E5M2 in any combination, or one format twice (R245). -/
def dotOk (f : RFmt) : Bool :=
  let b := f.c.toNat % 16
  (f.ty = 8 || f.ty = 9) && (b = 8 || b = 9) || tyFloat f.ty && b = f.ty.toNat

/-- The instruction of tile `t` has a legal encoding (R247). Operands that are no tile instruction are no concern of it. -/
def tileLegal : Instr → Bool
  | .nop _ f _ => f.ty = 0
  | .accClr _ f _ => f.ty = 0 && f.d.toNat < 4
  | .add _ f _ | .sub _ f _ | .adds _ f _ | .subs _ f _ | .mul _ f _ | .mulh _ f _ | .min _ f _ | .max _ f _ | .shl _ f _ | .shr _ f _
  | .cmplt _ f _ | .cmpeq _ f _ => tyInt f.ty
  | .and _ f _ | .or _ f _ | .xor _ f _ | .sel _ f _ | .hbkt _ f _ | .hadd _ f _ => f.ty = 7
  | .clz _ f _ | .popc _ f _ => 4 ≤ f.ty.toNat && f.ty.toNat < 8
  | .fadd _ f _ | .fsub _ f _ | .fmul _ f _ | .fma _ f _ | .fmin _ f _ | .fmax _ f _ | .fdiv _ f _ | .fsqrt _ f _ | .fcmplt _ f _
  | .fcmpeq _ f _ => tyFloat f.ty
  | .fsgn _ f _ => tyFloat f.ty && f.c.toNat < 3
  | .cvt _ f _ => cvtOk f
  | .dot _ f _ => dotOk f
  | .accAdd _ f _ => f.ty.toNat ≤ 12 && f.d.toNat < 4
  | .accRd _ f _ => f.ty.toNat ≤ 12 && f.a.toNat < 4
  | .accMrg _ f _ => f.ty = 0 && f.d.toNat < 4 && f.a.toNat < 4
  | .gld _ f _ => [1, 2, 3, 5, 6, 7, 10, 11, 12].contains f.ty.toNat
  | .twalk _ f _ => f.ty = 0 && 1 ≤ f.c.toNat && f.c.toNat ≤ 12
  | .end_ _ f _ => f.ty = 0
  | .addi _ f _ => tyInt f.ty
  | .lidx _ f _ => f.ty = 7 && f.imm.toNat < 4
  | .accLd _ f _ | .accSt _ f _ => f.ty = 0 && f.d.toNat < 4
  | .ld _ f _ | .st _ f _ => f.ty = 7
  | .nput _ f _ => f.ty = 7 && f.d.toNat < 16 && f.imm.toNat < 32
  | .inrd _ f _ => f.ty = 7 && f.imm.toNat < 32
  | .xfer _ f _ => f.ty = 0
  | .loop _ f _ => 1 ≤ f.len.toNat
  | _ => true

/-! ## Decoding and encoding -/

/-- The instruction that a word stands for on tile `t`, whatever its operands. -/
def tileDecode (t : Fin 10240) (w : BitVec 32) : Option Instr :=
  let r := fieldsR w
  let i := fieldsI w
  match (w.extractLsb' 24 8).toNat with
  | 0x00 => some (.nop t r {})
  | 0x01 => some (.add t r {})
  | 0x02 => some (.sub t r {})
  | 0x03 => some (.adds t r {})
  | 0x04 => some (.subs t r {})
  | 0x05 => some (.mul t r {})
  | 0x06 => some (.mulh t r {})
  | 0x07 => some (.min t r {})
  | 0x08 => some (.max t r {})
  | 0x09 => some (.and t r {})
  | 0x0A => some (.or t r {})
  | 0x0B => some (.xor t r {})
  | 0x0C => some (.shl t r {})
  | 0x0D => some (.shr t r {})
  | 0x0E => some (.cmplt t r {})
  | 0x0F => some (.cmpeq t r {})
  | 0x10 => some (.sel t r {})
  | 0x11 => some (.addi t i {})
  | 0x12 => if w.getLsbD 16 then none else some (.liq t (fieldsQ w) {})
  | 0x13 => some (.clz t r {})
  | 0x14 => some (.popc t r {})
  | 0x15 => some (.lidx t i {})
  | 0x20 => some (.fadd t r {})
  | 0x21 => some (.fsub t r {})
  | 0x22 => some (.fmul t r {})
  | 0x23 => some (.fma t r {})
  | 0x24 => some (.fmin t r {})
  | 0x25 => some (.fmax t r {})
  | 0x26 => some (.fdiv t r {})
  | 0x27 => some (.fsqrt t r {})
  | 0x28 => some (.fcmplt t r {})
  | 0x29 => some (.fcmpeq t r {})
  | 0x2A => some (.fsgn t r {})
  | 0x2B => some (.cvt t r {})
  | 0x2C => some (.dot t r {})
  | 0x30 => some (.accClr t r {})
  | 0x31 => some (.accAdd t r {})
  | 0x32 => some (.accRd t r {})
  | 0x33 => some (.accMrg t r {})
  | 0x34 => some (.accLd t i {})
  | 0x35 => some (.accSt t i {})
  | 0x38 => some (.ld t i {})
  | 0x39 => some (.st t i {})
  | 0x3A => some (.gld t r {})
  | 0x3B => some (.nput t i {})
  | 0x3C => some (.inrd t i {})
  | 0x3D => some (.hbkt t r {})
  | 0x3E => some (.hadd t r {})
  | 0x3F => some (.twalk t r {})
  | 0x40 => some (.xfer t i {})
  | 0x41 => some (.swait t (fieldsS w) {})
  | 0x42 => some (.ssig t (fieldsS w) {})
  | 0x48 => some (.loop t (fieldsL w) {})
  | 0x49 => some (.end_ t r {})
  | _ => none

/-- The word of a tile instruction. -/
def tileEncode : Instr → Option (BitVec 32)
  | .nop _ f _ => some (wordR 0x00 f)
  | .add _ f _ => some (wordR 0x01 f)
  | .sub _ f _ => some (wordR 0x02 f)
  | .adds _ f _ => some (wordR 0x03 f)
  | .subs _ f _ => some (wordR 0x04 f)
  | .mul _ f _ => some (wordR 0x05 f)
  | .mulh _ f _ => some (wordR 0x06 f)
  | .min _ f _ => some (wordR 0x07 f)
  | .max _ f _ => some (wordR 0x08 f)
  | .and _ f _ => some (wordR 0x09 f)
  | .or _ f _ => some (wordR 0x0A f)
  | .xor _ f _ => some (wordR 0x0B f)
  | .shl _ f _ => some (wordR 0x0C f)
  | .shr _ f _ => some (wordR 0x0D f)
  | .cmplt _ f _ => some (wordR 0x0E f)
  | .cmpeq _ f _ => some (wordR 0x0F f)
  | .sel _ f _ => some (wordR 0x10 f)
  | .addi _ f _ => some (wordI 0x11 f)
  | .liq _ f _ => some (wordQ 0x12 f)
  | .clz _ f _ => some (wordR 0x13 f)
  | .popc _ f _ => some (wordR 0x14 f)
  | .lidx _ f _ => some (wordI 0x15 f)
  | .fadd _ f _ => some (wordR 0x20 f)
  | .fsub _ f _ => some (wordR 0x21 f)
  | .fmul _ f _ => some (wordR 0x22 f)
  | .fma _ f _ => some (wordR 0x23 f)
  | .fmin _ f _ => some (wordR 0x24 f)
  | .fmax _ f _ => some (wordR 0x25 f)
  | .fdiv _ f _ => some (wordR 0x26 f)
  | .fsqrt _ f _ => some (wordR 0x27 f)
  | .fcmplt _ f _ => some (wordR 0x28 f)
  | .fcmpeq _ f _ => some (wordR 0x29 f)
  | .fsgn _ f _ => some (wordR 0x2A f)
  | .cvt _ f _ => some (wordR 0x2B f)
  | .dot _ f _ => some (wordR 0x2C f)
  | .accClr _ f _ => some (wordR 0x30 f)
  | .accAdd _ f _ => some (wordR 0x31 f)
  | .accRd _ f _ => some (wordR 0x32 f)
  | .accMrg _ f _ => some (wordR 0x33 f)
  | .accLd _ f _ => some (wordI 0x34 f)
  | .accSt _ f _ => some (wordI 0x35 f)
  | .ld _ f _ => some (wordI 0x38 f)
  | .st _ f _ => some (wordI 0x39 f)
  | .gld _ f _ => some (wordR 0x3A f)
  | .nput _ f _ => some (wordI 0x3B f)
  | .inrd _ f _ => some (wordI 0x3C f)
  | .hbkt _ f _ => some (wordR 0x3D f)
  | .hadd _ f _ => some (wordR 0x3E f)
  | .twalk _ f _ => some (wordR 0x3F f)
  | .xfer _ f _ => some (wordI 0x40 f)
  | .swait _ f _ => some (wordS 0x41 f)
  | .ssig _ f _ => some (wordS 0x42 f)
  | .loop _ f _ => some (wordL 0x48 f)
  | .end_ _ f _ => some (wordR 0x49 f)
  | _ => none

/-- The legal instruction of a word (R247): none for a reserved opcode or a field that the opcode does not accept. -/
def tileLegalWord (w : BitVec 32) : Option Instr :=
  match tileDecode 0 w with
  | some i => if tileLegal i then some i else none
  | none => none

/-- Steps of an instruction (R250). -/
def tileSteps : Instr → Nat
  | .mulh .. | .accRd .. | .nput .. | .hbkt .. => 2
  | .fdiv .. | .fsqrt .. => 12
  | .accLd .. | .accSt .. => 6
  | .hadd .. => 3
  | .gld _ f _ => 64 / tyWidth f.ty.toNat
  | .twalk _ f _ => f.c.toNat
  | _ => 1

end Sys2Proof
end

