-- ==== Sys2Proof/Config.lean ====
section
/-! DEFINITION. The free values of the model: what the spec leaves open and a run nevertheless produces (random seeds,
drawn keys, unspecified memory contents, compressor output). Each is opaque: no proof can see a value of it. -/
namespace Sys2Proof

/-- FREE VALUE (log 3). The `n`-th open 64-bit value of a run. `n` is the model's own counter `Dev.freeIx`, which every
use advances, so that two uses are unrelated. -/
opaque Config.freeWord : Nat → BitVec 64

/-- FREE VALUE (log 3). Byte `i` of the `n`-th open byte string of a run (compressor output, R435; bytes at DST after a
failed job, R439). -/
opaque Config.freeByte : Nat → Nat → BitVec 8

/-- FREE VALUE (log 3). The length of the `n`-th open byte string of a run. -/
opaque Config.freeLen : Nat → Nat

/-- FREE VALUE (log 43). Sizes of the system that the scale table shows (R25) and that no register of a TTA holds: 0 pods, 1 trays in the
pod, 2 trays, 3 TTAs, 4 TDUs. -/
opaque Config.fleetSize : Nat → BitVec 32

/-- FREE VALUE (log 43). The TTAs that take part in an allotment (R18). -/
opaque Config.participants : Nat → Nat

/-- FREE VALUE (log 44). Capacity in bytes per second of a coarse view figure (R47) that the spec does not give: 0 host NoC, 1 memory
controllers, 2 die-to-die links. -/
opaque Config.capacity : Nat → Nat

/-- FREE VALUE (log 61). Word `i` of the calibration set that the factory programmed (R462). -/
opaque Config.factoryCal : Nat → BitVec 64

end Sys2Proof
end

