-- ==== Sys2Proof/Machine/Regs.lean ====
section
/-! DEFINITION. The register tables of the spec, as data: for every register of the PF map, the VF map and the TDU
window, its offset, its stride and count where it is an array, and its fields with access code and reset value.
The offsets follow the register index of spec/20_register_map.md; the fields follow the table of each register's home
chapter. Reserved bits have no row: they read 0 and writes to them are ignored (R490).
Every field also has a named constant `R.<REGISTER>_<FIELD>`. -/
namespace Sys2Proof.Machine

/-- The three register files a field can live in (R488): the TTA's PF map (the Lodge sees the same), the VF map of one
virtual function, the TDU window. -/
inductive Space where | tta | vf | tdu
  deriving DecidableEq, Repr

/-- Register access codes (R5). `ro` stands for RO, `rov` for RO/V. -/
inductive Acc where | ro | rw | rw1c | wo | rws | rov
  deriving DecidableEq, Repr

/-- One named field of a register: where its register lies, its bit range (R3), and the array stride. -/
structure Fld where
  space : Space
  addr : Nat
  hi : Nat
  lo : Nat
  stride : Nat
  deriving DecidableEq, Repr

/-- The same field of entry `i` of the register's array. -/
def Fld.at (f : Fld) (i : Nat) : Fld := { f with addr := f.addr + f.stride * i }

/-- The width of a field in bits. -/
def Fld.width (f : Fld) : Nat := f.hi + 1 - f.lo

/-- One field of a register row. -/
structure FldRow where
  hi : Nat
  lo : Nat
  acc : Acc
  reset : Nat
  deriving DecidableEq, Repr

/-- One register (or one array of registers) of a map. -/
structure RegRow where
  space : Space
  base : Nat
  stride : Nat
  count : Nat
  fields : List FldRow
  deriving DecidableEq, Repr


/-- TTA_ALT_ENTRY, entries 0 to 255. -/
def R.TTA_ALT_ENTRY : RegRow := ⟨.tta, 0x100000, 8, 256,
  [⟨63,48,.rov,0⟩, ⟨47,46,.rov,0⟩, ⟨45,43,.rov,0⟩, ⟨41,32,.rov,0⟩, ⟨31,16,.rov,0⟩, ⟨15,8,.rov,0⟩]⟩
def R.TTA_ALT_ENTRY_ALLOT_ID : Fld := ⟨.tta, 0x100000, 63, 48, 8⟩
def R.TTA_ALT_ENTRY_CLASS : Fld := ⟨.tta, 0x100000, 47, 46, 8⟩
def R.TTA_ALT_ENTRY_STATE : Fld := ⟨.tta, 0x100000, 45, 43, 8⟩
def R.TTA_ALT_ENTRY_CLUSTERS : Fld := ⟨.tta, 0x100000, 41, 32, 8⟩
def R.TTA_ALT_ENTRY_WORK_GEN : Fld := ⟨.tta, 0x100000, 31, 16, 8⟩
def R.TTA_ALT_ENTRY_STORE_GEN : Fld := ⟨.tta, 0x100000, 15, 8, 8⟩
/-- TTA_SETT_PKEY. -/
def R.TTA_SETT_PKEY : RegRow := ⟨.tta, 0x100810, 8, 1,
  [⟨63,63,.rov,0⟩, ⟨31,16,.wo,0⟩, ⟨15,15,.wo,0⟩, ⟨13,0,.rov,0⟩]⟩
def R.TTA_SETT_PKEY_HELD : Fld := ⟨.tta, 0x100810, 63, 63, 8⟩
def R.TTA_SETT_PKEY_KEY : Fld := ⟨.tta, 0x100810, 31, 16, 8⟩
def R.TTA_SETT_PKEY_GENERATE : Fld := ⟨.tta, 0x100810, 15, 15, 8⟩
def R.TTA_SETT_PKEY_SOURCE : Fld := ⟨.tta, 0x100810, 13, 0, 8⟩
/-- TTA_ISO_TAG_FAIL. -/
def R.TTA_ISO_TAG_FAIL : RegRow := ⟨.tta, 0x100808, 8, 1,
  [⟨31,0,.rw1c,0⟩]⟩
def R.TTA_ISO_TAG_FAIL_COUNT : Fld := ⟨.tta, 0x100808, 31, 0, 8⟩
/-- TTA_COARSE_CTL. -/
def R.TTA_COARSE_CTL : RegRow := ⟨.tta, 0x100800, 8, 1,
  [⟨11,0,.rw,1⟩]⟩
def R.TTA_COARSE_CTL_WINDOW_S : Fld := ⟨.tta, 0x100800, 11, 0, 8⟩
/-- TDU_TAP_CFG. -/
def R.TDU_TAP_CFG : RegRow := ⟨.tdu, 0x5000, 8, 1,
  [⟨3,0,.rw,1⟩]⟩
def R.TDU_TAP_CFG_FLUSH_US : Fld := ⟨.tdu, 0x5000, 3, 0, 8⟩
/-- TDU_TAP_STAT. -/
def R.TDU_TAP_STAT : RegRow := ⟨.tdu, 0x5008, 8, 1,
  [⟨63,32,.rw1c,0⟩, ⟨31,0,.rw1c,0⟩]⟩
def R.TDU_TAP_STAT_SAT_COUNT : Fld := ⟨.tdu, 0x5008, 63, 32, 8⟩
def R.TDU_TAP_STAT_DUP_COUNT : Fld := ⟨.tdu, 0x5008, 31, 0, 8⟩
/-- TDU_CHK_CLASS, entries 0 to 15. -/
def R.TDU_CHK_CLASS : RegRow := ⟨.tdu, 0x4400, 8, 16,
  [⟨63,52,.rw,0⟩, ⟨51,40,.rw,0⟩, ⟨39,39,.rw,0⟩, ⟨38,38,.rov,0⟩]⟩
def R.TDU_CHK_CLASS_FIRST_UNIT : Fld := ⟨.tdu, 0x4400, 63, 52, 8⟩
def R.TDU_CHK_CLASS_UNIT_COUNT : Fld := ⟨.tdu, 0x4400, 51, 40, 8⟩
def R.TDU_CHK_CLASS_ENABLE : Fld := ⟨.tdu, 0x4400, 39, 39, 8⟩
def R.TDU_CHK_CLASS_ELIGIBLE : Fld := ⟨.tdu, 0x4400, 38, 38, 8⟩
/-- TDU_CHK_STAT. -/
def R.TDU_CHK_STAT : RegRow := ⟨.tdu, 0x4480, 8, 1,
  [⟨63,32,.rw1c,0⟩, ⟨31,0,.rw1c,0⟩]⟩
def R.TDU_CHK_STAT_SKIPPED : Fld := ⟨.tdu, 0x4480, 63, 32, 8⟩
def R.TDU_CHK_STAT_UNCHECKED : Fld := ⟨.tdu, 0x4480, 31, 0, 8⟩
/-- TDU_AON_LDO. -/
def R.TDU_AON_LDO : RegRow := ⟨.tdu, 0x800, 8, 1,
  [⟨15,8,.rws,0⟩, ⟨1,1,.rov,1⟩, ⟨0,0,.rov,1⟩]⟩
def R.TDU_AON_LDO_BOR_COUNT : Fld := ⟨.tdu, 0x800, 15, 8, 8⟩
def R.TDU_AON_LDO_MODE_ACK : Fld := ⟨.tdu, 0x800, 1, 1, 8⟩
def R.TDU_AON_LDO_MODE : Fld := ⟨.tdu, 0x800, 0, 0, 8⟩
/-- TDU_CNT_GROUP, entries 0 to 255. -/
def R.TDU_CNT_GROUP : RegRow := ⟨.tdu, 0x5800, 8, 256,
  [⟨23,23,.rov,0⟩, ⟨22,22,.rw,0⟩, ⟨21,21,.rw,0⟩, ⟨20,18,.rw,0⟩, ⟨17,12,.rw,0⟩, ⟨11,8,.rw,0⟩]⟩
def R.TDU_CNT_GROUP_PENDING : Fld := ⟨.tdu, 0x5800, 23, 23, 8⟩
def R.TDU_CNT_GROUP_STRICT : Fld := ⟨.tdu, 0x5800, 22, 22, 8⟩
def R.TDU_CNT_GROUP_CMD_RESET : Fld := ⟨.tdu, 0x5800, 21, 21, 8⟩
def R.TDU_CNT_GROUP_RATE : Fld := ⟨.tdu, 0x5800, 20, 18, 8⟩
def R.TDU_CNT_GROUP_OWNER : Fld := ⟨.tdu, 0x5800, 17, 12, 8⟩
def R.TDU_CNT_GROUP_KIND : Fld := ⟨.tdu, 0x5800, 11, 8, 8⟩
/-- TDU_ALLOT_MAP, entries 0 to 63. -/
def R.TDU_ALLOT_MAP : RegRow := ⟨.tdu, 0x5200, 8, 64,
  [⟨18,17,.rov,0⟩, ⟨16,16,.rov,0⟩, ⟨15,0,.rov,0⟩]⟩
def R.TDU_ALLOT_MAP_CLASS : Fld := ⟨.tdu, 0x5200, 18, 17, 8⟩
def R.TDU_ALLOT_MAP_VALID : Fld := ⟨.tdu, 0x5200, 16, 16, 8⟩
def R.TDU_ALLOT_MAP_ALLOT_ID : Fld := ⟨.tdu, 0x5200, 15, 0, 8⟩
/-- TDU_CNT_STAT. -/
def R.TDU_CNT_STAT : RegRow := ⟨.tdu, 0x5010, 8, 1,
  [⟨63,32,.rw1c,0⟩, ⟨31,0,.rw1c,0⟩]⟩
def R.TDU_CNT_STAT_BAD_INDEX : Fld := ⟨.tdu, 0x5010, 63, 32, 8⟩
def R.TDU_CNT_STAT_NO_ALLOT : Fld := ⟨.tdu, 0x5010, 31, 0, 8⟩
/-- TDU_AON_CNT, entries 0 to 31. -/
def R.TDU_AON_CNT : RegRow := ⟨.tdu, 0x5100, 8, 32,
  [⟨63,0,.rov,0⟩]⟩
def R.TDU_AON_CNT_VALUE : Fld := ⟨.tdu, 0x5100, 63, 0, 8⟩
/-- TDU_SPILL_BASE. -/
def R.TDU_SPILL_BASE : RegRow := ⟨.tdu, 0x5028, 8, 1,
  [⟨63,6,.rw,0⟩]⟩
def R.TDU_SPILL_BASE_ADDR : Fld := ⟨.tdu, 0x5028, 63, 6, 8⟩
/-- TDU_SPILL_CFG. -/
def R.TDU_SPILL_CFG : RegRow := ⟨.tdu, 0x5030, 8, 1,
  [⟨47,32,.rov,0⟩, ⟨15,0,.rw,0⟩]⟩
def R.TDU_SPILL_CFG_FILL_64K : Fld := ⟨.tdu, 0x5030, 47, 32, 8⟩
def R.TDU_SPILL_CFG_SIZE_64K : Fld := ⟨.tdu, 0x5030, 15, 0, 8⟩
/-- TDU_PS_CFG. -/
def R.TDU_PS_CFG : RegRow := ⟨.tdu, 0x5040, 8, 1,
  [⟨63,0,.rw,0⟩]⟩
def R.TDU_PS_CFG_SRC_MASK : Fld := ⟨.tdu, 0x5040, 63, 0, 8⟩
/-- TDU_PS_STAT. -/
def R.TDU_PS_STAT : RegRow := ⟨.tdu, 0x5048, 8, 1,
  [⟨63,32,.rw1c,0⟩, ⟨31,16,.rw1c,0⟩, ⟨12,0,.rov,0⟩]⟩
def R.TDU_PS_STAT_DROPPED_FULL : Fld := ⟨.tdu, 0x5048, 63, 32, 8⟩
def R.TDU_PS_STAT_MALFORMED : Fld := ⟨.tdu, 0x5048, 31, 16, 8⟩
def R.TDU_PS_STAT_FILL : Fld := ⟨.tdu, 0x5048, 12, 0, 8⟩
/-- TDU_SMP_CFG. -/
def R.TDU_SMP_CFG : RegRow := ⟨.tdu, 0x5018, 8, 1,
  [⟨8,8,.rw,0⟩, ⟨0,0,.rw,0⟩]⟩
def R.TDU_SMP_CFG_ENABLE : Fld := ⟨.tdu, 0x5018, 8, 8, 8⟩
def R.TDU_SMP_CFG_EPOCH_SEL : Fld := ⟨.tdu, 0x5018, 0, 0, 8⟩
/-- TDU_SMP_STAT. -/
def R.TDU_SMP_STAT : RegRow := ⟨.tdu, 0x5020, 8, 1,
  [⟨63,32,.rw1c,0⟩, ⟨15,15,.rov,0⟩, ⟨13,12,.rov,0⟩, ⟨11,0,.rov,0⟩]⟩
def R.TDU_SMP_STAT_LOST_BLOCKS : Fld := ⟨.tdu, 0x5020, 63, 32, 8⟩
def R.TDU_SMP_STAT_RUNNING : Fld := ⟨.tdu, 0x5020, 15, 15, 8⟩
def R.TDU_SMP_STAT_DECIM : Fld := ⟨.tdu, 0x5020, 13, 12, 8⟩
def R.TDU_SMP_STAT_EPOCH_NUM : Fld := ⟨.tdu, 0x5020, 11, 0, 8⟩
/-- TDU_TRC_SLOT_CFG, entries 0 to 7. -/
def R.TDU_TRC_SLOT_CFG : RegRow := ⟨.tdu, 0x6840, 8, 8,
  [⟨63,63,.rov,0⟩, ⟨62,57,.rov,0⟩, ⟨56,52,.rov,0⟩, ⟨51,46,.rov,0⟩, ⟨45,36,.rov,0⟩, ⟨35,35,.rov,0⟩, ⟨34,30,.rov,0⟩, ⟨29,25,.rov,0⟩]⟩
def R.TDU_TRC_SLOT_CFG_VALID : Fld := ⟨.tdu, 0x6840, 63, 63, 8⟩
def R.TDU_TRC_SLOT_CFG_ALLOT_IDX : Fld := ⟨.tdu, 0x6840, 62, 57, 8⟩
def R.TDU_TRC_SLOT_CFG_BASE_64K : Fld := ⟨.tdu, 0x6840, 56, 52, 8⟩
def R.TDU_TRC_SLOT_CFG_SIZE_64K : Fld := ⟨.tdu, 0x6840, 51, 46, 8⟩
def R.TDU_TRC_SLOT_CFG_POST_4K : Fld := ⟨.tdu, 0x6840, 45, 36, 8⟩
def R.TDU_TRC_SLOT_CFG_REARM : Fld := ⟨.tdu, 0x6840, 35, 35, 8⟩
def R.TDU_TRC_SLOT_CFG_START_MASK : Fld := ⟨.tdu, 0x6840, 34, 30, 8⟩
def R.TDU_TRC_SLOT_CFG_STOP_MASK : Fld := ⟨.tdu, 0x6840, 29, 25, 8⟩
/-- TDU_TRC_SLOT_STAT, entries 0 to 7. -/
def R.TDU_TRC_SLOT_STAT : RegRow := ⟨.tdu, 0x6880, 8, 8,
  [⟨63,61,.rov,0⟩, ⟨60,58,.rov,0⟩, ⟨39,32,.rov,0⟩, ⟨31,0,.rov,0⟩]⟩
def R.TDU_TRC_SLOT_STAT_STATE : Fld := ⟨.tdu, 0x6880, 63, 61, 8⟩
def R.TDU_TRC_SLOT_STAT_STOP_CAUSE : Fld := ⟨.tdu, 0x6880, 60, 58, 8⟩
def R.TDU_TRC_SLOT_STAT_CAPTURE : Fld := ⟨.tdu, 0x6880, 39, 32, 8⟩
def R.TDU_TRC_SLOT_STAT_LOSS : Fld := ⟨.tdu, 0x6880, 31, 0, 8⟩
/-- TDU_TRC_TRIG. -/
def R.TDU_TRC_TRIG : RegRow := ⟨.tdu, 0x6808, 8, 1,
  [⟨9,9,.wo,0⟩, ⟨8,8,.wo,0⟩, ⟨7,0,.wo,0⟩]⟩
def R.TDU_TRC_TRIG_STOP : Fld := ⟨.tdu, 0x6808, 9, 9, 8⟩
def R.TDU_TRC_TRIG_START : Fld := ⟨.tdu, 0x6808, 8, 8, 8⟩
def R.TDU_TRC_TRIG_SLOT_MASK : Fld := ⟨.tdu, 0x6808, 7, 0, 8⟩
/-- TDU_TRC_STAT. -/
def R.TDU_TRC_STAT : RegRow := ⟨.tdu, 0x6810, 8, 1,
  [⟨63,32,.rw1c,0⟩, ⟨31,16,.rw1c,0⟩, ⟨15,0,.rw1c,0⟩]⟩
def R.TDU_TRC_STAT_FILTER_REJECTED : Fld := ⟨.tdu, 0x6810, 63, 32, 8⟩
def R.TDU_TRC_STAT_TRIG_IGNORED : Fld := ⟨.tdu, 0x6810, 31, 16, 8⟩
def R.TDU_TRC_STAT_UNSLOTTED : Fld := ⟨.tdu, 0x6810, 15, 0, 8⟩
/-- TTA_TIME_TICK. -/
def R.TTA_TIME_TICK : RegRow := ⟨.tta, 0x30000, 8, 1,
  [⟨63,0,.rov,0⟩]⟩
def R.TTA_TIME_TICK_TICK : Fld := ⟨.tta, 0x30000, 63, 0, 8⟩
/-- TTA_TIME_CTL. -/
def R.TTA_TIME_CTL : RegRow := ⟨.tta, 0x30008, 8, 1,
  [⟨23,16,.rw,1⟩, ⟨7,2,.rw,0x32⟩, ⟨0,0,.rw,1⟩]⟩
def R.TTA_TIME_CTL_MAX_BRIDGE_MS : Fld := ⟨.tta, 0x30008, 23, 16, 8⟩
def R.TTA_TIME_CTL_SLEW_PPM : Fld := ⟨.tta, 0x30008, 7, 2, 8⟩
def R.TTA_TIME_CTL_AUTO : Fld := ⟨.tta, 0x30008, 0, 0, 8⟩
/-- TTA_TIME_STAT. -/
def R.TTA_TIME_STAT : RegRow := ⟨.tta, 0x30010, 8, 1,
  [⟨15,15,.rov,0⟩, ⟨14,14,.rov,0⟩, ⟨13,13,.rov,0⟩, ⟨12,12,.rov,0⟩, ⟨11,10,.rov,0⟩, ⟨9,8,.rov,0⟩, ⟨7,0,.rov,0⟩]⟩
def R.TTA_TIME_STAT_LEAD : Fld := ⟨.tta, 0x30010, 15, 15, 8⟩
def R.TTA_TIME_STAT_PENDING : Fld := ⟨.tta, 0x30010, 14, 14, 8⟩
def R.TTA_TIME_STAT_SLEWING : Fld := ⟨.tta, 0x30010, 13, 13, 8⟩
def R.TTA_TIME_STAT_IN_FORCE : Fld := ⟨.tta, 0x30010, 12, 12, 8⟩
def R.TTA_TIME_STAT_STATE_B : Fld := ⟨.tta, 0x30010, 11, 10, 8⟩
def R.TTA_TIME_STAT_STATE_A : Fld := ⟨.tta, 0x30010, 9, 8, 8⟩
def R.TTA_TIME_STAT_LAST_SW : Fld := ⟨.tta, 0x30010, 7, 0, 8⟩
/-- TTA_TIME_BRIDGE. -/
def R.TTA_TIME_BRIDGE : RegRow := ⟨.tta, 0x30018, 8, 1,
  [⟨63,0,.rov,0⟩]⟩
def R.TTA_TIME_BRIDGE_BRIDGE : Fld := ⟨.tta, 0x30018, 63, 0, 8⟩
/-- TTA_TIME_NOW_NS. -/
def R.TTA_TIME_NOW_NS : RegRow := ⟨.tta, 0x30020, 8, 1,
  [⟨63,0,.rov,0⟩]⟩
def R.TTA_TIME_NOW_NS_NS : Fld := ⟨.tta, 0x30020, 63, 0, 8⟩
/-- TTA_TIME_SWITCH. -/
def R.TTA_TIME_SWITCH : RegRow := ⟨.tta, 0x30028, 8, 1,
  [⟨8,8,.wo,0⟩, ⟨0,0,.wo,0⟩]⟩
def R.TTA_TIME_SWITCH_GO : Fld := ⟨.tta, 0x30028, 8, 8, 8⟩
def R.TTA_TIME_SWITCH_TARGET : Fld := ⟨.tta, 0x30028, 0, 0, 8⟩
/-- TTA_TIME_DOM_CTL, entries 0 to 1. -/
def R.TTA_TIME_DOM_CTL : RegRow := ⟨.tta, 0x30138, 0x80, 2,
  [⟨31,22,.rw,0x10⟩, ⟨18,16,.rw,0⟩, ⟨15,15,.rw,0⟩, ⟨9,8,.wo,0⟩, ⟨1,0,.rov,0⟩]⟩
def R.TTA_TIME_DOM_CTL_HOLD_MS : Fld := ⟨.tta, 0x30138, 31, 22, 0x80⟩
def R.TTA_TIME_DOM_CTL_SYNCE_SRC : Fld := ⟨.tta, 0x30138, 18, 16, 0x80⟩
def R.TTA_TIME_DOM_CTL_SYNCE_LOCK : Fld := ⟨.tta, 0x30138, 15, 15, 0x80⟩
def R.TTA_TIME_DOM_CTL_CMD : Fld := ⟨.tta, 0x30138, 9, 8, 0x80⟩
def R.TTA_TIME_DOM_CTL_STATE : Fld := ⟨.tta, 0x30138, 1, 0, 0x80⟩
/-- TTA_PTP_CFG, entries 0 to 1. -/
def R.TTA_PTP_CFG : RegRow := ⟨.tta, 0x30300, 8, 2,
  [⟨31,24,.rw,0x18⟩, ⟨23,20,.rw,0⟩, ⟨17,17,.rw,0⟩, ⟨16,16,.rw,0⟩, ⟨15,14,.rw,0⟩, ⟨13,13,.rw,0⟩, ⟨0,0,.rw,0⟩]⟩
def R.TTA_PTP_CFG_DOMAIN_NUM : Fld := ⟨.tta, 0x30300, 31, 24, 8⟩
def R.TTA_PTP_CFG_PORT_MASK : Fld := ⟨.tta, 0x30300, 23, 20, 8⟩
def R.TTA_PTP_CFG_TWO_STEP : Fld := ⟨.tta, 0x30300, 17, 17, 8⟩
def R.TTA_PTP_CFG_TIME_DOM : Fld := ⟨.tta, 0x30300, 16, 16, 8⟩
def R.TTA_PTP_CFG_PROFILE : Fld := ⟨.tta, 0x30300, 15, 14, 8⟩
def R.TTA_PTP_CFG_MCAST_ADDR : Fld := ⟨.tta, 0x30300, 13, 13, 8⟩
def R.TTA_PTP_CFG_ENABLE : Fld := ⟨.tta, 0x30300, 0, 0, 8⟩
/-- TTA_PPS_CFG. -/
def R.TTA_PPS_CFG : RegRow := ⟨.tta, 0x30380, 8, 1,
  [⟨31,16,.rw,0⟩, ⟨15,8,.rw,0x64⟩, ⟨5,4,.rw,3⟩, ⟨0,0,.rw,0⟩]⟩
def R.TTA_PPS_CFG_ADVANCE_NS : Fld := ⟨.tta, 0x30380, 31, 16, 8⟩
def R.TTA_PPS_CFG_WIDTH_MS : Fld := ⟨.tta, 0x30380, 15, 8, 8⟩
def R.TTA_PPS_CFG_OUT_SRC : Fld := ⟨.tta, 0x30380, 5, 4, 8⟩
def R.TTA_PPS_CFG_IN_EN : Fld := ⟨.tta, 0x30380, 0, 0, 8⟩
/-- TTA_PPS_IN. -/
def R.TTA_PPS_IN : RegRow := ⟨.tta, 0x30388, 8, 1,
  [⟨63,0,.rov,0⟩]⟩
def R.TTA_PPS_IN_TICK : Fld := ⟨.tta, 0x30388, 63, 0, 8⟩
/-- TTA_TIME_LAT, entries 0 to 16. -/
def R.TTA_TIME_LAT : RegRow := ⟨.tta, 0x30400, 8, 17,
  [⟨31,31,.rov,0⟩, ⟨23,0,.rov,0⟩]⟩
def R.TTA_TIME_LAT_VALID : Fld := ⟨.tta, 0x30400, 31, 31, 8⟩
def R.TTA_TIME_LAT_LAT_PS : Fld := ⟨.tta, 0x30400, 23, 0, 8⟩
/-- TDU_TIME_STAT. -/
def R.TDU_TIME_STAT : RegRow := ⟨.tdu, 0x3000, 8, 1,
  [⟨7,6,.rov,0⟩, ⟨5,5,.rov,0⟩, ⟨4,4,.rov,0⟩]⟩
def R.TDU_TIME_STAT_STATE : Fld := ⟨.tdu, 0x3000, 7, 6, 8⟩
def R.TDU_TIME_STAT_IN_FORCE : Fld := ⟨.tdu, 0x3000, 5, 5, 8⟩
def R.TDU_TIME_STAT_SRC_PORT : Fld := ⟨.tdu, 0x3000, 4, 4, 8⟩
/-- TTA_TL_CTL, entries 0 to 15. -/
def R.TTA_TL_CTL : RegRow := ⟨.tta, 0x40000, 0x1000, 16,
  [⟨23,16,.rov,0⟩, ⟨15,8,.rov,0⟩, ⟨7,4,.rov,0⟩, ⟨3,3,.wo,0⟩, ⟨1,1,.wo,0⟩, ⟨0,0,.rw,1⟩]⟩
def R.TTA_TL_CTL_RETIRED : Fld := ⟨.tta, 0x40000, 23, 16, 0x1000⟩
def R.TTA_TL_CTL_ACTIVE : Fld := ⟨.tta, 0x40000, 15, 8, 0x1000⟩
def R.TTA_TL_CTL_STATE : Fld := ⟨.tta, 0x40000, 7, 4, 0x1000⟩
def R.TTA_TL_CTL_RETIRE_CLR : Fld := ⟨.tta, 0x40000, 3, 3, 0x1000⟩
def R.TTA_TL_CTL_RETRAIN : Fld := ⟨.tta, 0x40000, 1, 1, 0x1000⟩
def R.TTA_TL_CTL_ENABLE : Fld := ⟨.tta, 0x40000, 0, 0, 0x1000⟩
/-- TTA_TWL_CTL. -/
def R.TTA_TWL_CTL : RegRow := ⟨.tta, 0x5F000, 8, 1,
  [⟨23,16,.rov,0⟩, ⟨15,8,.rov,0⟩, ⟨7,4,.rov,0⟩, ⟨3,3,.wo,0⟩, ⟨1,1,.wo,0⟩, ⟨0,0,.rw,1⟩]⟩
def R.TTA_TWL_CTL_RETIRED : Fld := ⟨.tta, 0x5F000, 23, 16, 8⟩
def R.TTA_TWL_CTL_ACTIVE : Fld := ⟨.tta, 0x5F000, 15, 8, 8⟩
def R.TTA_TWL_CTL_STATE : Fld := ⟨.tta, 0x5F000, 7, 4, 8⟩
def R.TTA_TWL_CTL_RETIRE_CLR : Fld := ⟨.tta, 0x5F000, 3, 3, 8⟩
def R.TTA_TWL_CTL_RETRAIN : Fld := ⟨.tta, 0x5F000, 1, 1, 8⟩
def R.TTA_TWL_CTL_ENABLE : Fld := ⟨.tta, 0x5F000, 0, 0, 8⟩
/-- TDU_TL_CTL, entries 0 to 1. -/
def R.TDU_TL_CTL : RegRow := ⟨.tdu, 0x1000, 0x100, 2,
  [⟨23,16,.rov,0⟩, ⟨15,8,.rov,0⟩, ⟨7,4,.rov,0⟩, ⟨3,3,.wo,0⟩, ⟨1,1,.wo,0⟩, ⟨0,0,.rw,1⟩]⟩
def R.TDU_TL_CTL_RETIRED : Fld := ⟨.tdu, 0x1000, 23, 16, 0x100⟩
def R.TDU_TL_CTL_ACTIVE : Fld := ⟨.tdu, 0x1000, 15, 8, 0x100⟩
def R.TDU_TL_CTL_STATE : Fld := ⟨.tdu, 0x1000, 7, 4, 0x100⟩
def R.TDU_TL_CTL_RETIRE_CLR : Fld := ⟨.tdu, 0x1000, 3, 3, 0x100⟩
def R.TDU_TL_CTL_RETRAIN : Fld := ⟨.tdu, 0x1000, 1, 1, 0x100⟩
def R.TDU_TL_CTL_ENABLE : Fld := ⟨.tdu, 0x1000, 0, 0, 0x100⟩
/-- TTA_TL_ERR, entries 0 to 15. -/
def R.TTA_TL_ERR : RegRow := ⟨.tta, 0x40008, 0x1000, 16,
  [⟨63,48,.rw1c,0⟩, ⟨47,32,.rw1c,0⟩, ⟨31,24,.rw1c,0⟩, ⟨23,16,.rw1c,0⟩, ⟨15,8,.rw1c,0⟩, ⟨7,0,.rw1c,0⟩]⟩
def R.TTA_TL_ERR_CRC_ERR : Fld := ⟨.tta, 0x40008, 63, 48, 0x1000⟩
def R.TTA_TL_ERR_REPLAYS : Fld := ⟨.tta, 0x40008, 47, 32, 0x1000⟩
def R.TTA_TL_ERR_CTL_ERR : Fld := ⟨.tta, 0x40008, 31, 24, 0x1000⟩
def R.TTA_TL_ERR_RETRAINS : Fld := ⟨.tta, 0x40008, 23, 16, 0x1000⟩
def R.TTA_TL_ERR_TAG_DROP : Fld := ⟨.tta, 0x40008, 15, 8, 0x1000⟩
def R.TTA_TL_ERR_LOST : Fld := ⟨.tta, 0x40008, 7, 0, 0x1000⟩
/-- TTA_TWL_ERR. -/
def R.TTA_TWL_ERR : RegRow := ⟨.tta, 0x5F008, 8, 1,
  [⟨63,48,.rw1c,0⟩, ⟨47,32,.rw1c,0⟩, ⟨31,24,.rw1c,0⟩, ⟨23,16,.rw1c,0⟩, ⟨15,8,.rw1c,0⟩, ⟨7,0,.rw1c,0⟩]⟩
def R.TTA_TWL_ERR_CRC_ERR : Fld := ⟨.tta, 0x5F008, 63, 48, 8⟩
def R.TTA_TWL_ERR_REPLAYS : Fld := ⟨.tta, 0x5F008, 47, 32, 8⟩
def R.TTA_TWL_ERR_CTL_ERR : Fld := ⟨.tta, 0x5F008, 31, 24, 8⟩
def R.TTA_TWL_ERR_RETRAINS : Fld := ⟨.tta, 0x5F008, 23, 16, 8⟩
def R.TTA_TWL_ERR_TAG_DROP : Fld := ⟨.tta, 0x5F008, 15, 8, 8⟩
def R.TTA_TWL_ERR_LOST : Fld := ⟨.tta, 0x5F008, 7, 0, 8⟩
/-- TDU_TL_ERR, entries 0 to 1. -/
def R.TDU_TL_ERR : RegRow := ⟨.tdu, 0x1008, 0x100, 2,
  [⟨63,48,.rw1c,0⟩, ⟨47,32,.rw1c,0⟩, ⟨31,24,.rw1c,0⟩, ⟨23,16,.rw1c,0⟩, ⟨15,8,.rw1c,0⟩, ⟨7,0,.rw1c,0⟩]⟩
def R.TDU_TL_ERR_CRC_ERR : Fld := ⟨.tdu, 0x1008, 63, 48, 0x100⟩
def R.TDU_TL_ERR_REPLAYS : Fld := ⟨.tdu, 0x1008, 47, 32, 0x100⟩
def R.TDU_TL_ERR_CTL_ERR : Fld := ⟨.tdu, 0x1008, 31, 24, 0x100⟩
def R.TDU_TL_ERR_RETRAINS : Fld := ⟨.tdu, 0x1008, 23, 16, 0x100⟩
def R.TDU_TL_ERR_TAG_DROP : Fld := ⟨.tdu, 0x1008, 15, 8, 0x100⟩
def R.TDU_TL_ERR_LOST : Fld := ⟨.tdu, 0x1008, 7, 0, 0x100⟩
/-- TTA_TL_FWD, entries 0 to 15. -/
def R.TTA_TL_FWD : RegRow := ⟨.tta, 0x40010, 0x1000, 16,
  [⟨63,32,.rw1c,0⟩, ⟨31,0,.rw1c,0⟩]⟩
def R.TTA_TL_FWD_DUP : Fld := ⟨.tta, 0x40010, 63, 32, 0x1000⟩
def R.TTA_TL_FWD_FWD_SAMPLES : Fld := ⟨.tta, 0x40010, 31, 0, 0x1000⟩
/-- TTA_TWL_FWD. -/
def R.TTA_TWL_FWD : RegRow := ⟨.tta, 0x5F010, 8, 1,
  [⟨63,32,.rw1c,0⟩, ⟨31,0,.rw1c,0⟩]⟩
def R.TTA_TWL_FWD_DUP : Fld := ⟨.tta, 0x5F010, 63, 32, 8⟩
def R.TTA_TWL_FWD_FWD_SAMPLES : Fld := ⟨.tta, 0x5F010, 31, 0, 8⟩
/-- TTA_EGR_CFG. -/
def R.TTA_EGR_CFG : RegRow := ⟨.tta, 0x5E020, 8, 1,
  [⟨63,56,.rw,0x5A⟩, ⟨55,48,.rw,0x32⟩, ⟨39,32,.rw,8⟩, ⟨31,24,.rw,2⟩, ⟨23,16,.rw,2⟩, ⟨15,8,.rw,4⟩, ⟨7,0,.rw,8⟩]⟩
def R.TTA_EGR_CFG_SAT_HI : Fld := ⟨.tta, 0x5E020, 63, 56, 8⟩
def R.TTA_EGR_CFG_SAT_LO : Fld := ⟨.tta, 0x5E020, 55, 48, 8⟩
def R.TTA_EGR_CFG_PKT_OVH : Fld := ⟨.tta, 0x5E020, 39, 32, 8⟩
def R.TTA_EGR_CFG_W3 : Fld := ⟨.tta, 0x5E020, 31, 24, 8⟩
def R.TTA_EGR_CFG_W2 : Fld := ⟨.tta, 0x5E020, 23, 16, 8⟩
def R.TTA_EGR_CFG_W1 : Fld := ⟨.tta, 0x5E020, 15, 8, 8⟩
def R.TTA_EGR_CFG_W0 : Fld := ⟨.tta, 0x5E020, 7, 0, 8⟩
/-- TDU_EGR_CFG. -/
def R.TDU_EGR_CFG : RegRow := ⟨.tdu, 0x1200, 8, 1,
  [⟨63,56,.rw,0x5A⟩, ⟨55,48,.rw,0x32⟩, ⟨39,32,.rw,8⟩, ⟨31,24,.rw,2⟩, ⟨23,16,.rw,2⟩, ⟨15,8,.rw,4⟩, ⟨7,0,.rw,8⟩]⟩
def R.TDU_EGR_CFG_SAT_HI : Fld := ⟨.tdu, 0x1200, 63, 56, 8⟩
def R.TDU_EGR_CFG_SAT_LO : Fld := ⟨.tdu, 0x1200, 55, 48, 8⟩
def R.TDU_EGR_CFG_PKT_OVH : Fld := ⟨.tdu, 0x1200, 39, 32, 8⟩
def R.TDU_EGR_CFG_W3 : Fld := ⟨.tdu, 0x1200, 31, 24, 8⟩
def R.TDU_EGR_CFG_W2 : Fld := ⟨.tdu, 0x1200, 23, 16, 8⟩
def R.TDU_EGR_CFG_W1 : Fld := ⟨.tdu, 0x1200, 15, 8, 8⟩
def R.TDU_EGR_CFG_W0 : Fld := ⟨.tdu, 0x1200, 7, 0, 8⟩
/-- TDU_EGR_STAT. -/
def R.TDU_EGR_STAT : RegRow := ⟨.tdu, 0x1208, 8, 1,
  [⟨41,40,.rov,0⟩, ⟨39,32,.rov,0⟩, ⟨19,0,.rov,0⟩]⟩
def R.TDU_EGR_STAT_REQ_LEVEL : Fld := ⟨.tdu, 0x1208, 41, 40, 8⟩
def R.TDU_EGR_STAT_WAIT : Fld := ⟨.tdu, 0x1208, 39, 32, 8⟩
def R.TDU_EGR_STAT_BUF_FILL : Fld := ⟨.tdu, 0x1208, 19, 0, 8⟩
/-- TTA_EGR_SLOT, entries 0 to 31. -/
def R.TTA_EGR_SLOT : RegRow := ⟨.tta, 0x5E100, 8, 32,
  [⟨63,63,.rw,0⟩, ⟨47,32,.rw,0⟩, ⟨8,0,.rw,0⟩]⟩
def R.TTA_EGR_SLOT_VALID : Fld := ⟨.tta, 0x5E100, 63, 63, 8⟩
def R.TTA_EGR_SLOT_START_US : Fld := ⟨.tta, 0x5E100, 47, 32, 8⟩
def R.TTA_EGR_SLOT_LEN_US : Fld := ⟨.tta, 0x5E100, 8, 0, 8⟩
/-- TTA_EGR_SLOT_CTL. -/
def R.TTA_EGR_SLOT_CTL : RegRow := ⟨.tta, 0x5E200, 8, 1,
  [⟨15,8,.rw1c,0⟩, ⟨2,2,.rov,0⟩, ⟨1,1,.rov,0⟩, ⟨0,0,.wo,0⟩]⟩
def R.TTA_EGR_SLOT_CTL_SHADOW_REFUSED : Fld := ⟨.tta, 0x5E200, 15, 8, 8⟩
def R.TTA_EGR_SLOT_CTL_BANK : Fld := ⟨.tta, 0x5E200, 2, 2, 8⟩
def R.TTA_EGR_SLOT_CTL_PENDING : Fld := ⟨.tta, 0x5E200, 1, 1, 8⟩
def R.TTA_EGR_SLOT_CTL_COMMIT : Fld := ⟨.tta, 0x5E200, 0, 0, 8⟩
/-- TTA_ARB_CTL. -/
def R.TTA_ARB_CTL : RegRow := ⟨.tta, 0x6F000, 8, 1,
  [⟨63,32,.rw1c,0⟩, ⟨16,16,.rov,0⟩, ⟨15,0,.rw,0x64⟩]⟩
def R.TTA_ARB_CTL_OVERDUE : Fld := ⟨.tta, 0x6F000, 63, 32, 8⟩
def R.TTA_ARB_CTL_MODE : Fld := ⟨.tta, 0x6F000, 16, 16, 8⟩
def R.TTA_ARB_CTL_DEFAULT_SLACK_US : Fld := ⟨.tta, 0x6F000, 15, 0, 8⟩
/-- TTA_FAB_CLU, entries 0 to 639. -/
def R.TTA_FAB_CLU : RegRow := ⟨.tta, 0x68000, 8, 640,
  [⟨63,62,.rov,0⟩, ⟨61,46,.rov,0⟩, ⟨45,34,.rov,0⟩, ⟨33,28,.rov,0⟩, ⟨27,20,.rov,0⟩, ⟨19,10,.rov,0⟩]⟩
def R.TTA_FAB_CLU_STATE : Fld := ⟨.tta, 0x68000, 63, 62, 8⟩
def R.TTA_FAB_CLU_TILE_RET : Fld := ⟨.tta, 0x68000, 61, 46, 8⟩
def R.TTA_FAB_CLU_RATE_M : Fld := ⟨.tta, 0x68000, 45, 34, 8⟩
def R.TTA_FAB_CLU_RUN : Fld := ⟨.tta, 0x68000, 33, 28, 8⟩
def R.TTA_FAB_CLU_TEMP_C : Fld := ⟨.tta, 0x68000, 27, 20, 8⟩
def R.TTA_FAB_CLU_RAIL_MV : Fld := ⟨.tta, 0x68000, 19, 10, 8⟩
/-- TTA_FAB_QUAD, entries 0 to 3. -/
def R.TTA_FAB_QUAD : RegRow := ⟨.tta, 0x69800, 8, 4,
  [⟨63,52,.rov,0⟩, ⟨51,42,.rov,0⟩, ⟨41,34,.rov,0xA0⟩, ⟨33,26,.rov,0⟩, ⟨25,18,.rov,0⟩]⟩
def R.TTA_FAB_QUAD_MEDIAN_M : Fld := ⟨.tta, 0x69800, 63, 52, 8⟩
def R.TTA_FAB_QUAD_RAIL_MV : Fld := ⟨.tta, 0x69800, 51, 42, 8⟩
def R.TTA_FAB_QUAD_OK : Fld := ⟨.tta, 0x69800, 41, 34, 8⟩
def R.TTA_FAB_QUAD_SLOW : Fld := ⟨.tta, 0x69800, 33, 26, 8⟩
def R.TTA_FAB_QUAD_RETIRED : Fld := ⟨.tta, 0x69800, 25, 18, 8⟩
/-- TTA_FAB_CFG. -/
def R.TTA_FAB_CFG : RegRow := ⟨.tta, 0x69840, 8, 1,
  [⟨63,48,.rw,0x3E8⟩, ⟨47,40,.rw,0x10⟩, ⟨39,32,.rw,0x40⟩, ⟨23,16,.rw,8⟩, ⟨15,8,.rw,4⟩]⟩
def R.TTA_FAB_CFG_WINDOW_MS : Fld := ⟨.tta, 0x69840, 63, 48, 8⟩
def R.TTA_FAB_CFG_SLOW_WIN : Fld := ⟨.tta, 0x69840, 47, 40, 8⟩
def R.TTA_FAB_CFG_CLEAR_WIN : Fld := ⟨.tta, 0x69840, 39, 32, 8⟩
def R.TTA_FAB_CFG_SLOW_PCT : Fld := ⟨.tta, 0x69840, 23, 16, 8⟩
def R.TTA_FAB_CFG_CLEAR_PCT : Fld := ⟨.tta, 0x69840, 15, 8, 8⟩
/-- TTA_MEM_CH, entries 0 to 63. -/
def R.TTA_MEM_CH : RegRow := ⟨.tta, 0x6D000, 8, 64,
  [⟨63,63,.rov,0⟩, ⟨31,16,.rw1c,0⟩, ⟨15,0,.rw1c,0⟩]⟩
def R.TTA_MEM_CH_RETIRED : Fld := ⟨.tta, 0x6D000, 63, 63, 8⟩
def R.TTA_MEM_CH_CE : Fld := ⟨.tta, 0x6D000, 31, 16, 8⟩
def R.TTA_MEM_CH_UE : Fld := ⟨.tta, 0x6D000, 15, 0, 8⟩
/-- TTA_ING_DROP. -/
def R.TTA_ING_DROP : RegRow := ⟨.tta, 0x6C008, 8, 1,
  [⟨63,32,.rw1c,0⟩, ⟨31,16,.rw1c,0⟩, ⟨15,0,.rw1c,0⟩]⟩
def R.TTA_ING_DROP_LATE : Fld := ⟨.tta, 0x6C008, 63, 32, 8⟩
def R.TTA_ING_DROP_DUP : Fld := ⟨.tta, 0x6C008, 31, 16, 8⟩
def R.TTA_ING_DROP_DROP : Fld := ⟨.tta, 0x6C008, 15, 0, 8⟩
/-- TTA_WM_CFG. -/
def R.TTA_WM_CFG : RegRow := ⟨.tta, 0x6C100, 8, 1,
  [⟨29,16,.rw,0x1F4⟩, ⟨13,0,.rw,0xC8⟩]⟩
def R.TTA_WM_CFG_FILL_US : Fld := ⟨.tta, 0x6C100, 29, 16, 8⟩
def R.TTA_WM_CFG_HOLD_US : Fld := ⟨.tta, 0x6C100, 13, 0, 8⟩
/-- TTA_WM_CNT. -/
def R.TTA_WM_CNT : RegRow := ⟨.tta, 0x6C110, 8, 1,
  [⟨63,32,.rw1c,0⟩, ⟨31,16,.rw1c,0⟩, ⟨15,0,.rw1c,0⟩]⟩
def R.TTA_WM_CNT_FILLED : Fld := ⟨.tta, 0x6C110, 63, 32, 8⟩
def R.TTA_WM_CNT_EXCLUDED : Fld := ⟨.tta, 0x6C110, 31, 16, 8⟩
def R.TTA_WM_CNT_SOLO : Fld := ⟨.tta, 0x6C110, 15, 0, 8⟩
/-- TTA_TWIN_CFG. -/
def R.TTA_TWIN_CFG : RegRow := ⟨.tta, 0x6C200, 8, 1,
  [⟨16,16,.rw,1⟩, ⟨15,0,.rw,0xC8⟩]⟩
def R.TTA_TWIN_CFG_ETH_FALLBACK : Fld := ⟨.tta, 0x6C200, 16, 16, 8⟩
def R.TTA_TWIN_CFG_LOSS_US : Fld := ⟨.tta, 0x6C200, 15, 0, 8⟩
/-- TTA_TWIN_STAT. -/
def R.TTA_TWIN_STAT : RegRow := ⟨.tta, 0x6C208, 8, 1,
  [⟨63,50,.rov,0⟩, ⟨3,3,.rov,0⟩, ⟨2,2,.rov,0⟩, ⟨1,0,.rov,3⟩]⟩
def R.TTA_TWIN_STAT_PARTNER_ID : Fld := ⟨.tta, 0x6C208, 63, 50, 8⟩
def R.TTA_TWIN_STAT_ETH_ALIVE : Fld := ⟨.tta, 0x6C208, 3, 3, 8⟩
def R.TTA_TWIN_STAT_LINK_ALIVE : Fld := ⟨.tta, 0x6C208, 2, 2, 8⟩
def R.TTA_TWIN_STAT_STATE : Fld := ⟨.tta, 0x6C208, 1, 0, 8⟩
/-- TTA_TILE_SEL. -/
def R.TTA_TILE_SEL : RegRow := ⟨.tta, 0x69900, 8, 1,
  [⟨13,0,.rw,0⟩]⟩
def R.TTA_TILE_SEL_TILE : Fld := ⟨.tta, 0x69900, 13, 0, 8⟩
/-- TTA_TILE_ERR. -/
def R.TTA_TILE_ERR : RegRow := ⟨.tta, 0x69908, 8, 1,
  [⟨63,48,.rw1c,0⟩, ⟨47,32,.rw1c,0⟩, ⟨31,16,.rw1c,0⟩, ⟨15,8,.rw1c,0⟩]⟩
def R.TTA_TILE_ERR_CE : Fld := ⟨.tta, 0x69908, 63, 48, 8⟩
def R.TTA_TILE_ERR_UE : Fld := ⟨.tta, 0x69908, 47, 32, 8⟩
def R.TTA_TILE_ERR_ADDR_FAULT : Fld := ⟨.tta, 0x69908, 31, 16, 8⟩
def R.TTA_TILE_ERR_CODE_UE : Fld := ⟨.tta, 0x69908, 15, 8, 8⟩
/-- TTA_TILE_ERR_SUM. -/
def R.TTA_TILE_ERR_SUM : RegRow := ⟨.tta, 0x69910, 8, 1,
  [⟨63,32,.rw1c,0⟩, ⟨31,16,.rw1c,0⟩, ⟨15,0,.rw1c,0⟩]⟩
def R.TTA_TILE_ERR_SUM_CE : Fld := ⟨.tta, 0x69910, 63, 32, 8⟩
def R.TTA_TILE_ERR_SUM_UE : Fld := ⟨.tta, 0x69910, 31, 16, 8⟩
def R.TTA_TILE_ERR_SUM_ADDR_FAULT : Fld := ⟨.tta, 0x69910, 15, 0, 8⟩
/-- TTA_SYNC, entries 0 to 65535. -/
def R.TTA_SYNC : RegRow := ⟨.tta, 0x80000, 8, 65536,
  [⟨63,62,.rov,0⟩, ⟨61,54,.rov,0⟩, ⟨47,32,.rov,0⟩, ⟨31,0,.rov,0⟩]⟩
def R.TTA_SYNC_TYPE : Fld := ⟨.tta, 0x80000, 63, 62, 8⟩
def R.TTA_SYNC_SLOT : Fld := ⟨.tta, 0x80000, 61, 54, 8⟩
def R.TTA_SYNC_TARGET : Fld := ⟨.tta, 0x80000, 47, 32, 8⟩
def R.TTA_SYNC_VALUE : Fld := ⟨.tta, 0x80000, 31, 0, 8⟩
/-- TTA_SCHED_STAT. -/
def R.TTA_SCHED_STAT : RegRow := ⟨.tta, 0x60000, 8, 1,
  [⟨63,53,.rov,0⟩, ⟨52,52,.rov,0⟩, ⟨51,44,.rov,0⟩, ⟨31,16,.rw1c,0⟩, ⟨15,0,.rw1c,0⟩]⟩
def R.TTA_SCHED_STAT_RESIDENT : Fld := ⟨.tta, 0x60000, 63, 53, 8⟩
def R.TTA_SCHED_STAT_BUSY : Fld := ⟨.tta, 0x60000, 52, 52, 8⟩
def R.TTA_SCHED_STAT_LAST_STATUS : Fld := ⟨.tta, 0x60000, 51, 44, 8⟩
def R.TTA_SCHED_STAT_REFUSED : Fld := ⟨.tta, 0x60000, 31, 16, 8⟩
def R.TTA_SCHED_STAT_ADMITTED : Fld := ⟨.tta, 0x60000, 15, 0, 8⟩
/-- TTA_SYNC_STAT. -/
def R.TTA_SYNC_STAT : RegRow := ⟨.tta, 0x60008, 8, 1,
  [⟨63,47,.rov,0x10000⟩, ⟨31,0,.rw1c,0⟩]⟩
def R.TTA_SYNC_STAT_FREE : Fld := ⟨.tta, 0x60008, 63, 47, 8⟩
def R.TTA_SYNC_STAT_FOREIGN : Fld := ⟨.tta, 0x60008, 31, 0, 8⟩
/-- TTA_GRAPH, entries 0 to 1023. -/
def R.TTA_GRAPH : RegRow := ⟨.tta, 0x62000, 8, 1024,
  [⟨63,63,.rov,0⟩, ⟨62,60,.rov,0⟩, ⟨59,52,.rov,0⟩, ⟨51,51,.rov,0⟩, ⟨50,50,.rov,0⟩, ⟨49,49,.rov,0⟩, ⟨48,44,.rov,0⟩, ⟨43,30,.rov,0⟩]⟩
def R.TTA_GRAPH_VALID : Fld := ⟨.tta, 0x62000, 63, 63, 8⟩
def R.TTA_GRAPH_STATE : Fld := ⟨.tta, 0x62000, 62, 60, 8⟩
def R.TTA_GRAPH_SLOT : Fld := ⟨.tta, 0x62000, 59, 52, 8⟩
def R.TTA_GRAPH_KIND : Fld := ⟨.tta, 0x62000, 51, 51, 8⟩
def R.TTA_GRAPH_PRIMARY : Fld := ⟨.tta, 0x62000, 50, 50, 8⟩
def R.TTA_GRAPH_REPLACING : Fld := ⟨.tta, 0x62000, 49, 49, 8⟩
def R.TTA_GRAPH_CHECK_K : Fld := ⟨.tta, 0x62000, 48, 44, 8⟩
def R.TTA_GRAPH_TILES : Fld := ⟨.tta, 0x62000, 43, 30, 8⟩
/-- TTA_TAB_SUM. -/
def R.TTA_TAB_SUM : RegRow := ⟨.tta, 0x6A000, 8, 1,
  [⟨63,51,.rov,0⟩, ⟨31,16,.rw1c,0⟩, ⟨15,0,.rw1c,0⟩]⟩
def R.TTA_TAB_SUM_TABLES : Fld := ⟨.tta, 0x6A000, 63, 51, 8⟩
def R.TTA_TAB_SUM_COMMITS : Fld := ⟨.tta, 0x6A000, 31, 16, 8⟩
def R.TTA_TAB_SUM_REFUSED : Fld := ⟨.tta, 0x6A000, 15, 0, 8⟩
/-- TTA_WRN_CFG. -/
def R.TTA_WRN_CFG : RegRow := ⟨.tta, 0x58000, 8, 1,
  [⟨47,40,.rw,1⟩, ⟨39,32,.rw,4⟩, ⟨31,16,.rw,0x64⟩, ⟨11,8,.rw,3⟩, ⟨7,0,.rw,4⟩]⟩
def R.TTA_WRN_CFG_QUERY_MS : Fld := ⟨.tta, 0x58000, 47, 40, 8⟩
def R.TTA_WRN_CFG_ATTEMPTS : Fld := ⟨.tta, 0x58000, 39, 32, 8⟩
def R.TTA_WRN_CFG_SLOW_US : Fld := ⟨.tta, 0x58000, 31, 16, 8⟩
def R.TTA_WRN_CFG_TRIES : Fld := ⟨.tta, 0x58000, 11, 8, 8⟩
def R.TTA_WRN_CFG_RETX_US : Fld := ⟨.tta, 0x58000, 7, 0, 8⟩
/-- TTA_WRN_STAT. -/
def R.TTA_WRN_STAT : RegRow := ⟨.tta, 0x58008, 8, 1,
  [⟨63,49,.rov,0⟩, ⟨48,36,.rov,0⟩, ⟨31,0,.rw1c,0⟩]⟩
def R.TTA_WRN_STAT_OPEN : Fld := ⟨.tta, 0x58008, 63, 49, 8⟩
def R.TTA_WRN_STAT_GROUPS : Fld := ⟨.tta, 0x58008, 48, 36, 8⟩
def R.TTA_WRN_STAT_ROUNDS : Fld := ⟨.tta, 0x58008, 31, 0, 8⟩
/-- TTA_WRN_ERR. -/
def R.TTA_WRN_ERR : RegRow := ⟨.tta, 0x58010, 8, 1,
  [⟨63,48,.rw1c,0⟩, ⟨47,32,.rw1c,0⟩, ⟨31,16,.rw1c,0⟩, ⟨15,0,.rw1c,0⟩]⟩
def R.TTA_WRN_ERR_MISMATCH : Fld := ⟨.tta, 0x58010, 63, 48, 8⟩
def R.TTA_WRN_ERR_SUSPECT : Fld := ⟨.tta, 0x58010, 47, 32, 8⟩
def R.TTA_WRN_ERR_BAD_VERSION : Fld := ⟨.tta, 0x58010, 31, 16, 8⟩
def R.TTA_WRN_ERR_BUSY : Fld := ⟨.tta, 0x58010, 15, 0, 8⟩
/-- TTA_WRN_DUP. -/
def R.TTA_WRN_DUP : RegRow := ⟨.tta, 0x58018, 8, 1,
  [⟨31,0,.rw1c,0⟩]⟩
def R.TTA_WRN_DUP_DUP : Fld := ⟨.tta, 0x58018, 31, 0, 8⟩
/-- TTA_BST_JOB, entries 0 to 63. -/
def R.TTA_BST_JOB : RegRow := ⟨.tta, 0x58100, 8, 64,
  [⟨63,63,.rov,0⟩, ⟨62,61,.rov,0⟩, ⟨60,53,.rov,0⟩, ⟨52,37,.rov,0⟩, ⟨36,32,.rov,0⟩, ⟨31,31,.rov,0⟩, ⟨30,28,.rov,0⟩, ⟨27,14,.rov,0⟩]⟩
def R.TTA_BST_JOB_VALID : Fld := ⟨.tta, 0x58100, 63, 63, 8⟩
def R.TTA_BST_JOB_STATE : Fld := ⟨.tta, 0x58100, 62, 61, 8⟩
def R.TTA_BST_JOB_SLOT : Fld := ⟨.tta, 0x58100, 60, 53, 8⟩
def R.TTA_BST_JOB_JOB_ID : Fld := ⟨.tta, 0x58100, 52, 37, 8⟩
def R.TTA_BST_JOB_ATTEMPT : Fld := ⟨.tta, 0x58100, 36, 32, 8⟩
def R.TTA_BST_JOB_ROOT : Fld := ⟨.tta, 0x58100, 31, 31, 8⟩
def R.TTA_BST_JOB_LEVELS : Fld := ⟨.tta, 0x58100, 30, 28, 8⟩
def R.TTA_BST_JOB_TRAYS : Fld := ⟨.tta, 0x58100, 27, 14, 8⟩
/-- TTA_DET_CFG. -/
def R.TTA_DET_CFG : RegRow := ⟨.tta, 0x6B000, 8, 1,
  [⟨39,32,.rw,0xA⟩, ⟨23,16,.rw,0x18⟩, ⟨3,0,.rw,2⟩]⟩
def R.TTA_DET_CFG_EXPEL_TO_MS : Fld := ⟨.tta, 0x6B000, 39, 32, 8⟩
def R.TTA_DET_CFG_WINDOW_H : Fld := ⟨.tta, 0x6B000, 23, 16, 8⟩
def R.TTA_DET_CFG_BUDGET : Fld := ⟨.tta, 0x6B000, 3, 0, 8⟩
/-- TTA_EXPEL_STAT. -/
def R.TTA_EXPEL_STAT : RegRow := ⟨.tta, 0x6B008, 8, 1,
  [⟨63,63,.rov,0⟩, ⟨62,62,.rov,0⟩, ⟨55,52,.rov,0⟩, ⟨31,16,.rw1c,0⟩, ⟨15,0,.rw1c,0⟩]⟩
def R.TTA_EXPEL_STAT_KEEPER : Fld := ⟨.tta, 0x6B008, 63, 63, 8⟩
def R.TTA_EXPEL_STAT_LOG_LOST : Fld := ⟨.tta, 0x6B008, 62, 62, 8⟩
def R.TTA_EXPEL_STAT_USED : Fld := ⟨.tta, 0x6B008, 55, 52, 8⟩
def R.TTA_EXPEL_STAT_REFUSED : Fld := ⟨.tta, 0x6B008, 31, 16, 8⟩
def R.TTA_EXPEL_STAT_GRANTED : Fld := ⟨.tta, 0x6B008, 15, 0, 8⟩
/-- TTA_DIE_STATE, entries 0 to 15. -/
def R.TTA_DIE_STATE : RegRow := ⟨.tta, 0x6B100, 8, 16,
  [⟨63,62,.rov,0⟩, ⟨61,59,.rov,0⟩, ⟨58,58,.wo,0⟩, ⟨31,0,.rov,0⟩]⟩
def R.TTA_DIE_STATE_STATE : Fld := ⟨.tta, 0x6B100, 63, 62, 8⟩
def R.TTA_DIE_STATE_CAUSE : Fld := ⟨.tta, 0x6B100, 61, 59, 8⟩
def R.TTA_DIE_STATE_CLEAR : Fld := ⟨.tta, 0x6B100, 58, 58, 8⟩
def R.TTA_DIE_STATE_SCORE : Fld := ⟨.tta, 0x6B100, 31, 0, 8⟩
/-- TTA_HINT_STAT. -/
def R.TTA_HINT_STAT : RegRow := ⟨.tta, 0x6B200, 8, 1,
  [⟨63,32,.rw1c,0⟩, ⟨31,24,.rw1c,0⟩, ⟨23,16,.rw1c,0⟩, ⟨15,0,.rw1c,0⟩]⟩
def R.TTA_HINT_STAT_SENT : Fld := ⟨.tta, 0x6B200, 63, 32, 8⟩
def R.TTA_HINT_STAT_NO_PATH : Fld := ⟨.tta, 0x6B200, 31, 24, 8⟩
def R.TTA_HINT_STAT_UNROUTED : Fld := ⟨.tta, 0x6B200, 23, 16, 8⟩
def R.TTA_HINT_STAT_REPEAT : Fld := ⟨.tta, 0x6B200, 15, 0, 8⟩
/-- TTA_VERDICT_STAT. -/
def R.TTA_VERDICT_STAT : RegRow := ⟨.tta, 0x6B208, 8, 1,
  [⟨63,32,.rw1c,0⟩, ⟨31,16,.rw1c,0⟩, ⟨15,0,.rw1c,0⟩]⟩
def R.TTA_VERDICT_STAT_POSTED : Fld := ⟨.tta, 0x6B208, 63, 32, 8⟩
def R.TTA_VERDICT_STAT_VOIDED : Fld := ⟨.tta, 0x6B208, 31, 16, 8⟩
def R.TTA_VERDICT_STAT_REFUSED : Fld := ⟨.tta, 0x6B208, 15, 0, 8⟩
/-- TDU_CHK_K, entries 0 to 63. -/
def R.TDU_CHK_K : RegRow := ⟨.tdu, 0x4000, 8, 64,
  [⟨20,16,.rov,8⟩, ⟨12,8,.rov,0x10⟩, ⟨4,0,.rov,8⟩]⟩
def R.TDU_CHK_K_K_EFF : Fld := ⟨.tdu, 0x4000, 20, 16, 8⟩
def R.TDU_CHK_K_K_CAP : Fld := ⟨.tdu, 0x4000, 12, 8, 8⟩
def R.TDU_CHK_K_K_REQ : Fld := ⟨.tdu, 0x4000, 4, 0, 8⟩
/-- TDU_CHK_TEST. -/
def R.TDU_CHK_TEST : RegRow := ⟨.tdu, 0x4200, 8, 1,
  [⟨63,63,.wo,0⟩, ⟨60,60,.rov,0⟩, ⟨59,48,.rov,0⟩, ⟨47,32,.rw,0x2EE⟩, ⟨31,16,.rw,0x64⟩, ⟨15,0,.rw,0⟩]⟩
def R.TDU_CHK_TEST_BIN_CLR : Fld := ⟨.tdu, 0x4200, 63, 63, 8⟩
def R.TDU_CHK_TEST_BUSY : Fld := ⟨.tdu, 0x4200, 60, 60, 8⟩
def R.TDU_CHK_TEST_UNIT : Fld := ⟨.tdu, 0x4200, 59, 48, 8⟩
def R.TDU_CHK_TEST_VNOM_MV : Fld := ⟨.tdu, 0x4200, 47, 32, 8⟩
def R.TDU_CHK_TEST_PERIOD_MS : Fld := ⟨.tdu, 0x4200, 31, 16, 8⟩
def R.TDU_CHK_TEST_RADIO_CLASSES : Fld := ⟨.tdu, 0x4200, 15, 0, 8⟩
/-- TDU_CHK_USEL. -/
def R.TDU_CHK_USEL : RegRow := ⟨.tdu, 0x4208, 8, 1,
  [⟨11,0,.rw,0⟩]⟩
def R.TDU_CHK_USEL_UNIT : Fld := ⟨.tdu, 0x4208, 11, 0, 8⟩
/-- TDU_CHK_UNIT. -/
def R.TDU_CHK_UNIT : RegRow := ⟨.tdu, 0x4210, 8, 1,
  [⟨63,63,.rov,0⟩, ⟨62,62,.wo,0⟩, ⟨31,16,.rov,0⟩, ⟨15,0,.rov,0⟩]⟩
def R.TDU_CHK_UNIT_WITHDRAWN : Fld := ⟨.tdu, 0x4210, 63, 63, 8⟩
def R.TDU_CHK_UNIT_CLEAR : Fld := ⟨.tdu, 0x4210, 62, 62, 8⟩
def R.TDU_CHK_UNIT_TIMEOUT : Fld := ⟨.tdu, 0x4210, 31, 16, 8⟩
def R.TDU_CHK_UNIT_BLAME : Fld := ⟨.tdu, 0x4210, 15, 0, 8⟩
/-- TDU_CHK_OUT. -/
def R.TDU_CHK_OUT : RegRow := ⟨.tdu, 0x4488, 8, 1,
  [⟨63,32,.rw1c,0⟩, ⟨31,0,.rw1c,0⟩]⟩
def R.TDU_CHK_OUT_STEPS_VOID : Fld := ⟨.tdu, 0x4488, 63, 32, 8⟩
def R.TDU_CHK_OUT_CORRECTED : Fld := ⟨.tdu, 0x4488, 31, 0, 8⟩
/-- TDU_CHK_BIN, entries 0 to 47. -/
def R.TDU_CHK_BIN : RegRow := ⟨.tdu, 0x4500, 8, 48,
  [⟨63,32,.rov,0⟩, ⟨31,0,.rov,0⟩]⟩
def R.TDU_CHK_BIN_CHECKED : Fld := ⟨.tdu, 0x4500, 63, 32, 8⟩
def R.TDU_CHK_BIN_MISMATCH : Fld := ⟨.tdu, 0x4500, 31, 0, 8⟩
/-- TTA_CHK_CFG. -/
def R.TTA_CHK_CFG : RegRow := ⟨.tta, 0x110000, 8, 1,
  [⟨63,48,.rw,0xA⟩, ⟨47,40,.rw,4⟩, ⟨39,36,.rw,2⟩, ⟨35,32,.rw,2⟩, ⟨4,0,.rw,0x10⟩]⟩
def R.TTA_CHK_CFG_SWEEP_S : Fld := ⟨.tta, 0x110000, 63, 48, 8⟩
def R.TTA_CHK_CFG_CELL_MIN : Fld := ⟨.tta, 0x110000, 47, 40, 8⟩
def R.TTA_CHK_CFG_STRIKE_MAX : Fld := ⟨.tta, 0x110000, 39, 36, 8⟩
def R.TTA_CHK_CFG_BLAME_MAX : Fld := ⟨.tta, 0x110000, 35, 32, 8⟩
def R.TTA_CHK_CFG_K_CAP : Fld := ⟨.tta, 0x110000, 4, 0, 8⟩
/-- TTA_CHK_STAT. -/
def R.TTA_CHK_STAT : RegRow := ⟨.tta, 0x110008, 8, 1,
  [⟨63,48,.rw1c,0⟩, ⟨47,32,.rw1c,0⟩, ⟨31,16,.rw1c,0⟩, ⟨15,0,.rw1c,0⟩]⟩
def R.TTA_CHK_STAT_RUNS_VOIDED : Fld := ⟨.tta, 0x110008, 63, 48, 8⟩
def R.TTA_CHK_STAT_REPLAYS : Fld := ⟨.tta, 0x110008, 47, 32, 8⟩
def R.TTA_CHK_STAT_STEPS_VOIDED : Fld := ⟨.tta, 0x110008, 31, 16, 8⟩
def R.TTA_CHK_STAT_SELF_FAIL : Fld := ⟨.tta, 0x110008, 15, 0, 8⟩
/-- TTA_CHK_POISON. -/
def R.TTA_CHK_POISON : RegRow := ⟨.tta, 0x110010, 8, 1,
  [⟨63,32,.rw1c,0⟩, ⟨31,16,.rw1c,0⟩, ⟨15,0,.rw1c,0⟩]⟩
def R.TTA_CHK_POISON_VERDICTS : Fld := ⟨.tta, 0x110010, 63, 32, 8⟩
def R.TTA_CHK_POISON_RUNS : Fld := ⟨.tta, 0x110010, 31, 16, 8⟩
def R.TTA_CHK_POISON_STOPPED : Fld := ⟨.tta, 0x110010, 15, 0, 8⟩
/-- TTA_CHK_LOG. -/
def R.TTA_CHK_LOG : RegRow := ⟨.tta, 0x110018, 8, 1,
  [⟨63,32,.rw1c,0⟩, ⟨8,0,.rov,0⟩]⟩
def R.TTA_CHK_LOG_HOLDS : Fld := ⟨.tta, 0x110018, 63, 32, 8⟩
def R.TTA_CHK_LOG_FILL_MIB : Fld := ⟨.tta, 0x110018, 8, 0, 8⟩
/-- TTA_CHK_GATE, entries 0 to 255. -/
def R.TTA_CHK_GATE : RegRow := ⟨.tta, 0x110100, 8, 256,
  [⟨63,63,.rov,1⟩, ⟨62,62,.rov,0⟩, ⟨47,0,.rov,0⟩]⟩
def R.TTA_CHK_GATE_OPEN : Fld := ⟨.tta, 0x110100, 63, 63, 8⟩
def R.TTA_CHK_GATE_PENDING : Fld := ⟨.tta, 0x110100, 62, 62, 8⟩
def R.TTA_CHK_GATE_LAST_SEC : Fld := ⟨.tta, 0x110100, 47, 0, 8⟩
/-- TTA_RPT_CFG. -/
def R.TTA_RPT_CFG : RegRow := ⟨.tta, 0x111000, 8, 1,
  [⟨63,48,.rw,0x7D⟩, ⟨47,32,.rw,0x128A⟩, ⟨0,0,.rw,0⟩]⟩
def R.TTA_RPT_CFG_RANGE_MASK : Fld := ⟨.tta, 0x111000, 63, 48, 8⟩
def R.TTA_RPT_CFG_DEST_PORT : Fld := ⟨.tta, 0x111000, 47, 32, 8⟩
def R.TTA_RPT_CFG_ENABLE : Fld := ⟨.tta, 0x111000, 0, 0, 8⟩
/-- TTA_RPT_DEST_HI. -/
def R.TTA_RPT_DEST_HI : RegRow := ⟨.tta, 0x111008, 8, 1,
  [⟨63,0,.rw,0⟩]⟩
def R.TTA_RPT_DEST_HI_ADDR : Fld := ⟨.tta, 0x111008, 63, 0, 8⟩
/-- TTA_RPT_DEST_LO. -/
def R.TTA_RPT_DEST_LO : RegRow := ⟨.tta, 0x111010, 8, 1,
  [⟨63,0,.rw,0⟩]⟩
def R.TTA_RPT_DEST_LO_ADDR : Fld := ⟨.tta, 0x111010, 63, 0, 8⟩
/-- TTA_RPT_KEY, entries 0 to 3. -/
def R.TTA_RPT_KEY : RegRow := ⟨.tta, 0x111020, 8, 4,
  [⟨63,0,.wo,0⟩]⟩
def R.TTA_RPT_KEY_KEY : Fld := ⟨.tta, 0x111020, 63, 0, 8⟩
/-- TTA_RPT_STAT. -/
def R.TTA_RPT_STAT : RegRow := ⟨.tta, 0x111018, 8, 1,
  [⟨63,32,.rw1c,0⟩, ⟨31,16,.rw1c,0⟩, ⟨15,0,.rw1c,0⟩]⟩
def R.TTA_RPT_STAT_SENT : Fld := ⟨.tta, 0x111018, 63, 32, 8⟩
def R.TTA_RPT_STAT_UNDELIVERED : Fld := ⟨.tta, 0x111018, 31, 16, 8⟩
def R.TTA_RPT_STAT_COALESCED : Fld := ⟨.tta, 0x111018, 15, 0, 8⟩
/-- TTA_FN_STAT, entries 0 to 254. -/
def R.TTA_FN_STAT : RegRow := ⟨.tta, 0x160008, 8, 255,
  [⟨63,48,.rov,0xFFFF⟩, ⟨47,40,.rov,0⟩, ⟨39,37,.rov,0⟩, ⟨36,24,.rov,0⟩]⟩
def R.TTA_FN_STAT_ALLOT_ID : Fld := ⟨.tta, 0x160008, 63, 48, 8⟩
def R.TTA_FN_STAT_SLOT : Fld := ⟨.tta, 0x160008, 47, 40, 8⟩
def R.TTA_FN_STAT_STATE : Fld := ⟨.tta, 0x160008, 39, 37, 8⟩
def R.TTA_FN_STAT_BACKLOG : Fld := ⟨.tta, 0x160008, 36, 24, 8⟩
/-- TTA_VF_ID. -/
def R.TTA_VF_ID : RegRow := ⟨.vf, 0, 8, 1,
  [⟨63,48,.rov,0xFFFF⟩, ⟨47,40,.rov,0⟩, ⟨39,37,.rov,0⟩, ⟨36,24,.rov,0⟩]⟩
def R.TTA_VF_ID_ALLOT_ID : Fld := ⟨.vf, 0, 63, 48, 8⟩
def R.TTA_VF_ID_SLOT : Fld := ⟨.vf, 0, 47, 40, 8⟩
def R.TTA_VF_ID_STATE : Fld := ⟨.vf, 0, 39, 37, 8⟩
def R.TTA_VF_ID_BACKLOG : Fld := ⟨.vf, 0, 36, 24, 8⟩
/-- TTA_VF_SCALE, entries 0 to 7. -/
def R.TTA_VF_SCALE : RegRow := ⟨.vf, 0x100, 8, 8,
  [⟨63,0,.rov,0⟩]⟩
def R.TTA_VF_SCALE_SCALE : Fld := ⟨.vf, 0x100, 63, 0, 8⟩
/-- TTA_TDU_MIRROR. -/
def R.TTA_TDU_MIRROR : RegRow := ⟨.tta, 0x160800, 8, 1,
  [⟨15,0,.rw,0⟩]⟩
def R.TTA_TDU_MIRROR_PORT : Fld := ⟨.tta, 0x160800, 15, 0, 8⟩
/-- TDU_Q_NOTICE. -/
def R.TDU_Q_NOTICE : RegRow := ⟨.tdu, 0xF800, 8, 1,
  [⟨15,0,.rw,0x11⟩]⟩
def R.TDU_Q_NOTICE_MASK : Fld := ⟨.tdu, 0xF800, 15, 0, 8⟩
/-- TDU_Q_MIRROR. -/
def R.TDU_Q_MIRROR : RegRow := ⟨.tdu, 0xF808, 8, 1,
  [⟨0,0,.rov,0⟩]⟩
def R.TDU_Q_MIRROR_EN : Fld := ⟨.tdu, 0xF808, 0, 0, 8⟩
/-- TTA_CMP_RING_BASE. -/
def R.TTA_CMP_RING_BASE : RegRow := ⟨.tta, 0x120000, 8, 1,
  [⟨63,6,.rw,0⟩]⟩
def R.TTA_CMP_RING_BASE_ADDR : Fld := ⟨.tta, 0x120000, 63, 6, 8⟩
/-- TTA_CMP_RING_CFG. -/
def R.TTA_CMP_RING_CFG : RegRow := ⟨.tta, 0x120008, 8, 1,
  [⟨63,48,.rov,0⟩, ⟨47,32,.rov,0⟩, ⟨20,16,.rw,8⟩, ⟨2,2,.rov,1⟩, ⟨0,0,.rw,0⟩]⟩
def R.TTA_CMP_RING_CFG_CI : Fld := ⟨.tta, 0x120008, 63, 48, 8⟩
def R.TTA_CMP_RING_CFG_PI : Fld := ⟨.tta, 0x120008, 47, 32, 8⟩
def R.TTA_CMP_RING_CFG_SIZE_LOG2 : Fld := ⟨.tta, 0x120008, 20, 16, 8⟩
def R.TTA_CMP_RING_CFG_IDLE : Fld := ⟨.tta, 0x120008, 2, 2, 8⟩
def R.TTA_CMP_RING_CFG_ENABLE : Fld := ⟨.tta, 0x120008, 0, 0, 8⟩
/-- TTA_CMP_DB. -/
def R.TTA_CMP_DB : RegRow := ⟨.tta, 0x120010, 8, 1,
  [⟨15,0,.wo,0⟩]⟩
def R.TTA_CMP_DB_INDEX : Fld := ⟨.tta, 0x120010, 15, 0, 8⟩
/-- TTA_CMP_STAT. -/
def R.TTA_CMP_STAT : RegRow := ⟨.tta, 0x120018, 8, 1,
  [⟨63,32,.rw1c,0⟩, ⟨31,16,.rw1c,0⟩, ⟨15,0,.rw1c,0⟩]⟩
def R.TTA_CMP_STAT_JOBS_OK : Fld := ⟨.tta, 0x120018, 63, 32, 8⟩
def R.TTA_CMP_STAT_JOBS_ERR : Fld := ⟨.tta, 0x120018, 31, 16, 8⟩
def R.TTA_CMP_STAT_MISMATCH : Fld := ⟨.tta, 0x120018, 15, 0, 8⟩
/-- TTA_CMP_UNPACK, entries 0 to 16. -/
def R.TTA_CMP_UNPACK : RegRow := ⟨.tta, 0x120100, 8, 17,
  [⟨63,32,.rw1c,0⟩, ⟨31,0,.rw1c,0⟩]⟩
def R.TTA_CMP_UNPACK_RAW : Fld := ⟨.tta, 0x120100, 63, 32, 8⟩
def R.TTA_CMP_UNPACK_ERR : Fld := ⟨.tta, 0x120100, 31, 0, 8⟩
/-- TDU_PACK_STAT. -/
def R.TDU_PACK_STAT : RegRow := ⟨.tdu, 0x7000, 8, 1,
  [⟨63,32,.rw1c,0⟩, ⟨31,0,.rw1c,0⟩]⟩
def R.TDU_PACK_STAT_VERIFY_FAIL : Fld := ⟨.tdu, 0x7000, 63, 32, 8⟩
def R.TDU_PACK_STAT_RAW_CHUNKS : Fld := ⟨.tdu, 0x7000, 31, 0, 8⟩
/-- TTA_REC_CTL. -/
def R.TTA_REC_CTL : RegRow := ⟨.tta, 0x130000, 8, 1,
  [⟨25,16,.rw,0x64⟩, ⟨1,1,.wo,0⟩, ⟨0,0,.rw,0⟩]⟩
def R.TTA_REC_CTL_FREEZE_MS : Fld := ⟨.tta, 0x130000, 25, 16, 8⟩
def R.TTA_REC_CTL_PERM_CLR : Fld := ⟨.tta, 0x130000, 1, 1, 8⟩
def R.TTA_REC_CTL_FREEZE : Fld := ⟨.tta, 0x130000, 0, 0, 8⟩
/-- TDU_REC_CTL. -/
def R.TDU_REC_CTL : RegRow := ⟨.tdu, 0x8000, 8, 1,
  [⟨25,16,.rw,0x64⟩, ⟨1,1,.wo,0⟩, ⟨0,0,.rw,0⟩]⟩
def R.TDU_REC_CTL_FREEZE_MS : Fld := ⟨.tdu, 0x8000, 25, 16, 8⟩
def R.TDU_REC_CTL_PERM_CLR : Fld := ⟨.tdu, 0x8000, 1, 1, 8⟩
def R.TDU_REC_CTL_FREEZE : Fld := ⟨.tdu, 0x8000, 0, 0, 8⟩
/-- TTA_REC_STAT. -/
def R.TTA_REC_STAT : RegRow := ⟨.tta, 0x130008, 8, 1,
  [⟨63,63,.rov,0⟩, ⟨62,62,.rov,0⟩, ⟨61,49,.rov,0⟩, ⟨48,40,.rov,0⟩, ⟨39,26,.rov,0⟩, ⟨25,16,.rw1c,0⟩, ⟨15,0,.rw1c,0⟩]⟩
def R.TTA_REC_STAT_FROZEN : Fld := ⟨.tta, 0x130008, 63, 63, 8⟩
def R.TTA_REC_STAT_WRAPPED : Fld := ⟨.tta, 0x130008, 62, 62, 8⟩
def R.TTA_REC_STAT_PERM_FILL : Fld := ⟨.tta, 0x130008, 61, 49, 8⟩
def R.TTA_REC_STAT_STAGED : Fld := ⟨.tta, 0x130008, 48, 40, 8⟩
def R.TTA_REC_STAT_CIRC_NEXT : Fld := ⟨.tta, 0x130008, 39, 26, 8⟩
def R.TTA_REC_STAT_PERM_DROP : Fld := ⟨.tta, 0x130008, 25, 16, 8⟩
def R.TTA_REC_STAT_LOST : Fld := ⟨.tta, 0x130008, 15, 0, 8⟩
/-- TDU_REC_STAT. -/
def R.TDU_REC_STAT : RegRow := ⟨.tdu, 0x8008, 8, 1,
  [⟨63,63,.rov,0⟩, ⟨62,62,.rov,0⟩, ⟨61,49,.rov,0⟩, ⟨48,40,.rov,0⟩, ⟨39,26,.rov,0⟩, ⟨25,16,.rw1c,0⟩, ⟨15,0,.rw1c,0⟩]⟩
def R.TDU_REC_STAT_FROZEN : Fld := ⟨.tdu, 0x8008, 63, 63, 8⟩
def R.TDU_REC_STAT_WRAPPED : Fld := ⟨.tdu, 0x8008, 62, 62, 8⟩
def R.TDU_REC_STAT_PERM_FILL : Fld := ⟨.tdu, 0x8008, 61, 49, 8⟩
def R.TDU_REC_STAT_STAGED : Fld := ⟨.tdu, 0x8008, 48, 40, 8⟩
def R.TDU_REC_STAT_CIRC_NEXT : Fld := ⟨.tdu, 0x8008, 39, 26, 8⟩
def R.TDU_REC_STAT_PERM_DROP : Fld := ⟨.tdu, 0x8008, 25, 16, 8⟩
def R.TDU_REC_STAT_LOST : Fld := ⟨.tdu, 0x8008, 15, 0, 8⟩
/-- TTA_REC_SEL. -/
def R.TTA_REC_SEL : RegRow := ⟨.tta, 0x130010, 8, 1,
  [⟨14,14,.rw,0⟩, ⟨13,0,.rw,0⟩]⟩
def R.TTA_REC_SEL_AREA : Fld := ⟨.tta, 0x130010, 14, 14, 8⟩
def R.TTA_REC_SEL_INDEX : Fld := ⟨.tta, 0x130010, 13, 0, 8⟩
/-- TDU_REC_SEL. -/
def R.TDU_REC_SEL : RegRow := ⟨.tdu, 0x8010, 8, 1,
  [⟨14,14,.rw,0⟩, ⟨13,0,.rw,0⟩]⟩
def R.TDU_REC_SEL_AREA : Fld := ⟨.tdu, 0x8010, 14, 14, 8⟩
def R.TDU_REC_SEL_INDEX : Fld := ⟨.tdu, 0x8010, 13, 0, 8⟩
/-- TTA_REC_DATA, entries 0 to 3. -/
def R.TTA_REC_DATA : RegRow := ⟨.tta, 0x130020, 8, 4,
  [⟨63,0,.rov,0⟩]⟩
def R.TTA_REC_DATA_DATA : Fld := ⟨.tta, 0x130020, 63, 0, 8⟩
/-- TDU_REC_DATA, entries 0 to 3. -/
def R.TDU_REC_DATA : RegRow := ⟨.tdu, 0x8020, 8, 4,
  [⟨63,0,.rov,0⟩]⟩
def R.TDU_REC_DATA_DATA : Fld := ⟨.tdu, 0x8020, 63, 0, 8⟩
/-- TTA_REC_PERM_MATCH, entries 0 to 3. -/
def R.TTA_REC_PERM_MATCH : RegRow := ⟨.tta, 0x130040, 8, 4,
  [⟨32,32,.rw,0⟩, ⟨31,16,.rw,0⟩, ⟨15,0,.rw,0⟩]⟩
def R.TTA_REC_PERM_MATCH_EN : Fld := ⟨.tta, 0x130040, 32, 32, 8⟩
def R.TTA_REC_PERM_MATCH_MASK : Fld := ⟨.tta, 0x130040, 31, 16, 8⟩
def R.TTA_REC_PERM_MATCH_CODE : Fld := ⟨.tta, 0x130040, 15, 0, 8⟩
/-- TDU_REC_PERM_MATCH, entries 0 to 3. -/
def R.TDU_REC_PERM_MATCH : RegRow := ⟨.tdu, 0x8040, 8, 4,
  [⟨32,32,.rw,0⟩, ⟨31,16,.rw,0⟩, ⟨15,0,.rw,0⟩]⟩
def R.TDU_REC_PERM_MATCH_EN : Fld := ⟨.tdu, 0x8040, 32, 32, 8⟩
def R.TDU_REC_PERM_MATCH_MASK : Fld := ⟨.tdu, 0x8040, 31, 16, 8⟩
def R.TDU_REC_PERM_MATCH_CODE : Fld := ⟨.tdu, 0x8040, 15, 0, 8⟩
/-- TTA_SNAP_CTL. -/
def R.TTA_SNAP_CTL : RegRow := ⟨.tta, 0x140000, 8, 1,
  [⟨9,9,.rw,1⟩, ⟨8,8,.rw,0⟩, ⟨1,1,.wo,0⟩, ⟨0,0,.wo,0⟩]⟩
def R.TTA_SNAP_CTL_INCL_TDU : Fld := ⟨.tta, 0x140000, 9, 9, 8⟩
def R.TTA_SNAP_CTL_MATCH_EN : Fld := ⟨.tta, 0x140000, 8, 8, 8⟩
def R.TTA_SNAP_CTL_ARM_AT : Fld := ⟨.tta, 0x140000, 1, 1, 8⟩
def R.TTA_SNAP_CTL_TRIG : Fld := ⟨.tta, 0x140000, 0, 0, 8⟩
/-- TDU_SNAP_CTL. -/
def R.TDU_SNAP_CTL : RegRow := ⟨.tdu, 0x9000, 8, 1,
  [⟨9,9,.rw,1⟩, ⟨8,8,.rw,0⟩, ⟨1,1,.wo,0⟩, ⟨0,0,.wo,0⟩]⟩
def R.TDU_SNAP_CTL_INCL_TDU : Fld := ⟨.tdu, 0x9000, 9, 9, 8⟩
def R.TDU_SNAP_CTL_MATCH_EN : Fld := ⟨.tdu, 0x9000, 8, 8, 8⟩
def R.TDU_SNAP_CTL_ARM_AT : Fld := ⟨.tdu, 0x9000, 1, 1, 8⟩
def R.TDU_SNAP_CTL_TRIG : Fld := ⟨.tdu, 0x9000, 0, 0, 8⟩
/-- TTA_SNAP_AT. -/
def R.TTA_SNAP_AT : RegRow := ⟨.tta, 0x140008, 8, 1,
  [⟨63,0,.rw,0⟩]⟩
def R.TTA_SNAP_AT_NS : Fld := ⟨.tta, 0x140008, 63, 0, 8⟩
/-- TTA_SNAP_MATCH. -/
def R.TTA_SNAP_MATCH : RegRow := ⟨.tta, 0x140010, 8, 1,
  [⟨31,16,.rw,0⟩, ⟨15,0,.rw,0⟩]⟩
def R.TTA_SNAP_MATCH_MASK : Fld := ⟨.tta, 0x140010, 31, 16, 8⟩
def R.TTA_SNAP_MATCH_CODE : Fld := ⟨.tta, 0x140010, 15, 0, 8⟩
/-- TDU_SNAP_MATCH. -/
def R.TDU_SNAP_MATCH : RegRow := ⟨.tdu, 0x9010, 8, 1,
  [⟨31,16,.rw,0⟩, ⟨15,0,.rw,0⟩]⟩
def R.TDU_SNAP_MATCH_MASK : Fld := ⟨.tdu, 0x9010, 31, 16, 8⟩
def R.TDU_SNAP_MATCH_CODE : Fld := ⟨.tdu, 0x9010, 15, 0, 8⟩
/-- TTA_SNAP_SEL. -/
def R.TTA_SNAP_SEL : RegRow := ⟨.tta, 0x140018, 8, 1,
  [⟨20,3,.rw,0⟩]⟩
def R.TTA_SNAP_SEL_OFFSET : Fld := ⟨.tta, 0x140018, 20, 3, 8⟩
/-- TDU_SNAP_SEL. -/
def R.TDU_SNAP_SEL : RegRow := ⟨.tdu, 0x9018, 8, 1,
  [⟨20,3,.rw,0⟩]⟩
def R.TDU_SNAP_SEL_OFFSET : Fld := ⟨.tdu, 0x9018, 20, 3, 8⟩
/-- TTA_SNAP_DATA. -/
def R.TTA_SNAP_DATA : RegRow := ⟨.tta, 0x140020, 8, 1,
  [⟨63,0,.rov,0⟩]⟩
def R.TTA_SNAP_DATA_DATA : Fld := ⟨.tta, 0x140020, 63, 0, 8⟩
/-- TDU_SNAP_DATA. -/
def R.TDU_SNAP_DATA : RegRow := ⟨.tdu, 0x9020, 8, 1,
  [⟨63,0,.rov,0⟩]⟩
def R.TDU_SNAP_DATA_DATA : Fld := ⟨.tdu, 0x9020, 63, 0, 8⟩
/-- TTA_SNAP_STAT. -/
def R.TTA_SNAP_STAT : RegRow := ⟨.tta, 0x140028, 8, 1,
  [⟨63,63,.rov,0⟩, ⟨62,62,.rov,0⟩, ⟨61,61,.rov,0⟩, ⟨60,60,.rov,0⟩, ⟨59,57,.rov,0⟩, ⟨47,32,.rw1c,0⟩, ⟨31,0,.rov,0⟩]⟩
def R.TTA_SNAP_STAT_BUSY : Fld := ⟨.tta, 0x140028, 63, 63, 8⟩
def R.TTA_SNAP_STAT_VALID : Fld := ⟨.tta, 0x140028, 62, 62, 8⟩
def R.TTA_SNAP_STAT_MISS : Fld := ⟨.tta, 0x140028, 61, 61, 8⟩
def R.TTA_SNAP_STAT_LATE : Fld := ⟨.tta, 0x140028, 60, 60, 8⟩
def R.TTA_SNAP_STAT_SOURCE : Fld := ⟨.tta, 0x140028, 59, 57, 8⟩
def R.TTA_SNAP_STAT_IGNORED : Fld := ⟨.tta, 0x140028, 47, 32, 8⟩
def R.TTA_SNAP_STAT_STAMP : Fld := ⟨.tta, 0x140028, 31, 0, 8⟩
/-- TDU_SNAP_STAT. -/
def R.TDU_SNAP_STAT : RegRow := ⟨.tdu, 0x9028, 8, 1,
  [⟨63,63,.rov,0⟩, ⟨62,62,.rov,0⟩, ⟨61,61,.rov,0⟩, ⟨60,60,.rov,0⟩, ⟨59,57,.rov,0⟩, ⟨47,32,.rw1c,0⟩, ⟨31,0,.rov,0⟩]⟩
def R.TDU_SNAP_STAT_BUSY : Fld := ⟨.tdu, 0x9028, 63, 63, 8⟩
def R.TDU_SNAP_STAT_VALID : Fld := ⟨.tdu, 0x9028, 62, 62, 8⟩
def R.TDU_SNAP_STAT_MISS : Fld := ⟨.tdu, 0x9028, 61, 61, 8⟩
def R.TDU_SNAP_STAT_LATE : Fld := ⟨.tdu, 0x9028, 60, 60, 8⟩
def R.TDU_SNAP_STAT_SOURCE : Fld := ⟨.tdu, 0x9028, 59, 57, 8⟩
def R.TDU_SNAP_STAT_IGNORED : Fld := ⟨.tdu, 0x9028, 47, 32, 8⟩
def R.TDU_SNAP_STAT_STAMP : Fld := ⟨.tdu, 0x9028, 31, 0, 8⟩
/-- TTA_VF_SNAP_SEL. -/
def R.TTA_VF_SNAP_SEL : RegRow := ⟨.vf, 0x4000, 8, 1,
  [⟨31,16,.rw,0⟩, ⟨13,0,.rw,0⟩]⟩
def R.TTA_VF_SNAP_SEL_GRAPH_ID : Fld := ⟨.vf, 0x4000, 31, 16, 8⟩
def R.TTA_VF_SNAP_SEL_LTILE : Fld := ⟨.vf, 0x4000, 13, 0, 8⟩
/-- TTA_VF_SNAP_DATA, entries 0 to 7. -/
def R.TTA_VF_SNAP_DATA : RegRow := ⟨.vf, 0x4008, 8, 8,
  [⟨63,0,.rov,0⟩]⟩
def R.TTA_VF_SNAP_DATA_DATA : Fld := ⟨.vf, 0x4008, 63, 0, 8⟩
/-- TTA_VF_SNAP_STAT. -/
def R.TTA_VF_SNAP_STAT : RegRow := ⟨.vf, 0x4048, 8, 1,
  [⟨63,32,.rov,0⟩, ⟨1,0,.rov,0⟩]⟩
def R.TTA_VF_SNAP_STAT_STAMP : Fld := ⟨.vf, 0x4048, 63, 32, 8⟩
def R.TTA_VF_SNAP_STAT_STATE : Fld := ⟨.vf, 0x4048, 1, 0, 8⟩
/-- TTA_RST_CAUSE. -/
def R.TTA_RST_CAUSE : RegRow := ⟨.tta, 0x10000, 8, 1,
  [⟨39,32,.rws,0⟩, ⟨25,16,.rw1c,0⟩, ⟨11,8,.rov,0⟩, ⟨2,0,.rov,0⟩]⟩
def R.TTA_RST_CAUSE_WARM_COUNT : Fld := ⟨.tta, 0x10000, 39, 32, 8⟩
def R.TTA_RST_CAUSE_SEEN : Fld := ⟨.tta, 0x10000, 25, 16, 8⟩
def R.TTA_RST_CAUSE_LAST_SRC : Fld := ⟨.tta, 0x10000, 11, 8, 8⟩
def R.TTA_RST_CAUSE_LAST_LEVEL : Fld := ⟨.tta, 0x10000, 2, 0, 8⟩
/-- TDU_RST_CAUSE. -/
def R.TDU_RST_CAUSE : RegRow := ⟨.tdu, 0x400, 8, 1,
  [⟨39,32,.rws,0⟩, ⟨25,16,.rw1c,0⟩, ⟨11,8,.rov,0⟩, ⟨2,0,.rov,0⟩]⟩
def R.TDU_RST_CAUSE_WARM_COUNT : Fld := ⟨.tdu, 0x400, 39, 32, 8⟩
def R.TDU_RST_CAUSE_SEEN : Fld := ⟨.tdu, 0x400, 25, 16, 8⟩
def R.TDU_RST_CAUSE_LAST_SRC : Fld := ⟨.tdu, 0x400, 11, 8, 8⟩
def R.TDU_RST_CAUSE_LAST_LEVEL : Fld := ⟨.tdu, 0x400, 2, 0, 8⟩
/-- TTA_RST_CTL. -/
def R.TTA_RST_CTL : RegRow := ⟨.tta, 0x10008, 8, 1,
  [⟨31,16,.wo,0⟩, ⟨8,8,.wo,0⟩, ⟨2,0,.wo,0⟩]⟩
def R.TTA_RST_CTL_KEY : Fld := ⟨.tta, 0x10008, 31, 16, 8⟩
def R.TTA_RST_CTL_REQ : Fld := ⟨.tta, 0x10008, 8, 8, 8⟩
def R.TTA_RST_CTL_LEVEL : Fld := ⟨.tta, 0x10008, 2, 0, 8⟩
/-- TTA_RST_LEVEL. -/
def R.TTA_RST_LEVEL : RegRow := ⟨.tta, 0x10030, 8, 1,
  [⟨29,0,.ro,0⟩]⟩
def R.TTA_RST_LEVEL_LEVELS : Fld := ⟨.tta, 0x10030, 29, 0, 8⟩
/-- TDU_RST_LEVEL. -/
def R.TDU_RST_LEVEL : RegRow := ⟨.tdu, 0x410, 8, 1,
  [⟨29,0,.ro,0⟩]⟩
def R.TDU_RST_LEVEL_LEVELS : Fld := ⟨.tdu, 0x410, 29, 0, 8⟩
/-- TTA_BOOT_STAT. -/
def R.TTA_BOOT_STAT : RegRow := ⟨.tta, 0x10010, 8, 1,
  [⟨47,32,.rov,0x12C⟩, ⟨11,8,.rov,0⟩, ⟨4,4,.rov,0⟩, ⟨3,3,.rov,0⟩, ⟨2,2,.rov,0⟩, ⟨1,0,.rov,0⟩]⟩
def R.TTA_BOOT_STAT_TIMER_S : Fld := ⟨.tta, 0x10010, 47, 32, 8⟩
def R.TTA_BOOT_STAT_ORDER : Fld := ⟨.tta, 0x10010, 11, 8, 8⟩
def R.TTA_BOOT_STAT_BOOTED : Fld := ⟨.tta, 0x10010, 4, 4, 8⟩
def R.TTA_BOOT_STAT_CAL_BAD : Fld := ⟨.tta, 0x10010, 3, 3, 8⟩
def R.TTA_BOOT_STAT_RECOVERY : Fld := ⟨.tta, 0x10010, 2, 2, 8⟩
def R.TTA_BOOT_STAT_FAILS : Fld := ⟨.tta, 0x10010, 1, 0, 8⟩
/-- TTA_BOOT_CTL. -/
def R.TTA_BOOT_CTL : RegRow := ⟨.tta, 0x10018, 8, 1,
  [⟨31,16,.wo,0⟩, ⟨2,2,.wo,0⟩, ⟨1,1,.rw,0⟩, ⟨0,0,.wo,0⟩]⟩
def R.TTA_BOOT_CTL_KEY : Fld := ⟨.tta, 0x10018, 31, 16, 8⟩
def R.TTA_BOOT_CTL_ROLL_FWD : Fld := ⟨.tta, 0x10018, 2, 2, 8⟩
def R.TTA_BOOT_CTL_TRAY_GO : Fld := ⟨.tta, 0x10018, 1, 1, 8⟩
def R.TTA_BOOT_CTL_BOOT_OK : Fld := ⟨.tta, 0x10018, 0, 0, 8⟩
/-- TTA_FW_VER. -/
def R.TTA_FW_VER : RegRow := ⟨.tta, 0x10020, 8, 1,
  [⟨63,56,.rov,0⟩, ⟨55,48,.rov,0⟩, ⟨31,0,.rov,0⟩]⟩
def R.TTA_FW_VER_SEC_FUSE : Fld := ⟨.tta, 0x10020, 63, 56, 8⟩
def R.TTA_FW_VER_SEC_VERSION : Fld := ⟨.tta, 0x10020, 55, 48, 8⟩
def R.TTA_FW_VER_FW_VERSION : Fld := ⟨.tta, 0x10020, 31, 0, 8⟩
/-- TTA_FUSE_STAT. -/
def R.TTA_FUSE_STAT : RegRow := ⟨.tta, 0x10028, 8, 1,
  [⟨31,16,.rov,0⟩, ⟨15,8,.rov,0⟩, ⟨1,1,.rov,0⟩, ⟨0,0,.rov,0⟩]⟩
def R.TTA_FUSE_STAT_RETRIES : Fld := ⟨.tta, 0x10028, 31, 16, 8⟩
def R.TTA_FUSE_STAT_RESTARTS : Fld := ⟨.tta, 0x10028, 15, 8, 8⟩
def R.TTA_FUSE_STAT_FAIL : Fld := ⟨.tta, 0x10028, 1, 1, 8⟩
def R.TTA_FUSE_STAT_DONE : Fld := ⟨.tta, 0x10028, 0, 0, 8⟩
/-- TDU_FUSE_STAT. -/
def R.TDU_FUSE_STAT : RegRow := ⟨.tdu, 0x408, 8, 1,
  [⟨31,16,.rov,0⟩, ⟨15,8,.rov,0⟩, ⟨1,1,.rov,0⟩, ⟨0,0,.rov,0⟩]⟩
def R.TDU_FUSE_STAT_RETRIES : Fld := ⟨.tdu, 0x408, 31, 16, 8⟩
def R.TDU_FUSE_STAT_RESTARTS : Fld := ⟨.tdu, 0x408, 15, 8, 8⟩
def R.TDU_FUSE_STAT_FAIL : Fld := ⟨.tdu, 0x408, 1, 1, 8⟩
def R.TDU_FUSE_STAT_DONE : Fld := ⟨.tdu, 0x408, 0, 0, 8⟩
/-- TTA_CAL_CTL. -/
def R.TTA_CAL_CTL : RegRow := ⟨.tta, 0x10040, 8, 1,
  [⟨31,16,.wo,0⟩, ⟨0,0,.wo,0⟩]⟩
def R.TTA_CAL_CTL_KEY : Fld := ⟨.tta, 0x10040, 31, 16, 8⟩
def R.TTA_CAL_CTL_PROGRAM : Fld := ⟨.tta, 0x10040, 0, 0, 8⟩
/-- TTA_CAL_STAT. -/
def R.TTA_CAL_STAT : RegRow := ⟨.tta, 0x10048, 8, 1,
  [⟨63,63,.rov,0⟩, ⟨62,62,.rov,0⟩, ⟨6,0,.rov,0⟩]⟩
def R.TTA_CAL_STAT_BUSY : Fld := ⟨.tta, 0x10048, 63, 63, 8⟩
def R.TTA_CAL_STAT_WORN : Fld := ⟨.tta, 0x10048, 62, 62, 8⟩
def R.TTA_CAL_STAT_PROGRAMS : Fld := ⟨.tta, 0x10048, 6, 0, 8⟩
/-- TTA_CAL_DATA, entries 0 to 255. -/
def R.TTA_CAL_DATA : RegRow := ⟨.tta, 0x11000, 8, 256,
  [⟨63,0,.rw,0⟩]⟩
def R.TTA_CAL_DATA_DATA : Fld := ⟨.tta, 0x11000, 63, 0, 8⟩
/-- TDU_PWR_STAT. -/
def R.TDU_PWR_STAT : RegRow := ⟨.tdu, 0x810, 8, 1,
  [⟨31,16,.rw1c,0⟩, ⟨15,8,.rw1c,0⟩, ⟨7,7,.rov,0⟩, ⟨6,6,.rov,0⟩, ⟨5,3,.rov,0⟩, ⟨1,0,.rov,0⟩]⟩
def R.TDU_PWR_STAT_D2_ENTRIES : Fld := ⟨.tdu, 0x810, 31, 16, 8⟩
def R.TDU_PWR_STAT_RACES : Fld := ⟨.tdu, 0x810, 15, 8, 8⟩
def R.TDU_PWR_STAT_WOKE : Fld := ⟨.tdu, 0x810, 7, 7, 8⟩
def R.TDU_PWR_STAT_IN_TRANS : Fld := ⟨.tdu, 0x810, 6, 6, 8⟩
def R.TDU_PWR_STAT_WAKE_SRC : Fld := ⟨.tdu, 0x810, 5, 3, 8⟩
def R.TDU_PWR_STAT_STATE : Fld := ⟨.tdu, 0x810, 1, 0, 8⟩
/-- TTA_PWR_CTL. -/
def R.TTA_PWR_CTL : RegRow := ⟨.tta, 0x20000, 8, 1,
  [⟨8,8,.wo,0⟩, ⟨1,0,.wo,0⟩]⟩
def R.TTA_PWR_CTL_GO : Fld := ⟨.tta, 0x20000, 8, 8, 8⟩
def R.TTA_PWR_CTL_TARGET : Fld := ⟨.tta, 0x20000, 1, 0, 8⟩
/-- TTA_PWR_STAT. -/
def R.TTA_PWR_STAT : RegRow := ⟨.tta, 0x20008, 8, 1,
  [⟨63,62,.rov,0⟩, ⟨61,61,.rov,0⟩, ⟨55,48,.rov,0⟩, ⟨47,40,.rov,0⟩, ⟨32,16,.rov,0⟩, ⟨15,0,.rw1c,0⟩]⟩
def R.TTA_PWR_STAT_STATE : Fld := ⟨.tta, 0x20008, 63, 62, 8⟩
def R.TTA_PWR_STAT_IN_TRANS : Fld := ⟨.tta, 0x20008, 61, 61, 8⟩
def R.TTA_PWR_STAT_WAKE_SRC : Fld := ⟨.tta, 0x20008, 55, 48, 8⟩
def R.TTA_PWR_STAT_LAST_REQ : Fld := ⟨.tta, 0x20008, 47, 40, 8⟩
def R.TTA_PWR_STAT_SLEEPING : Fld := ⟨.tta, 0x20008, 32, 16, 8⟩
def R.TTA_PWR_STAT_BAD_WAKE : Fld := ⟨.tta, 0x20008, 15, 0, 8⟩
/-- TTA_PWR_WAKE. -/
def R.TTA_PWR_WAKE : RegRow := ⟨.tta, 0x20010, 8, 1,
  [⟨16,0,.wo,0⟩]⟩
def R.TTA_PWR_WAKE_PORT : Fld := ⟨.tta, 0x20010, 16, 0, 8⟩
/-- TTA_PWR_SEQ. -/
def R.TTA_PWR_SEQ : RegRow := ⟨.tta, 0x20040, 8, 1,
  [⟨63,0,.rws,0⟩]⟩
def R.TTA_PWR_SEQ_SEQ : Fld := ⟨.tta, 0x20040, 63, 0, 8⟩
/-- TTA_PWR_CLK. -/
def R.TTA_PWR_CLK : RegRow := ⟨.tta, 0x20018, 8, 1,
  [⟨1,1,.rov,0⟩, ⟨0,0,.rw,0⟩]⟩
def R.TTA_PWR_CLK_ON_PLL : Fld := ⟨.tta, 0x20018, 1, 1, 8⟩
def R.TTA_PWR_CLK_LODGE_PLL : Fld := ⟨.tta, 0x20018, 0, 0, 8⟩
/-- TTA_AVS_CTL. -/
def R.TTA_AVS_CTL : RegRow := ⟨.tta, 0x20020, 8, 1,
  [⟨41,32,.rw,0x2EE⟩, ⟨21,12,.rov,0⟩, ⟨0,0,.wo,0⟩]⟩
def R.TTA_AVS_CTL_TARGET_MV : Fld := ⟨.tta, 0x20020, 41, 32, 8⟩
def R.TTA_AVS_CTL_BOUNDARY_MV : Fld := ⟨.tta, 0x20020, 21, 12, 8⟩
def R.TTA_AVS_CTL_AVS_CLR : Fld := ⟨.tta, 0x20020, 0, 0, 8⟩
/-- TTA_AVS_STAT. -/
def R.TTA_AVS_STAT : RegRow := ⟨.tta, 0x20028, 8, 1,
  [⟨63,63,.rov,0⟩, ⟨62,62,.rov,0⟩, ⟨41,32,.rov,0⟩, ⟨31,16,.rw1c,0⟩, ⟨15,0,.rw1c,0⟩]⟩
def R.TTA_AVS_STAT_AVS_FAIL : Fld := ⟨.tta, 0x20028, 63, 63, 8⟩
def R.TTA_AVS_STAT_PENDING : Fld := ⟨.tta, 0x20028, 62, 62, 8⟩
def R.TTA_AVS_STAT_RAIL_MV : Fld := ⟨.tta, 0x20028, 41, 32, 8⟩
def R.TTA_AVS_STAT_TIMEOUTS : Fld := ⟨.tta, 0x20028, 31, 16, 8⟩
def R.TTA_AVS_STAT_BUSY_ACKS : Fld := ⟨.tta, 0x20028, 15, 0, 8⟩
/-- TTA_THROT_CFG. -/
def R.TTA_THROT_CFG : RegRow := ⟨.tta, 0x20030, 8, 1,
  [⟨41,32,.rw,0x226⟩, ⟨23,16,.rw,5⟩, ⟨15,8,.rw,0x5F⟩]⟩
def R.TTA_THROT_CFG_FLOOR_MV : Fld := ⟨.tta, 0x20030, 41, 32, 8⟩
def R.TTA_THROT_CFG_HYST_C : Fld := ⟨.tta, 0x20030, 23, 16, 8⟩
def R.TTA_THROT_CFG_HOT_C : Fld := ⟨.tta, 0x20030, 15, 8, 8⟩
/-- TTA_GOV_STAT. -/
def R.TTA_GOV_STAT : RegRow := ⟨.tta, 0x20038, 8, 1,
  [⟨63,32,.rw1c,0⟩]⟩
def R.TTA_GOV_STAT_DELAY_US : Fld := ⟨.tta, 0x20038, 63, 32, 8⟩
/-- TTA_IDENT. -/
def R.TTA_IDENT : RegRow := ⟨.tta, 0, 8, 1,
  [⟨63,48,.ro,0x7A54⟩, ⟨47,40,.ro,0xB0⟩, ⟨31,16,.ro,0⟩]⟩
def R.TTA_IDENT_PART : Fld := ⟨.tta, 0, 63, 48, 8⟩
def R.TTA_IDENT_REV : Fld := ⟨.tta, 0, 47, 40, 8⟩
def R.TTA_IDENT_VARIANT : Fld := ⟨.tta, 0, 31, 16, 8⟩
/-- TTA_SERIAL. -/
def R.TTA_SERIAL : RegRow := ⟨.tta, 8, 8, 1,
  [⟨63,0,.ro,0⟩]⟩
def R.TTA_SERIAL_SERIAL : Fld := ⟨.tta, 8, 63, 0, 8⟩
/-- TTA_POS. -/
def R.TTA_POS : RegRow := ⟨.tta, 0x10, 8, 1,
  [⟨63,63,.rov,0⟩, ⟨15,15,.wo,0⟩, ⟨13,6,.rws,0⟩, ⟨5,1,.rws,0⟩, ⟨0,0,.ro,0⟩]⟩
def R.TTA_POS_LOCKED : Fld := ⟨.tta, 0x10, 63, 63, 8⟩
def R.TTA_POS_COMMIT : Fld := ⟨.tta, 0x10, 15, 15, 8⟩
def R.TTA_POS_POD : Fld := ⟨.tta, 0x10, 13, 6, 8⟩
def R.TTA_POS_TRAY : Fld := ⟨.tta, 0x10, 5, 1, 8⟩
def R.TTA_POS_TWIN : Fld := ⟨.tta, 0x10, 0, 0, 8⟩
/-- TTA_COMPAT. -/
def R.TTA_COMPAT : RegRow := ⟨.tta, 0x20, 8, 1,
  [⟨2,2,.rw,0⟩, ⟨1,1,.rw,0⟩, ⟨0,0,.rw,0⟩]⟩
def R.TTA_COMPAT_WAKE_SHORT : Fld := ⟨.tta, 0x20, 2, 2, 8⟩
def R.TTA_COMPAT_NO_ANCHOR : Fld := ⟨.tta, 0x20, 1, 1, 8⟩
def R.TTA_COMPAT_TREE_NAN : Fld := ⟨.tta, 0x20, 0, 0, 8⟩
/-- TTA_CAPS. -/
def R.TTA_CAPS : RegRow := ⟨.tta, 0x28, 8, 1,
  [⟨63,56,.rov,0⟩, ⟨55,48,.rov,0⟩, ⟨47,40,.rov,0⟩]⟩
def R.TTA_CAPS_LINK_VER : Fld := ⟨.tta, 0x28, 63, 56, 8⟩
def R.TTA_CAPS_TWIN_VER : Fld := ⟨.tta, 0x28, 55, 48, 8⟩
def R.TTA_CAPS_WRN_VER : Fld := ⟨.tta, 0x28, 47, 40, 8⟩
/-- TTA_REG_ERR. -/
def R.TTA_REG_ERR : RegRow := ⟨.tta, 0x30, 8, 1,
  [⟨63,48,.rw1c,0⟩, ⟨47,32,.rw1c,0⟩, ⟨31,0,.rw1c,0⟩]⟩
def R.TTA_REG_ERR_LOCKED : Fld := ⟨.tta, 0x30, 63, 48, 8⟩
def R.TTA_REG_ERR_PF_DENIED : Fld := ⟨.tta, 0x30, 47, 32, 8⟩
def R.TTA_REG_ERR_ABSENT : Fld := ⟨.tta, 0x30, 31, 0, 8⟩
/-- TDU_IDENT. -/
def R.TDU_IDENT : RegRow := ⟨.tdu, 0, 8, 1,
  [⟨63,48,.ro,0x7D54⟩, ⟨47,40,.ro,0xB0⟩]⟩
def R.TDU_IDENT_PART : Fld := ⟨.tdu, 0, 63, 48, 8⟩
def R.TDU_IDENT_REV : Fld := ⟨.tdu, 0, 47, 40, 8⟩
/-- TDU_COMPAT. -/
def R.TDU_COMPAT : RegRow := ⟨.tdu, 8, 8, 1,
  [⟨2,2,.rov,0⟩, ⟨1,1,.rov,0⟩, ⟨0,0,.rov,0⟩]⟩
def R.TDU_COMPAT_WAKE_SHORT : Fld := ⟨.tdu, 8, 2, 2, 8⟩
def R.TDU_COMPAT_NO_ANCHOR : Fld := ⟨.tdu, 8, 1, 1, 8⟩
def R.TDU_COMPAT_TREE_NAN : Fld := ⟨.tdu, 8, 0, 0, 8⟩
/-- TDU_DIE. -/
def R.TDU_DIE : RegRow := ⟨.tdu, 0x10, 8, 1,
  [⟨63,63,.rov,0⟩, ⟨3,0,.rov,0⟩]⟩
def R.TDU_DIE_VALID : Fld := ⟨.tdu, 0x10, 63, 63, 8⟩
def R.TDU_DIE_DIE : Fld := ⟨.tdu, 0x10, 3, 0, 8⟩
/-- TDU_REG_ERR. -/
def R.TDU_REG_ERR : RegRow := ⟨.tdu, 0x18, 8, 1,
  [⟨31,0,.rw1c,0⟩]⟩
def R.TDU_REG_ERR_ABSENT : Fld := ⟨.tdu, 0x18, 31, 0, 8⟩
/-- TTA_VF_SYNC_SEL. -/
def R.TTA_VF_SYNC_SEL : RegRow := ⟨.vf, 0x3000, 8, 1,
  [⟨15,0,.rw,0⟩]⟩
def R.TTA_VF_SYNC_SEL_OBJ : Fld := ⟨.vf, 0x3000, 15, 0, 8⟩
/-- TTA_VF_SYNC. -/
def R.TTA_VF_SYNC : RegRow := ⟨.vf, 0x3008, 8, 1,
  [⟨63,0,.rov,0⟩]⟩
def R.TTA_VF_SYNC_OBJECT : Fld := ⟨.vf, 0x3008, 63, 0, 8⟩
/-- TTA_TIME_OFS_NS, entries 0 to 1. -/
def R.TTA_TIME_OFS_NS : RegRow := ⟨.tta, 0x30100, 0x80, 2,
  [⟨63,0,.rov,0⟩]⟩
def R.TTA_TIME_OFS_NS_NS : Fld := ⟨.tta, 0x30100, 63, 0, 0x80⟩
/-- TTA_TIME_OFS_FRAC, entries 0 to 1. -/
def R.TTA_TIME_OFS_FRAC : RegRow := ⟨.tta, 0x30108, 0x80, 2,
  [⟨31,0,.rov,0⟩]⟩
def R.TTA_TIME_OFS_FRAC_FRAC : Fld := ⟨.tta, 0x30108, 31, 0, 0x80⟩
/-- TTA_TIME_BASE, entries 0 to 1. -/
def R.TTA_TIME_BASE : RegRow := ⟨.tta, 0x30110, 0x80, 2,
  [⟨63,0,.rov,0⟩]⟩
def R.TTA_TIME_BASE_BASE : Fld := ⟨.tta, 0x30110, 63, 0, 0x80⟩
/-- TTA_TIME_RATE, entries 0 to 1. -/
def R.TTA_TIME_RATE : RegRow := ⟨.tta, 0x30118, 0x80, 2,
  [⟨31,0,.rw,0⟩]⟩
def R.TTA_TIME_RATE_RATE : Fld := ⟨.tta, 0x30118, 31, 0, 0x80⟩
/-- TTA_TIME_SET_NS, entries 0 to 1. -/
def R.TTA_TIME_SET_NS : RegRow := ⟨.tta, 0x30120, 0x80, 2,
  [⟨63,0,.wo,0⟩]⟩
def R.TTA_TIME_SET_NS_NS : Fld := ⟨.tta, 0x30120, 63, 0, 0x80⟩
/-- TTA_TIME_SET_FRAC, entries 0 to 1. -/
def R.TTA_TIME_SET_FRAC : RegRow := ⟨.tta, 0x30128, 0x80, 2,
  [⟨31,0,.wo,0⟩]⟩
def R.TTA_TIME_SET_FRAC_FRAC : Fld := ⟨.tta, 0x30128, 31, 0, 0x80⟩
/-- TTA_TIME_STEP, entries 0 to 1. -/
def R.TTA_TIME_STEP : RegRow := ⟨.tta, 0x30130, 0x80, 2,
  [⟨63,0,.wo,0⟩]⟩
def R.TTA_TIME_STEP_NS : Fld := ⟨.tta, 0x30130, 63, 0, 0x80⟩
/-- TTA_TIME_FREQ, entries 0 to 1. -/
def R.TTA_TIME_FREQ : RegRow := ⟨.tta, 0x30140, 0x80, 2,
  [⟨63,63,.rov,0⟩, ⟨31,0,.rov,0⟩]⟩
def R.TTA_TIME_FREQ_VALID : Fld := ⟨.tta, 0x30140, 63, 63, 0x80⟩
def R.TTA_TIME_FREQ_FREQ : Fld := ⟨.tta, 0x30140, 31, 0, 0x80⟩
/-- TDU_TIME_NOW_NS. -/
def R.TDU_TIME_NOW_NS : RegRow := ⟨.tdu, 0x3008, 8, 1,
  [⟨63,0,.rov,0⟩]⟩
def R.TDU_TIME_NOW_NS_NS : Fld := ⟨.tdu, 0x3008, 63, 0, 8⟩
/-- TDU_TIME_TICK. -/
def R.TDU_TIME_TICK : RegRow := ⟨.tdu, 0x3010, 8, 1,
  [⟨63,0,.rov,0⟩]⟩
def R.TDU_TIME_TICK_TICK : Fld := ⟨.tdu, 0x3010, 63, 0, 8⟩
/-- TTA_EGR_BUCKET2. -/
def R.TTA_EGR_BUCKET2 : RegRow := ⟨.tta, 0x5E010, 8, 1,
  [⟨35,16,.rw,0x4000⟩, ⟨15,0,.rw,0x3E8⟩]⟩
def R.TTA_EGR_BUCKET2_BURST : Fld := ⟨.tta, 0x5E010, 35, 16, 8⟩
def R.TTA_EGR_BUCKET2_RATE : Fld := ⟨.tta, 0x5E010, 15, 0, 8⟩
/-- TTA_EGR_BUCKET3. -/
def R.TTA_EGR_BUCKET3 : RegRow := ⟨.tta, 0x5E018, 8, 1,
  [⟨35,16,.rw,0x10000⟩, ⟨15,0,.rw,0x7D0⟩]⟩
def R.TTA_EGR_BUCKET3_BURST : Fld := ⟨.tta, 0x5E018, 35, 16, 8⟩
def R.TTA_EGR_BUCKET3_RATE : Fld := ⟨.tta, 0x5E018, 15, 0, 8⟩
/-- TDU_EGR_BUCKET2. -/
def R.TDU_EGR_BUCKET2 : RegRow := ⟨.tdu, 0x1220, 8, 1,
  [⟨35,16,.rw,0x4000⟩, ⟨15,0,.rw,0x3E8⟩]⟩
def R.TDU_EGR_BUCKET2_BURST : Fld := ⟨.tdu, 0x1220, 35, 16, 8⟩
def R.TDU_EGR_BUCKET2_RATE : Fld := ⟨.tdu, 0x1220, 15, 0, 8⟩
/-- TDU_EGR_BUCKET3. -/
def R.TDU_EGR_BUCKET3 : RegRow := ⟨.tdu, 0x1228, 8, 1,
  [⟨35,16,.rw,0x10000⟩, ⟨15,0,.rw,0x7D0⟩]⟩
def R.TDU_EGR_BUCKET3_BURST : Fld := ⟨.tdu, 0x1228, 35, 16, 8⟩
def R.TDU_EGR_BUCKET3_RATE : Fld := ⟨.tdu, 0x1228, 15, 0, 8⟩
/-- VF_Q_BASE, entries 0 to 6. -/
def R.VF_Q_BASE : RegRow := ⟨.vf, 0x1000, 0x40, 7,
  [⟨63,12,.rw,0⟩]⟩
def R.VF_Q_BASE_ADDR : Fld := ⟨.vf, 0x1000, 63, 12, 0x40⟩
/-- VF_Q_CFG, entries 0 to 6. -/
def R.VF_Q_CFG : RegRow := ⟨.vf, 0x1008, 0x40, 7,
  [⟨63,63,.rw,0⟩, ⟨62,62,.rov,0⟩, ⟨61,61,.rov,1⟩, ⟨55,32,.rw,0⟩, ⟨20,16,.rw,6⟩, ⟨5,0,.rw,0⟩]⟩
def R.VF_Q_CFG_ENABLE : Fld := ⟨.vf, 0x1008, 63, 63, 0x40⟩
def R.VF_Q_CFG_ERROR : Fld := ⟨.vf, 0x1008, 62, 62, 0x40⟩
def R.VF_Q_CFG_IDLE : Fld := ⟨.vf, 0x1008, 61, 61, 0x40⟩
def R.VF_Q_CFG_BUF_BYTES : Fld := ⟨.vf, 0x1008, 55, 32, 0x40⟩
def R.VF_Q_CFG_SIZE_LOG2 : Fld := ⟨.vf, 0x1008, 20, 16, 0x40⟩
def R.VF_Q_CFG_VECTOR : Fld := ⟨.vf, 0x1008, 5, 0, 0x40⟩
/-- VF_Q_IDX, entries 0 to 6. -/
def R.VF_Q_IDX : RegRow := ⟨.vf, 0x1010, 0x40, 7,
  [⟨47,32,.rov,0⟩, ⟨31,16,.rov,0⟩, ⟨15,0,.rov,0⟩]⟩
def R.VF_Q_IDX_FAULT_IDX : Fld := ⟨.vf, 0x1010, 47, 32, 0x40⟩
def R.VF_Q_IDX_CI : Fld := ⟨.vf, 0x1010, 31, 16, 0x40⟩
def R.VF_Q_IDX_PI : Fld := ⟨.vf, 0x1010, 15, 0, 0x40⟩
/-- VF_Q_STAT, entries 0 to 6. -/
def R.VF_Q_STAT : RegRow := ⟨.vf, 0x1018, 0x40, 7,
  [⟨63,32,.rw1c,0⟩, ⟨31,16,.rw1c,0⟩]⟩
def R.VF_Q_STAT_LOST : Fld := ⟨.vf, 0x1018, 63, 32, 0x40⟩
def R.VF_Q_STAT_BAD_DB : Fld := ⟨.vf, 0x1018, 31, 16, 0x40⟩
/-- VF_Q_DB, entries 0 to 6. -/
def R.VF_Q_DB : RegRow := ⟨.vf, 0x2000, 8, 7,
  [⟨15,0,.wo,0⟩]⟩
def R.VF_Q_DB_INDEX : Fld := ⟨.vf, 0x2000, 15, 0, 8⟩
/-- PF_Q_BASE, entries 0 to 63. -/
def R.PF_Q_BASE : RegRow := ⟨.tta, 0x161000, 0x40, 64,
  [⟨63,12,.rw,0⟩]⟩
def R.PF_Q_BASE_ADDR : Fld := ⟨.tta, 0x161000, 63, 12, 0x40⟩
/-- PF_Q_CFG, entries 0 to 63. -/
def R.PF_Q_CFG : RegRow := ⟨.tta, 0x161008, 0x40, 64,
  [⟨63,63,.rw,0⟩, ⟨62,62,.rov,0⟩, ⟨61,61,.rov,1⟩, ⟨55,32,.rw,0⟩, ⟨20,16,.rw,6⟩, ⟨5,0,.rw,0⟩]⟩
def R.PF_Q_CFG_ENABLE : Fld := ⟨.tta, 0x161008, 63, 63, 0x40⟩
def R.PF_Q_CFG_ERROR : Fld := ⟨.tta, 0x161008, 62, 62, 0x40⟩
def R.PF_Q_CFG_IDLE : Fld := ⟨.tta, 0x161008, 61, 61, 0x40⟩
def R.PF_Q_CFG_BUF_BYTES : Fld := ⟨.tta, 0x161008, 55, 32, 0x40⟩
def R.PF_Q_CFG_SIZE_LOG2 : Fld := ⟨.tta, 0x161008, 20, 16, 0x40⟩
def R.PF_Q_CFG_VECTOR : Fld := ⟨.tta, 0x161008, 5, 0, 0x40⟩
/-- PF_Q_IDX, entries 0 to 63. -/
def R.PF_Q_IDX : RegRow := ⟨.tta, 0x161010, 0x40, 64,
  [⟨47,32,.rov,0⟩, ⟨31,16,.rov,0⟩, ⟨15,0,.rov,0⟩]⟩
def R.PF_Q_IDX_FAULT_IDX : Fld := ⟨.tta, 0x161010, 47, 32, 0x40⟩
def R.PF_Q_IDX_CI : Fld := ⟨.tta, 0x161010, 31, 16, 0x40⟩
def R.PF_Q_IDX_PI : Fld := ⟨.tta, 0x161010, 15, 0, 0x40⟩
/-- PF_Q_STAT, entries 0 to 63. -/
def R.PF_Q_STAT : RegRow := ⟨.tta, 0x161018, 0x40, 64,
  [⟨63,32,.rw1c,0⟩, ⟨31,16,.rw1c,0⟩]⟩
def R.PF_Q_STAT_LOST : Fld := ⟨.tta, 0x161018, 63, 32, 0x40⟩
def R.PF_Q_STAT_BAD_DB : Fld := ⟨.tta, 0x161018, 31, 16, 0x40⟩
/-- PF_Q_DB, entries 0 to 63. -/
def R.PF_Q_DB : RegRow := ⟨.tta, 0x162000, 8, 64,
  [⟨15,0,.wo,0⟩]⟩
def R.PF_Q_DB_INDEX : Fld := ⟨.tta, 0x162000, 15, 0, 8⟩
/-- LODGE_Q_BASE, entries 0 to 6. -/
def R.LODGE_Q_BASE : RegRow := ⟨.tta, 0x163000, 0x40, 7,
  [⟨63,12,.rw,0⟩]⟩
def R.LODGE_Q_BASE_ADDR : Fld := ⟨.tta, 0x163000, 63, 12, 0x40⟩
/-- LODGE_Q_CFG, entries 0 to 6. -/
def R.LODGE_Q_CFG : RegRow := ⟨.tta, 0x163008, 0x40, 7,
  [⟨63,63,.rw,0⟩, ⟨62,62,.rov,0⟩, ⟨61,61,.rov,1⟩, ⟨55,32,.rw,0⟩, ⟨20,16,.rw,6⟩, ⟨5,0,.rw,0⟩]⟩
def R.LODGE_Q_CFG_ENABLE : Fld := ⟨.tta, 0x163008, 63, 63, 0x40⟩
def R.LODGE_Q_CFG_ERROR : Fld := ⟨.tta, 0x163008, 62, 62, 0x40⟩
def R.LODGE_Q_CFG_IDLE : Fld := ⟨.tta, 0x163008, 61, 61, 0x40⟩
def R.LODGE_Q_CFG_BUF_BYTES : Fld := ⟨.tta, 0x163008, 55, 32, 0x40⟩
def R.LODGE_Q_CFG_SIZE_LOG2 : Fld := ⟨.tta, 0x163008, 20, 16, 0x40⟩
def R.LODGE_Q_CFG_VECTOR : Fld := ⟨.tta, 0x163008, 5, 0, 0x40⟩
/-- LODGE_Q_IDX, entries 0 to 6. -/
def R.LODGE_Q_IDX : RegRow := ⟨.tta, 0x163010, 0x40, 7,
  [⟨47,32,.rov,0⟩, ⟨31,16,.rov,0⟩, ⟨15,0,.rov,0⟩]⟩
def R.LODGE_Q_IDX_FAULT_IDX : Fld := ⟨.tta, 0x163010, 47, 32, 0x40⟩
def R.LODGE_Q_IDX_CI : Fld := ⟨.tta, 0x163010, 31, 16, 0x40⟩
def R.LODGE_Q_IDX_PI : Fld := ⟨.tta, 0x163010, 15, 0, 0x40⟩
/-- LODGE_Q_STAT, entries 0 to 6. -/
def R.LODGE_Q_STAT : RegRow := ⟨.tta, 0x163018, 0x40, 7,
  [⟨63,32,.rw1c,0⟩, ⟨31,16,.rw1c,0⟩]⟩
def R.LODGE_Q_STAT_LOST : Fld := ⟨.tta, 0x163018, 63, 32, 0x40⟩
def R.LODGE_Q_STAT_BAD_DB : Fld := ⟨.tta, 0x163018, 31, 16, 0x40⟩
/-- LODGE_Q_DB, entries 0 to 6. -/
def R.LODGE_Q_DB : RegRow := ⟨.tta, 0x163800, 8, 7,
  [⟨15,0,.wo,0⟩]⟩
def R.LODGE_Q_DB_INDEX : Fld := ⟨.tta, 0x163800, 15, 0, 8⟩
/-- TDU_Q_BASE, entries 0 to 2. -/
def R.TDU_Q_BASE : RegRow := ⟨.tdu, 0xF000, 0x40, 3,
  [⟨63,12,.rw,0⟩]⟩
def R.TDU_Q_BASE_ADDR : Fld := ⟨.tdu, 0xF000, 63, 12, 0x40⟩
/-- TDU_Q_CFG, entries 0 to 2. -/
def R.TDU_Q_CFG : RegRow := ⟨.tdu, 0xF008, 0x40, 3,
  [⟨63,63,.rw,0⟩, ⟨62,62,.rov,0⟩, ⟨61,61,.rov,1⟩, ⟨55,32,.rw,0⟩, ⟨20,16,.rw,6⟩, ⟨5,0,.rw,0⟩]⟩
def R.TDU_Q_CFG_ENABLE : Fld := ⟨.tdu, 0xF008, 63, 63, 0x40⟩
def R.TDU_Q_CFG_ERROR : Fld := ⟨.tdu, 0xF008, 62, 62, 0x40⟩
def R.TDU_Q_CFG_IDLE : Fld := ⟨.tdu, 0xF008, 61, 61, 0x40⟩
def R.TDU_Q_CFG_BUF_BYTES : Fld := ⟨.tdu, 0xF008, 55, 32, 0x40⟩
def R.TDU_Q_CFG_SIZE_LOG2 : Fld := ⟨.tdu, 0xF008, 20, 16, 0x40⟩
def R.TDU_Q_CFG_VECTOR : Fld := ⟨.tdu, 0xF008, 5, 0, 0x40⟩
/-- TDU_Q_IDX, entries 0 to 2. -/
def R.TDU_Q_IDX : RegRow := ⟨.tdu, 0xF010, 0x40, 3,
  [⟨47,32,.rov,0⟩, ⟨31,16,.rov,0⟩, ⟨15,0,.rov,0⟩]⟩
def R.TDU_Q_IDX_FAULT_IDX : Fld := ⟨.tdu, 0xF010, 47, 32, 0x40⟩
def R.TDU_Q_IDX_CI : Fld := ⟨.tdu, 0xF010, 31, 16, 0x40⟩
def R.TDU_Q_IDX_PI : Fld := ⟨.tdu, 0xF010, 15, 0, 0x40⟩
/-- TDU_Q_STAT, entries 0 to 2. -/
def R.TDU_Q_STAT : RegRow := ⟨.tdu, 0xF018, 0x40, 3,
  [⟨63,32,.rw1c,0⟩, ⟨31,16,.rw1c,0⟩]⟩
def R.TDU_Q_STAT_LOST : Fld := ⟨.tdu, 0xF018, 63, 32, 0x40⟩
def R.TDU_Q_STAT_BAD_DB : Fld := ⟨.tdu, 0xF018, 31, 16, 0x40⟩
/-- TDU_Q_DB, entries 0 to 2. -/
def R.TDU_Q_DB : RegRow := ⟨.tdu, 0xF400, 8, 3,
  [⟨15,0,.wo,0⟩]⟩
def R.TDU_Q_DB_INDEX : Fld := ⟨.tdu, 0xF400, 15, 0, 8⟩
/-- TTA_CNT, entries 0 to 63. -/
def R.TTA_CNT : RegRow := ⟨.tta, 0x150000, 8, 64,
  [⟨63,0,.rov,0⟩]⟩
def R.TTA_CNT_VALUE : Fld := ⟨.tta, 0x150000, 63, 0, 8⟩
/-- PF_MSIX, entries 0 to 127. -/
def R.PF_MSIX : RegRow := ⟨.tta, 0x1F0000, 8, 128,
  [⟨63,0,.rw,0⟩]⟩
def R.PF_MSIX_WORD : Fld := ⟨.tta, 0x1F0000, 63, 0, 8⟩
/-- VF_MSIX, entries 0 to 15. -/
def R.VF_MSIX : RegRow := ⟨.vf, 0xE000, 8, 16,
  [⟨63,0,.rw,0⟩]⟩
def R.VF_MSIX_WORD : Fld := ⟨.vf, 0xE000, 63, 0, 8⟩
/-- PF_MSIX_PBA. -/
def R.PF_MSIX_PBA : RegRow := ⟨.tta, 0x1F8000, 8, 1,
  [⟨63,0,.rov,0⟩]⟩
def R.PF_MSIX_PBA_PENDING : Fld := ⟨.tta, 0x1F8000, 63, 0, 8⟩
/-- VF_MSIX_PBA. -/
def R.VF_MSIX_PBA : RegRow := ⟨.vf, 0xE800, 8, 1,
  [⟨7,0,.rov,0⟩]⟩
def R.VF_MSIX_PBA_PENDING : Fld := ⟨.vf, 0xE800, 7, 0, 8⟩

def R.pfRows0 : List RegRow := [
  R.TTA_ALT_ENTRY,
  R.TTA_SETT_PKEY,
  R.TTA_ISO_TAG_FAIL,
  R.TTA_COARSE_CTL,
  R.TTA_TIME_TICK,
  R.TTA_TIME_CTL,
  R.TTA_TIME_STAT,
  R.TTA_TIME_BRIDGE,
  R.TTA_TIME_NOW_NS,
  R.TTA_TIME_SWITCH,
  R.TTA_TIME_DOM_CTL,
  R.TTA_PTP_CFG,
  R.TTA_PPS_CFG,
  R.TTA_PPS_IN,
  R.TTA_TIME_LAT,
  R.TTA_TL_CTL,
  R.TTA_TWL_CTL,
  R.TTA_TL_ERR,
  R.TTA_TWL_ERR,
  R.TTA_TL_FWD,
  R.TTA_TWL_FWD,
  R.TTA_EGR_CFG,
  R.TTA_EGR_SLOT,
  R.TTA_EGR_SLOT_CTL,
  R.TTA_ARB_CTL,
  R.TTA_FAB_CLU,
  R.TTA_FAB_QUAD,
  R.TTA_FAB_CFG,
  R.TTA_MEM_CH,
  R.TTA_ING_DROP]
def R.pfRows1 : List RegRow := [
  R.TTA_WM_CFG,
  R.TTA_WM_CNT,
  R.TTA_TWIN_CFG,
  R.TTA_TWIN_STAT,
  R.TTA_TILE_SEL,
  R.TTA_TILE_ERR,
  R.TTA_TILE_ERR_SUM,
  R.TTA_SYNC,
  R.TTA_SCHED_STAT,
  R.TTA_SYNC_STAT,
  R.TTA_GRAPH,
  R.TTA_TAB_SUM,
  R.TTA_WRN_CFG,
  R.TTA_WRN_STAT,
  R.TTA_WRN_ERR,
  R.TTA_WRN_DUP,
  R.TTA_BST_JOB,
  R.TTA_DET_CFG,
  R.TTA_EXPEL_STAT,
  R.TTA_DIE_STATE,
  R.TTA_HINT_STAT,
  R.TTA_VERDICT_STAT,
  R.TTA_CHK_CFG,
  R.TTA_CHK_STAT,
  R.TTA_CHK_POISON,
  R.TTA_CHK_LOG,
  R.TTA_CHK_GATE,
  R.TTA_RPT_CFG,
  R.TTA_RPT_DEST_HI,
  R.TTA_RPT_DEST_LO]
def R.pfRows2 : List RegRow := [
  R.TTA_RPT_KEY,
  R.TTA_RPT_STAT,
  R.TTA_FN_STAT,
  R.TTA_TDU_MIRROR,
  R.TTA_CMP_RING_BASE,
  R.TTA_CMP_RING_CFG,
  R.TTA_CMP_DB,
  R.TTA_CMP_STAT,
  R.TTA_CMP_UNPACK,
  R.TTA_REC_CTL,
  R.TTA_REC_STAT,
  R.TTA_REC_SEL,
  R.TTA_REC_DATA,
  R.TTA_REC_PERM_MATCH,
  R.TTA_SNAP_CTL,
  R.TTA_SNAP_AT,
  R.TTA_SNAP_MATCH,
  R.TTA_SNAP_SEL,
  R.TTA_SNAP_DATA,
  R.TTA_SNAP_STAT,
  R.TTA_RST_CAUSE,
  R.TTA_RST_CTL,
  R.TTA_RST_LEVEL,
  R.TTA_BOOT_STAT,
  R.TTA_BOOT_CTL,
  R.TTA_FW_VER,
  R.TTA_FUSE_STAT,
  R.TTA_CAL_CTL,
  R.TTA_CAL_STAT,
  R.TTA_CAL_DATA]
def R.pfRows3 : List RegRow := [
  R.TTA_PWR_CTL,
  R.TTA_PWR_STAT,
  R.TTA_PWR_WAKE,
  R.TTA_PWR_SEQ,
  R.TTA_PWR_CLK,
  R.TTA_AVS_CTL,
  R.TTA_AVS_STAT,
  R.TTA_THROT_CFG,
  R.TTA_GOV_STAT,
  R.TTA_IDENT,
  R.TTA_SERIAL,
  R.TTA_POS,
  R.TTA_COMPAT,
  R.TTA_CAPS,
  R.TTA_REG_ERR,
  R.TTA_TIME_OFS_NS,
  R.TTA_TIME_OFS_FRAC,
  R.TTA_TIME_BASE,
  R.TTA_TIME_RATE,
  R.TTA_TIME_SET_NS,
  R.TTA_TIME_SET_FRAC,
  R.TTA_TIME_STEP,
  R.TTA_TIME_FREQ,
  R.TTA_EGR_BUCKET2,
  R.TTA_EGR_BUCKET3,
  R.PF_Q_BASE,
  R.PF_Q_CFG,
  R.PF_Q_IDX,
  R.PF_Q_STAT,
  R.PF_Q_DB]
def R.pfRows4 : List RegRow := [
  R.LODGE_Q_BASE,
  R.LODGE_Q_CFG,
  R.LODGE_Q_IDX,
  R.LODGE_Q_STAT,
  R.LODGE_Q_DB,
  R.TTA_CNT,
  R.PF_MSIX,
  R.PF_MSIX_PBA]
/-- Every register of this map. -/
def R.pfRows : List RegRow := R.pfRows0 ++ R.pfRows1 ++ R.pfRows2 ++ R.pfRows3 ++ R.pfRows4
def R.vfRows0 : List RegRow := [
  R.TTA_VF_ID,
  R.TTA_VF_SCALE,
  R.TTA_VF_SNAP_SEL,
  R.TTA_VF_SNAP_DATA,
  R.TTA_VF_SNAP_STAT,
  R.TTA_VF_SYNC_SEL,
  R.TTA_VF_SYNC,
  R.VF_Q_BASE,
  R.VF_Q_CFG,
  R.VF_Q_IDX,
  R.VF_Q_STAT,
  R.VF_Q_DB,
  R.VF_MSIX,
  R.VF_MSIX_PBA]
/-- Every register of this map. -/
def R.vfRows : List RegRow := R.vfRows0
def R.tduRows0 : List RegRow := [
  R.TDU_TAP_CFG,
  R.TDU_TAP_STAT,
  R.TDU_CHK_CLASS,
  R.TDU_CHK_STAT,
  R.TDU_AON_LDO,
  R.TDU_CNT_GROUP,
  R.TDU_ALLOT_MAP,
  R.TDU_CNT_STAT,
  R.TDU_AON_CNT,
  R.TDU_SPILL_BASE,
  R.TDU_SPILL_CFG,
  R.TDU_PS_CFG,
  R.TDU_PS_STAT,
  R.TDU_SMP_CFG,
  R.TDU_SMP_STAT,
  R.TDU_TRC_SLOT_CFG,
  R.TDU_TRC_SLOT_STAT,
  R.TDU_TRC_TRIG,
  R.TDU_TRC_STAT,
  R.TDU_TIME_STAT,
  R.TDU_TL_CTL,
  R.TDU_TL_ERR,
  R.TDU_EGR_CFG,
  R.TDU_EGR_STAT,
  R.TDU_CHK_K,
  R.TDU_CHK_TEST,
  R.TDU_CHK_USEL,
  R.TDU_CHK_UNIT,
  R.TDU_CHK_OUT,
  R.TDU_CHK_BIN]
def R.tduRows1 : List RegRow := [
  R.TDU_Q_NOTICE,
  R.TDU_Q_MIRROR,
  R.TDU_PACK_STAT,
  R.TDU_REC_CTL,
  R.TDU_REC_STAT,
  R.TDU_REC_SEL,
  R.TDU_REC_DATA,
  R.TDU_REC_PERM_MATCH,
  R.TDU_SNAP_CTL,
  R.TDU_SNAP_MATCH,
  R.TDU_SNAP_SEL,
  R.TDU_SNAP_DATA,
  R.TDU_SNAP_STAT,
  R.TDU_RST_CAUSE,
  R.TDU_RST_LEVEL,
  R.TDU_FUSE_STAT,
  R.TDU_PWR_STAT,
  R.TDU_IDENT,
  R.TDU_COMPAT,
  R.TDU_DIE,
  R.TDU_REG_ERR,
  R.TDU_TIME_NOW_NS,
  R.TDU_TIME_TICK,
  R.TDU_EGR_BUCKET2,
  R.TDU_EGR_BUCKET3,
  R.TDU_Q_BASE,
  R.TDU_Q_CFG,
  R.TDU_Q_IDX,
  R.TDU_Q_STAT,
  R.TDU_Q_DB]
/-- Every register of this map. -/
def R.tduRows : List RegRow := R.tduRows0 ++ R.tduRows1

end Sys2Proof.Machine
end

