-- ==== Sys2Proof/Machine/State.lean ====
section
/-! DEFINITION. The state of the block: one die unit (TDU), one aggregator (TTA), the queue of waiting commands, and the
model's own log of what leaves the parts. Every structure's default field values are the values at reset. The registers are in
the register files `Tdu.regs` and `Tta.regs`, sparse tables over the reset values of the spec's register tables. -/
namespace Sys2Proof.Machine

/-! ## Time (chapter "Time base and the two time domains") -/

/-- One time domain of a part (R140, R142). OFFSET is held in units of 2^-40 ns; `corrEnd` is the tick at which a TDU's
10 µs correction ends and the base rate comes back (R156). -/
structure Domain where
  ofs : Int := 0
  base : Nat := 0
  rate : Int := 0
  corrEnd : Option (Nat × Int) := none
  state : DomState := .unset
  holdFrom : Nat := 0
  /-- The rates of the last 16 intervals, newest first (R156). -/
  hist : List Int := []
  deriving DecidableEq, Repr

/-- A bridge term (R143, R144): its amount in units of 2^-40 ns when the domain in force showed `fromT`, and the slew rate
at which it has moved toward 0 since. -/
structure Bridge where
  amt : Int := 0
  fromT : Int := 0
  ppm : Nat := 50
  deriving DecidableEq, Repr

/-- A scheduled switch (R147): SW_AT in presented ns, the target, and whether it was decided automatically. -/
structure SwitchPlan where
  swAt : Nat
  target : Dom
  deriving DecidableEq, Repr

/-- The time base of a part: tick counter (R139), the two domains, the domain in force, the bridge. `own` is the TDU's own
bridge term (R156) and stays zero on a TTA. -/
structure TimeBase where
  tick : Nat := 0
  domA : Domain := {}
  domB : Domain := {}
  inForce : Dom := .a
  bridge : Bridge := {}
  own : Bridge := {}
  plan : Option SwitchPlan := none
  deriving DecidableEq, Repr

/-- Latency measurement of a TTA port (R154): t1 of the exchange under way, the last values of 2·L in ticks (newest first),
the exchanges of the present set, and the value measured at training. -/
structure EchoState where
  t1 : Option Nat := none
  last : List Int := []
  count : Nat := 0
  trained : Nat := 0
  deviated : Bool := false
  deriving DecidableEq, Repr

/-- The TTA's time state beside its registers. -/
structure TtaTime where
  base : TimeBase := {}
  echo : List (Nat × EchoState) := []
  seq : Nat := 0
  synceLostA : Bool := false
  synceLostB : Bool := false
  ppsSeen : Bool := false
  /-- TTA_COMPAT.NO_ANCHOR in force: follows the register at whole seconds (R496). -/
  noAnchor : Bool := false
  deriving DecidableEq, Repr

/-- The TDU's time state (R156 to R158). -/
structure TduTime where
  base : TimeBase := {}
  state : DomState := .unset
  usable : Nat := 0
  fromD2 : Bool := false
  leadLost : Bool := false
  srcPort : Fin 2 := 0
  deriving DecidableEq, Repr

/-! ## Recorder and snapshots (chapter "Event recorder and snapshots") -/

/-- A record accepted but not yet stored: the tick of its arrival and the record (R446). -/
structure QueuedRec where
  arrived : Nat
  evt : Rec
  /-- The chapter of the event says that it goes to the permanent area (R445). -/
  permAsked : Bool
  deriving DecidableEq, Repr

/-- The recorder of a part. Fill counts are in REC_STAT; `droppedSrc` holds the sources whose next stored record carries
LOST_BEFORE (R446). -/
structure Recorder where
  queue : List QueuedRec := []
  droppedSrc : List (BitVec 8) := []
  circ : Memory Rec := []
  perm : List Rec := []
  staging : List QueuedRec := []
  freezeDrops : Nat := 0
  firstDrop : BitVec 32 := 0
  deriving DecidableEq, Repr

/-- A snapshot that waits for its latch instant T (presented ns). -/
structure SnapPending where
  tNs : Nat
  source : Nat
  /-- The marker wave runs: the registers are latched and the tiles capture (R453). -/
  wave : Bool := false
  /-- Tiles captured, and TDUs that T was sent to. -/
  cut : List Nat := []
  tdus : Nat := 0
  deriving DecidableEq, Repr

/-! ## Links (chapter "Tray link, twin link and egress scheduling") -/

/-- One sequence space of a link direction (R175 to R179): transmit side, then receive side. -/
structure SpaceState where
  nextSeq : Nat := 0
  replay : List Frame := []
  /-- The SEQ of the next frame of `replay` to resend (R177). -/
  resendFrom : Option Nat := none
  credTaken : Nat := 0
  credFreedByPeer : Nat := 0
  credLimit : Nat := 0
  /-- The SEQ last replayed and how often in a row. -/
  replayRun : Option (Nat × Nat) := none
  expect : Nat := 0
  credFreed : Nat := 0
  nakAt : Option (Nat × Nat) := none
  tagFailed : Option Nat := none
  deriving DecidableEq, Repr

/-- One port of a link, at one end. The state, the lane masks and the error counts are in its TL registers. -/
structure LinkPort where
  /-- The training state inside DOWN to UP, coded as TL_CTL.STATE; in RETRAIN it is the state of the attempt. -/
  phase : Nat := 0
  refused : Bool := false
  clrPending : Bool := false
  tries : Nat := 0
  /-- park notice in force (R476): the port is held in DOWN as a sleeping port. -/
  parked : Bool := false
  retryWait : Bool := false
  inRetrain : Bool := false
  echoes : Nat := 0
  version : Nat := 0
  peer : Option Train := none
  /-- The tick at which the last frame was accepted. -/
  lastRx : Nat := 0
  strict : SpaceState := {}
  weighted : SpaceState := {}
  queue : List Frame := []
  /-- Presented ns since which a W0 frame has been ready, and the closed intervals of this epoch (R192). -/
  w0Since : Option Nat := none
  w0Ready : List (Nat × Nat) := []
  /-- The frame in progress: its first symbol has left and its END has not; true for a replay. -/
  current : Option (Frame × Bool) := none
  tagW0 : Nat := 0
  tagW1 : Nat := 0
  tagW2 : Nat := 0
  tagW3 : Nat := 0
  /-- classes W0 to W3 whose head frame has its finish tag already (R190). -/
  tagged : List Nat := []
  vtime : Nat := 0
  /-- balances of the S2 and S3 token buckets, in 1/1000 bytes (R189). -/
  tokens2 : Int := 0
  tokens3 : Int := 0
  tokenTick : Nat := 0
  /-- Next invocation counter of each allotment index under the LINK key in force (R42). -/
  ivs : Memory Nat := []
  deriving DecidableEq, Repr

/-- The egress slot table of a part (R193, R194). -/
structure SlotTable where
  active : List SlotWin := []
  next : Option (Nat × List SlotWin) := none
  bank : Bool := false
  deriving DecidableEq, Repr

/-- One deadline-first arbiter (R195, R196): the pending requests with the deadline that counts, whether one was given
turn hints, and the last estimate; and the index granted last (R197). -/
structure ArbPending where
  req : ArbReq
  deadline : BitVec 32
  hinted : Option Nat
  deriving DecidableEq, Repr

structure Arbiter where
  pending : List ArbPending := []
  lastIndex : Nat := 0
  deriving DecidableEq, Repr

/-! ## Fuses (R455, R461) -/

/-- The fuse contents of the model's parts (log 5): the default level of each source of R455 (POR 0, pin 0, watchdog 1,
software 1, thermal 1, brown-out 0 on the TTA, debug 0, tray link 1, allotment 3, port 4), debug enabled, no security
version bit blown, variant and serial 0. -/
def Fuses.defaults : Fuses :=
  { levels := BitVec.ofNat 30 (0 + 0 * 8 + 1 * 8 ^ 2 + 1 * 8 ^ 3 + 1 * 8 ^ 4 + 0 * 8 ^ 5 + 0 * 8 ^ 6 + 1 * 8 ^ 7 + 3 * 8 ^ 8 + 4 * 8 ^ 9)
    debugEnable := true, secFuse := 0, variant := 0, serial := 0 }

/-- The default levels of the TDU: the same, with brown-out at level 1 (R455, log 5). -/
def Fuses.tduDefaults : Fuses :=
  { Fuses.defaults with levels := Fuses.defaults.levels + BitVec.ofNat 30 (8 ^ 5) }

/-! ## Start-up and power sequences (chapters "Reset and start-up", "Power states and supplies") -/

/-- Where a part's start-up stands (R455 to R467): the reset under way as its level (none: none is), whether the fuses are being loaded,
the last order released; on the TTA a start whose timer runs (R466) with the tick of its release, the fetch attempt and whether it runs
(R464), whether the image has passed, the ready sweep and its tile test (R459). -/
structure Boot where
  seq : Option Nat := some 0
  loading : Bool := true
  order : Nat := 0
  starting : Bool := false
  startTick : Nat := 0
  attempt : Nat := 0
  fetching : Bool := false
  sweep : Bool := false
  sweepTest : Bool := false
  deriving DecidableEq, Repr

/-- The TDU's power sequence (R470 to R473): 0 none, 1 between D0 and D1, 2 ENTERING, 3 EXITING; the state it goes to; the ports whose wake
pattern came while it was ENTERING. -/
structure TduPwr where
  trans : Nat := 0
  target : Nat := 0
  wakes : Nat := 0
  deriving DecidableEq, Repr

/-- An AVSBus request outstanding (R482, R483): rail (0 fabric, 1 boundary core), target in mV, whether it was reissued after a timeout, and
whether the regulator last answered that it is busy. -/
structure AvsReq where
  rail : Nat
  target : Nat
  again : Bool := false
  busy : Bool := false
  deriving DecidableEq, Repr

/-- The TTA's power sequence (R476 to R483): 0 none, 1 entry, 2 exit; its target; wake sources seen during the entry; a request that waits
for its end; the AVSBus request outstanding. -/
structure TtaPwr where
  trans : Nat := 0
  target : Nat := 0
  wakes : Nat := 0
  request : Option Nat := none
  avs : Option AvsReq := none
  deriving DecidableEq, Repr

/-! ## Tiles (chapter "Tile arithmetic and instruction set") -/

/-- A register or SRAM word of a tile with its poison bit (R228). -/
structure TWord where
  v : W64 := 0
  p : Bool := false
  deriving DecidableEq, Repr

/-- A word of the history store with the generation of the STORE key that protects it (R41, R43). -/
structure StoreWord where
  w : TWord
  gen : Nat
  deriving DecidableEq, Repr

/-- An exact accumulator: the 320-bit integer N and its four sticky flags (R241). -/
structure Accum where
  n : BitVec 320 := 0
  nan : Bool := false
  pinf : Bool := false
  ninf : Bool := false
  poison : Bool := false
  deriving DecidableEq, Repr

/-- An inbox word (R228, R257). -/
structure InboxWord where
  v : W64 := 0
  p : Bool := false
  full : Bool := false
  deriving DecidableEq, Repr

/-- A level of the loop stack (R248): N, the iteration index, the first instruction of the body and its length. -/
structure LoopLvl where
  count : Nat
  index : Nat
  start : Nat
  len : Nat
  deriving DecidableEq, Repr

/-- What a tile waits for: a sync object in an SWAIT, a sync object in its list, an inbox word for the instruction it cannot
complete yet. -/
inductive TileWait where
  | sync (obj count : Nat)
  | list (obj : Nat)
  | inbox (i : Instr)
  deriving DecidableEq, Repr

/-- A boundary transfer in flight (R254): its issue number in the tile, the SRAM word of its descriptor, the descriptor's
fields, and the status of the checks of R255 (0 OK). `mirror` marks the transfer of a shadow tile, which the TTA does not
issue (R274); `round` is the Warren round that completes it; `poison` says that its descriptor carried poison; `task` issued it. -/
structure Xfer where
  id : Nat
  addr : Nat
  kind : Nat
  obj : Nat
  words : Nat
  remote : Nat
  loc : Nat
  deadline : Nat
  status : Nat
  mirror : Bool
  round : Option (Nat × Nat)
  poison : Bool := false
  task : Option Nat := none
  deriving DecidableEq, Repr

/-- The logical tile that a tile holds (R272, R273): graph handle, logical tile, shadow. -/
structure TileUse where
  handle : Nat
  logical : Nat
  shadow : Bool
  deriving DecidableEq, Repr

/-- A tile (R228), its plan state (R269) and its error counts (R231, R251). -/
structure Tile where
  regs : Memory TWord := []
  acc : Memory Accum := []
  sram : Memory TWord := []
  inbox : Memory InboxWord := []
  pc : Nat := 0
  loops : List LoopLvl := []
  use : Option TileUse := none
  /-- Index of the next list entry to execute, and the task under way. -/
  entry : Nat := 0
  task : Option Nat := none
  fault : Bool := false
  wait : Option TileWait := none
  /-- Stopped at an instruction boundary by a PAUSE (R287). -/
  stopped : Bool := false
  /-- Word ranges (first, count) that the plan marks as code (R229). -/
  code : List (Nat × Nat) := []
  xfers : List Xfer := []
  issued : Nat := 0
  /-- Gathers that the primary completed before this shadow issued them, and inbox words not yet placed (R274). -/
  early : List (Nat × Nat × List TWord) := []
  inq : List (Nat × TWord) := []
  /-- Signature of the task's outputs (R274). -/
  sig : W64 := 0
  /-- Steps executed since the last window end (R203). -/
  steps : Nat := 0
  ce : Nat := 0
  ue : Nat := 0
  addrFault : Nat := 0
  codeUe : Nat := 0
  /-- Corrected errors by word (place × 8,192 + word) with the tick of each (R225). -/
  wordErrs : List (Nat × Nat) := []
  /-- Ticks of the strikes of the last 24 h (R384). -/
  strikes : List Nat := []
  deriving DecidableEq, Repr


/-! ## Counting and sampling (chapter "Counters, slots and precise samples") -/

/-- A precise sample entry or a step entry of the precise sample buffer (R116, R379): the allotment index and the 4 words.
A step entry without its stamp waits for the time to be LOCKED. -/
structure PsEntry where
  allot : Nat
  words : List W64
  deriving DecidableEq, Repr

/-- A precise-sample record under way on a lane (R116). -/
structure PsPartial where
  src : Nat
  allot : Nat
  priv : Nat
  stamp : BitVec 32
  words : List W64
  deriving DecidableEq, Repr

/-- A request outstanding on the memory port (R85): its tag and what it serves. -/
inductive MemUse where
  | spillWrite (born : Nat)
  | spillRead (born : Nat)
  /-- An access of the TDU's rings: ring number, descriptor index. -/
  | ring (r : Nat) (index : Nat)
  deriving DecidableEq, Repr

structure MemReq where
  tag : Nat
  use : MemUse
  deriving DecidableEq, Repr

/-- Sampling state of the TDU. Keys of stream sets: g for group g, 1000 + a for the group 0 pair of index a, 2000 + a for the
precise sample blocks of index a. -/
structure Sampling where
  /-- Group settings in force (R97), in the layout of TDU_CNT_GROUP; unlisted groups are at their reset values. -/
  force : Memory W64 := []
  /-- Groups whose STRICT is granted. -/
  strictOn : List Nat := []
  /-- Command identifier in force of each index (R103). -/
  cmdId : Memory (BitVec 16) := []
  /-- CMD_START pulses of each index, and the total at the last emitted block of each stream set. -/
  starts : Memory Nat := []
  startMark : Memory Nat := []
  /-- The due-boundary count plus 1 of each stream set since its restart (R110); 0 before the first. -/
  due : Memory Nat := []
  /-- Stream sets that have emitted a block since their restart. -/
  emitted : List Nat := []
  /-- Indices cleared in TDU_ALLOT_MAP since the last boundary (R98). -/
  cleared : List Nat := []
  epochSel : Bool := false
  psMask : W64 := 0
  psBuf : List PsEntry := []
  psLane0 : Option PsPartial := none
  psLane1 : Option PsPartial := none
  psDropBefore : List Nat := []
  /-- Frames in the spill ring, oldest first (R113). -/
  spill : List Frame := []
  memReqs : List MemReq := []
  /-- Strict frames that wait at their source for strict space (R113). -/
  held : List Frame := []
  /-- The next frame's formation number. -/
  born : Nat := 0
  spillLevel : Nat := 0
  /-- During this epoch: something found the weighted space and the ring full; the ring held a frame or the weighted space
  was half full or more (R114). -/
  sawFull : Bool := false
  sawBusy : Bool := false
  /-- presented ns of the last boundary. -/
  lastNs : Nat := 0
  /-- The host-main domain and the trace input domain are in reset (R62, R127). -/
  hostReset : Bool := true
  trcReset : Bool := true
  /-- The stamp queue (R71). -/
  stampQueue : List StageStamp := []
  /-- The hint store, the hint on HINT_DATA first, with the port each came from (R73), and the last unpaired hint of each
  pipeline (R24). -/
  hints : List (Nat × Hint) := []
  unpaired : List (Nat × Nat × Hint) := []
  deriving DecidableEq, Repr

/-! ## Trace capture (chapter "Trace capture") -/

/-- A stored packet (R123 to R125): its byte offset since the arm, its words, whether it is a SYNC with ALL = 1 or a TRIGGER,
and the host words it carries. -/
structure TrcPacket where
  start : Nat
  words : List W64
  syncAll : Bool
  trigger : Bool
  hostWords : Nat
  deriving DecidableEq, Repr

/-- A DATA packet under construction on a lane (R123). -/
structure TrcRun where
  slot : Nat
  src : Nat
  priv : Nat
  first : Bool
  delta : Nat
  words : List W64
  deriving DecidableEq, Repr

/-- A capture slot beside its two registers. -/
structure TrcSlot where
  /-- A configuration that waits for IDLE (R120). -/
  shadow : Option W64 := none
  capture : Nat := 0
  packets : List TrcPacket := []
  /-- Bytes written since the arm, and the value at the end of the last SYNC with ALL = 1. -/
  written : Nat := 0
  syncEnd : Nat := 0
  /-- CYCLE of the last DATA or SYNC of each source, and of the last SYNC with ALL = 1. -/
  lastCycle : List (Nat × Nat) := []
  allCycle : Nat := 0
  /-- The end of the TRIGGER packet that froze the ring (R131). -/
  trigEnd : Option Nat := none
  /-- Bytes of the retained capture already sent (R135). -/
  sent : Nat := 0
  /-- A SYNC of REASON 4 comes before the next stored packet (R127). -/
  restartSync : Bool := false
  /-- Host words discarded at the last D2 entry (R128). -/
  d2Lost : Nat := 0
  deriving DecidableEq, Repr

/-- A trigger on its way to the trace input domain (R129). -/
structure TrcTrig where
  slots : Nat
  start : Bool
  stop : Bool
  cause : Nat
  origin : Option (BitVec 32)
  deriving DecidableEq, Repr

/-- A trace grant installed in the TDU Sett (R49, R51). -/
structure Grant where
  allot : Nat
  flags : Nat
  dieMask : Nat
  sources : W64
  notBefore : Nat
  notAfter : Nat
  serial : Nat
  deriving DecidableEq, Repr

/-- The trace unit of the TDU. -/
structure Trace where
  cycle : Nat := 0
  slots : Memory TrcSlot := []
  lane0 : Option TrcRun := none
  lane1 : Option TrcRun := none
  /-- CYCLE of the last accepted word of each source and of any source. -/
  wordCycle : List (Nat × Nat) := []
  anyCycle : Nat := 0
  trigs : List TrcTrig := []
  grants : List Grant := []
  deriving DecidableEq, Repr

/-! ## Checking in the die unit (chapters "Building the TDU into a host die", "Checking results and handling faults") -/

/-- A sampled item in flight (R76, R376). A response is `none` while outstanding or not requested, `some none` when missing. -/
structure ChkFlight where
  item : Nat
  unit : Nat
  allot : Nat
  step : Nat
  sig : W64
  stamp : BitVec 32
  cls : Nat × Nat
  bins : Nat × Nat
  shadowUnit : Option Nat := none
  thirdUnit : Option Nat := none
  shadow : Option (Option W64) := none
  third : Option (Option W64) := none
  deriving DecidableEq, Repr

/-- A step under way of an index (R378). `worst` is 0, or the outcome so far in the order of R378. -/
structure ChkStep where
  step : Nat
  k : Nat
  items : Nat := 0
  sampled : Nat := 0
  disagreed : Nat := 0
  waiting : Nat := 0
  worst : Nat := 0
  ended : Option (BitVec 32) := none
  deriving DecidableEq, Repr

/-- The check state of an allotment index: its open step, the class map it uses (R75), its SEED (R373) and its steps. -/
structure ChkIdx where
  openStep : Option Nat := none
  map : Option (List (Nat × Nat)) := none
  seed : Option (BitVec 32) := none
  steps : List ChkStep := []
  deriving DecidableEq, Repr

/-- Counts and state of a host unit (R377, R392). -/
structure ChkUnit where
  withdrawn : Bool := false
  timeouts : Nat := 0
  blame : Nat := 0
  deriving DecidableEq, Repr

/-- A step entry in the step queue (R379); its final stamp waits for the time to be LOCKED (R158). -/
structure StepEntry where
  allot : Nat
  w0 : W64
  w1 : W64
  final : Option (BitVec 32)
  ended : BitVec 32
  deriving DecidableEq, Repr

/-- A test order of a TTA (R173): its tag, the units not yet tested and the failures. -/
structure ChkOrder where
  tag : BitVec 32
  units : List Nat
  failures : Nat
  deriving DecidableEq, Repr

structure TduCheck where
  idx : Memory ChkIdx := []
  flight : List ChkFlight := []
  /-- Requests due and not issued, oldest first: item, index, third. -/
  due : List (Nat × Nat × Bool) := []
  /-- Classes in force last taken: (FIRST_UNIT, UNIT_COUNT) of the ELIGIBLE ones. -/
  force : List (Nat × Nat) := []
  /-- The unit each class chose last, by FIRST_UNIT (R375). -/
  pointer : Memory Nat := []
  units : Memory ChkUnit := []
  stepQ : List StepEntry := []
  testQ : List Nat := []
  testing : Option Nat := none
  periodicDue : Bool := false
  lastPeriodic : Nat := 4095
  orders : List ChkOrder := []
  trips : List Nat := []
  deriving DecidableEq, Repr

/-! ## Host queues (chapter "Host queues and virtual functions") -/

/-- A function's queue state beside its ring registers: descriptors fetched and not completed (ring, index), those fetched
before a function reset (R422), waiting records of its rings in delivery order (R413), and the counts of dropped records that
the next entry of a ring will show. -/
structure FnQ where
  inflight : List (Nat × Nat) := []
  orphans : List (Nat × Nat) := []
  backlog : List (Nat × List Byte) := []
  lost : List (Nat × Nat) := []
  /-- An FN_QUIESCE that waits for the function to drain (R421). -/
  quiesce : Option Desc := none
  /-- TDISP state of the TDI (R425): 0 CONFIG_UNLOCKED, 1 CONFIG_LOCKED, 2 RUN, 3 ERROR. -/
  tdi : Nat := 0
  deriving DecidableEq, Repr

/-- A descriptor mirrored to a TDU (R427): the port and the descriptor's header. -/
structure Mirrored where
  port : Nat
  q : Desc
  opcode : Nat
  addr : W64
  bytes : List Byte
  /-- PF write-backs received. -/
  wb : Option (List Byte)
  deriving DecidableEq, Repr

/-! ## Graphs and plans (chapter "Task graphs, plans and sync objects") -/

/-- A task record (R261). -/
structure GTask where
  codeIdx : Nat
  codeLen : Nat
  dataWords : Nat
  dataInit : Nat
  steps : Nat
  waitNs : Nat
  ltile : Nat
  deriving DecidableEq, Repr

/-- An edge record (R262). -/
structure GEdge where
  src : Nat
  dst : Nat
  srcOff : Nat
  dstOff : Nat
  words : Nat
  deriving DecidableEq, Repr

/-- An entry of a logical tile's list (R269). -/
inductive LEntry where
  | run
  | wait (task : Nat)
  | task (task : Nat)
  | copy (edge : Nat)
  | endList
  deriving DecidableEq, Repr

/-- A plan (R268 to R273): the image, the logical schedule, the SRAM layout, the objects and the physical mapping. -/
structure Plan where
  image : List Byte := []
  stamp : Bool := false
  /-- CHECK_K in force. -/
  k : Nat := 0
  /-- EPOCH_Q, LTILES, SYNCS. -/
  q : Nat := 1
  p : Nat := 1
  syncs : Nat := 0
  tasks : List GTask := []
  edges : List GEdge := []
  /-- tile[t] and start[t] of R268, in units of 0.25 ns. -/
  place : List Nat := []
  start : List Nat := []
  lists : List (List LEntry) := []
  /-- Per task: the first instruction index and the first data word in its tile. -/
  codeAt : List Nat := []
  winAt : List Nat := []
  /-- Physical objects: the declared ones in local order, then RUN and COMMIT; the edge object of each task. -/
  objs : List Nat := []
  edgeObjs : List (Nat × Nat) := []
  phys : List Nat := []
  shadows : List Nat := []
  /-- D in units of 0.25 ns (R271). -/
  d4 : Nat := 0
  treeNan : Bool := false
  deriving DecidableEq, Repr

/-- A run (R279): its number, the ingest epoch that closes its graph epoch, its REPLAY number, the words 4 to 7 of its run
descriptor. `reexec` marks a run re-executed between a checkpoint and a voided run (R387). -/
structure Run where
  no : Nat
  epoch : Nat
  replay : Nat := 0
  reexec : Bool := false
  stampWords : List W64 := []
  /-- The decided indices of its ingest epochs, one after another (R270). -/
  index : List W64 := []
  /-- The job it is a run of (R336). -/
  job : Option Nat := none
  poisoned : Bool := false
  /-- Signatures at END: task, shadow, signature (R274). -/
  sigs : List (Nat × Bool × W64) := []
  /-- Tiles that received a strike in it. -/
  blamed : List Nat := []
  /-- (GROUP, SUB) already issued (R321), and verdict words held until COMMIT leaves OPEN. -/
  rounds : List (Nat × Nat) := []
  /-- Presented ns of the start. -/
  startNs : Nat := 0
  deriving DecidableEq, Repr

/-- A run that has ended: its outcome is none while a fleet verdict is awaited. -/
structure PastRun where
  run : Run
  passed : Option Bool
  deriving DecidableEq, Repr

/-- A verdict held for its run (R345). -/
structure Held where
  run : Nat
  epoch : Nat
  vkind : Nat
  die : Nat
  words : List TWord
  deriving DecidableEq, Repr

/-- The state of a graph's tiles and objects: a save image (R288) or a checkpoint (R291). `tiles` are the logical tiles, then
the shadow tiles. -/
structure GraphSave where
  run : Nat
  epoch : Nat
  /-- Taken at a run boundary. -/
  boundary : Bool
  storeGen : Nat := 0
  image : List Byte := []
  tiles : List Tile := []
  objs : List W64 := []
  cur : Option Run := none
  /-- Checkpoints only: every run before it has PASSED; its CKPT_DONE was sent. -/
  clean : Bool := false
  sent : Bool := false
  deriving DecidableEq, Repr

/-- A pending replacement (R284). -/
structure Replace where
  plan : Plan
  actSec : Nat
  q : Desc
  own : Bool := false
  partner : Bool := false
  at_ : Option Nat := none
  deriving DecidableEq, Repr

/-- An entry of the round log (R388): epoch, group (0 votes), sub, replay, payload words, and the status with which the transfer completed. -/
structure RoundLog where
  epoch : Nat
  group : Nat
  sub : Nat
  replay : Nat
  words : List TWord
  status : Nat
  deriving DecidableEq, Repr

/-- A resident graph (R286). Its state is coded as TTA_GRAPH.STATE. -/
structure Graph where
  slot : Nat
  gid : Nat
  state : Nat := 0
  plan : Plan := {}
  /-- The ADMIT that waits for ADMISSION_DONE. -/
  admitQ : Option Desc := none
  /-- Re-admission by a re-bind, which does not wait for the agreement of R282. -/
  readmit : Bool := false
  primary : Bool := false
  ownCommit : Bool := false
  partnerCommit : Bool := false
  firstRun : Option Nat := none
  /-- The ingest epoch that closes the next graph epoch to run. -/
  nextEpoch : Nat := 0
  runNo : Nat := 0
  run : Option Run := none
  past : List PastRun := []
  held : List Held := []
  replace : Option Replace := none
  removeQ : Option Desc := none
  /-- The PAUSE (0x33) or SAVE (0x35) that waits for PAUSED, and whether the partner must be told. -/
  pauseQ : Option (Nat × Desc) := none
  /-- The graph was stopped by the TTA (R387, R389, R396), not by a descriptor. -/
  saved : Option GraphSave := none
  /-- A graph of the RADIO allotment whose own copy a retirement stopped until the next re-bind (R225). -/
  cutOff : Bool := false
  /-- Its next run is held by the round log (R388). -/
  logHeld : Bool := false
  stamps : List (List W64) := []
  /-- Stamps discarded at a full queue (R281). -/
  stampsLost : Nat := 0
  ckpts : List GraphSave := []
  /-- The epoch of the last checkpoint taken, and the presented ns of its CKPT_DONE, none while it is in transfer (R217). -/
  ckptEpoch : Nat := 0
  ckptDoneNs : Option Nat := some 0
  /-- The standby's last complete checkpoint received, the bytes of the one in progress, and the byte count that CKPT_DONE gave. -/
  standby : Option GraphSave := none
  ckptIn : List (Nat × List Byte) := []
  ckptLen : Option Nat := none
  /-- Runs started since the newest clean checkpoint: number, epoch, REPLAY. -/
  ran : List (Nat × Nat × Nat) := []
  /-- Runs that the procedure of R387 must still start: number, epoch, REPLAY, re-executed; the run it replays with the presented ns
  of the VOID; the runs re-executed so far. -/
  redo : List (Nat × Nat × Nat × Bool) := []
  redoRun : Option (Nat × Nat) := none
  redoDone : Nat := 0
  /-- The epoch of the last graph epoch of a failover replay (R221). -/
  catchUp : Option Nat := none
  log : List RoundLog := []
  /-- The last epoch whose verdicts this twin posted, and the partner's as its heartbeats report (R215). -/
  posted : Nat := 0
  partnerPosted : Nat := 0
  /-- Decisions of the mutual-exclusion site (R201): run, REPLAY, site, winner. -/
  decisions : List (Nat × Nat × Nat × Nat) := []
  /-- A test of a bound tile at the next run boundary (R394). -/
  testTiles : List Nat := []
  deriving DecidableEq, Repr

/-! ## Allotment slots (chapter "Allotments and who sees what") -/

/-- A tile capture (R454): its 64 bytes, the short stamp of T, the WORK generation it lies under, and whether the tile was sealed. -/
structure TileCapture where
  bytes : List Byte
  stamp : BitVec 32
  workGen : Nat
  sealed : Bool
  deriving DecidableEq, Repr

/-- An allotment slot beside its TTA_ALT_ENTRY. -/
structure Slot where
  clusters : List Nat := []
  /-- Holder key digest given at OPEN. -/
  digest : List Byte := []
  sealed : Bool := false
  /-- The descriptor of the sequence under way: CLOSE 0x09, REBIND 0x0A, FN_RESET 0x15. -/
  seq : Option (Nat × Desc) := none
  /-- The new cluster set of a REBIND, and whether the sequence is due at the next ingest boundary. -/
  newSet : List Nat := []
  due : Bool := false
  /-- A CLOSE held until ACTIVE (R32). -/
  heldClose : Option Desc := none
  /-- The presented ns at which the sequence's boundary fell, and the graphs to re-admit. -/
  startNs : Nat := 0
  readmit : List Nat := []
  minSerial : Nat := 0
  /-- LINK key instances installed in TDU Setts: die, index, instance (R41). -/
  links : List (Nat × Nat × W64) := []
  /-- WARREN key instance and counter of this TTA (R41, R42). -/
  wrnInst : W64 := 0
  wrnCtr : Nat := 0
  /-- A STEP_REOPEN that awaits its boundary (R381). -/
  reopen : Option (Nat × Nat) := none
  /-- A ROTATE_STORE that awaits its boundary (R418). -/
  rotate : Option (Nat × Option Desc) := none
  /-- Tile captures, by graph × 2^14 + LTILE as TTA_VF_SNAP_SEL names them. -/
  snaps : List (Nat × TileCapture) := []
  /-- The scale table (R25), as the last epoch boundary left it. -/
  scale : List W64 := []
  deriving DecidableEq, Repr


/-! ## Ingest and the watermark (chapter "The aggregator fabric") -/

/-- The unpacker of a port for a die and class (R434): the open block's stream header, its words so far, its chunks; `dropping` while the
chunks of a dropped block are followed. -/
structure Unpack where
  hdr : List Byte := []
  words : List Nat := []
  chunks : List (List Byte) := []
  isOpen : Bool := false
  dropping : Bool := false
  deriving DecidableEq, Repr

/-- A block as ingest holds it: stream header, payload words, chunks as they came (the retention buffer of R212), allotment index of
its frame, POISONED (R397), whether a fill brought it, its mark (0 in, 1 LATE, 2 EXCLUDED), and, once placed, its logical address. -/
structure Block where
  hdr : List Byte
  words : List Nat
  chunks : List (List Byte)
  allotIdx : BitVec 6
  cls : Fin 8
  /-- The allotment that owns it. -/
  allot : Nat := 0
  poison : Bool := false
  byFill : Bool := false
  mark : Nat := 0
  addr : Nat := 0
  /-- Generation of the STORE key it was stored under (R41). -/
  gen : Nat := 0
  /-- Pages of it that a channel retirement lost (R207). -/
  lostPages : List Nat := []
  deriving DecidableEq, Repr

/-- An ingest epoch (R211): its blocks by key die × 384 + bit, and the state of its agreement. -/
structure Epoch where
  blocks : List (Nat × Block) := []
  closed : Bool := false
  propose : Option (List DieMap) := none
  have_ : Option (List DieMap) := none
  haveSent : Bool := false
  /-- The own fill bound has passed. -/
  fillDue : Bool := false
  filled : Nat := 0
  decided : Bool := false
  /-- Its step entries and summaries were taken, in epoch order (R380). -/
  taken : Bool := false
  deriving DecidableEq, Repr

/-- A step of the summariser (R209): the running interval of a stream in a tier. -/
structure SumRun where
  interval : Nat
  /-- SEQ of the stream's last decided block, and the allotment that owns it. -/
  seq : Nat := 0
  allot : Nat := 0
  first : Nat
  last : Nat
  maxStep : Nat
  n : Nat
  flags : Nat
  deriving DecidableEq, Repr

/-- A finished summary entry: tier, stream (die × 65,536 + local stream), interval, owner, generation of its STORE key, the 32 bytes. -/
structure TierEntry where
  tier : Nat
  stream : Nat
  interval : Nat
  allot : Nat
  gen : Nat
  bytes : List Byte
  deriving DecidableEq, Repr

structure Ingest where
  unpack : Memory Unpack := []
  /-- Epochs held, by number n, oldest first. -/
  epochs : List (Nat × Epoch) := []
  /-- The watermark log (R214), oldest first. -/
  log : List LogEntry := []
  /-- Next byte of the ring to write. -/
  ringNext : Nat := 0
  /-- Running intervals by tier × 2^20 + stream, and finished entries, oldest first. -/
  sums : List (Nat × SumRun) := []
  tiers : List TierEntry := []
  /-- Dies whose other TDU port is known to be down (log 28). -/
  otherDown : List Nat := []
  /-- HOLD_US and FILL_US in force, and the values from the next whole second. -/
  hold : Nat := 200
  fill : Nat := 500
  nextWm : Option W64 := none
  /-- The last ingest boundary passed, as an epoch number. -/
  boundary : Nat := 0
  /-- Coarse view (R48): TTA_CNT 0 and 1 at the start of the window (keys 0, 1), the bytes of the NoC, memory controller and die-to-die
  counters over it (keys 2, 3, 4), and the last value of each such counter (16 + 4 × die + kind). -/
  coarse : List (Nat × Nat) := []
  /-- WINDOW_S of the window under way. -/
  coarseW : Nat := 1
  /-- Counted windows toward each cluster's pending decision, and those in a row below the rated minimum (R223, R225). -/
  runs : Memory Nat := []
  low : Memory Nat := []
  /-- Errors of memory channels: channel, tick, uncorrectable (R207). -/
  chErrs : List (Nat × Nat × Bool) := []
  /-- Logical pages that a retirement moved, with their channel now, and those awaited from the twin: page, retired channel. -/
  moved : List (Nat × Nat) := []
  awaited : List (Nat × Nat) := []
  deriving DecidableEq, Repr

/-! ## The twin protocol -/

/-- An operation that waits for the twins (R304): its number, allotment, operation, and the descriptor it completes here. -/
structure OrdWait where
  num : Nat
  allot : Nat
  op : OrdOp
  q : Option Desc
  deriving DecidableEq, Repr

structure Twin where
  /-- Version of the partner's messages (R215), and messages discarded. -/
  peerVersion : Nat := 0
  discarded : Nat := 0
  /-- The tick of the last twin message by either path, of the last by each, and the short stamp of the last heartbeat. -/
  lastMsg : Nat := 0
  lastBeat : BitVec 32 := 0
  everHeard : Bool := false
  /-- A round of partner queries is out: the answers so far show the partner alive. -/
  querying : Bool := false
  seen : Bool := false
  /-- The tick of the last twin message on the twin link, and over fabric Ethernet. -/
  lastLink : Option Nat := none
  lastEth : Option Nat := none
  /-- Epochs adopted from the lead's log (R220). -/
  adopted : Nat := 0
  logDone : Bool := false
  /-- Tables that changed since the pair parted: slot, table. -/
  changed : List (Nat × Nat) := []
  /-- Ordered operations that wait: at the lead for the partner's acknowledgement, at the follower (forwarded) for the lead. -/
  waits : List OrdWait := []
  forwarded : List OrdWait := []
  nextNum : Nat := 0
  /-- Failover under way: tick at which it began, and graphs and runs replayed. -/
  failFrom : Option Nat := none
  failRuns : Nat := 0
  failGraphs : Nat := 0
  /-- Withdrawn for a reset of the fabric or a power entry (R457, R476). -/
  out : Bool := false
  /-- LINK instances of the partner's ports: allotment, port, instance (R42). -/
  links : List (Nat × Nat × W64) := []
  deriving DecidableEq, Repr

/-! ## The Sett -/

structure Session where
  id : BitVec 32
  doe : Option Fn
  secured : Bool
  mutualAuth : Bool
  keyDigest : List Byte
  deriving DecidableEq, Repr

/-- An installed grant as the TTA knows it (R50 to R52): the die it was sent to. -/
structure SentGrant where
  die : Nat
  grant : Grant
  deriving DecidableEq, Repr

structure Sett where
  sessions : List Session := []
  /-- Highest SPDM request of the connection reached: 0 none, 1 version, 2 capabilities, 3 algorithms. -/
  conn : List (Nat × Nat) := []
  /-- The platform ARK, while held, and the allotment root keys by slot (R39, R40). -/
  platform : Option (BitVec 256) := none
  arks : List (Nat × BitVec 256) := []
  /-- What a die's TDU_ALLOT_MAP holds: die × 64 + index ↦ allotment (R98). -/
  dieMap : List (Nat × Nat) := []
  /-- Units withdrawn on each die, as UNIT_STATE reports (die, unit). -/
  units : List (Nat × Nat) := []
  /-- Trace slots set up on the dies (R119): die, slot, TDU_TRC_SLOT_CFG. -/
  traceSlots : List (Nat × Nat × W64) := []
  evidence : List (Nat × List Byte) := []
  grants : List SentGrant := []
  deriving DecidableEq, Repr

/-- A trace capture as the TTA holds it (R132, R136): die, slot, allotment, capture number, the bytes received, complete. -/
structure Capture where
  die : Nat
  slot : Nat
  allot : Nat
  capture : Nat
  bytes : List (Nat × List Byte)
  last : Bool
  /-- Generation of the STORE key it lies under. -/
  gen : Nat := 0
  deriving DecidableEq, Repr

/-! ## Requests to the TDUs -/

/-- A control request that waits for its acknowledgement: port, tag, and the descriptor that it serves with the opcode and status of that
descriptor's completion. -/
structure CtlWait where
  port : Nat
  tag : Nat
  q : Option (Nat × Desc)
  deriving DecidableEq, Repr

/-- A FIELD_TEST that waits for its dies (R393). -/
structure TestWait where
  q : Desc
  tag : Nat
  dies : List Nat
  failures : Nat
  deriving DecidableEq, Repr

/-! ## Tables (chapter "Tree ensembles and feature tables") -/

/-- A bank of a table: words that differ from the fill word, by word index of its rows; GEN, ACT (epoch number), STORE generation. -/
structure Bank where
  words : Memory W64 := []
  gen : Nat := 0
  act : Nat := 0
  storeGen : Nat := 0
  /-- Rows written since under another generation. -/
  rowGens : List (Nat × Nat) := []
  /-- STORE generation of the header, which the TTA writes at creation and at each commit. -/
  hdrGen : Nat := 0
  deriving DecidableEq, Repr

/-- A table (R299, R301, R305). `since` is the boundary from which the active bank is in force; `retained` the presented ns until which
the shadow keeps the old bank. -/
structure Table where
  slot : Nat
  tid : Nat
  offset : Nat
  rows : Nat
  rowWords : Nat
  kind : Nat
  entity : Nat
  active : Bank := {}
  shadow : Bank := {}
  since : Nat := 0
  retained : Option Nat := none
  /-- A commit or delete fixed at a boundary: epoch number, delete. -/
  due : Option (Nat × Bool) := none
  /-- A commit or delete asked for and not yet fixed: requested epoch, delete. -/
  asked : Option (Nat × Bool) := none
  /-- Deleted; its window is freed at this presented ns. -/
  gone : Option Nat := none
  /-- The descriptor that the boundary completes. -/
  q : Option (Nat × Desc) := none
  deriving DecidableEq, Repr

/-! ## Warren and Bandstand (chapter "Fleet reduction and job start") -/

/-- An unacknowledged packet (R316): the model's number, protocol (0 Warren, 1 Bandstand, 2 budget), destination, header, body, job, sends
without an ACK, and its keys for obsolescence: epoch, sub, replay, attempt. -/
structure Packet where
  no : Nat
  proto : Nat
  dst : Nat
  hdr : List Byte
  body : List Byte
  allot : Nat
  job : Nat
  epoch : Nat := 0
  group : Nat := 0
  sub : Nat := 0
  replay : Nat := 0
  attempt : Nat := 0
  sends : Nat := 1
  /-- The WARREN key instance and the counter that it was protected with (R42). -/
  inst : W64 := 0
  ctr : Nat := 0
  deriving DecidableEq, Repr

/-- The key of a round (R319). -/
structure RoundKey where
  allot : Nat
  job : Nat
  epoch : Nat
  group : Nat
  sub : Nat
  replay : Nat
  deriving DecidableEq, Repr

/-- Segments of a payload under way, by segment index, and whether it is whole. -/
structure Parts where
  from_ : Nat
  cnt : Nat
  length : Nat
  kind : Nat
  segs : List (Nat × List Byte) := []
  deriving DecidableEq, Repr

/-- A merge at a level (R324): the complete inputs by tray address (first copies), those under way, and whether the result was forwarded. -/
structure Merge where
  key : RoundKey
  level : Nat
  inputs : List (Nat × List TWord) := []
  parts : List (Nat × Parts) := []
  kind : Nat := 0
  done : Bool := false
  deriving DecidableEq, Repr

/-- A round as a member sees it: the RESULT's segments, the result, and the COPY or CONTRIB to compare with (R322). -/
structure RoundSeen where
  key : RoundKey
  parts : Option Parts := none
  result : Option (List TWord) := none
  copyParts : Option Parts := none
  copy : Option (List TWord) := none
  own : Option (List TWord) := none
  deriving DecidableEq, Repr

/-- A job on a member (R336), by allotment and job number: parsed description, member trays in order, attempt, GO and END times in
presented ns, its register entry, and the READY merges of a parent twin. -/
structure Job where
  allot : Nat
  id : Nat
  slot : Nat
  state : Nat := 0
  desc : List Byte := []
  trays : List Nat := []
  attempt : Nat := 1
  goNs : Nat := 0
  endNs : Nat := 0
  entry : Nat := 0
  /-- READY inputs by level and sender: (level, sender TTA ID or tray), status, FAIL_TTA. -/
  readies : List (Nat × Nat × Nat × Nat) := []
  /-- Levels whose READY merge was forwarded. -/
  readyDone : List Nat := []
  deriving DecidableEq, Repr

/-- A job as the decider of its root tray knows it (R333, R338): outcome 0 none, 1 GO, 2 ABORT final, 3 END. -/
structure Decided where
  allot : Nat
  id : Nat
  desc : List Byte
  trays : List Nat
  attempt : Nat
  goNs : Nat
  endNs : Nat := 0
  outcome : Nat := 0
  status : Nat := 0
  failTta : Nat := 0xFFFF
  reqTag : Nat := 0
  origin : Nat := 0
  /-- The presented ns at which the job reached NONE. -/
  noneAt : Option Nat := none
  deriving DecidableEq, Repr

structure Warren where
  outbox : List Packet := []
  nextNo : Nat := 0
  /-- Suspect destinations: (job allotment × 2^16 + job, TTA ID). -/
  suspects : List (Nat × Nat) := []
  merges : List Merge := []
  rounds : List RoundSeen := []
  jobs : List Job := []
  deciding : List Decided := []
  lastJob : List (Nat × Nat) := []
  /-- JOB_STARTs and JOB_ENDs of this originator: allotment, REQ_TAG (start) or job (end), end, descriptor. -/
  origins : List (Nat × Nat × Bool × Desc) := []
  /-- Key instances heard of a sender: allotment, sender, current, previous (R315). -/
  peers : List (Nat × Nat × W64 × Option W64) := []
  /-- Highest version accepted from a tray (R317). -/
  versions : List (Nat × Nat) := []
  deriving DecidableEq, Repr

/-! ## Detectors and checking -/

/-- An expulsion request outstanding (R357): die, serial. -/
structure Detect where
  /-- Routes: die × 64 + pipe ↦ graph handle. -/
  routes : List (Nat × Nat) := []
  /-- SLOT_NUM of the last hint sent: die × 64 + pipe. -/
  lastHint : List (Nat × Nat) := []
  serial : Nat := 0
  asked : List (Nat × Nat) := []
  /-- SERIAL of the last REQUEST taken from each sender. -/
  lastReq : List (Nat × Nat) := []
  /-- The budget log: tray, die, presented second of each grant. -/
  budget : List (Nat × Nat × Nat) := []
  haveLog : Bool := false
  /-- Grants that wait for the partner's acknowledgement of LOG: packet number, the request. -/
  pendingGrants : List (Nat × BudgetMsg) := []
  /-- Health scores of the coarse window: die, exact accumulator, count. -/
  scores : List (Nat × Accum × Nat) := []
  hintsSent : Nat := 0
  stepsVoided : Nat := 0
  deriving DecidableEq, Repr

/-- A step entry decided and not yet committed (R380): its epoch, die, allotment, and words. -/
structure StepWait where
  epoch : Nat
  die : Nat
  slot : Nat
  w0 : W64
  w1 : W64
  /-- The gate was closed at its epoch. -/
  gated : Bool := false
  deriving DecidableEq, Repr

structure TtaChk where
  steps : List StepWait := []
  /-- Votes cast for an epoch: slot, job, epoch, VOID. -/
  votes : List (Nat × Nat × Nat × Bool) := []
  ctl : List CtlWait := []
  nextTag : Nat := 1
  tests : List TestWait := []
  /-- The tile that the sweep tests next. -/
  sweep : Nat := 0
  deriving DecidableEq, Repr

/-! ## The DEFLATE engine (chapter "Compression engines") -/

/-- The posted jobs from CI to PI, oldest first: for each the allotments whose release began since it was posted or whose STORE key was
rotated since it was taken (R441); and how many of them the engine has taken. -/
structure Deflate where
  posted : List (List Nat) := []
  taken : Nat := 0
  deriving DecidableEq, Repr

/-! ## Reports (chapter "Checking results and handling faults") -/

structure Report where
  num : Nat
  source : Nat
  coalesced : Nat
  evt : Rec
  stampSec : Nat
  stampNs : Nat
  sends : Nat
  deriving DecidableEq, Repr

structure Reports where
  /-- Events whose report is to be formed: those that their source's queue dropped come before the next one stored. -/
  due : List QueuedRec := []
  num : Nat := 0
  out : List Report := []
  coalesced : Nat := 0
  /-- Second and number of reports sent in it. -/
  second : Nat := 0
  inSecond : Nat := 0
  key : List (Nat × W64) := []
  deriving DecidableEq, Repr

/-! ## What leaves the parts -/

/-- One thing that left a part: the model's own log, newest first. -/
inductive Out where
  /-- A frame whose transmission began on a link end; `retx` marks a replay. -/
  | frame (e : LinkEnd) (f : Frame) (retx : Bool)
  /-- An IDLE where no frame was ready (R188). -/
  | idle (e : LinkEnd)
  /-- An ABORT of the frame in progress (R177). -/
  | abort (e : LinkEnd)
  /-- An ACK control block: the last accepted SEQ of each space, or with NAK the expected one (R176). -/
  | ack (e : LinkEnd) (s : Nat) (nakS : Bool) (w : Nat) (nakW : Bool)
  /-- A CREDIT control block (R179). -/
  | credit (e : LinkEnd) (s w : Nat)
  /-- A LANE control block (R185): request 1, acknowledgement 2. -/
  | lane (e : LinkEnd) (lane kind : Nat)
  /-- The wake pattern (R184), of 4 µs or, short, of 1 µs. -/
  | wakePattern (e : LinkEnd) (short : Bool)
  /-- A TRAIN frame (R181). -/
  | train (e : LinkEnd) (t : Train)
  /-- An arbiter's grant (R195) and a turn hint (R196): requester, estimate in ns, LATE. -/
  | grant (a index : Nat)
  | turnHint (a index estNs : Nat) (late : Bool)
  /-- A request on the TDU's memory port (R85). -/
  | memReq (tag : Nat) (use : MemUse)
  /-- CHK_KEEP for an item (R76), CHK_REQ with its unit, CHK_REL, CHK_TEST_REQ (R80), and TDU_IRQ raised. -/
  | chkKeep (item : Nat) (keep : Bool)
  | chkReq (item unit : Nat)
  | chkRel (item : Nat)
  | chkTest (unit : Nat)
  | tduIrq
  /-- A relief hint placed on HINT_DATA (R73), and an answer on the register port: data and REG_ERR (R84). -/
  | hintOut (h : Hint)
  | regAnswer (data : W64) (err : Bool)
  /-- A descriptor write-back with its status and the WB fields (byte offset, width, value); an entry written at a ring's
  slot; output bytes at a buffer address; an interrupt vector of a function. -/
  | writeBack (q : Desc) (status : Nat) (fields : List (Nat × Nat × Nat))
  | ringEntry (fn : Fn) (ring slot : Nat) (bytes : List Byte)
  | bufWrite (fn : Fn) (addr : Nat) (bytes : List Byte)
  | msix (fn : Fn) (vector : Nat)
  /-- A twin message or a frame of the twin link over fabric Ethernet (R216). -/
  | ethTwin (f : Frame)
  /-- A Warren (0), Bandstand (1) or budget (2) packet to a TTA: key instance, invocation counter, header with TYPE and FLAGS as sent, body before
  its protection (R314). -/
  | packet (no proto dst : Nat) (inst : W64) (ctr : Nat) (hdr body : List Byte)
  /-- An acknowledgement of an arriving packet: destination, key instance, invocation counter, the header with TYPE changed, BUSY (R316). -/
  | packetAck (proto dst : Nat) (inst : W64) (ctr : Nat) (hdr : List Byte) (busy : Bool)
  /-- An SPDM response: response code, session, bytes (R37). -/
  | spdm (code : Nat) (session : Option (BitVec 32)) (body : List Byte)
  /-- An error report on the management port (R399): its 64 bytes. -/
  | report (bytes : List Byte)
  /-- An AVSBus voltage write of a rail (0 fabric, 1 boundary core; R482). -/
  | avsWrite (rail mv : Nat)
  /-- The DEFLATE engine completes the job at a ring index: the WB fields written (byte offset, width, value) and the Lodge mailbox
  interrupt (R441). -/
  | cmpDone (index : Nat) (fields : List (Nat × Nat × Nat))
  /-- A Lodge mailbox transfer (R254): tile, handle, words. -/
  | mailbox (t remote : Nat) (ws : List TWord)
  /-- A firmware fetch attempt begins (R464). -/
  | fetch
  /-- A stamp of a PTP event message (R159): tick, T_A and T_B in ns. -/
  | ptpStamp (port : Fin 4) (tick ta tb : Nat) (oneStep : Bool)
  deriving DecidableEq, Repr

/-! ## The machine -/

structure Tdu where
  regs : Memory W64 := []
  fuses : Fuses := Fuses.tduDefaults
  boot : Boot := {}
  pwr : TduPwr := {}
  time : TduTime := {}
  recorder : Recorder := {}
  snap : Option SnapPending := none
  /-- Register values latched by the last snapshot (R452). -/
  latched : Option (Memory W64) := none
  /-- The counter bank (R93), by local stream. -/
  bank : Memory W64 := []
  smp : Sampling := {}
  trc : Trace := {}
  /-- LINK keys of the TDU Sett (R31, R41): port × 64 + index, allotment, instance. -/
  linkKeys : List (Nat × Nat × W64) := []
  chk : TduCheck := {}
  link0 : LinkPort := {}
  link1 : LinkPort := {}
  slots : SlotTable := {}
  q : FnQ := {}
  deriving DecidableEq, Repr

structure Tta where
  regs : Memory W64 := []
  fuses : Fuses := Fuses.defaults
  boot : Boot := {}
  pwr : TtaPwr := {}
  /-- The calibration words programmed over the factory's set (R461, R462), and whether a programming was cut off. -/
  mtp : Option (List W64) := none
  mtpCut : Bool := false
  /-- The calibration set as the last fuse load found it (R462). -/
  cal : List W64 := []
  time : TtaTime := {}
  recorder : Recorder := {}
  snap : Option SnapPending := none
  /-- Register values latched by the last snapshot (R452). -/
  latched : Option (Memory W64) := none
  links : Memory LinkPort := []
  slots : SlotTable := {}
  arbiters : Memory Arbiter := []
  fns : Memory FnQ := []
  mirrored : List Mirrored := []
  /-- Tiles that differ from a cleared, free tile. -/
  tiles : Memory Tile := []
  /-- Resident graphs by handle. -/
  graphs : List (Nat × Graph) := []
  /-- The history store (R208): words by logical byte address / 8; an unlisted word holds a free value. -/
  hist : Memory (Option StoreWord) := []
  slotsX : Memory Slot := []
  /-- Clusters with a newly retired tile, whose allotments are re-bound at the next boundary (R225). -/
  retireDue : List Nat := []
  ing : Ingest := {}
  twin : Twin := {}
  sett : Sett := {}
  captures : List Capture := []
  tables : List Table := []
  wrn : Warren := {}
  det : Detect := {}
  chk : TtaChk := {}
  rpt : Reports := {}
  cmp : Deflate := {}
  deriving DecidableEq, Repr

/-- Pins that the model holds (R11, R162, R460, R471). -/
structure Pins where
  twinSel : Bool := false
  ppsOut : Bool := false
  thermTripLow : Bool := false
  pmReq : BitVec 2 := 0
  pmAck : Bool := false
  deriving DecidableEq, Repr

/-- The two parts, the model's free-value counter and its output log. -/
structure Dev where
  tdu : Tdu := {}
  tta : Tta := {}
  pins : Pins := {}
  freeIx : Nat := 0
  out : List Out := []
  deriving DecidableEq, Repr

/-- The machine: the two parts and the commands that wait, first in first out. -/
structure State where
  dev : Dev := {}
  pending : List Instr := []
  deriving DecidableEq, Repr

/-- Why the machine stops with a fault. -/
inductive Fault where
  /-- No meaning raises it, since the spec describes no condition that stops the block. Safe. -/
  | none
  deriving DecidableEq, Repr

/-- Why a command is refused. -/
inductive Refusal where
  /-- The command has no meaning yet; raised by the dispatch alone. Safe. -/
  | notModelled (mnemonic : String)
  /-- A tile instruction in an encoding that R247 calls reserved; raised by the tile instructions. Safe. -/
  | illegalEncoding
  deriving DecidableEq, Repr

/-- The machine right after reset. -/
def State.reset : State := {}


end Sys2Proof.Machine
end

