-- ==== Sys2Proof/Machine/Table.lean ====
section
/-! DEFINITION. The operations over sparse tables and register words: reading and writing an entry of a `Memory`, its
canonical form, a field of a register word, and the reset value of every register (the register tables of the spec). -/
namespace Sys2Proof

/-- The value at a key: the listed one, else what an unlisted key reads as. -/
def Memory.read {α : Type} (dflt : Nat → α) : Memory α → Nat → α
  | [], k => dflt k
  | (a, v) :: t, k => if a = k then v else Memory.read dflt t k

/-- Insert a pair in key order into a table that does not list the key. -/
def Memory.insert {α : Type} (k : Nat) (v : α) : Memory α → Memory α
  | [] => [(k, v)]
  | (a, w) :: t => if k < a then (k, v) :: (a, w) :: t else (a, w) :: Memory.insert k v t

/-- The table without a key. -/
def Memory.erase {α : Type} (m : Memory α) (k : Nat) : Memory α := m.filter fun e => e.1 != k

/-- Write a key: a value equal to what the unlisted key reads as leaves the key unlisted. -/
def Memory.write {α : Type} [DecidableEq α] (dflt : Nat → α) (m : Memory α) (k : Nat) (v : α) : Memory α :=
  if v = dflt k then Memory.erase m k else Memory.insert k v (Memory.erase m k)

/-- Keys strictly rising. -/
def Memory.rising {α : Type} : Memory α → Bool
  | [] => true
  | [_] => true
  | (a, _) :: (b, w) :: t => decide (a < b) && Memory.rising ((b, w) :: t)

/-- The canonical form: keys strictly rising, no value equal to what the unlisted key reads as. -/
def Memory.wf {α : Type} [DecidableEq α] (dflt : Nat → α) (m : Memory α) : Bool :=
  Memory.rising m && m.all fun e => decide (e.2 ≠ dflt e.1)

namespace Machine

def DomState.code : DomState → Nat
  | .unset => 0
  | .locked => 1
  | .holdover => 2

def Dom.code : Dom → Nat
  | .a => 0
  | .b => 1

def Dom.other : Dom → Dom
  | .a => .b
  | .b => .a

/-! ## CRC-32C (R443) -/

/-- One byte into a reflected CRC register with polynomial `poly`. -/
def crcByte (poly : Nat) (crc : Nat) (b : Byte) : Nat :=
  (List.range 8).foldl (fun c _ => if c % 2 = 1 then (c / 2) ^^^ poly else c / 2) (crc ^^^ b.toNat)

/-- CRC-32C: reflected, polynomial 0x1EDC_6F41, initial value and final XOR all ones. -/
def crc32c (bs : List Byte) : BitVec 32 :=
  BitVec.ofNat 32 ((bs.foldl (crcByte 0x82F63B78) 0xFFFFFFFF) ^^^ 0xFFFFFFFF)

/-- The `n` little-endian bytes of a value (R4). -/
def leBytes (n v : Nat) : List Byte := (List.range n).map fun i => BitVec.ofNat 8 (v / 2 ^ (8 * i))

/-- The value of little-endian bytes. -/
def leVal (bs : List Byte) : Nat := bs.foldr (fun b acc => b.toNat + 256 * acc) 0

/-- Bytes `i` to `i + n - 1` as a little-endian value; bytes beyond the end count as 0. -/
def leAt (bs : List Byte) (i n : Nat) : Nat := leVal ((bs.drop i).take n)

/-- Bytes 0 to 27 of a record (R442). -/
def Rec.body (r : Rec) : List Byte :=
  leBytes 2 r.code.toNat ++ leBytes 1 r.flags.toNat ++ leBytes 1 r.source.toNat ++ leBytes 4 r.stamp.toNat ++
  leBytes 4 r.p0.toNat ++ leBytes 4 r.p1.toNat ++ leBytes 4 r.p2.toNat ++ leBytes 4 r.p3.toNat ++ leBytes 4 r.p4.toNat

/-- The 32 bytes of a record. -/
def Rec.bytes (r : Rec) : List Byte := r.body ++ leBytes 4 r.crc.toNat

/-- The record with its CRC computed (R443). -/
def Rec.sealed (r : Rec) : Rec := { r with crc := crc32c r.body }


/-- The list in the order of `le`, equals as they stood. -/
def sortBy {α : Type} (le : α → α → Bool) (l : List α) : List α := l.insertionSort fun a b => le a b = true

/-- The value of a field of a register word. -/
def Fld.read (f : Fld) (w : W64) : Nat := (w.toNat / 2 ^ f.lo) % 2 ^ f.width

/-- The word with the field replaced by `v` modulo its width. -/
def Fld.put (f : Fld) (w : W64) (v : Nat) : W64 :=
  w - BitVec.ofNat 64 (f.read w * 2 ^ f.lo) + BitVec.ofNat 64 ((v % 2 ^ f.width) * 2 ^ f.lo)

/-- Where the register file of the TTA keeps the map of virtual function `n`. -/
def vfBase (n : Nat) : Nat := 0x100000000 + n * 0x10000

/-- A field of VF `n`'s map. -/
def Fld.ofVf (f : Fld) (n : Nat) : Fld := { f with addr := f.addr + vfBase n }

/-- The register row and entry number that cover an offset. -/
def findRow (rows : List RegRow) (a : Nat) : Option (RegRow × Nat) :=
  match rows with
  | [] => none
  | r :: t =>
    if r.base ≤ a ∧ (a - r.base) % r.stride = 0 ∧ (a - r.base) / r.stride < r.count then some (r, (a - r.base) / r.stride)
    else findRow t a

/-- The rows of a space. -/
def R.rows : Space → List RegRow
  | .tta => R.pfRows
  | .vf => R.vfRows
  | .tdu => R.tduRows

/-- Reset values that depend on the entry number, or that the table gives in words. -/
def Regs.entryReset (base i : Nat) (v : Nat) : Nat :=
  if base = R.TTA_ALT_ENTRY.base then (if i = 0 then 1 * 2 ^ 43 else 0xFFFF * 2 ^ 48)
  else if base = R.TTA_PTP_CFG.base then v + i * 2 ^ 16
  else if base = R.TTA_TIME_STAT.base then 2 ^ 15
  else if base = R.TTA_FN_STAT.base then 0xFFFF * 2 ^ 48 + (i + 1) * 2 ^ 40
  else v

/-- As `entryReset`, for the TDU window. -/
def Regs.entryResetTdu (base i : Nat) (v : Nat) : Nat :=
  if base = R.TDU_CNT_GROUP.base ∧ i = 0 then 4 * 2 ^ 18 + 15 * 2 ^ 8
  else if base = R.TDU_ALLOT_MAP.base ∧ i = 0 then 2 ^ 16
  else v

/-- The sum of the fields' reset values. -/
def rowReset (r : RegRow) : Nat := r.fields.foldl (fun acc f => acc + f.reset * 2 ^ f.lo) 0

/-- What a register holds at reset, and so what an unlisted register of the file reads as. -/
def Regs.resetOf (sp : Space) (a : Nat) : W64 :=
  match sp with
  | .tdu =>
    match findRow R.tduRows a with
    | some (r, i) => BitVec.ofNat 64 (Regs.entryResetTdu r.base i (rowReset r))
    | none => 0
  | .tta | .vf =>
    if a < 0x100000000 then
      match findRow R.pfRows a with
      | some (r, i) => BitVec.ofNat 64 (Regs.entryReset r.base i (rowReset r))
      | none => 0
    else
      match findRow R.vfRows ((a - 0x100000000) % 0x10000) with
      | some (r, _) =>
        if r.base = R.TTA_VF_ID.base then BitVec.ofNat 64 (0xFFFF * 2 ^ 48 + ((a - 0x100000000) / 0x10000) * 2 ^ 40)
        else BitVec.ofNat 64 (rowReset r)
      | none => 0

end Machine
end Sys2Proof
end

