-- ==== Sys2Proof/Machine/Ops.lean ====
section
/-! DEFINITION. The named operations over the state that every chapter uses: sparse tables, register fields and their
reset values, the tick, presented time (R139 to R150), recording an event (R442 to R447), and the model's log of what
leaves the parts. -/
namespace Sys2Proof.Machine

/-! ## Dev access -/

/-- The register file that holds a space's registers: the TDU window, or the TTA's maps. -/
def Dev.file (d : Dev) : Space → Memory W64
  | .tdu => d.tdu.regs
  | _ => d.tta.regs

/-- The register word at an address of a space, as the file holds it. -/
def Dev.word (sp : Space) (a : Nat) (d : Dev) : W64 := Memory.read (Regs.resetOf sp) (d.file sp) a

/-- Store a register word. -/
def Dev.setWord (sp : Space) (a : Nat) (v : W64) (d : Dev) : Dev :=
  match sp with
  | .tdu => { d with tdu := { d.tdu with regs := Memory.write (Regs.resetOf .tdu) d.tdu.regs a v } }
  | .tta | .vf => { d with tta := { d.tta with regs := Memory.write (Regs.resetOf .tta) d.tta.regs a v } }

/-- The value of a register field. -/
def Dev.get (f : Fld) (d : Dev) : Nat := f.read (d.word f.space f.addr)

/-- Set a register field (modulo its width). -/
def Dev.set (f : Fld) (v : Nat) (d : Dev) : Dev := d.setWord f.space f.addr (f.put (d.word f.space f.addr) v)

/-- Is a one-bit field set? -/
def Dev.bit (f : Fld) (d : Dev) : Bool := d.get f != 0

/-- Set a one-bit field. -/
def Dev.setBit (f : Fld) (b : Bool) (d : Dev) : Dev := d.set f (if b then 1 else 0)

/-- Add to a saturating count. -/
def Dev.bump (f : Fld) (n : Nat) (d : Dev) : Dev := d.set f (min (d.get f + n) (2 ^ f.width - 1))

/-- Add to a counter that wraps. -/
def Dev.wrapAdd (f : Fld) (n : Nat) (d : Dev) : Dev := d.set f (d.get f + n)

/-- The TTA's own counter `i` (R497). -/
def Dev.cnt (i n : Nat) (d : Dev) : Dev := d.wrapAdd (R.TTA_CNT_VALUE.at i) n

/-- Add to counter `i` of the TDU's counter bank; every counter is 64 bits wide and wraps (R93). -/
def Dev.own (i n : Nat) (d : Dev) : Dev :=
  { d with tdu := { d.tdu with bank := Memory.write (fun _ => 0) d.tdu.bank i (Memory.read (fun _ => 0) d.tdu.bank i + BitVec.ofNat 64 n) } }

/-- Append to the model's log of what leaves the parts. -/
def Dev.emit (o : Out) (d : Dev) : Dev := { d with out := o :: d.out }

/-- Take a free 64-bit value (log 3). -/
def Dev.free (d : Dev) : W64 × Dev := (Config.freeWord d.freeIx, { d with freeIx := d.freeIx + 1 })

/-! ## Time -/

/-- The time of a domain at tick `t`, in units of 2^-40 ns (R140). -/
def Domain.timeAt (m : Domain) (t : Nat) : Int :=
  match m.corrEnd with
  | some (e, r2) =>
    if t ≤ e then m.ofs + ((t : Int) - m.base) * (2 ^ 40 + m.rate)
    else m.ofs + ((e : Int) - m.base) * (2 ^ 40 + m.rate) + ((t : Int) - e) * (2 ^ 40 + r2)
  | none => m.ofs + ((t : Int) - m.base) * (2 ^ 40 + m.rate)

/-- What is left of a bridge term when the domain in force shows `T` (R144): it moves toward 0 and never passes 0. -/
def Bridge.left (b : Bridge) (T : Int) : Int :=
  let moved : Int := if T ≤ b.fromT then 0 else (T - b.fromT) * b.ppm / 1000000
  if b.amt ≥ 0 then max 0 (b.amt - moved) else min 0 (b.amt + moved)

/-- The time at which a bridge term reaches 0. -/
def Bridge.endT (b : Bridge) : Int :=
  b.fromT + (b.amt.natAbs * 1000000 + b.ppm - 1 : Int) / (if b.ppm = 0 then 1 else b.ppm)


def TimeBase.dom (b : TimeBase) : Dom → Domain
  | .a => b.domA
  | .b => b.domB

def TimeBase.setDom (b : TimeBase) (d : Dom) (v : Domain) : TimeBase :=
  match d with
  | .a => { b with domA := v }
  | .b => { b with domB := v }

/-- Time of the domain in force now. -/
def TimeBase.forceT (b : TimeBase) : Int := (b.dom b.inForce).timeAt b.tick

/-- The own term moves only once the carried part is 0 (R156). -/
def TimeBase.ownLeft (b : TimeBase) : Int :=
  if b.bridge.left b.forceT = 0 then
    ({ b.own with fromT := max b.own.fromT (if b.bridge.amt = 0 then b.own.fromT else b.bridge.endT) } : Bridge).left b.forceT
  else b.own.amt

/-- BRIDGE (R143), in units of 2^-40 ns. -/
def TimeBase.bridgeNow (b : TimeBase) : Int := b.bridge.left b.forceT + b.ownLeft

/-- Presented time (R143), in units of 2^-40 ns. -/
def TimeBase.present (b : TimeBase) : Int := b.forceT + b.bridgeNow

/-- Presented time in whole ns. -/
def TimeBase.presentNs (b : TimeBase) : Int := b.present / 2 ^ 40

/-- Presented time is valid while the domain in force is not UNSET (R143). -/
def TimeBase.valid (b : TimeBase) : Bool := (b.dom b.inForce).state != .unset


/-- The time base of a part. -/
def Dev.tb (p : Part) (d : Dev) : TimeBase :=
  match p with
  | .tdu => d.tdu.time.base
  | .tta => d.tta.time.base

def Dev.setTb (p : Part) (b : TimeBase) (d : Dev) : Dev :=
  match p with
  | .tdu => { d with tdu := { d.tdu with time := { d.tdu.time with base := b } } }
  | .tta => { d with tta := { d.tta with time := { d.tta.time with base := b } } }

/-- Presented time of the part is valid; a TDU's also needs its time state (R157, R158). -/
def Dev.timeValid (p : Part) (d : Dev) : Bool :=
  match p with
  | .tdu => d.tdu.time.state != .unset && d.tdu.time.base.valid
  | .tta => d.tta.time.base.valid

/-- Presented time of the part in whole ns, as a natural number (0 before the epoch). -/
def Dev.nowNs (p : Part) (d : Dev) : Nat := (d.tb p).presentNs.toNat

/-- Move the part's tick on to `t`; a tick already passed changes nothing (R139). -/
def Dev.advance (p : Part) (t : Nat) (d : Dev) : Dev :=
  d.setTb p { d.tb p with tick := max (d.tb p).tick t }

/-- The short stamp (R150) of the part now; while time is not valid, bits 31:0 of the tick (R444). -/
def Dev.stamp (p : Part) (d : Dev) : BitVec 32 :=
  if d.timeValid p then BitVec.ofInt 32 (d.tb p).presentNs else BitVec.ofNat 32 (d.tb p).tick

/-- The short stamp of a presented time in ns. -/
def stampOf (ns : Nat) : BitVec 32 := BitVec.ofNat 32 ns

/-- A value in 2^-40 ns as whole ns, rounded toward 0 and saturating at ±(2^31 − 1) (R144, R151). -/
def ns32 (v : Int) : BitVec 32 :=
  let w : Int := Int.tdiv v (2 ^ 40)
  BitVec.ofInt 32 (max (-(2 ^ 31 - 1)) (min (2 ^ 31 - 1) w))

/-! ## Recording an event -/

/-- The recorder of a part. -/
def Dev.recd (p : Part) (d : Dev) : Recorder :=
  match p with
  | .tdu => d.tdu.recorder
  | .tta => d.tta.recorder

def Dev.setRecd (p : Part) (r : Recorder) (d : Dev) : Dev :=
  match p with
  | .tdu => { d with tdu := { d.tdu with recorder := r } }
  | .tta => { d with tta := { d.tta with recorder := r } }

/-- Queue depth per source (R445). -/
def queueDepth : Part → Nat
  | .tdu => 4
  | .tta => 16

def R.recStatLost : Part → Fld
  | .tdu => R.TDU_REC_STAT_LOST
  | .tta => R.TTA_REC_STAT_LOST

/-- A report of an event is due (R399). -/
def Dev.reportDue (q : QueuedRec) (d : Dev) : Dev :=
  { d with tta := { d.tta with rpt := { d.tta.rpt with due := d.tta.rpt.due ++ [q] } } }

/-- Give a record to its source's queue; a full queue drops it (R446). -/
def Dev.queueRec (p : Part) (permAsked : Bool) (r : Rec) (d : Dev) : Dev :=
  let rc := d.recd p
  if (rc.queue.filter (fun q => q.evt.source = r.source)).length < queueDepth p then
    d.setRecd p { rc with queue := rc.queue ++ [⟨(d.tb p).tick, r, permAsked⟩] }
  else
    let d := (d.bump (R.recStatLost p) 1).setRecd p
      { rc with droppedSrc := if rc.droppedSrc.contains r.source then rc.droppedSrc else r.source :: rc.droppedSrc }
    if p = .tta then d.reportDue ⟨(d.tb p).tick, r, permAsked⟩ else d

/-- The SOURCE byte (R442): the TTA block code, or 0x80 plus the TDU's die index. -/
def Dev.sourceByte (p : Part) (block : Nat) (d : Dev) : BitVec 8 :=
  match p with
  | .tta => BitVec.ofNat 8 block
  | .tdu => BitVec.ofNat 8 (0x80 + d.get R.TDU_DIE_DIE)

/-- The record of an event of this instant (R442, R444). -/
def Dev.mkRec (p : Part) (block code : Nat) (ps : List Nat) (d : Dev) : Rec :=
  let v := d.timeValid p
  { code := BitVec.ofNat 16 code
    flags := (if v then 0#8 else 4#8) ||| (if v && (d.tb p).inForce == .b then 8#8 else 0#8)
    source := d.sourceByte p block
    stamp := d.stamp p
    p0 := BitVec.ofNat 32 (ps.getD 0 0)
    p1 := BitVec.ofNat 32 (ps.getD 1 0)
    p2 := BitVec.ofNat 32 (ps.getD 2 0)
    p3 := BitVec.ofNat 32 (ps.getD 3 0)
    p4 := BitVec.ofNat 32 (ps.getD 4 0)
    crc := 0 }

/-- Record an event. -/
def Dev.event (p : Part) (block code : Nat) (ps : List Nat) (d : Dev) : Dev :=
  d.queueRec p false (d.mkRec p block code ps)

/-- Record an event that its chapter sends to the permanent area (R445). -/
def Dev.eventPerm (p : Part) (block code : Nat) (ps : List Nat) (d : Dev) : Dev :=
  d.queueRec p true (d.mkRec p block code ps)

/-- Emit an anchor (R151): record 0xF001. Under NO_ANCHOR the TTA emits none (R152). -/
def Dev.anchor (p : Part) (reason : Nat) (d : Dev) : Dev :=
  if p = .tta ∧ d.tta.time.noAnchor = true then d else
  let b := d.tb p
  let ns := d.nowNs p
  let sec := ns / 1000000000
  d.event p 2 0xF001
    [ sec % 2 ^ 32,
      (sec / 2 ^ 32) % 2 ^ 16 + b.inForce.code * 2 ^ 16 + b.domA.state.code * 2 ^ 17 + b.domB.state.code * 2 ^ 19 + reason * 2 ^ 21,
      ns % 1000000000,
      (ns32 b.bridgeNow).toNat,
      b.tick ]

/-! ## The shape of a meaning -/

/-- A command that completes: the devices change by `f`, the queue stays as it is. -/
def State.run (s : State) (f : Dev → Dev) : Host.Outcome State Fault Refusal := .next { s with dev := f s.dev }

/-! ## Small list helpers -/

/-- Replace the value of key `k` in an association list, or append it. -/
def assocSet {α : Type} (k : Nat) (v : α) : List (Nat × α) → List (Nat × α)
  | [] => [(k, v)]
  | (a, w) :: t => if a = k then (k, v) :: t else (a, w) :: assocSet k v t

/-- The value of key `k` in an association list. -/
def assocGet {α : Type} (k : Nat) : List (Nat × α) → Option α
  | [] => none
  | (a, w) :: t => if a = k then some w else assocGet k t

/-- The entry of key `k` removed. -/
def assocDel {α : Type} (k : Nat) (l : List (Nat × α)) : List (Nat × α) := l.filter fun e => e.1 != k

/-- Replace element `i` of a list. -/
def updateAt {α : Type} (f : α → α) : Nat → List α → List α
  | _, [] => []
  | 0, x :: t => f x :: t
  | n + 1, x :: t => x :: updateAt f n t

/-- ⌈a / b⌉. -/
def ceilDiv (a b : Nat) : Nat := (a + b - 1) / b

end Sys2Proof.Machine
end

