-- ==== Sys2Proof/Machine/Link.lean ====
section
/-! DEFINITION. The tray link and the twin link (R164 to R186, R512): ports, training, lanes, delivery, credits. -/
namespace Sys2Proof.Machine

/-! ## Port access -/

/-- The part a link end belongs to. -/
def endPart : LinkEnd → Part
  | .tdu _ => .tdu
  | .tta _ => .tta

/-- The port number in link events. -/
def endPort : LinkEnd → Nat
  | .tdu p => p.val
  | .tta p => p.val

/-- The TTA end of port `p`. -/
def ttaEnd (p : Nat) : LinkEnd := .tta (Fin.ofNat 17 p)

/-- The field of a port block, by the three blocks that exist: tray port, twin link, TDU port. -/
def endFld (tray twin tdu : Fld) : LinkEnd → Fld
  | .tta p => if p.val = 16 then twin else tray.at p.val
  | .tdu p => tdu.at p.val

def tlState : LinkEnd → Fld := endFld R.TTA_TL_CTL_STATE R.TTA_TWL_CTL_STATE R.TDU_TL_CTL_STATE
def tlActive : LinkEnd → Fld := endFld R.TTA_TL_CTL_ACTIVE R.TTA_TWL_CTL_ACTIVE R.TDU_TL_CTL_ACTIVE
def tlRetired : LinkEnd → Fld := endFld R.TTA_TL_CTL_RETIRED R.TTA_TWL_CTL_RETIRED R.TDU_TL_CTL_RETIRED
def tlEnable : LinkEnd → Fld := endFld R.TTA_TL_CTL_ENABLE R.TTA_TWL_CTL_ENABLE R.TDU_TL_CTL_ENABLE
def tlCrcErr : LinkEnd → Fld := endFld R.TTA_TL_ERR_CRC_ERR R.TTA_TWL_ERR_CRC_ERR R.TDU_TL_ERR_CRC_ERR
def tlReplays : LinkEnd → Fld := endFld R.TTA_TL_ERR_REPLAYS R.TTA_TWL_ERR_REPLAYS R.TDU_TL_ERR_REPLAYS
def tlCtlErr : LinkEnd → Fld := endFld R.TTA_TL_ERR_CTL_ERR R.TTA_TWL_ERR_CTL_ERR R.TDU_TL_ERR_CTL_ERR
def tlRetrains : LinkEnd → Fld := endFld R.TTA_TL_ERR_RETRAINS R.TTA_TWL_ERR_RETRAINS R.TDU_TL_ERR_RETRAINS
def tlTagDrop : LinkEnd → Fld := endFld R.TTA_TL_ERR_TAG_DROP R.TTA_TWL_ERR_TAG_DROP R.TDU_TL_ERR_TAG_DROP
def tlLost : LinkEnd → Fld := endFld R.TTA_TL_ERR_LOST R.TTA_TWL_ERR_LOST R.TDU_TL_ERR_LOST

/-- The port of a link end. -/
def Dev.port (e : LinkEnd) (d : Dev) : LinkPort :=
  match e with
  | .tdu p => if p.val = 0 then d.tdu.link0 else d.tdu.link1
  | .tta p => Memory.read (fun _ => {}) d.tta.links p.val

def Dev.setPort (e : LinkEnd) (l : LinkPort) (d : Dev) : Dev :=
  match e with
  | .tdu p => if p.val = 0 then { d with tdu := { d.tdu with link0 := l } } else { d with tdu := { d.tdu with link1 := l } }
  | .tta p => { d with tta := { d.tta with links := Memory.write (fun _ => {}) d.tta.links p.val l } }

/-- Change a port. -/
def Dev.updPort (e : LinkEnd) (f : LinkPort → LinkPort) (d : Dev) : Dev := d.setPort e (f (d.port e))

/-- The port is UP (state 6). -/
def Dev.isUp (e : LinkEnd) (d : Dev) : Bool := d.get (tlState e) == 6

/-- The lanes a port has (R164). -/
def laneMask : LinkEnd → Nat
  | .tta p => if p.val = 16 then 0xFF else 0xF
  | .tdu _ => 0xF

/-- The number of lanes in a mask. -/
def popMask (m : Nat) : Nat := ((List.range 8).filter fun i => m.testBit i).length

/-- Record a link event: block 0x03 on the TTA. -/
def Dev.linkEvent (e : LinkEnd) (code : Nat) (ps : List Nat) (d : Dev) : Dev :=
  d.event (endPart e) 3 code (endPort e :: ps)

/-- Set the training state. TL_CTL.STATE shows RETRAIN (7) during a retrain attempt (R180). -/
def Dev.setPhase (e : LinkEnd) (ph : Nat) (d : Dev) : Dev :=
  let l := d.port e
  (d.setPort e { l with phase := ph }).set (tlState e) (if l.inRetrain && 2 ≤ ph && ph ≤ 5 then 7 else ph)

/-! ## Sending -/

/-- The data bytes of a payload, LEN (R167, R171 to R174). -/
def payloadLen : Payload → Nat
  | .data cs => cs.foldl (fun acc c => ceilDiv acc 8 * 8 + c.length) 0
  | .trace seg => seg.length
  | .stamps l => 8 * l.length
  | .time _ => 48
  | .echo _ _ => 16
  | .record rs => 32 * rs.length
  | .control _ _ m => 8 + (match m with
    | .regWrite .. => 24
    | .slotTable .. => 264
    | .partnerQuery => 0
    | _ => 8)
  | .check _ m => 8 + (match m with
    | .bins _ vs => 8 + 8 * vs.length
    | _ => 8)
  | .hint l => 16 * l.length
  | .ring _ _ _ c => 8 + c.length
  | .sett _ => 64
  | .checkpoint _ _ _ m => 16 + m.length
  | .twin _ _ m => twinLen m

/-- PROT of the type's entry in the table of R169. -/
def payloadProt : Payload → Bool
  | .time _ | .echo .. | .sett _ | .checkpoint .. | .twin .. => false
  | _ => true

/-- Give a frame to its class queue at a port (R187). -/
def Dev.sendFrame (e : LinkEnd) (cls : Fin 8) (allotIdx : BitVec 6) (p : Payload) (d : Dev) : Dev :=
  d.updPort e fun l => { l with queue := l.queue ++
    [{ payload := p, cls := cls, prot := payloadProt p, fwd := none, allotIdx := allotIdx, len := payloadLen p, seq := 0, sentAt := 0 }] }

/-- A TDU sends its streams on both ports with identical payload (R13); with one port UP, on that one (log 9). -/
def Dev.sendBoth (cls : Fin 8) (allotIdx : BitVec 6) (p : Payload) (d : Dev) : Dev :=
  let u0 := d.isUp (.tdu 0)
  let u1 := d.isUp (.tdu 1)
  let d := if u0 || !u1 then d.sendFrame (.tdu 0) cls allotIdx p else d
  if u1 || !u0 then d.sendFrame (.tdu 1) cls allotIdx p else d

/-- Send on the ports that are UP only. -/
def Dev.sendUp (cls : Fin 8) (allotIdx : BitVec 6) (p : Payload) (d : Dev) : Dev :=
  let d' := if d.isUp (.tdu 0) then d.sendFrame (.tdu 0) cls allotIdx p else d
  if d.isUp (.tdu 1) then d'.sendFrame (.tdu 1) cls allotIdx p else d'

/-- Send a CONTROL message down one tray port (R172). -/
def Dev.sendControl (p : Nat) (tag : BitVec 32) (ackReq : Bool) (m : CtlMsg) (d : Dev) : Dev :=
  d.sendFrame (ttaEnd p) 2 0 (.control tag ackReq m)

/-- Send a CONTROL message to every TDU whose link is UP. -/
def Dev.controlAll (m : CtlMsg) (d : Dev) : Dev :=
  (List.range 16).foldl (fun d p => if d.isUp (ttaEnd p) then d.sendControl p 0 false m else d) d

/-! ## State changes of a port (R180) -/

/-- A space as a fresh UP finds it: SEQ restarts from 0, nothing unacknowledged, the peer's credits whole (R175, R179). -/
def freshSpace (limit : Nat) : SpaceState := { credLimit := limit }

/-- Entry to DOWN: both replay buffers are discarded and counted when the port was UP or in RETRAIN; event 0x2002 with its
cause unless the table names another event. -/
def Dev.goDown (e : LinkEnd) (cause : Option Nat) (retry : Bool) (d : Dev) : Dev :=
  let l := d.port e
  let st := d.get (tlState e)
  if st = 0 then d.setPort e { l with retryWait := l.retryWait && retry } else
  let lost := if st = 6 ∨ st = 7 then l.strict.replay.length + l.weighted.replay.length else 0
  let d := d.setPort e { l with phase := 0, inRetrain := false, tries := 0, retryWait := retry, echoes := 0, current := none,
                                strict := freshSpace 0, weighted := freshSpace 0 }
  let d := (d.set (tlState e) 0).bump (tlLost e) lost
  match cause with
  | some c => d.linkEvent e 0x2002 [c, lost]
  | none => d

/-- May the port train now: its domain is released, its part is in a state with links, it is neither sleeping nor parked. -/
def Dev.portAllowed (e : LinkEnd) (d : Dev) : Bool :=
  match e with
  | .tta p => d.bit R.TTA_BOOT_CTL_TRAY_GO && d.get R.TTA_PWR_STAT_STATE != 2 &&
      !(d.get R.TTA_PWR_STAT_SLEEPING).testBit p.val
  | .tdu _ => d.get R.TDU_PWR_STAT_STATE ≤ 1 && !(d.port e).parked

/-- The wake pattern is short under WAKE_SHORT (R184, R496). -/
def Dev.wakeShort (p : Part) (d : Dev) : Bool :=
  match p with
  | .tta => d.bit R.TTA_COMPAT_WAKE_SHORT
  | .tdu => d.bit R.TDU_COMPAT_WAKE_SHORT

/-- DOWN to WAKE: the lanes that are not retired become active and the wake pattern is sent. -/
def Dev.startTraining (e : LinkEnd) (d : Dev) : Dev :=
  if d.get (tlState e) = 0 ∧ d.bit (tlEnable e) = true ∧ (d.port e).refused = false ∧ d.portAllowed e = true then
    let act := laneMask e - (laneMask e &&& d.get (tlRetired e))
    if act = 0 then d else
    ((d.updPort e fun l => { l with retryWait := false, inRetrain := false, tries := 0 }).set (tlActive e) act).setPhase e 1
      |>.emit (.wakePattern e (d.wakeShort (endPart e)))
  else d

/-- Lane retirement (R185): the lane's bit leaves ACTIVE and joins RETIRED. -/
def Dev.retireLane (e : LinkEnd) (ln : Nat) (d : Dev) : Dev :=
  let a := d.get (tlActive e)
  let r := d.get (tlRetired e)
  let b := 2 ^ ln
  (d.set (tlActive e) (a - (a &&& b))).set (tlRetired e) (r ||| b)

/-- Count a retirement at the end that detects the fault: group 0 counter 16 on a TDU, counter 15 on the TTA; event
0x2005 names the lane and its cause. -/
def Dev.countRetired (e : LinkEnd) (ln cause : Nat) (d : Dev) : Dev :=
  (match e with
   | .tta _ => d.cnt 15 1
   | .tdu _ => d.own 16 1).linkEvent e 0x2005 [ln, cause]

/-- Retire every lane of a mask with a cause. -/
def Dev.retireMask (e : LinkEnd) (mask cause : Nat) (d : Dev) : Dev :=
  (List.range 8).foldl (fun d ln => if mask.testBit ln then (d.retireLane e ln).countRetired e ln cause else d) d

/-- The body words of a frame (R167): ORIGIN, counter, data, tag. -/
def Frame.words (f : Frame) : Nat := (if f.fwd.isSome then 1 else 0) + (if f.prot then 3 else 0) + ceilDiv f.len 8

/-- The charge of a frame (R191). -/
def Frame.charge (ovh : Nat) (f : Frame) : Nat := 8 * (f.words + 2) + ovh

/-- The credits a frame takes (R179). -/
def Frame.credits (f : Frame) : Nat := ceilDiv (8 * f.words + 16) 64

/-- Strict classes are S0 to S3 (R187). -/
def Frame.isStrict (f : Frame) : Bool := f.cls.val < 4

/-- The sequence space of a port. -/
def LinkPort.space (l : LinkPort) (strict : Bool) : SpaceState := if strict then l.strict else l.weighted

def LinkPort.setSpace (l : LinkPort) (strict : Bool) (x : SpaceState) : LinkPort :=
  if strict then { l with strict := x } else { l with weighted := x }

/-- PKT_OVH of a part's transmitters (R191). -/
def Dev.pktOvh (p : Part) (d : Dev) : Nat :=
  match p with
  | .tta => d.get R.TTA_EGR_CFG_PKT_OVH
  | .tdu => d.get R.TDU_EGR_CFG_PKT_OVH

/-- A frame in progress ends in ABORT (R177): a new frame is head of its class again with the finish tag it had and an S2
or S3 charge refunded; a replay will be resent. -/
def LinkPort.putBack (ovh : Nat) (l : LinkPort) : LinkPort :=
  match l.current with
  | none => l
  | some (f, true) =>
    let x := l.space f.isStrict
    { l.setSpace f.isStrict { x with resendFrom := some f.seq } with current := none }
  | some (f, false) =>
    let c : Int := f.charge ovh * 1000
    { l with
      current := none
      queue := f :: l.queue
      tokens2 := if f.cls = 2 then l.tokens2 + c else l.tokens2
      tokens3 := if f.cls = 3 then l.tokens3 + c else l.tokens3
      tagged := if f.isStrict then l.tagged else f.cls.val :: l.tagged }

/-- End the frame in progress with ABORT. -/
def Dev.abortCurrent (e : LinkEnd) (d : Dev) : Dev :=
  match (d.port e).current with
  | none => d
  | some _ => (d.updPort e (LinkPort.putBack (d.pktOvh (endPart e)))).emit (.abort e)

/-- Retired lanes return at a RETRAIN after RETIRE_CLR (R185). -/
def Dev.returnLanes (e : LinkEnd) (d : Dev) : Dev :=
  if (d.port e).clrPending then
    ((d.set (tlActive e) (d.get (tlActive e) ||| d.get (tlRetired e))).set (tlRetired e) 0).updPort e fun l => { l with clrPending := false }
  else d

/-- UP to RETRAIN (R180): frames are held, replay buffers and SEQ are kept, retired lanes return after RETIRE_CLR. -/
def Dev.enterRetrain (e : LinkEnd) (cause : Nat) (d : Dev) : Dev :=
  if d.get (tlState e) ≠ 6 then d else
  let d := d.abortCurrent e
  let d := (d.returnLanes e).updPort e fun l => { l with inRetrain := true, tries := 0 }
  ((d.setPhase e 2).bump (tlRetrains e) 1).linkEvent e 0x2004 [cause]

/-- Replay a space from a SEQ (R177): the frame in progress ends in ABORT, and the 16th consecutive replay of the same SEQ
sends the link to RETRAIN. -/
def Dev.replayFrom (e : LinkEnd) (strict : Bool) (seq : Nat) (d : Dev) : Dev :=
  let l := d.port e
  let x := l.space strict
  if (x.replay.any fun f => f.seq = seq) = false then d else
  let run := match x.replayRun with
    | some (q, n) => if q = seq then n + 1 else 1
    | none => 1
  let d := d.abortCurrent e
  let d := d.updPort e fun l =>
    let x := l.space strict
    l.setSpace strict { x with resendFrom := some seq, replayRun := some (seq, run) }
  let d := d.bump (tlReplays e) 1
  let d := match e with
    | .tdu p => d.own (14 + p.val) 1
    | .tta _ => d
  if run ≥ 16 then d.enterRetrain e 1 else d

/-- `a` is later than `b` in a 12-bit sequence space. -/
def seqLater (a b : Nat) : Bool := let k := (a + 4096 - b) % 4096; 0 < k && k < 2048

/-- Free the frames of a space up to and including `seq` (R177). -/
def SpaceState.free (x : SpaceState) (seq : Nat) : SpaceState :=
  let rest := x.replay.filter fun f => seqLater f.seq seq
  { x with
    replay := rest
    resendFrom := match x.resendFrom with
      | some q => if seqLater q seq then some q else (rest.head?).map (·.seq)
      | none => none }

/-- The link comes up (R180): from DOWN the SEQ spaces restart; from RETRAIN each space is replayed from its oldest
unacknowledged frame. A TDU's Sett sends its measurement (R38), a free value. -/
def Dev.linkUp (e : LinkEnd) (d : Dev) : Dev :=
  let l := d.port e
  let lim (x : BitVec 16) := x.toNat
  let l :=
    if l.inRetrain then
      { l with strict := { l.strict with resendFrom := l.strict.replay.head?.map (·.seq) },
               weighted := { l.weighted with resendFrom := l.weighted.replay.head?.map (·.seq) } }
    else
      match l.peer with
      | some t => { l with strict := freshSpace (lim t.credS), weighted := freshSpace (lim t.credW) }
      | none => { l with strict := freshSpace 0, weighted := freshSpace 0 }
  let d := d.setPort e { l with inRetrain := false, tries := 0 }
  let d := (d.setPhase e 6).linkEvent e 0x2001 [d.get (tlActive e), l.version]
  match e with
  | .tta _ => d
  | .tdu p =>
    let n := d.freeIx
    { d with freeIx := n + 1 }.sendFrame (.tdu p) 2 0 (.sett (.evidence ((List.range 48).map (Config.freeByte n))))

/-! ## Acceptance (R175, R176, R178) -/

/-- Answer with an ACK control block that carries the last accepted SEQ of each space, or a NAK with the expected one. -/
def Dev.sendAck (e : LinkEnd) (nakS nakW : Bool) (d : Dev) : Dev :=
  let l := d.port e
  let last (x : SpaceState) (nak : Bool) := if nak then x.expect else (x.expect + 4095) % 4096
  d.emit (.ack e (last l.strict nakS) nakS (last l.weighted nakW) nakW)

/-- NAK the expected SEQ of a space, at most once for each expected SEQ in any 1 µs (R176). -/
def Dev.sendNak (e : LinkEnd) (strict : Bool) (d : Dev) : Dev :=
  let l := d.port e
  let x := l.space strict
  let now := (d.tb (endPart e)).tick
  let recent := match x.nakAt with
    | some (q, t) => decide (q = x.expect ∧ now < t + 1000)
    | none => false
  if recent then d else
  (d.setPort e (l.setSpace strict { x with nakAt := some (x.expect, now) })).sendAck e strict (!strict)

/-- The body words of an arriving frame (R167). -/
def RxHdr.words (h : RxHdr) : Nat := (if h.fwd.isSome then 1 else 0) + (if h.prot then 3 else 0) + ceilDiv h.len.toNat 8

/-- Count the bytes of a frame that arrived on a port (R93, R497). -/
def Dev.countRx (e : LinkEnd) (h : RxHdr) (d : Dev) : Dev :=
  let n := 8 * (h.words + 2)
  match e with
  | .tta p => d.cnt (if p.val = 16 then 2 else 0) n
  | .tdu p => (d.own (11 + 2 * p.val) n).own (65 + 2 * h.allotIdx.toNat) n

/-- Count the bytes of a frame sent on a port (R93, R497). -/
def Dev.countTx (e : LinkEnd) (f : Frame) (d : Dev) : Dev :=
  let n := 8 * (f.words + 2)
  match e with
  | .tta p => d.cnt (if p.val = 16 then 3 else 1) n
  | .tdu p => (d.own (10 + 2 * p.val) n).own (65 + 2 * f.allotIdx.toNat) n

/-- Consume the expected SEQ of a space and pass the frame's credits back (R178, R179). -/
def Dev.consumeSeq (e : LinkEnd) (strict : Bool) (h : RxHdr) (d : Dev) : Dev :=
  d.updPort e fun l =>
    let x := l.space strict
    l.setSpace strict { x with expect := (x.expect + 1) % 4096, tagFailed := none,
                               credFreed := (x.credFreed + ceilDiv (8 * h.words + 16) 64) % 65536 }

/-- A tag failure on the TTA (R43): counted, event 0x6001. Paths (log 26): 0 tray link, 1 history store, 2 Warren. -/
def Dev.tagFailure (path allot unit : Nat) (d : Dev) : Dev :=
  (d.bump R.TTA_ISO_TAG_FAIL_COUNT 1).event .tta 7 0x6001 [path, allot, unit]

/-- The allotment that a die's index names, as the TTA knows it (R98). -/
def Dev.dieAllot (die ix : Nat) (d : Dev) : Nat := if ix = 0 then 0 else (assocGet (die * 64 + ix) d.tta.sett.dieMap).getD 0xFFFF

/-- A frame whose tag failed, at either end. -/
def Dev.frameTagFailed (e : LinkEnd) (h : RxHdr) (d : Dev) : Dev :=
  match e with
  | .tta p => d.tagFailure 0 (d.dieAllot p.val h.allotIdx.toNat) p.val
  | .tdu _ => d

/-- Is the frame accepted (R175)? `prot` is the PROT entry of the frame's type (R168). Everything the receiver does with a
frame it does not accept is done here: NAK, duplicate acknowledged again, second tag failure dropped and consumed (R178). -/
def Dev.acceptFrame (e : LinkEnd) (prot : Bool) (h : RxHdr) (d : Dev) : Bool × Dev :=
  if d.isUp e = false then (false, d) else
  let strict := h.cls.val < 4
  let x := (d.port e).space strict
  let d := d.countRx e h
  if h.crcOk = false then (false, (d.bump (tlCrcErr e) 1).sendNak e strict)
  else if h.prot ≠ prot then (false, d)
  else if h.seq.toNat = x.expect then
    if h.prot && !h.tagOk then
      let d := d.frameTagFailed e h
      if x.tagFailed = some x.expect then
        let d := (d.consumeSeq e strict h).bump (tlTagDrop e) 1
        (false, (d.linkEvent e 0x2007 [if strict then 0 else 1, h.seq.toNat]).sendAck e false false)
      else
        (false, (d.updPort e fun l => l.setSpace strict { l.space strict with tagFailed := some x.expect }).sendNak e strict)
    else (true, ((d.consumeSeq e strict h).updPort e fun l => { l with lastRx := (d.tb (endPart e)).tick }).sendAck e false false)
  else if seqLater h.seq.toNat x.expect then (false, d.sendNak e strict)
  else (false, d.sendAck e false false)

/-! ## The commands of training and lanes -/

/-- LINK_ENABLE (R180): 1 starts training from DOWN, and ends a refusal; 0 holds the port in DOWN. -/
def linkEnable (e : LinkEnd) (en : Bool) (d : Dev) : Dev :=
  let d := d.setBit (tlEnable e) en
  if en then (d.updPort e fun l => { l with refused := false }).startTraining e
  else d.goDown e (some 0) false

/-- LINK_RETRAIN (R180). -/
def execLinkRetrain (e : LinkEnd) (s : State) := s.run fun d => d.enterRetrain e 0

/-- RETIRE_CLR (R185): retired lanes return at the next RETRAIN. -/
def execRetireClr (e : LinkEnd) (s : State) := s.run fun d => d.updPort e fun l => { l with clrPending := true }

/-- WAKE_PATTERN_DONE: WAKE to LOCK. -/
def wakePatternDone (e : LinkEnd) (d : Dev) : Dev := if (d.port e).phase = 1 then d.setPhase e 2 else d

def execWakePatternDone (e : LinkEnd) (s : State) := s.run (wakePatternDone e)

/-- LOCK_ACHIEVED: the lanes that did not lock in time are retired (cause 0), and the port enters DESKEW. -/
def lockAchieved (e : LinkEnd) (locked : BitVec 8) (d : Dev) : Dev :=
  let a := d.get (tlActive e)
  let got := a &&& locked.toNat
  if (d.port e).phase = 2 ∧ got ≠ 0 then (d.retireMask e (a - got) 0).setPhase e 3 else d

def execLockAchieved (e : LinkEnd) (locked : BitVec 8) (s : State) := s.run (lockAchieved e locked)

/-- The link version a part runs (R181, R182): the running image's on the TTA, 1 on a TDU. -/
def Dev.linkVer (p : Part) (d : Dev) : Nat :=
  match p with
  | .tta => d.get R.TTA_CAPS_LINK_VER
  | .tdu => 1

/-- The TTA ID (R11): bits 13:0 of TTA_POS. -/
def Dev.ttaId (d : Dev) : Nat := (d.word .tta R.TTA_POS.base).toNat % 2 ^ 14

/-- The TRAIN payload of a port (R181). -/
def Dev.ownTrain (e : LinkEnd) (d : Dev) : Train :=
  let v := d.linkVer (endPart e)
  let (cs, cw) : Nat × Nat := match e with
    | .tta p => if p.val = 16 then (16 * 1024, 256 * 1024) else (8 * 1024, 64 * 1024)
    | .tdu _ => (4 * 1024, 16 * 1024)
  { version := BitVec.ofNat 8 v, minVersion := BitVec.ofNat 8 (v - 1)
    role := match e with | .tta _ => 1 | .tdu _ => 0
    port := BitVec.ofNat 8 (endPort e)
    ttaId := match e with | .tta _ => BitVec.ofNat 16 d.ttaId | .tdu _ => 0
    lanes := BitVec.ofNat 8 (d.get (tlActive e))
    credS := BitVec.ofNat 16 (cs / 64), credW := BitVec.ofNat 16 (cw / 64) }

/-- The last active lane is gone (R185): the port goes to DOWN with cause 4. -/
def Dev.lanesLeft (e : LinkEnd) (d : Dev) (k : Dev → Dev) : Dev :=
  if d.get (tlActive e) = 0 then d.goDown e (some 4) false else k d

/-- DESKEW_DONE: lanes with too much skew are retired (cause 1), and the port enters PARAM and sends TRAIN. -/
def deskewDone (e : LinkEnd) (skewed : BitVec 8) (d : Dev) : Dev :=
  if (d.port e).phase ≠ 3 then d else
  (d.retireMask e (d.get (tlActive e) &&& skewed.toNat) 1).lanesLeft e fun d =>
    (d.setPhase e 4).emit (.train e (d.ownTrain e))

/-- A training state fails (R512): in a RETRAIN attempt the next attempt starts at LOCK and the third failure goes to DOWN
with cause 3; from DOWN, LOCK fails with event 0x2003 and the later states with cause 5; training is tried again. -/
def trainingFailed (e : LinkEnd) (d : Dev) : Dev :=
  let l := d.port e
  if l.phase < 2 ∨ 5 < l.phase then d else
  if l.inRetrain then
    if l.tries + 1 ≥ 3 then d.goDown e (some 3) true
    else (d.updPort e fun l => { l with tries := l.tries + 1 }).setPhase e 2
  else if l.phase = 2 then (d.goDown e none true).linkEvent e 0x2003 []
  else d.goDown e (some 5) true

/-- LINK_RETRY_TIMER: training starts again. -/
def linkRetry (e : LinkEnd) (d : Dev) : Dev := if (d.port e).retryWait then d.startTraining e else d

def execLinkRetryTimer (e : LinkEnd) (s : State) := s.run (linkRetry e)

/-- LANE_FAULT in UP (R185): lanes that RETIRE_CLR returns are back before the faulty lane leaves, so the retrain runs without it. -/
def laneFault (e : LinkEnd) (f : LaneFault) (d : Dev) : Dev :=
  if d.isUp e = false then d else
  let retire (ln : Fin 8) (cause : Nat) : Dev :=
    if (d.get (tlActive e)).testBit ln.val then
      (((((d.returnLanes e).retireLane e ln.val).countRetired e ln.val cause).emit (.lane e ln.val 1)).lanesLeft e fun d => d.enterRetrain e 2)
    else d
  match f with
  | .syncHeaders ln => retire ln 2
  | .blockLock ln => retire ln 3
  | .allLanes => d.enterRetrain e 3

/-- LANE (R185): a request retires the lane at this end too, is acknowledged, and the port retrains without it. -/
def laneBlock (e : LinkEnd) (crcOk : Bool) (ln kind : BitVec 8) (d : Dev) : Dev :=
  if crcOk = false then d.bump (tlCtlErr e) 1
  else if kind = 1 ∧ d.isUp e = true ∧ (d.get (tlActive e)).testBit ln.toNat = true then
    (((d.returnLanes e).retireLane e ln.toNat).emit (.lane e ln.toNat 2)).lanesLeft e fun d => d.enterRetrain e 2
  else d

/-- ACK_BLOCK (R176, R177): frees acknowledged frames; a NAK frees those before the expected SEQ and replays from it. -/
def ackBlock (e : LinkEnd) (crcOk : Bool) (s : BitVec 12) (nakS : Bool) (w : BitVec 12) (nakW : Bool) (d : Dev) : Dev :=
  if crcOk = false then d.bump (tlCtlErr e) 1 else
  if d.isUp e = false then d else
  let upTo (q : BitVec 12) (nak : Bool) := if nak then (q.toNat + 4095) % 4096 else q.toNat
  let d := d.updPort e fun l => { l with strict := l.strict.free (upTo s nakS), weighted := l.weighted.free (upTo w nakW) }
  let d := if nakS then d.replayFrom e true s.toNat else d
  if nakW then d.replayFrom e false w.toNat else d

def execAckBlock (e : LinkEnd) (crcOk : Bool) (s : BitVec 12) (nakS : Bool) (w : BitVec 12) (nakW : Bool) (st : State) :=
  st.run (ackBlock e crcOk s nakS w nakW)

/-- CREDIT (R179): the count is cumulative. -/
def creditBlock (e : LinkEnd) (crcOk : Bool) (s w : BitVec 16) (d : Dev) : Dev :=
  if crcOk = false then d.bump (tlCtlErr e) 1 else
  d.updPort e fun l => { l with strict := { l.strict with credFreedByPeer := s.toNat },
                                weighted := { l.weighted with credFreedByPeer := w.toNat } }

def execCredit (e : LinkEnd) (crcOk : Bool) (s w : BitVec 16) (st : State) := st.run (creditBlock e crcOk s w)

/-- ABORT_BLOCK (R166, R176): the frame in progress is discarded without a NAK; the receiver's expected SEQ stays. -/
def execAbortBlock (_e : LinkEnd) (s : State) := s.run id

/-- REPLAY_TIMEOUT (R177): the oldest unacknowledged frame of the space was sent whole 0.8 µs (strict) or 4 µs (weighted)
ago, and the space is replayed from it. -/
def replayTimeout (e : LinkEnd) (strict : Bool) (tick : Nat) (d : Dev) : Dev :=
  let d := d.advance (endPart e) tick
  if d.isUp e = false then d else
  let x := (d.port e).space strict
  match x.replay.head? with
  | some f => if f.sentAt + (if strict then 800 else 4000) ≤ (d.tb (endPart e)).tick ∧ x.resendFrom = none
              then d.replayFrom e strict f.seq else d
  | none => d

def execReplayTimeout (e : LinkEnd) (strict : Bool) (tick : Nat) (s : State) := s.run (replayTimeout e strict tick)

/-- CREDIT_RETURN (R179). -/
def creditReturn (e : LinkEnd) (d : Dev) : Dev :=
  if d.isUp e then d.emit (.credit e (d.port e).strict.credFreed (d.port e).weighted.credFreed) else d

def execCreditReturn (e : LinkEnd) (s : State) := s.run (creditReturn e)

/-- TRAIN_FRAME (R182, R183). -/
def trainFrame (e : LinkEnd) (crcOk : Bool) (t : Train) (d : Dev) : Dev :=
  let l := d.port e
  if l.phase ≠ 4 then d else
  if crcOk = false then d.bump (tlCrcErr e) 1 else
  let own := d.ownTrain e
  let ver := min own.version.toNat t.version.toNat
  let roleOk : Bool := match e with
    | .tdu _ => t.role == 1
    | .tta p => t.role == (if p.val = 16 then 1 else 0)
  let wired : Bool := match e with
    | .tdu p => t.ttaId.toNat % 2 == p.val && (!d.bit R.TDU_DIE_VALID || d.get R.TDU_DIE_DIE == t.port.toNat)
    | .tta _ => true
  if ver < own.minVersion.toNat ∨ ver < t.minVersion.toNat ∨ roleOk = false ∨ wired = false then
    let d := if wired then d else d.linkEvent e 0x2008 [t.port.toNat, t.ttaId.toNat]
    let d := (d.goDown e none false).linkEvent e 0x2010 [own.version.toNat, t.version.toNat]
    d.updPort e fun l => { l with refused := true }
  else
    let d := match e with
      | .tdu p =>
        if p.val = 0 ∨ d.get (tlState (.tdu 0)) = 0 then (d.set R.TDU_DIE_DIE t.port.toNat).setBit R.TDU_DIE_VALID true else d
      | .tta _ => d
    (d.updPort e fun l => { l with peer := some t, version := ver, echoes := 0 }).setPhase e 5

/-! ## Port reset (R494, R455: level L4) -/

/-- SEEN, LAST_SRC and LAST_LEVEL of a part's TTA_RST_CAUSE or TDU_RST_CAUSE. -/
def rstSeen : Part → Fld
  | .tta => R.TTA_RST_CAUSE_SEEN
  | .tdu => R.TDU_RST_CAUSE_SEEN
def rstSrc : Part → Fld
  | .tta => R.TTA_RST_CAUSE_LAST_SRC
  | .tdu => R.TDU_RST_CAUSE_LAST_SRC
def rstLevel : Part → Fld
  | .tta => R.TTA_RST_CAUSE_LAST_LEVEL
  | .tdu => R.TDU_RST_CAUSE_LAST_LEVEL

/-- A source asserted (R456). -/
def Dev.rstSeenSrc (p : Part) (src : Nat) (d : Dev) : Dev := d.set (rstSeen p) (d.get (rstSeen p) ||| 2 ^ src)

/-- A source set a level. -/
def Dev.rstCause (p : Part) (src lvl : Nat) (d : Dev) : Dev := ((d.rstSeenSrc p src).set (rstSrc p) src).set (rstLevel p) lvl

/-- An L4 reset of a port: DOWN with cause 1, retired lanes returned, the RO/V and RW1C fields of its block and of its
TTA_TIME_LAT entry at their reset values, then training again while ENABLE is 1. -/
def portReset (e : LinkEnd) (d : Dev) : Dev :=
  let d := d.goDown e (some 1) false
  let d := (d.set (tlRetired e) 0).set (tlActive e) 0
  let d := d.setPort e { (({} : LinkPort)) with queue := (d.port e).queue, parked := (d.port e).parked }
  let d := match e with
    | .tdu p => d.setWord .tdu (R.TDU_TL_ERR.base + 0x100 * p.val) 0
    | .tta p =>
      let d := if p.val = 16 then (d.setWord .tta R.TTA_TWL_ERR.base 0).setWord .tta R.TTA_TWL_FWD.base 0
        else (d.setWord .tta (R.TTA_TL_ERR.base + 0x1000 * p.val) 0).setWord .tta (R.TTA_TL_FWD.base + 0x1000 * p.val) 0
      d.setWord .tta (R.TTA_TIME_LAT.base + 8 * p.val) 0
  d.startTraining e

end Sys2Proof.Machine
end

