-- ==== Sys2Proof/Machine/Egress.lean ====
section
/-! DEFINITION. Egress scheduling (R187 to R192), quiet windows and the slot table (R193, R194), and the deadline-first
arbiters (R195 to R197). -/
namespace Sys2Proof.Machine

/-! ## Quiet windows -/

/-- A window that applies: START_US above 9,999 acts as 9,999, LEN_US 0 as not valid, above 500 as 500 (R193). -/
def SlotWin.window? (w : SlotWin) : Option (Nat × Nat) :=
  if w.valid ∧ w.lenUs ≠ 0 then some (min w.startUs.toNat 9999 * 1000, min w.lenUs.toNat 500 * 1000) else none

/-- The radio frame length in ns: radio frames begin at every whole 10 ms of presented time (R193). -/
def radioFrameNs : Nat := 10000000

/-- A window of the bank is open at presented time `t`. -/
def windowOpen (bank : List SlotWin) (t : Nat) : Bool :=
  (bank.filterMap SlotWin.window?).any fun (st, len) => (t + radioFrameNs - st) % radioFrameNs < len

/-- The first opening of a window of the bank at or after `t`. -/
def nextOpening (bank : List SlotWin) (t : Nat) : Option Nat :=
  (bank.filterMap SlotWin.window?).foldl (fun best (st, _) =>
    let o := t + (st + radioFrameNs - t % radioFrameNs) % radioFrameNs
    match best with
    | some b => some (min b o)
    | none => some o) none

/-- A weighted frame of wire time `wire` ns may start at `t`: no window is open, and it ends at or before the next opening.
Before a pending boundary the opening is the first of the old bank before the boundary or of the new bank at or after it;
a new window whose span contains the boundary opens there (R193, R194). -/
def fitsBeforeQuiet (tb : SlotTable) (t wire : Nat) : Bool :=
  if windowOpen tb.active t then false else
  let old := nextOpening tb.active t
  let opening := match tb.next with
    | none => old
    | some (b, new) =>
      match old with
      | some o => if o < b then some o else if windowOpen new b then some b else nextOpening new b
      | none => if windowOpen new b then some b else nextOpening new b
  match opening with
  | some o => t + wire ≤ o
  | none => true

/-- The slot table of a part. -/
def Dev.slotTable (p : Part) (d : Dev) : SlotTable :=
  match p with
  | .tdu => d.tdu.slots
  | .tta => d.tta.slots

def Dev.setSlotTable (p : Part) (t : SlotTable) (d : Dev) : Dev :=
  match p with
  | .tdu => { d with tdu := { d.tdu with slots := t } }
  | .tta => { d with tta := { d.tta with slots := t } }

/-- Quiet windows bind weighted frames and the spill ring; while presented time is not valid no window applies. -/
def Dev.quietOk (p : Part) (wire : Nat) (d : Dev) : Bool :=
  !d.timeValid p || fitsBeforeQuiet (d.slotTable p) (d.nowNs p) wire

/-- The wire time of a frame in ns, rounded up: words + 2 blocks of 66 bits on N lanes of 32 Gb/s (R164). -/
def wireNs (lanes : Nat) (f : Frame) : Nat := ceilDiv ((f.words + 2) * 66) (32 * (if lanes = 0 then 1 else lanes))

/-! ## Frame selection -/

/-- The weight of a weighted class; 0 acts as 1. -/
def Dev.weight (p : Part) (c : Nat) (d : Dev) : Nat :=
  let f := match p, c with
    | .tta, 4 => R.TTA_EGR_CFG_W0
    | .tta, 5 => R.TTA_EGR_CFG_W1
    | .tta, 6 => R.TTA_EGR_CFG_W2
    | .tta, _ => R.TTA_EGR_CFG_W3
    | .tdu, 4 => R.TDU_EGR_CFG_W0
    | .tdu, 5 => R.TDU_EGR_CFG_W1
    | .tdu, 6 => R.TDU_EGR_CFG_W2
    | .tdu, _ => R.TDU_EGR_CFG_W3
  max 1 (d.get f)

def LinkPort.tag (l : LinkPort) : Nat → Nat
  | 4 => l.tagW0
  | 5 => l.tagW1
  | 6 => l.tagW2
  | _ => l.tagW3

def LinkPort.setTag (l : LinkPort) (c v : Nat) : LinkPort :=
  match c with
  | 4 => { l with tagW0 := v }
  | 5 => { l with tagW1 := v }
  | 6 => { l with tagW2 := v }
  | _ => { l with tagW3 := v }

/-- `a` is later than `b` modulo 2^48 (R190). -/
def tagLater (a b : Nat) : Bool := let k := (a + 2 ^ 48 - b % 2 ^ 48) % 2 ^ 48; 0 < k && k < 2 ^ 47

/-- The head frame of a class. -/
def LinkPort.head (l : LinkPort) (c : Nat) : Option Frame := l.queue.find? fun f => f.cls.val = c

/-- Give a weighted head that has no tag yet its finish tag (R190). -/
def LinkPort.tagHead (ovh weight c : Nat) (l : LinkPort) : LinkPort :=
  match l.head c with
  | some f =>
    if l.tagged.contains c then l else
    let s := if tagLater (l.tag c) l.vtime then l.tag c else l.vtime
    { l.setTag c ((s + f.charge ovh * (65536 / weight)) % 2 ^ 48) with tagged := c :: l.tagged }
  | none => l

/-- Credits of the frame's space suffice (R179). -/
def LinkPort.creditsOk (l : LinkPort) (f : Frame) : Bool :=
  let x := l.space f.isStrict
  x.credTaken + f.credits ≤ x.credFreedByPeer + x.credLimit

/-- The replay buffer of the frame's space has room (R177): each frame counts at its body bytes plus 16. -/
def LinkPort.replayRoom (l : LinkPort) (f : Frame) : Bool :=
  let x := l.space f.isStrict
  let bytes := (x.replay.map fun g => 8 * g.words + 16).sum + 8 * f.words + 16
  if f.isStrict then x.replay.length < 32 && bytes ≤ 8 * 1024 else x.replay.length < 64 && bytes ≤ 32 * 1024

/-- The bucket fields of a part: RATE and BURST of S2 and S3. -/
def Dev.bucket (p : Part) (c : Nat) (d : Dev) : Nat × Nat :=
  match p, c with
  | .tta, 2 => (d.get R.TTA_EGR_BUCKET2_RATE, d.get R.TTA_EGR_BUCKET2_BURST)
  | .tta, _ => (d.get R.TTA_EGR_BUCKET3_RATE, d.get R.TTA_EGR_BUCKET3_BURST)
  | .tdu, 2 => (d.get R.TDU_EGR_BUCKET2_RATE, d.get R.TDU_EGR_BUCKET2_BURST)
  | .tdu, _ => (d.get R.TDU_EGR_BUCKET3_RATE, d.get R.TDU_EGR_BUCKET3_BURST)

/-- The largest frame charge of a port: LEN at its limit, protected and forwarded (R170, R191). -/
def maxCharge (lanes ovh : Nat) : Nat := 8 * (ceilDiv (1040 * min lanes 4) 8 + 4 + 2) + ovh

/-- Tokens accrue every nanosecond, up to BURST (R189); RATE in MB/s is RATE/1000 bytes a ns; RATE 0 acts as 1, BURST 0 as
the largest frame charge. -/
def accrue (rate burst big elapsed : Nat) (bal : Int) : Int :=
  min (bal + (max 1 rate * elapsed : Nat)) (((if burst = 0 then big else burst) * 1000 : Nat) : Int)

/-- The times of a TIME frame are the sender's values when its first symbol leaves (R153), t3 of an ECHO its departure. -/
def Dev.stampFrame (p : Part) (f : Frame) (d : Dev) : Frame :=
  match f.payload with
  | .time m =>
    let b := d.tb p
    { f with payload := .time { m with
        inForce := b.inForce, stA := b.domA.state, stB := b.domB.state
        switchTo := b.plan.map fun s => (s.target, s.swAt)
        ta := BitVec.ofInt 96 (b.domA.timeAt b.tick / 2 ^ 8), tb := BitVec.ofInt 96 (b.domB.timeAt b.tick / 2 ^ 8)
        bridge := BitVec.ofInt 64 (Int.tdiv b.bridgeNow (2 ^ 24)) } }
  | .echo t2 _ => { f with payload := .echo t2 (BitVec.ofNat 64 (d.tb p).tick) }
  | _ => f

/-- The frame in progress has left: it joins its replay buffer with the tick of its END (R177), takes its SEQ and credits. -/
def LinkPort.finish (now : Nat) (l : LinkPort) : LinkPort :=
  match l.current with
  | none => l
  | some (f, retx) =>
    let x := l.space f.isStrict
    let x := if retx then
        { x with
          replay := x.replay.map fun g => if g.seq = f.seq then { g with sentAt := now } else g
          resendFrom := if x.resendFrom = some f.seq then (x.replay.find? fun g => seqLater g.seq f.seq).map (·.seq) else x.resendFrom }
      else { x with replay := x.replay ++ [{ f with sentAt := now }], nextSeq := (x.nextSeq + 1) % 4096,
                    credTaken := x.credTaken + f.credits }
    { l.setSpace f.isStrict x with current := none }

/-- The frame to replay next, if a space has one (R177). -/
def LinkPort.nextReplay (l : LinkPort) : Option Frame :=
  let pick (x : SpaceState) := match x.resendFrom with
    | some q => x.replay.find? fun f => f.seq = q
    | none => none
  match pick l.strict with
  | some f => some f
  | none => pick l.weighted

/-- An older frame of the same weighted class waits in the spill ring, so this one waits too (R113). -/
def Dev.spillFirst (f : Frame) (d : Dev) : Bool := d.tdu.smp.spill.any fun g => g.cls == f.cls && decide (g.born < f.born)

/-- The class that R188 selects, for a port whose weighted heads carry their tags. -/
def Dev.selectClass (e : LinkEnd) (l : LinkPort) (d : Dev) : Option Nat :=
  let p := endPart e
  let lanes := popMask (d.get (tlActive e))
  let ok (c : Nat) : Bool := match l.head c with
    | some f => l.creditsOk f && l.replayRoom f && !(p == .tdu && f.isStrict == false && d.spillFirst f)
    | none => false
  if ok 0 then some 0 else if ok 1 then some 1
  else if ok 2 && decide (l.tokens2 > 0) then some 2
  else if ok 3 && decide (l.tokens3 > 0) then some 3
  else
    let ready := [4, 5, 6, 7].filter fun c => ok c && (match l.head c with
      | some f => d.quietOk p (wireNs lanes f)
      | none => false)
    ready.foldl (fun best c => match best with
      | none => some c
      | some b => if tagLater (l.tag b) (l.tag c) then some c else some b) none

/-- Start a frame's transmission: charge S2 and S3, move V to a weighted frame's finish tag, and log it. -/
def Dev.startFrame (e : LinkEnd) (c : Nat) (f : Frame) (d : Dev) : Dev :=
  let p := endPart e
  let l := d.port e
  let iv := Memory.read (fun _ => 0) l.ivs f.allotIdx.toNat
  let f := d.stampFrame p { f with seq := (l.space f.isStrict).nextSeq, iv := if f.prot && f.fwd.isNone then iv else f.iv }
  let charge : Int := (f.charge (d.pktOvh p) * 1000 : Nat)
  let l := { l with
    queue := l.queue.eraseP fun g => g.cls.val = c
    current := some (f, false)
    tagged := l.tagged.filter (· != c)
    ivs := if f.prot && f.fwd.isNone then Memory.write (fun _ => 0) l.ivs f.allotIdx.toNat (iv + 1) else l.ivs
    vtime := if c ≥ 4 then l.tag c else l.vtime
    tokens2 := if c = 2 then l.tokens2 - charge else l.tokens2
    tokens3 := if c = 3 then l.tokens3 - charge else l.tokens3 }
  let d := ((d.setPort e l).emit (.frame e f false)).countTx e f
  match e with
  | .tta q =>
    match f.payload with
    | .time m =>
      if m.seq.toNat % 64 = 0 then
        let es := (assocGet q.val d.tta.time.echo).getD {}
        { d with tta := { d.tta with time := { d.tta.time with echo := assocSet q.val { es with t1 := some (d.tb .tta).tick } d.tta.time.echo } } }
      else d
    | _ => d
  | .tdu _ => d

/-- The transmitter's part of FRAME_BOUNDARY (R188): the frame in progress ends; then a replay in progress goes on, or the selection runs. -/
def frameBoundary (e : LinkEnd) (tick : Nat) (d : Dev) : Dev :=
  let p := endPart e
  let d := d.advance p tick
  if d.isUp e = false then d else
  let now := (d.tb p).tick
  let lanes := popMask (d.get (tlActive e))
  let ovh := d.pktOvh p
  let l := (d.port e).finish now
  let b2 := d.bucket p 2
  let b3 := d.bucket p 3
  let l := { l with
    tokens2 := accrue b2.1 b2.2 (maxCharge lanes ovh) (now - l.tokenTick) l.tokens2
    tokens3 := accrue b3.1 b3.2 (maxCharge lanes ovh) (now - l.tokenTick) l.tokens3
    tokenTick := now }
  let l := [4, 5, 6, 7].foldl (fun l c => l.tagHead ovh (d.weight p c) c) l
  let d := d.setPort e l
  match l.nextReplay with
  | some f => ((d.setPort e { l with current := some (f, true) }).emit (.frame e f true)).countTx e f
  | none =>
    match d.selectClass e l with
    | none => d.emit (.idle e)
    | some c =>
      match l.head c with
      | some f => d.startFrame e c f
      | none => d

/-! ## The slot table -/

/-- The shadow bank as TTA_EGR_SLOT holds it. -/
def Dev.shadowBank (d : Dev) : List SlotWin :=
  (List.range 32).map fun i =>
    { valid := d.bit (R.TTA_EGR_SLOT_VALID.at i)
      startUs := BitVec.ofNat 16 (d.get (R.TTA_EGR_SLOT_START_US.at i))
      lenUs := BitVec.ofNat 9 (d.get (R.TTA_EGR_SLOT_LEN_US.at i)) }

/-- SLOT_TABLE_COMMIT (R194): the first radio frame boundary at least 100 µs after the commit; the table and the boundary go
to every TDU. While presented time is not valid no boundary can be named and the commit waits for a later write (log 12). -/
def slotTableCommit (d : Dev) : Dev :=
  if d.bit R.TTA_EGR_SLOT_CTL_PENDING = true ∨ d.timeValid .tta = false then d else
  let b := ceilDiv (d.nowNs .tta + 100000) radioFrameNs * radioFrameNs
  let bank := d.shadowBank
  let t := d.tta.slots
  ((d.setSlotTable .tta { t with next := some (b, bank) }).setBit R.TTA_EGR_SLOT_CTL_PENDING true).controlAll (.slotTable b bank)

def execSlotTableCommit (s : State) := s.run slotTableCommit

/-- SLOT_TABLE_SWITCH (R194): at the boundary the part switches banks and records event 0x2009. -/
def slotTableSwitch (p : Part) (tick : Nat) (d : Dev) : Dev :=
  let d := d.advance p tick
  let t := d.slotTable p
  match t.next with
  | none => d
  | some (b, new) =>
    if d.timeValid p = false ∨ d.nowNs p < b then d else
    let bank := !t.bank
    let d := d.setSlotTable p { active := new, next := none, bank := bank }
    let d := match p with
      | .tta => (d.setBit R.TTA_EGR_SLOT_CTL_PENDING false).setBit R.TTA_EGR_SLOT_CTL_BANK bank
      | .tdu => d
    d.event p 3 0x2009 [if bank then 1 else 0, (stampOf b).toNat]

def execSlotTableSwitch (p : Part) (tick : Nat) (s : State) := s.run (slotTableSwitch p tick)

/-- A TDU takes a SLOT_TABLE message: a boundary already past becomes the next one (R194). -/
def Dev.takeSlotTable (boundary : Nat) (bank : List SlotWin) (d : Dev) : Dev :=
  let now := d.nowNs .tdu
  let b := if d.timeValid .tdu && decide (boundary < now) then ceilDiv (now + 1) radioFrameNs * radioFrameNs else boundary
  d.setSlotTable .tdu { d.tdu.slots with next := some (b, bank) }

/-! ## Arbiters -/

/-- The key of a request: deadline minus the current short stamp as a signed 32-bit value, not below −2^30 (R195). -/
def arbKey (stamp : BitVec 32) (r : ArbPending) : Int := max (-(2 ^ 30)) (r.deadline - stamp).toInt

/-- The request that a deadline-mode arbiter grants: smallest key, lower index on equal keys. -/
def arbBest (stamp : BitVec 32) : List ArbPending → Option ArbPending
  | [] => none
  | r :: t => match arbBest stamp t with
    | none => some r
    | some b =>
      if arbKey stamp r < arbKey stamp b ∨ (arbKey stamp r = arbKey stamp b ∧ r.req.index ≤ b.req.index) then some r else some b

/-- The request that round-robin start-up grants (R197): the next index after the last granted one, else the lowest. -/
def arbRoundRobin (last : Nat) (l : List ArbPending) : Option ArbPending :=
  let least (l : List ArbPending) : Option ArbPending :=
    l.foldl (fun b r => match b with
      | none => some r
      | some x => if r.req.index < x.req.index then some r else some x) none
  match least (l.filter fun r => last < r.req.index) with
  | some r => some r
  | none => least l

/-- The DEFAULT_SLACK_US deadline of a request without one (R195); 0 acts as 1. -/
def Dev.slackDeadline (d : Dev) : BitVec 32 :=
  d.stamp .tta + BitVec.ofNat 32 (max 1 (d.get R.TTA_ARB_CTL_DEFAULT_SLACK_US) * 1000)

/-- Turn hints after a grant (R196, R197): to each request that lost for the first time or whose estimate has grown by
1,000 ns or more. -/
def arbHints (a : Nat) (mode : Bool) (stamp : BitVec 32) (granted : ArbPending) (rest : List ArbPending) (d : Dev) :
    List ArbPending × Dev :=
  rest.foldl (fun (acc : List ArbPending × Dev) r =>
    let before := rest.filter fun x => if mode then decide (arbKey stamp x < arbKey stamp r) else decide (x.req.index < r.req.index)
    let est := if mode then granted.req.serviceNs + (before.map (·.req.serviceNs)).sum
      else (before.length + 1) * r.req.serviceNs
    let due : Bool := match r.hinted with
      | none => true
      | some e => decide (e + 1000 ≤ est)
    let late := mode && decide ((r.deadline - stamp).toInt < est)
    if due then (acc.1 ++ [{ r with hinted := some est }], acc.2.emit (.turnHint a r.req.index (min est 65535) late))
    else (acc.1 ++ [r], acc.2)) ([], d)

/-- ARBITER_GRANT (R195 to R197). -/
def arbiterGrant (a : Nat) (arrivals : List ArbReq) (d : Dev) : Dev :=
  let x := Memory.read (fun _ => {}) d.tta.arbiters a
  let stamp := d.stamp .tta
  let pend := x.pending ++ arrivals.map fun r => { req := r, deadline := r.deadline.getD d.slackDeadline, hinted := none }
  let mode := d.bit R.TTA_ARB_CTL_MODE
  match (if mode then arbBest stamp pend else arbRoundRobin x.lastIndex pend) with
  | none => d
  | some g =>
    let rest := pend.erase g
    let late := mode && decide ((g.deadline - stamp).toInt < 0)
    let d := if late then d.bump R.TTA_ARB_CTL_OVERDUE 1 else d
    let d := d.emit (.grant a g.req.index)
    let (rest, d) := arbHints a mode stamp g rest d
    { d with tta := { d.tta with arbiters := Memory.write (fun _ => {}) d.tta.arbiters a { pending := rest, lastIndex := g.req.index } } }

def execArbiterGrant (a : Nat) (arrivals : List ArbReq) (s : State) := s.run (arbiterGrant a arrivals)

/-- Deadline mode begins (R197): requests without a deadline take the switch instant plus DEFAULT_SLACK_US. -/
def Dev.arbDeadlineMode (d : Dev) : Dev :=
  if d.bit R.TTA_ARB_CTL_MODE then d else
  let dl := d.slackDeadline
  let d := d.setBit R.TTA_ARB_CTL_MODE true
  { d with tta := { d.tta with arbiters := d.tta.arbiters.map fun (k, x) =>
      (k, { x with pending := x.pending.map fun r => if r.req.deadline.isNone then { r with deadline := dl } else r }) } }

end Sys2Proof.Machine
end

