-- ==== Sys2Proof/Machine/View.lean ====
section
/-! DEFINITION. What a read of a register shows: the register file, with the values that the hardware computes at the read
laid over it (time base R139 to R144, fuses R455, identity), and what a snapshot latches (R452). -/
namespace Sys2Proof.Machine

/-- A signed value as a 64-bit register word. -/
def sWord (v : Int) : W64 := BitVec.ofInt 64 v

/-- Lay field values over a word. -/
def overlay (w : W64) (fs : List (Fld × Nat)) : W64 := fs.foldl (fun w fv => fv.1.put w fv.2) w

/-- A domain's register block (R140): OFFSET, BASE and RATE as the hardware holds them. -/
def Domain.regView (m : Domain) (off : Nat) (w : W64) : W64 :=
  match off with
  | 0x00 => sWord (m.ofs / 2 ^ 40)
  | 0x08 => sWord (m.ofs / 2 ^ 8 % 2 ^ 32)
  | 0x10 => BitVec.ofNat 64 m.base
  | 0x18 => sWord (m.rate % 2 ^ 32)
  | 0x38 => R.TTA_TIME_DOM_CTL_STATE.put w m.state.code
  | _ => w

/-- LOSS_US in ticks, within its bounds. -/
def Dev.lossTicks (d : Dev) : Nat := max 50 (min 10000 (d.get R.TTA_TWIN_CFG_LOSS_US)) * 1000

/-- Twin messages arrive on a path: the last one lies less than LOSS_US back. -/
def Dev.pathAlive (last : Option Nat) (d : Dev) : Bool :=
  match last with
  | some t => decide (d.tta.time.base.tick < t + d.lossTicks)
  | none => false

/-- The bits of the given access codes in a register row. -/
def accMask (r : RegRow) (p : Acc → Bool) : Nat :=
  r.fields.foldl (fun m f => if p f.acc then m ||| ((2 ^ (f.hi + 1 - f.lo) - 1) * 2 ^ f.lo) else m) 0

/-- The latched value of an offset: its RO/V and RW1C fields; none where it has no such field (R452). -/
def latchedAt (sp : Space) (m : Option (Memory W64)) (a : Nat) : Option W64 :=
  match m, findRow (R.rows sp) a with
  | some m, some (r, _) =>
    let k := accMask r fun c => c == .rov || c == .rw1c
    if k = 0 ∨ (sp = .tta ∧ 0x80000 ≤ a ∧ a < 0x100000) then none
    else some (Memory.read (Regs.resetOf sp) m a &&& BitVec.ofNat 64 k)
  | _, _ => none

/-- What TTA_SNAP_DATA shows, with MISS. -/
def Dev.snapData (p : Part) (d : Dev) : W64 × Bool :=
  match p with
  | .tta => match latchedAt .tta d.tta.latched (8 * d.get R.TTA_SNAP_SEL_OFFSET) with
    | some w => (w, false)
    | none => (0, true)
  | .tdu => match latchedAt .tdu d.tdu.latched (8 * (d.get R.TDU_SNAP_SEL_OFFSET % 2 ^ 13)) with
    | some w => (w, false)
    | none => (0, true)

/-- The error counts of the tile at TTA_TILE_SEL. -/
def Dev.tileErr (d : Dev) : W64 :=
  let x : Tile := Memory.read (fun _ => {}) d.tta.tiles (min 10239 (d.get R.TTA_TILE_SEL_TILE))
  overlay 0 [(R.TTA_TILE_ERR_CE, x.ce), (R.TTA_TILE_ERR_UE, x.ue), (R.TTA_TILE_ERR_ADDR_FAULT, x.addrFault), (R.TTA_TILE_ERR_CODE_UE, x.codeUe)]

/-- The host unit at TDU_CHK_USEL. -/
def Dev.chkUnitView (d : Dev) : W64 :=
  let x : ChkUnit := Memory.read (fun _ => {}) d.tdu.chk.units (d.get R.TDU_CHK_USEL_UNIT)
  overlay 0 [(R.TDU_CHK_UNIT_WITHDRAWN, if x.withdrawn then 1 else 0), (R.TDU_CHK_UNIT_TIMEOUT, x.timeouts), (R.TDU_CHK_UNIT_BLAME, x.blame)]

/-- A function's identity: the allotment and number of its slot, its state and backlog. -/
def Dev.fnView (n : Nat) (w : W64) (d : Dev) : W64 :=
  let st := d.get (R.TTA_ALT_ENTRY_STATE.at n)
  overlay w [(R.TTA_VF_ID_ALLOT_ID, if st = 0 then 0xFFFF else d.get (R.TTA_ALT_ENTRY_ALLOT_ID.at n)), (R.TTA_VF_ID_SLOT, n)]

/-- The PF map as a read sees it, before WO fields are masked. -/
def Dev.viewPf (a : Nat) (d : Dev) : W64 :=
  let w := d.word .tta a
  let b := d.tta.time.base
  if a = R.TTA_TIME_TICK.base then BitVec.ofNat 64 b.tick
  else if a = R.TTA_TIME_NOW_NS.base then (if b.valid then sWord b.presentNs else 0)
  else if a = R.TTA_TIME_BRIDGE.base then sWord (Int.tdiv b.bridgeNow (2 ^ 24))
  else if a = R.TTA_TIME_STAT.base then
    overlay w [(R.TTA_TIME_STAT_PENDING, if b.plan.isSome then 1 else 0), (R.TTA_TIME_STAT_SLEWING, if b.bridgeNow = 0 then 0 else 1),
      (R.TTA_TIME_STAT_IN_FORCE, b.inForce.code), (R.TTA_TIME_STAT_STATE_A, b.domA.state.code),
      (R.TTA_TIME_STAT_STATE_B, b.domB.state.code)]
  else if 0x30100 ≤ a ∧ a < 0x30180 then b.domA.regView (a - 0x30100) w
  else if 0x30180 ≤ a ∧ a < 0x30200 then b.domB.regView (a - 0x30180) w
  else if a = R.TTA_RST_LEVEL.base then BitVec.ofNat 64 d.tta.fuses.levels.toNat
  else if a = R.TTA_IDENT.base then R.TTA_IDENT_VARIANT.put w d.tta.fuses.variant.toNat
  else if a = R.TTA_BOOT_STAT.base then
    (if d.tta.boot.starting = true ∧ d.bit R.TTA_BOOT_STAT_RECOVERY = false then R.TTA_BOOT_STAT_TIMER_S.put w (300 - min 300 ((b.tick - d.tta.boot.startTick) / 1000000000)) else w)
  else if a = R.TTA_SERIAL.base then d.tta.fuses.serial
  else if a = R.TTA_TILE_ERR.base then d.tileErr
  else if a = R.TTA_SNAP_DATA.base then (d.snapData .tta).1
  else if a = R.TTA_SNAP_STAT.base then R.TTA_SNAP_STAT_MISS.put w (if (d.snapData .tta).2 then 1 else 0)
  else if a = R.TTA_TWIN_STAT.base then
    overlay w [(R.TTA_TWIN_STAT_ETH_ALIVE, if d.pathAlive d.tta.twin.lastEth then 1 else 0),
      (R.TTA_TWIN_STAT_LINK_ALIVE, if d.pathAlive d.tta.twin.lastLink then 1 else 0)]
  else if R.TTA_FN_STAT.base ≤ a ∧ a < R.TTA_FN_STAT.base + 8 * 255 then d.fnView ((a - R.TTA_FN_STAT.base) / 8 + 1) w
  else w

/-- The TDU window as a read sees it, before WO fields are masked. -/
def Dev.viewTdu (a : Nat) (d : Dev) : W64 :=
  let w := d.word .tdu a
  let b := d.tdu.time.base
  if a = R.TDU_TIME_TICK.base then BitVec.ofNat 64 b.tick
  else if a = R.TDU_TIME_NOW_NS.base then (if d.timeValid .tdu then sWord b.presentNs else 0)
  else if a = R.TDU_TIME_STAT.base then
    overlay w [(R.TDU_TIME_STAT_STATE, d.tdu.time.state.code), (R.TDU_TIME_STAT_IN_FORCE, b.inForce.code),
      (R.TDU_TIME_STAT_SRC_PORT, d.tdu.time.srcPort.val)]
  else if R.TDU_AON_CNT.base ≤ a ∧ a < R.TDU_AON_CNT.base + 8 * 32 then
    Memory.read (fun _ => 0) d.tdu.bank ((a - R.TDU_AON_CNT.base) / 8)
  else if a = R.TDU_RST_LEVEL.base then BitVec.ofNat 64 d.tdu.fuses.levels.toNat
  else if a = R.TDU_CHK_UNIT.base then d.chkUnitView
  else if a = R.TDU_SNAP_DATA.base then (d.snapData .tdu).1
  else if a = R.TDU_SNAP_STAT.base then R.TDU_SNAP_STAT_MISS.put w (if (d.snapData .tdu).2 then 1 else 0)
  else w

/-- The addresses whose value is computed. -/
def computedAddrs : Part → List Nat
  | .tta => [R.TTA_BOOT_STAT.base, 0x30000, 0x30010, 0x30018, 0x30020, 0x30100, 0x30108, 0x30110, 0x30118, 0x30138,
             0x30180, 0x30188, 0x30190, 0x30198, 0x301B8, R.TTA_TILE_ERR.base, R.TTA_SNAP_DATA.base, R.TTA_SNAP_STAT.base, R.TTA_TWIN_STAT.base] ++
             (List.range 255).map fun i => R.TTA_FN_STAT.base + 8 * i
  | .tdu => [0x3000, 0x3008, 0x3010, R.TDU_CHK_UNIT.base, R.TDU_SNAP_DATA.base, R.TDU_SNAP_STAT.base] ++ (List.range 32).map fun i => 0x5100 + 8 * i

/-- What a snapshot latches (R452): the register values at T, apart from the sync object window. -/
def Dev.latchRegs (p : Part) (d : Dev) : Memory W64 :=
  match p with
  | .tta => (computedAddrs .tta).foldl (fun m a => Memory.write (Regs.resetOf .tta) m a (d.viewPf a))
      (d.tta.regs.filter fun e => e.1 < 0x80000 ∨ (0x100000 ≤ e.1 ∧ e.1 < 0x200000))
  | .tdu => (computedAddrs .tdu).foldl (fun m a => Memory.write (Regs.resetOf .tdu) m a (d.viewTdu a)) d.tdu.regs

/-! ## The VF map (R27, R275, R403, R454, R498) -/

/-- The capture that TTA_VF_SNAP_SEL names, and its STATE. -/
def Dev.vfSnap (n : Nat) (d : Dev) : Nat × Option TileCapture :=
  let x : Slot := Memory.read (fun _ => {}) d.tta.slotsX n
  let key := d.get (R.TTA_VF_SNAP_SEL_GRAPH_ID.ofVf n) * 2 ^ 14 + d.get (R.TTA_VF_SNAP_SEL_LTILE.ofVf n)
  match (x.snaps.find? fun (e : Nat × TileCapture) => e.1 = key).map (·.2) with
  | none => (0, none)
  | some c => (if c.sealed then 2 else if c.workGen ≠ d.get (R.TTA_ALT_ENTRY_WORK_GEN.at n) then 3 else 1, some c)

/-- The VF map of VF n as its holder reads it, before WO fields are masked. -/
def Dev.viewVf (n a : Nat) (d : Dev) : W64 :=
  let w := d.word .tta ((⟨.vf, a, 63, 0, 8⟩ : Fld).ofVf n).addr
  if a = R.TTA_VF_ID.base then d.fnView n (d.word .tta (R.TTA_FN_STAT.base + 8 * (n - 1)))
  else if a = R.TTA_VF_SYNC.base then
    let o := R.TTA_SYNC.base + 8 * d.get (R.TTA_VF_SYNC_SEL_OBJ.ofVf n)
    let v := d.word .tta o
    if R.TTA_SYNC_TYPE.read v ≠ 0 ∧ R.TTA_SYNC_SLOT.read v = n then v else 0
  else if a = R.TTA_VF_SNAP_STAT.base then
    let s := d.vfSnap n
    overlay 0 [(R.TTA_VF_SNAP_STAT_STATE, s.1), (R.TTA_VF_SNAP_STAT_STAMP, (s.2.map fun c => c.stamp.toNat).getD 0)]
  else if R.TTA_VF_SNAP_DATA.base ≤ a ∧ a < R.TTA_VF_SNAP_DATA.base + 64 then
    match d.vfSnap n with
    | (1, some c) => BitVec.ofNat 64 (leVal ((c.bytes.drop (a - R.TTA_VF_SNAP_DATA.base)).take 8))
    | _ => 0
  else w

end Sys2Proof.Machine
end

