-- ==== Sys2Proof/Machine/Recorder.lean ====
section
/-! DEFINITION. The event recorder (R442 to R450) and the triggering and latching of snapshots (R451, R452). -/
namespace Sys2Proof.Machine

/-! ## Fields that both parts have -/

def R.both (tta tdu : Fld) : Part → Fld
  | .tta => tta
  | .tdu => tdu

def recFrozen : Part → Fld := R.both R.TTA_REC_STAT_FROZEN R.TDU_REC_STAT_FROZEN
def recWrapped : Part → Fld := R.both R.TTA_REC_STAT_WRAPPED R.TDU_REC_STAT_WRAPPED
def recPermFill : Part → Fld := R.both R.TTA_REC_STAT_PERM_FILL R.TDU_REC_STAT_PERM_FILL
def recStaged : Part → Fld := R.both R.TTA_REC_STAT_STAGED R.TDU_REC_STAT_STAGED
def recCircNext : Part → Fld := R.both R.TTA_REC_STAT_CIRC_NEXT R.TDU_REC_STAT_CIRC_NEXT
def recPermDrop : Part → Fld := R.both R.TTA_REC_STAT_PERM_DROP R.TDU_REC_STAT_PERM_DROP
def recFreeze : Part → Fld := R.both R.TTA_REC_CTL_FREEZE R.TDU_REC_CTL_FREEZE
def recFreezeMs : Part → Fld := R.both R.TTA_REC_CTL_FREEZE_MS R.TDU_REC_CTL_FREEZE_MS
def recSelArea : Part → Fld := R.both R.TTA_REC_SEL_AREA R.TDU_REC_SEL_AREA
def recSelIndex : Part → Fld := R.both R.TTA_REC_SEL_INDEX R.TDU_REC_SEL_INDEX
def recData : Part → Fld := R.both R.TTA_REC_DATA_DATA R.TDU_REC_DATA_DATA
def snapBusy : Part → Fld := R.both R.TTA_SNAP_STAT_BUSY R.TDU_SNAP_STAT_BUSY
def snapValid : Part → Fld := R.both R.TTA_SNAP_STAT_VALID R.TDU_SNAP_STAT_VALID
def snapSource : Part → Fld := R.both R.TTA_SNAP_STAT_SOURCE R.TDU_SNAP_STAT_SOURCE
def snapIgnored : Part → Fld := R.both R.TTA_SNAP_STAT_IGNORED R.TDU_SNAP_STAT_IGNORED
def snapStamp : Part → Fld := R.both R.TTA_SNAP_STAT_STAMP R.TDU_SNAP_STAT_STAMP
def snapMatchEn : Part → Fld := R.both R.TTA_SNAP_CTL_MATCH_EN R.TDU_SNAP_CTL_MATCH_EN

/-- The register space of a part's own registers. -/
def partSpace : Part → Space
  | .tta => .tta
  | .tdu => .tdu

/-- Recorder sizes (R445). -/
def permSize : Part → Nat
  | .tta => 4096
  | .tdu => 256
def circSize : Part → Nat
  | .tta => 16384
  | .tdu => 1024
def stagingSize : Part → Nat
  | .tta => 256
  | .tdu => 32

/-! ## Snapshot trigger and latch -/

def Dev.snapOf (p : Part) (d : Dev) : Option SnapPending :=
  match p with
  | .tdu => d.tdu.snap
  | .tta => d.tta.snap

def Dev.setSnap (p : Part) (s : Option SnapPending) (d : Dev) : Dev :=
  match p with
  | .tdu => { d with tdu := { d.tdu with snap := s } }
  | .tta => { d with tta := { d.tta with snap := s } }

def Dev.setLatched (p : Part) (m : Option (Memory W64)) (d : Dev) : Dev :=
  match p with
  | .tdu => { d with tdu := { d.tdu with latched := m } }
  | .tta => { d with tta := { d.tta with latched := m } }

/-- Latch the part's registers at T (R452). A TDU's snapshot is complete with it; on the TTA the marker wave begins (R453), and it stays
BUSY until the captures are written. -/
def Dev.latchNow (p : Part) (d : Dev) : Dev :=
  let d := d.set (snapStamp p) (d.stamp p).toNat
  let d := d.setLatched p (some (d.latchRegs p))
  match p with
  | .tdu =>
    let own := (d.tdu.snap.map (·.source)).getD 4
    let d := ((d.setSnap .tdu none).setBit (snapBusy .tdu) false).setBit (snapValid .tdu) true
    if own = 4 then d else d.event .tdu 0xC 0xF010 [d.get (snapStamp .tdu), own, 0, 1]
  | .tta => d.setSnap .tta (d.tta.snap.map fun (s : SnapPending) => { s with wave := true })

/-- A snapshot trigger (R451). `earliest` is TTA_SNAP_AT for ARM_AT. -/
def Dev.snapTrigger (p : Part) (source : Nat) (earliest : Nat) (d : Dev) : Dev :=
  if d.bit (snapBusy p) then (d.bump (snapIgnored p) 1).event p 0xC 0xF011 [source] else
  let d := ((d.setBit (snapBusy p) true).setBit (snapValid p) false).set (snapSource p) source
  let d := if p = .tdu then d.setBit R.TDU_SNAP_STAT_LATE false else d
  if d.timeValid p = false then (d.setSnap p (some { tNs := 0, source := source })).latchNow p else
  let t := ceilDiv (max (d.nowNs p + 20000) earliest) 1000 * 1000
  let incl := p = .tta ∧ d.bit R.TTA_SNAP_CTL_INCL_TDU = true
  let n := ((List.range 16).filter fun i => d.isUp (.tta (Fin.ofNat 17 i))).length
  let d := d.setSnap p (some { tNs := t, source := source, tdus := if incl then n else 0 })
  if incl then d.controlAll (.snapshot t) else d

/-! ## Storing records -/

/-- The code matches entry `i` of REC_PERM_MATCH. -/
def Dev.permMatch (p : Part) (code : BitVec 16) (i : Nat) (d : Dev) : Bool :=
  let w := d.word (partSpace p) ((match p with | .tta => R.TTA_REC_PERM_MATCH.base | .tdu => R.TDU_REC_PERM_MATCH.base) + 8 * i)
  let mask := R.TTA_REC_PERM_MATCH_MASK.read w
  R.TTA_REC_PERM_MATCH_EN.read w = 1 && (R.TTA_REC_PERM_MATCH_CODE.read w &&& mask) == (code.toNat &&& mask)

/-- Does the record qualify for the permanent area (R445)? Range 0x0xxx, a chapter's own rule, or a match entry. An anchor
goes to the circulating area only (R447). A relayed record keeps the PERM its TDU gave it (R448). -/
def Dev.qualifies (p : Part) (q : QueuedRec) (d : Dev) : Bool :=
  if q.evt.code = 0xF001 then false
  else if p = .tta ∧ q.evt.source.toNat ≥ 0x80 then q.evt.flags.getLsbD 0
  else q.evt.code.toNat < 0x1000 || q.permAsked || (List.range 4).any fun i => d.permMatch p q.evt.code i

/-- Write a record to the circulating area, over its oldest (R445). -/
def Dev.storeCirc (p : Part) (r : Rec) (d : Dev) : Dev :=
  let n := d.get (recCircNext p)
  let rc := d.recd p
  let d := d.setRecd p { rc with circ := Memory.insert n r (Memory.erase rc.circ n) }
  let d := d.set (recCircNext p) ((n + 1) % circSize p)
  if n + 1 = circSize p then d.setBit (recWrapped p) true else d

/-- A code match triggers a snapshot when the record is stored (R451). -/
def Dev.snapMatch (p : Part) (code : BitVec 16) (d : Dev) : Dev :=
  let w := d.word (partSpace p) (match p with | .tta => R.TTA_SNAP_MATCH.base | .tdu => R.TDU_SNAP_MATCH.base)
  let mask := R.TTA_SNAP_MATCH_MASK.read w
  if d.bit (snapMatchEn p) = true ∧ (R.TTA_SNAP_MATCH_CODE.read w &&& mask) = (code.toNat &&& mask) then d.snapTrigger p 2 0 else d

/-- Place a record in the permanent area, where there is room (R445): the last free slot takes 0xF003 instead, and later
records count in PERM_DROP. -/
def Dev.storePerm (p : Part) (r : Rec) (d : Dev) : Dev :=
  let fill := d.get (recPermFill p)
  let rc := d.recd p
  if fill + 1 < permSize p then
    (d.setRecd p { rc with perm := rc.perm ++ [r] }).set (recPermFill p) (fill + 1)
  else if fill + 1 = permSize p then
    let full := d.mkRec p 0xC 0xF003 [d.get (recPermDrop p), r.code.toNat]
    let full := ({ full with flags := full.flags ||| 1 } : Rec).sealed
    ((((d.setRecd p { rc with perm := rc.perm ++ [full] }).set (recPermFill p) (fill + 1)).storeCirc p full).bump (recPermDrop p) 1)
  else d.bump (recPermDrop p) 1

/-- The bytes under which a record is stored: PERM and LOST_BEFORE set and the CRC computed; a relayed record stays as it came unless
LOST_BEFORE is set (R446, R448). -/
def Dev.storedForm (p : Part) (q : QueuedRec) (d : Dev) : Rec :=
  let lost := (d.recd p).droppedSrc.contains q.evt.source
  let relayed := p = .tta ∧ q.evt.source.toNat ≥ 0x80
  let r := { q.evt with flags := q.evt.flags ||| (if d.qualifies p q then 1#8 else 0#8) ||| (if lost then 2#8 else 0#8) }
  if relayed ∧ lost = false then q.evt else r.sealed

/-- Store one accepted record (R445, R446, R448): PERM and LOST_BEFORE are set, the CRC is computed, and the record goes to
its areas. A TDU sends every record it stores on both ports. -/
def Dev.storeRec (p : Part) (q : QueuedRec) (d : Dev) : Dev :=
  let rc := d.recd p
  let perm := d.qualifies p q
  let r := d.storedForm p q
  let d := d.setRecd p { rc with droppedSrc := rc.droppedSrc.filter (· != q.evt.source) }
  let d := if perm then d.storePerm p r else d
  let d := d.storeCirc p r
  let d := if p = .tdu then d.sendUp 1 0 (.record [r]) else d
  d.snapMatch p r.code

/-- The next accepted record: earliest arrival, lowest SOURCE on a tie (R446). -/
def nextRec : List QueuedRec → Option QueuedRec
  | [] => none
  | q :: t => match nextRec t with
    | none => some q
    | some b => if q.arrived < b.arrived ∨ (q.arrived = b.arrived ∧ q.evt.source.toNat ≤ b.evt.source.toNat) then some q else some b

/-- A record reaches the recorder: stored, or staged during a freeze, or dropped with staging full (R449). -/
def Dev.takeRec (p : Part) (q : QueuedRec) (d : Dev) : Dev :=
  if d.bit (recFrozen p) then
    let rc := d.recd p
    if rc.staging.length < stagingSize p then
      (d.setRecd p { rc with staging := rc.staging ++ [q] }).set (recStaged p) (rc.staging.length + 1)
    else
      (d.bump (R.recStatLost p) 1).setRecd p
        { rc with freezeDrops := rc.freezeDrops + 1, firstDrop := if rc.freezeDrops = 0 then q.evt.stamp else rc.firstDrop }
  else d.storeRec p q

/-- The end of a freeze (R449): staged records in order, then 0xF002 when records were dropped. -/
def Dev.endFreeze (p : Part) (d : Dev) : Dev :=
  if d.bit (recFrozen p) = false then d else
  let rc := d.recd p
  let d := d.setRecd p { rc with staging := [], freezeDrops := 0, firstDrop := 0 }
  let d := ((d.setBit (recFrozen p) false).setBit (recFreeze p) false).set (recStaged p) 0
  let d := rc.staging.foldl (fun d q => d.storeRec p q) d
  if rc.freezeDrops > 0 then
    d.storeRec p ⟨0, d.mkRec p 0xC 0xF002 [rc.freezeDrops, rc.firstDrop.toNat], false⟩
  else d

/-- FREEZE (R449). -/
def freeze (p : Part) (on : Bool) (d : Dev) : Dev :=
  if on then (d.setBit (recFreeze p) true).setBit (recFrozen p) true else d.endFreeze p

def execFreeze (p : Part) (on : Bool) (s : State) := s.run (freeze p on)

/-- FREEZE_TIMEOUT (R449): the freeze ends and 0xF004 is stored last. FREEZE_MS 0 acts as 1, above 1,000 as 1,000. -/
def freezeTimeout (p : Part) (d : Dev) : Dev :=
  if d.bit (recFrozen p) = false then d else
  let ms := max 1 (min 1000 (d.get (recFreezeMs p)))
  let r := d.mkRec p 0xC 0xF004 [ms]
  (d.endFreeze p).storeRec p ⟨0, r, false⟩

def execFreezeTimeout (p : Part) (s : State) := s.run (freezeTimeout p)

/-- PERM_CLR (R445). -/
def permClr (p : Part) (d : Dev) : Dev :=
  (d.setRecd p { d.recd p with perm := [] }).set (recPermFill p) 0

def execPermClr (p : Part) (s : State) := s.run (permClr p)

/-- The record in a slot of an area; a slot never written reads as zero bytes (R443); an INDEX beyond the area selects its
last slot (R450). -/
def Dev.slotBytes (p : Part) (area index : Nat) (d : Dev) : List Byte :=
  let rc := d.recd p
  let zero := List.replicate 32 (0#8)
  if area = 0 then
    let i := min index (circSize p - 1)
    match assocGet i rc.circ with
    | some r => r.bytes
    | none => zero
  else
    match rc.perm[min index (permSize p - 1)]? with
    | some r => r.bytes
    | none => zero

/-- REC_SEL (R450): the selected slot is latched into REC_DATA as a whole. -/
def recSel (p : Part) (v : W64) (d : Dev) : Dev :=
  let d := (d.set (recSelArea p) (R.TTA_REC_SEL_AREA.read v)).set (recSelIndex p) (R.TTA_REC_SEL_INDEX.read v)
  let bs := d.slotBytes p (d.get (recSelArea p)) (d.get (recSelIndex p))
  (List.range 4).foldl (fun d i => d.set ((recData p).at i) (leAt bs (8 * i) 8)) d

def execRecSel (p : Part) (v : W64) (s : State) := s.run (recSel p v)

end Sys2Proof.Machine
end

