-- ==== Sys2Proof/Machine/FastPack.lean ====
section
/-! DEFINITION. Fast pack (R429 to R434): the chunk format, the TDU's encoder and the decoder. -/
namespace Sys2Proof.Machine

/-- The number of significant bytes of a value below 2^64; 0 for 0 (R431). -/
def sigBytes (x : Nat) : Nat := (List.range 8).foldl (fun n i => if x / 2 ^ (8 * i) = 0 then n else i + 1) 0

/-- The zigzag form of d modulo 2^64 (R430, R431). -/
def zigzag (d : Nat) : Nat := if d < 2 ^ 63 then 2 * d else 2 * (2 ^ 64 - d) - 1

/-- d from its zigzag form, modulo 2^64 (R430). -/
def unzigzag (z : Nat) : Nat := if z % 2 = 0 then z / 2 else (2 ^ 64 - (z + 1) / 2) % 2 ^ 64

/-- The code of one word and its value bytes (R431). `ref` is absent for i < S. -/
def encodeWord (ref : Option Nat) (w : Nat) : Nat × List Byte :=
  let lit := sigBytes w
  match ref with
  | some r =>
    let z := zigzag ((w + 2 ^ 64 - r) % 2 ^ 64)
    let dl := max 1 (sigBytes z)
    if dl ≤ 7 ∧ dl < lit then (8 + dl, leBytes dl z) else (lit, leBytes lit w)
  | none => (lit, leBytes lit w)

/-- Pack code nibbles two to a byte, the even word in bits 3:0 (R430). -/
def packNibbles : List Nat → List Byte
  | [] => []
  | [a] => [BitVec.ofNat 8 a]
  | a :: b :: t => BitVec.ofNat 8 (a + 16 * b) :: packNibbles t

/-- The encoded body of a chunk: code bytes, then value bytes. -/
def encodeBody (stride : Nat) (ws : List Nat) : List Byte :=
  let enc := (List.range ws.length).map fun i =>
    encodeWord (if stride ≤ i then ws[i - stride]? else none) (ws.getD i 0)
  packNibbles (enc.map (·.1)) ++ (enc.map (·.2)).flatten

/-- One chunk (R429): header, optional stream header, body; RAW when the encoded body would not be shorter. -/
def encodeChunk (stride : Nat) (hdr : Option (List Byte)) (last : Bool) (off : Nat) (ws : List Nat) : List Byte :=
  let enc := encodeBody stride ws
  let raw := 8 * ws.length ≤ enc.length
  let body := if raw then (ws.map (leBytes 8)).flatten else enc
  let h := hdr.getD []
  let len := 8 + h.length + body.length
  leBytes 2 len ++ [BitVec.ofNat 8 ((if hdr.isSome then 1 else 0) + (if last then 2 else 0) + (if raw then 4 else 0)),
    BitVec.ofNat 8 ws.length] ++ leBytes 2 off ++ leBytes 2 0 ++ h ++ body

/-- The chunks of a block: chunk k carries words 64k to 64k + 63; the first carries the stream header. -/
def encodeBlock (stride : Nat) (hdr : List Byte) (ws : List Nat) : List (List Byte) :=
  let n := max 1 (ceilDiv ws.length 64)
  (List.range n).map fun k =>
    encodeChunk stride (if k = 0 then some hdr else none) (k + 1 == n) (64 * k) ((ws.drop (64 * k)).take 64)

/-- A chunk is RAW. -/
def chunkRaw (c : List Byte) : Bool := (c.getD 2 0).getLsbD 2

/-- Whole chunks into frames of at most `limit` data bytes (R432). -/
def chunkFrames (limit : Nat) (cs : List (List Byte)) : List (List (List Byte)) :=
  let r := cs.foldl (fun (acc : List (List (List Byte)) × List (List Byte) × Nat) c =>
    let start := ceilDiv acc.2.2 8 * 8
    if acc.2.1.isEmpty ∨ start + c.length ≤ limit then (acc.1, acc.2.1 ++ [c], start + c.length)
    else (acc.1 ++ [acc.2.1], [c], c.length)) ([], [], 0)
  if r.2.1.isEmpty then r.1 else r.1 ++ [r.2.1]

/-! ## Decoding -/

/-- Decode the words of a chunk body that is not RAW, and the bytes it took (R430). -/
def decodeWords (stride : Nat) (codes : List Nat) (bs : List Byte) : Option (List Nat × Nat) :=
  (codes.foldl (fun (acc : Option (List Nat × List Byte × Nat)) c =>
    match acc with
    | none => none
    | some (ws, rest, used) =>
      let n := if c ≤ 8 then c else c - 8
      if rest.length < n then none else
      let v := leVal (rest.take n)
      let w := if c ≤ 8 then v else
        let ref := if stride ≤ ws.length then ws.getD (ws.length - stride) 0 else 0
        (ref + unzigzag v) % 2 ^ 64
      some (ws ++ [w], rest.drop n, used + n)) (some ([], bs, 0))).map fun r => (r.1, r.2.2)

/-- The nibbles of code bytes. -/
def nibbles (n : Nat) (bs : List Byte) : List Nat :=
  ((bs.map fun b => [b.toNat % 16, b.toNat / 16]).flatten).take n

/-- A chunk as its header describes it. -/
structure Chunk where
  len : Nat
  hdr : Bool
  last : Bool
  raw : Bool
  nwords : Nat
  off : Nat
  /-- The bytes after the 8-byte header, up to CHUNK_LEN. -/
  rest : List Byte
  deriving DecidableEq, Repr

/-- Read the chunk header at the start of `bs`; none when CHUNK_LEN is below 8 or passes the end (check 1 of R434). -/
def readChunk (bs : List Byte) : Option Chunk :=
  let len := leAt bs 0 2
  if len < 8 ∨ bs.length < len then none else
  let fl := bs.getD 2 0
  some { len := len, hdr := fl.getLsbD 0, last := fl.getLsbD 1, raw := fl.getLsbD 2, nwords := (bs.getD 3 0).toNat,
         off := leAt bs 4 2, rest := (bs.take len).drop 8 }

/-- The words of a chunk after its optional stream header, if the decoded length is CHUNK_LEN (check 5). -/
def Chunk.words (c : Chunk) (stride : Nat) : Option (List Nat) :=
  let body := if c.hdr then c.rest.drop 16 else c.rest
  if c.raw then
    if body.length = 8 * c.nwords then some ((List.range c.nwords).map fun i => leAt body (8 * i) 8) else none
  else
    let nc := ceilDiv c.nwords 2
    if body.length < nc then none else
    match decodeWords stride (nibbles c.nwords body) (body.drop nc) with
    | some (ws, used) => if nc + used = body.length then some ws else none
    | none => none

end Sys2Proof.Machine
end

