-- ==== Sys2Proof/Machine/Sampling.lean ====
section
/-! DEFINITION. Counting and sampling in the die unit (R63 to R73, R93 to R118): flush words, command starts, epochs, blocks,
the egress buffer and the spill ring, the stamp queue, the memory port. -/
namespace Sys2Proof.Machine

/-- The sampling state changed by `f`. -/
def Dev.updSmp (f : Sampling → Sampling) (d : Dev) : Dev := { d with tdu := { d.tdu with smp := f d.tdu.smp } }

/-- The TDU is in D0 and in no transition, and its host-main domain runs. -/
def Dev.inD0 (d : Dev) : Bool := d.get R.TDU_PWR_STAT_STATE == 0 && !d.bit R.TDU_PWR_STAT_IN_TRANS && !d.tdu.smp.hostReset

/-! ## The allotment map -/

/-- The index has a valid entry in TDU_ALLOT_MAP (R98). -/
def Dev.mapValid (a : Nat) (d : Dev) : Bool := d.bit (R.TDU_ALLOT_MAP_VALID.at a)

def Dev.mapId (a : Nat) (d : Dev) : Nat := d.get (R.TDU_ALLOT_MAP_ALLOT_ID.at a)

/-- The index of the RADIO allotment on the die, if one is mapped (class 0b01). -/
def Dev.radioIndex (d : Dev) : Option Nat :=
  (List.range 64).find? fun a => d.mapValid a && d.get (R.TDU_ALLOT_MAP_CLASS.at a) == 1

/-! ## Group settings -/

/-- The settings word of a group in force (R97). -/
def Dev.grpWord (g : Nat) (d : Dev) : W64 :=
  Memory.read (fun g => Regs.resetOf .tdu (R.TDU_CNT_GROUP.base + 8 * g)) d.tdu.smp.force g

def Dev.grpKind (g : Nat) (d : Dev) : Nat := R.TDU_CNT_GROUP_KIND.read (d.grpWord g)

/-- Groups 4q to 4q + 3 with kinds 4, 5, 6, 7 form a slot quad (R102). -/
def Dev.isQuad (g : Nat) (d : Dev) : Bool :=
  let q := g / 4 * 4
  d.grpKind q == 4 && d.grpKind (q + 1) == 5 && d.grpKind (q + 2) == 6 && d.grpKind (q + 3) == 7

/-- The word that gives OWNER, RATE, CMD_RESET and STRICT of a group: a quad uses its first group's. -/
def Dev.grpLead (g : Nat) (d : Dev) : W64 := d.grpWord (if d.isQuad g then g / 4 * 4 else g)

def Dev.grpOwner (g : Nat) (d : Dev) : Nat := R.TDU_CNT_GROUP_OWNER.read (d.grpLead g)
def Dev.grpRate (g : Nat) (d : Dev) : Nat := R.TDU_CNT_GROUP_RATE.read (d.grpLead g)
def Dev.grpCmdReset (g : Nat) (d : Dev) : Bool := g != 0 && R.TDU_CNT_GROUP_CMD_RESET.read (d.grpLead g) == 1
def Dev.grpAsksStrict (g : Nat) (d : Dev) : Bool := R.TDU_CNT_GROUP_STRICT.read (d.grpLead g) == 1

/-- Private kinds are 1 to 8, shared kinds 9 to 12; 0 and 13 to 15 act as UNUSED (R94). -/
def kindPrivate (k : Nat) : Bool := 1 ≤ k && k ≤ 8
def kindShared (k : Nat) : Bool := 9 ≤ k && k ≤ 12
def kindLive (k : Nat) : Bool := 1 ≤ k && k ≤ 12

/-- STRICT in force of a group: group 0 by its own bit, other groups when granted (R97). -/
def Dev.grpStrict (g : Nat) (d : Dev) : Bool := if g = 0 then d.grpAsksStrict 0 else d.tdu.smp.strictOn.contains g

/-! ## Flush words (R95, R96) -/

/-- Add an increment to the always-on totals that a kind feeds (R96). -/
def Dev.addTotals (kind n : Nat) (d : Dev) : Dev :=
  match kind with
  | 1 => d.own 4 n
  | 2 => d.own 5 n
  | 3 => d.own 6 n
  | 4 => (d.own 2 n).own 3 n
  | 5 | 6 | 7 => d.own 2 n
  | 9 => d.own 8 n
  | 10 => d.own 9 n
  | 11 => d.own 7 n
  | _ => d

/-- One accepted flush word (R95, in its order). -/
def flushOne (w : FlushWord) (d : Dev) : Dev :=
  let d := if w.sat then (d.bump R.TDU_TAP_STAT_SAT_COUNT 1).own 29 1 else d
  let c := w.counter.toNat
  let n := w.incr.toNat
  let g := c / 256
  if g = 0 then
    if c = 17 ∨ c = 18 ∨ c = 19 then d.own c n else d.bump R.TDU_CNT_STAT_BAD_INDEX 1
  else
    let k := d.grpKind g
    if kindShared k then (d.own c n).addTotals k n
    else if d.mapValid w.allot.val = false then (d.bump R.TDU_CNT_STAT_NO_ALLOT 1).own 37 1
    else if kindPrivate k = true ∧ d.grpOwner g = w.allot.val then (d.own c n).addTotals k n
    else ((d.own (64 + 2 * w.allot.val) n).own 38 1).addTotals k n

/-- FLUSH_WORD: the valid lanes of one host-main cycle (R64); a counter named on two or more lanes counts once in DUP_COUNT. -/
def flushWord (lanes : List FlushWord) (d : Dev) : Dev :=
  if d.inD0 = false then d else
  let ws := lanes.take 4
  let dup := ws.any fun w => 2 ≤ (ws.filter fun v => v.counter = w.counter).length
  let d := if dup then d.bump R.TDU_TAP_STAT_DUP_COUNT 1 else d
  ws.foldl (fun d w => flushOne w d) d

def execFlushWord (lanes : List FlushWord) (s : State) := s.run (flushWord lanes)

/-- Clear the 256 counters of a group. -/
def Dev.clearGroup (g : Nat) (d : Dev) : Dev :=
  { d with tdu := { d.tdu with bank := d.tdu.bank.filter fun e => e.1 / 256 != g } }

def natRead (m : Memory Nat) (k : Nat) : Nat := Memory.read (fun _ => 0) m k
def natWrite (m : Memory Nat) (k v : Nat) : Memory Nat := Memory.write (fun _ => 0) m k v

/-- CMD_START (R103): the owner's CMD_RESET groups are cleared and the identifier comes into force. -/
def cmdStart (a : Fin 64) (id : BitVec 16) (d : Dev) : Dev :=
  if d.tdu.smp.hostReset = true then d else
  let d := d.own 43 1
  let d := (List.range 255).foldl (fun d i =>
    let g := i + 1
    if kindPrivate (d.grpKind g) && d.grpOwner g == a.val && d.grpCmdReset g then d.clearGroup g else d) d
  d.updSmp fun s => { s with cmdId := Memory.write (fun _ => 0) s.cmdId a.val id,
                             starts := natWrite s.starts a.val (natRead s.starts a.val + 1) }

def execCmdStart (a : Fin 64) (id : BitVec 16) (s : State) := s.run (cmdStart a id)

/-- CNT_GROUP_WRITE (R97): the value goes to the shadow copy, which the register shows, and PENDING is set. KIND, OWNER and
CMD_RESET of group 0 are read-only. -/
def cntGroupWrite (g : Fin 256) (v : W64) (d : Dev) : Dev :=
  let rw : List Fld := if g.val = 0 then [R.TDU_CNT_GROUP_STRICT, R.TDU_CNT_GROUP_RATE]
    else [R.TDU_CNT_GROUP_STRICT, R.TDU_CNT_GROUP_CMD_RESET, R.TDU_CNT_GROUP_RATE, R.TDU_CNT_GROUP_OWNER, R.TDU_CNT_GROUP_KIND]
  let d := rw.foldl (fun d f => d.set (f.at g.val) (f.read v)) d
  d.setBit (R.TDU_CNT_GROUP_PENDING.at g.val) true

def execCntGroupWrite (g : Fin 256) (v : W64) (s : State) := s.run (cntGroupWrite g v)

/-! ## The egress buffer and the spill ring (R113, R114) -/

/-- What a frame occupies (R113). -/
def Frame.size (f : Frame) : Nat := 8 * f.words + 16

/-- Bytes of the weighted, or strict, frames waiting at the ports; both ports hold the same frames. -/
def Dev.egressFill (strict : Bool) (d : Dev) : Nat :=
  let fill (l : LinkPort) := ((l.queue.filter fun f => f.isStrict == strict).map Frame.size).sum
  max (fill d.tdu.link0) (fill d.tdu.link1)

def weightedSpace : Nat := 480 * 1024
def strictSpace : Nat := 32 * 1024

def Dev.spillSize (d : Dev) : Nat := d.get R.TDU_SPILL_CFG_SIZE_64K * 65536
def Dev.spillFill (d : Dev) : Nat := (d.tdu.smp.spill.map Frame.size).sum

/-- Show the buffer and ring occupancy in their registers. -/
def Dev.showFill (d : Dev) : Dev :=
  (d.set R.TDU_EGR_STAT_BUF_FILL (d.egressFill true + d.egressFill false)).set R.TDU_SPILL_CFG_FILL_64K (ceilDiv d.spillFill 65536)

/-- The frame limit for data bytes: 1,040 × N for the smaller N of the two ports, capped at 4 (R170). A port without
trained lanes does not count. -/
def Dev.frameLimit (d : Dev) : Nat :=
  let n (p : Fin 2) := if d.isUp (.tdu p) then popMask (d.get (tlActive (.tdu p))) else 4
  1040 * max 1 (min 4 (min (n 0) (n 1)))

/-- A free tag of the memory port: at most 64 requests are outstanding (R85). -/
def Dev.freeTag (d : Dev) : Option Nat := (List.range 64).find? fun t => !(d.tdu.smp.memReqs.any fun r => r.tag = t)

/-- Issue a memory request. -/
def Dev.memIssue (use : MemUse) (d : Dev) : Option Dev :=
  match d.freeTag with
  | some t => some ((d.updSmp fun s => { s with memReqs := s.memReqs ++ [⟨t, use⟩] }).emit (.memReq t use))
  | none => none

/-- Insert a frame in formation order within its class. -/
def insertByBorn (f : Frame) : List Frame → List Frame
  | [] => [f]
  | g :: t => if g.cls = f.cls ∧ f.born < g.born then f :: g :: t else g :: insertByBorn f t

/-- Queue a formed frame on the ports in use (R13). -/
def Dev.queueBoth (f : Frame) (d : Dev) : Dev :=
  let u0 := d.isUp (.tdu 0)
  let u1 := d.isUp (.tdu 1)
  let now := d.nowNs .tdu
  let put (l : LinkPort) : LinkPort :=
    { l with queue := insertByBorn f l.queue
             w0Since := if f.cls = 4 ∧ l.w0Since = none then some now else l.w0Since }
  let d := if u0 || !u1 then d.updPort (.tdu 0) put else d
  if u1 || !u0 then d.updPort (.tdu 1) put else d

/-- Place one formed frame (R113): strict frames in strict space or waiting at their source, weighted frames in the weighted
space, else at the end of the spill ring. The result says whether it could be placed. -/
def Dev.placeFrame (f : Frame) (d : Dev) : Bool × Dev :=
  let f := { f with born := d.tdu.smp.born }
  let d := d.updSmp fun s => { s with born := s.born + 1 }
  if f.isStrict then
    if d.egressFill true + f.size ≤ strictSpace ∧ d.tdu.smp.held = [] then (true, d.queueBoth f)
    else (true, d.updSmp fun s => { s with held := s.held ++ [f] })
  else if d.egressFill false + f.size ≤ weightedSpace then (true, (d.queueBoth f).showFill)
  else if d.spillSize ≠ 0 ∧ d.spillFill + f.size ≤ d.spillSize then
    match d.memIssue (.spillWrite f.born) with
    | some d => (true, ((d.updSmp fun s => { s with spill := s.spill ++ [f], sawBusy := true }).own 34 f.size).showFill)
    | none => (false, d.updSmp fun s => { s with sawFull := true })
  else (false, d.updSmp fun s => { s with sawFull := true })

/-- The weighted space and the ring together have room for every frame (R114). -/
def Dev.roomFor (fs : List Frame) (d : Dev) : Bool :=
  let need := (fs.map Frame.size).sum
  need ≤ (weightedSpace - d.egressFill false) + (d.spillSize - d.spillFill)

/-- Read the spill ring back (R113, R193): outside quiet windows, oldest first, while the weighted space has room. -/
def Dev.spillService (d : Dev) : Dev :=
  match d.tdu.smp.spill.find? fun f => !(d.tdu.smp.memReqs.any fun r => r.use = .spillRead f.born ∨ r.use = .spillWrite f.born) with
  | none => d
  | some f =>
    if d.egressFill false + f.size ≤ weightedSpace ∧ d.quietOk .tdu 0 = true ∧
       ¬ (d.tdu.smp.memReqs.any fun r => match r.use with | .spillRead _ => true | _ => false) then
      (d.memIssue (.spillRead f.born)).getD d
    else d

/-- Frames that waited at their source (R113, R138) move in as their space frees. -/
def Dev.heldService (d : Dev) : Dev :=
  match d.tdu.smp.held with
  | f :: t =>
    if d.egressFill f.isStrict + f.size ≤ (if f.isStrict then strictSpace else weightedSpace) then
      ((d.updSmp fun s => { s with held := t }).queueBoth f).showFill
    else d
  | [] => d

/-! ## Blocks (R109 to R111) -/

/-- A stream set restarts (R110): its due-boundary count starts again and its next block carries RESTART. -/
def Dev.restartSet (key a : Nat) (d : Dev) : Dev :=
  d.updSmp fun s => { s with due := natWrite s.due key 0, emitted := s.emitted.filter (· != key),
                             startMark := natWrite s.startMark key (natRead s.starts a) }

/-- Every stream set restarts. -/
def Dev.restartAll (d : Dev) : Dev :=
  d.updSmp fun s => { s with due := [], emitted := [], startMark :=
    ((List.range 256).map (fun g => (g, natRead s.starts (d.grpOwner g))) ++
     (List.range 64).map (fun a => (1000 + a, natRead s.starts a)) ++
     (List.range 64).map (fun a => (2000 + a, natRead s.starts a))).filter fun e => e.2 != 0 }

/-- The 16 bytes of a stream header (R109). -/
structure StreamHdr where
  ps : Bool
  decim : Nat
  restart : Bool
  strict : Bool
  rate : Nat
  final : Bool
  allotId : Nat
  stamp : BitVec 32
  first : Nat
  count : Nat
  cmdId : Nat
  cmdStarts : Nat
  seq : Nat
  deriving DecidableEq, Repr

def StreamHdr.bytes (h : StreamHdr) : List Byte :=
  leBytes 1 (if h.ps then 2 else 1) ++
  leBytes 1 (h.decim + (if h.restart then 4 else 0) + (if h.strict then 8 else 0) + h.rate % 8 * 16 + (if h.final then 128 else 0)) ++
  leBytes 2 h.allotId ++ leBytes 4 h.stamp.toNat ++ leBytes 2 h.first ++ leBytes 2 h.count ++ leBytes 2 h.cmdId ++
  leBytes 1 (min 255 h.cmdStarts) ++ leBytes 1 (h.seq % 256)

/-- The DATA frames of a packed block (R432), in class `cls`, under the key of an index. -/
def Dev.blockFrames (cls : Fin 8) (a : Nat) (stride : Nat) (h : StreamHdr) (ws : List Nat) (d : Dev) : List Frame :=
  (chunkFrames d.frameLimit (encodeBlock stride h.bytes ws)).map fun cs =>
    { payload := .data cs, cls := cls, prot := true, fwd := none, allotIdx := BitVec.ofNat 6 a, len := payloadLen (.data cs),
      seq := 0, sentAt := 0 }

/-- Count a packed block in group 0 counters 32 and 33 and its RAW chunks (R433). -/
def Dev.countPack (fs : List Frame) (words : Nat) (d : Dev) : Dev :=
  let cs := (fs.map fun f => match f.payload with | .data cs => cs | _ => []).flatten
  ((d.own 32 (16 + 8 * words)).own 33 (cs.map List.length).sum).bump R.TDU_PACK_STAT_RAW_CHUNKS (cs.filter chunkRaw).length

/-- Place every frame of a block. -/
def Dev.placeAll (fs : List Frame) (d : Dev) : Dev := fs.foldl (fun d f => (d.placeFrame f).2) d

/-- A block of the stream set `key` was emitted. -/
def Dev.markEmitted (key a : Nat) (d : Dev) : Dev :=
  d.updSmp fun s => { s with emitted := if s.emitted.contains key then s.emitted else key :: s.emitted,
                             startMark := natWrite s.startMark key (natRead s.starts a) }

/-- Emit one counter block (R111, R112, R114): STRICT blocks go to S3 and are never dropped; another block is placed whole
or dropped and counted in LOST_BLOCKS. -/
def Dev.emitCounter (key a first count : Nat) (allotId : Nat) (strict final : Bool) (rate level seq : Nat) (d : Dev) : Dev :=
  let s := d.tdu.smp
  let ws := (List.range count).map fun i => (Memory.read (fun _ => 0#64) d.tdu.bank (first + i)).toNat
  let h : StreamHdr :=
    { ps := false, decim := if strict then 0 else level, restart := !s.emitted.contains key, strict := strict, rate := rate,
      final := final, allotId := allotId, stamp := d.stamp .tdu, first := first, count := count
      cmdId := if allotId = 0 then 0 else (Memory.read (fun _ => 0#16) s.cmdId a).toNat
      cmdStarts := if allotId = 0 then 0 else natRead s.starts a - natRead s.startMark key
      seq := seq }
  let fs := d.blockFrames (if strict then 3 else 4) a 1 h ws
  if strict || d.roomFor fs then
    ((d.countPack fs count).placeAll fs).markEmitted key a
  else (d.bump R.TDU_SMP_STAT_LOST_BLOCKS 1).updSmp fun s => { s with sawFull := true }

/-- The set's due-boundary count advances by 1, or starts at 0 after a restart (R110). -/
def Dev.advanceDue (key : Nat) (d : Dev) : Dev :=
  d.updSmp fun s => { s with due := natWrite s.due key (natRead s.due key + 1) }

def Dev.dueCount (key : Nat) (d : Dev) : Nat := natRead d.tdu.smp.due key - 1

/-- A due block (R112): withheld at level L unless its due-boundary count is a multiple of 2^L. -/
def Dev.dueBlock (key countKey a first count allotId : Nat) (strict : Bool) (rate level : Nat) (final : Bool) (d : Dev) : Dev :=
  let n := d.dueCount countKey
  if strict || final || n % 2 ^ level == 0 then d.emitCounter key a first count allotId strict final rate level n
  else d.own 36 1

/-! ## Epochs (R105 to R108) -/

/-- The epoch length in ns. -/
def epochNs (sel : Bool) : Nat := if sel then 500000 else 250000

/-- The period in epochs of a rate code (R106); 0 for off. -/
def ratePeriod (sel : Bool) (r : Nat) : Nat :=
  let n := match r with
    | 1 => 4000
    | 2 => 400
    | 3 => 40
    | 4 => 4
    | 5 => 2
    | _ => 0
  if sel then n / 2 else n

/-- The group is due at epoch `e` (R106). -/
def Dev.grpDue (sel : Bool) (e g : Nat) (d : Dev) : Bool :=
  let n := ratePeriod sel (d.grpRate g)
  n != 0 && e % n == (g / 4) % n && (g == 0 || kindLive (d.grpKind g))

/-- The groups whose settings are not those of reset, and group 0: all that can be due. -/
def Dev.liveGroups (d : Dev) : List Nat := 0 :: (d.tdu.smp.force.map (·.1)).filter (· != 0)

/-- The groups with a shadow value waiting. -/
def Dev.pendingGroups (d : Dev) : List Nat := (List.range 256).filter fun g => d.bit (R.TDU_CNT_GROUP_PENDING.at g)

/-- Emit the blocks that are due at epoch `e` (R111), a changing group's with FINAL. -/
def Dev.emitDue (sel : Bool) (e level : Nat) (finals : List Nat) (d : Dev) : Dev :=
  let gs := d.liveGroups
  let d := (gs.filter (d.grpDue sel e)).foldl (fun d g => d.advanceDue g) d
  let d := (finals.filter fun g => !d.grpDue sel e g).foldl (fun d g => d.advanceDue g) d
  let d := if d.grpDue sel e 0 then
      let d := d.dueBlock 0 0 0 0 64 0 (d.grpStrict 0) (d.grpRate 0) level false
      ((List.range 64).filter d.mapValid).foldl (fun d a =>
        d.dueBlock (1000 + a) 0 a (64 + 2 * a) 2 (d.mapId a) (d.grpStrict 0) (d.grpRate 0) level false) d
    else d
  (gs.filter fun g => g != 0 && (d.grpDue sel e g || finals.contains g)).foldl (fun d g =>
    let k := d.grpKind g
    let a := if kindShared k then 0 else d.grpOwner g
    if kindShared k || d.mapValid a then
      d.dueBlock g g a (256 * g) 256 (if kindShared k then 0 else d.mapId a) (d.grpStrict g) (d.grpRate g) level (finals.contains g)
    else d) d

/-- The shadow settings of a group come into force (R97): a change of KIND or OWNER clears the group's counters and its next
block carries RESTART. -/
def Dev.applyShadow (g : Nat) (d : Dev) : Dev :=
  let old := d.grpWord g
  let w := R.TDU_CNT_GROUP_PENDING.put (d.word .tdu (R.TDU_CNT_GROUP.base + 8 * g)) 0
  let changed := R.TDU_CNT_GROUP_KIND.read old ≠ R.TDU_CNT_GROUP_KIND.read w ∨ R.TDU_CNT_GROUP_OWNER.read old ≠ R.TDU_CNT_GROUP_OWNER.read w
  let force := Memory.write (fun g => Regs.resetOf .tdu (R.TDU_CNT_GROUP.base + 8 * g)) d.tdu.smp.force g w
  let d := d.updSmp fun s => { s with force := force }
  let d := d.setBit (R.TDU_CNT_GROUP_PENDING.at g) false
  if changed then (d.clearGroup g).restartSet g (d.grpOwner g) else d

/-- Does a pending group change KIND or OWNER from a kind of 1 to 12 (R97)? -/
def Dev.finalDue (g : Nat) (d : Dev) : Bool :=
  let old := d.grpWord g
  let w := d.word .tdu (R.TDU_CNT_GROUP.base + 8 * g)
  kindLive (R.TDU_CNT_GROUP_KIND.read old) &&
    (R.TDU_CNT_GROUP_KIND.read old != R.TDU_CNT_GROUP_KIND.read w || R.TDU_CNT_GROUP_OWNER.read old != R.TDU_CNT_GROUP_OWNER.read w)

/-- A group may be strict: private, with an owner whose map entry is valid and of class RADIO (R97). -/
def Dev.strictEligible (g : Nat) (d : Dev) : Bool :=
  g != 0 && kindPrivate (d.grpKind g) && d.grpAsksStrict g && d.mapValid (d.grpOwner g) &&
    d.get (R.TDU_ALLOT_MAP_CLASS.at (d.grpOwner g)) == 1

/-- STRICT is tested again (R97): strict groups stay while eligible; others are granted in ascending group number, a quad
whole, at most 4 groups; a new request refused and a strict group that loses STRICT count once in BAD_INDEX. -/
def Dev.regrantStrict (fresh : List Nat) (d : Dev) : Dev :=
  let old := d.tdu.smp.strictOn
  let kept := old.filter d.strictEligible
  let cand := (d.liveGroups.filter fun g => d.strictEligible g && !kept.contains g && (!d.isQuad g || g % 4 == 0))
  let granted := cand.foldl (fun (on : List Nat) g =>
    let add := if d.isQuad g then [g, g + 1, g + 2, g + 3] else [g]
    if on.length + add.length ≤ 4 then on ++ add else on) kept
  let lost := old.filter fun g => !granted.contains g
  let refused := fresh.filter fun g => g != 0 && d.grpAsksStrict g && !granted.contains g && !lost.contains g
  (d.bump R.TDU_CNT_STAT_BAD_INDEX (lost.length + refused.length)).updSmp fun s => { s with strictOn := granted }

/-- Indices cleared in the map (R98): the counters of their groups and of their pairs are cleared. -/
def Dev.clearUnmapped (d : Dev) : Dev :=
  let d := d.tdu.smp.cleared.foldl (fun d a =>
    let d := (d.liveGroups.filter fun g => g != 0 && kindPrivate (d.grpKind g) && d.grpOwner g == a).foldl (fun d g => d.clearGroup g) d
    { d with tdu := { d.tdu with bank := d.tdu.bank.filter fun e => e.1 != 64 + 2 * a && e.1 != 65 + 2 * a } }) d
  d.updSmp fun s => { s with cleared := [] }

/-! ### Levels (R112, R114, R192) -/

/-- Time of [t0, t1) inside the union of windows, each opened `ext` ns early (R192, R193). -/
def quietTime (bank : List SlotWin) (ext t0 t1 : Nat) : Nat :=
  let frames : List Nat := [t0 / radioFrameNs - 1, t0 / radioFrameNs, t0 / radioFrameNs + 1, t1 / radioFrameNs + 1].eraseDups
  let ivs : List (Nat × Nat) := ((bank.filterMap SlotWin.window?).map fun (st, len) => frames.map fun k =>
    (max t0 (k * radioFrameNs + st - ext), min t1 (k * radioFrameNs + st + len))).flatten.filter fun iv => iv.1 < iv.2
  let sorted := sortBy (fun a b => decide (a.1 ≤ b.1)) ivs
  (sorted.foldl (fun (acc : Nat × Nat) iv =>
    let from_ := max acc.2 iv.1
    if from_ < iv.2 then (acc.1 + (iv.2 - from_), iv.2) else acc) (0, t0)).1

/-- WAIT of a port over the epoch [t0, t1), in percent (R192). -/
def Dev.portWait (p : Fin 2) (t0 t1 : Nat) (d : Dev) : Nat :=
  let l := d.port (.tdu p)
  let lanes := popMask (d.get (tlActive (.tdu p)))
  let ext := match l.head 4 with
    | some f => wireNs lanes f
    | none => 0
  let bank := d.tdu.slots.active
  let ivs := l.w0Ready ++ (match l.w0Since with | some t => [(max t t0, t1)] | none => [])
  let num := (ivs.map fun iv => (iv.2 - iv.1) - quietTime bank ext iv.1 iv.2).sum
  let den := (t1 - t0) - quietTime bank ext t0 t1
  if den = 0 then 0 else min 100 (100 * num / den)

/-- The requested level and the spill level move by one, and the level in force follows their maximum by at most 1. -/
def Dev.stepLevels (t1 : Nat) (d : Dev) : Dev :=
  let s := d.tdu.smp
  let t0 := s.lastNs
  let wait := max (d.portWait 0 t0 t1) (d.portWait 1 t0 t1)
  let hi := d.get R.TDU_EGR_CFG_SAT_HI
  let lo := if d.get R.TDU_EGR_CFG_SAT_LO ≥ hi then hi - 1 else d.get R.TDU_EGR_CFG_SAT_LO
  let req := d.get R.TDU_EGR_STAT_REQ_LEVEL
  let req := if wait ≥ hi then min 3 (req + 1) else if wait < lo then req - 1 else req
  let spill := if s.sawFull then min 3 (s.spillLevel + 1) else if s.sawBusy then s.spillLevel else s.spillLevel - 1
  let cur := d.get R.TDU_SMP_STAT_DECIM
  let want := max req spill
  let lvl := if cur < want then cur + 1 else if want < cur then cur - 1 else cur
  let d := (d.set R.TDU_EGR_STAT_WAIT wait).set R.TDU_EGR_STAT_REQ_LEVEL req
  let d := d.set R.TDU_SMP_STAT_DECIM lvl
  let busy := !s.spill.isEmpty || decide (weightedSpace / 2 ≤ d.egressFill false)
  let d := d.updSmp fun s => { s with spillLevel := spill, sawFull := false, sawBusy := busy, lastNs := t1 }
  let reset (l : LinkPort) : LinkPort := { l with w0Ready := [], w0Since := l.w0Since.map fun _ => t1 }
  (d.updPort (.tdu 0) reset).updPort (.tdu 1) reset

/-! ### Precise sample blocks (R117) -/

/-- Emit one precise sample block for each allotment index with entries waiting; a block that cannot be placed leaves its
entries in the buffer. -/
def Dev.emitPrecise (d : Dev) : Dev :=
  let idx := (d.tdu.smp.psBuf.map (·.allot)).eraseDups
  let d := idx.foldl (fun d a =>
    let s := d.tdu.smp
    let es := s.psBuf.filter fun e => e.allot = a
    let key := 2000 + a
    let id := d.mapId a
    let ws := (es.map fun e => e.words.map BitVec.toNat).flatten
    let n := natRead s.due key
    let h : StreamHdr :=
      { ps := true, decim := 0, restart := !s.emitted.contains key, strict := false, rate := 0, final := false, allotId := id,
        stamp := d.stamp .tdu, first := 0, count := es.length
        cmdId := if id = 0 then 0 else (Memory.read (fun _ => 0#16) s.cmdId a).toNat
        cmdStarts := if id = 0 then 0 else natRead s.starts a - natRead s.startMark key
        seq := n }
    let fs := d.blockFrames 5 a 4 h ws
    if d.mapValid a && d.roomFor fs then
      let d := (((d.countPack fs (4 * es.length)).placeAll fs).markEmitted key a).advanceDue key
      d.updSmp fun s => { s with psBuf := s.psBuf.filter fun e => e.allot ≠ a }
    else if d.mapValid a then d.updSmp fun s => { s with sawFull := true } else d) d
  d.set R.TDU_PS_STAT_FILL d.tdu.smp.psBuf.length

/-! ### The boundary -/

/-- The work of a boundary at which the TDU samples (R107, R111), in order: levels; captures under the settings in force, the
groups that change KIND or OWNER with FINAL; shadow settings and map clears; precise samples. -/
def Dev.sampleBoundary (e : Nat) (d : Dev) : Dev :=
  let sel := d.tdu.smp.epochSel
  let d := d.stepLevels (d.nowNs .tdu)
  let level := d.get R.TDU_SMP_STAT_DECIM
  let pend := d.pendingGroups
  d.emitDue sel e level (pend.filter d.finalDue)

/-- EPOCH_BOUNDARY (R105 to R108). Sampling starts at the first whole second with ENABLE = 1 and valid time; the first
boundary after ENABLE is 0, or after the entry to D2 began (R472), is the last. While the host-main domain is in reset nothing is captured. Shadow settings, map
clears, STRICT grants and the SRC_MASK take effect at every boundary. -/
def epochBoundary (tick : Nat) (d : Dev) : Dev :=
  let d := d.advance .tdu tick
  if d.timeValid .tdu = false then d else
  let whole := d.nowNs .tdu % 1000000000 < 250000
  let d := if whole then d.updSmp fun s => { s with epochSel := d.bit R.TDU_SMP_CFG_EPOCH_SEL } else d
  let e := d.nowNs .tdu % 1000000000 / epochNs d.tdu.smp.epochSel
  let d := d.set R.TDU_SMP_STAT_EPOCH_NUM e
  let enable := d.bit R.TDU_SMP_CFG_ENABLE && d.tdu.pwr.trans != 2
  let running := d.bit R.TDU_SMP_STAT_RUNNING
  let starts := enable && !running && decide (e = 0)
  let d := if starts then ((d.restartAll).setBit R.TDU_SMP_STAT_RUNNING true).updSmp fun s => { s with lastNs := d.nowNs .tdu } else d
  let pend := d.pendingGroups
  let d := if (running || starts) && !d.tdu.smp.hostReset then d.sampleBoundary e
    else if d.tdu.smp.hostReset then d.restartAll else d
  let d := if running && !enable then d.setBit R.TDU_SMP_STAT_RUNNING false else d
  let d := pend.foldl (fun d g => d.applyShadow g) d
  let d := (d.clearUnmapped).regrantStrict pend
  let d := if (running || starts) && !d.tdu.smp.hostReset then d.emitPrecise else d
  (d.updSmp fun s => { s with psMask := d.word .tdu R.TDU_PS_CFG.base }).showFill
/-! ## The stamp queue (R70, R71, R171) -/

/-- Build the next STAMP frame: up to 16 stamps, when no STAMP frame waits unsent and a port is UP (R171). -/
def Dev.buildStamps (d : Dev) : Dev :=
  let waiting (l : LinkPort) : Bool := l.queue.any fun f => f.cls = 0
  if (d.isUp (.tdu 0) || d.isUp (.tdu 1)) = false ∨ waiting d.tdu.link0 = true ∨ waiting d.tdu.link1 = true then d else
  match d.tdu.smp.stampQueue, d.radioIndex with
  | [], _ => d
  | q, some a =>
    (d.updSmp fun s => { s with stampQueue := q.drop 16 }).sendUp 0 (BitVec.ofNat 6 a) (.stamps (q.take 16))
  | _, none => d

/-- SLOT_READY (R71). -/
def Dev.slotReady (d : Dev) : Bool :=
  d.inD0 && decide (d.tdu.smp.stampQueue.length < 64) && d.tdu.time.state != .unset

/-- STAGE_STAMP (R70): accepted while SLOT_READY is high; discarded when no RADIO index is mapped. -/
def stageStamp (pipe : Fin 64) (slot : BitVec 16) (stage : Fin 16) (last : Bool) (d : Dev) : Dev :=
  if d.slotReady = false then d else
  let d := d.own 25 1
  if d.radioIndex = none then d.own 45 1 else
  (d.updSmp fun s => { s with stampQueue := s.stampQueue ++ [⟨pipe, last, stage, slot, d.stamp .tdu⟩] }).buildStamps

def execStageStamp (pipe : Fin 64) (slot : BitVec 16) (stage : Fin 16) (last : Bool) (s : State) :=
  s.run (stageStamp pipe slot stage last)

end Sys2Proof.Machine
end

