-- ==== Sys2Proof/Machine/Trace.lean ====
section
/-! DEFINITION. Trace capture (R119 to R138) and the precise sample path (R116): the grant filter, packets, triggers, the
ring of a capture slot, and its trace segments. -/
namespace Sys2Proof.Machine

/-! ## Slots -/

def Dev.updTrc (f : Trace → Trace) (d : Dev) : Dev := { d with tdu := { d.tdu with trc := f d.tdu.trc } }

/-- A capture slot. -/
def Dev.tslot (s : Nat) (d : Dev) : TrcSlot := Memory.read (fun _ => {}) d.tdu.trc.slots s

def Dev.setTslot (s : Nat) (v : TrcSlot) (d : Dev) : Dev := d.updTrc fun t => { t with slots := Memory.write (fun _ => {}) t.slots s v }

def Dev.tstate (s : Nat) (d : Dev) : Nat := d.get (R.TDU_TRC_SLOT_STAT_STATE.at s)
def Dev.setTstate (s v : Nat) (d : Dev) : Dev := d.set (R.TDU_TRC_SLOT_STAT_STATE.at s) v
def Dev.tvalid (s : Nat) (d : Dev) : Bool := d.bit (R.TDU_TRC_SLOT_CFG_VALID.at s)
def Dev.tallot (s : Nat) (d : Dev) : Nat := d.get (R.TDU_TRC_SLOT_CFG_ALLOT_IDX.at s)

/-- The slot is in RECORDING or POST. -/
def Dev.tlive (s : Nat) (d : Dev) : Bool := d.tvalid s && (d.tstate s == 1 || d.tstate s == 2)

/-- S and Q of a slot in bytes (R131). -/
def Dev.ringSize (s : Nat) (d : Dev) : Nat := d.get (R.TDU_TRC_SLOT_CFG_SIZE_64K.at s) * 65536
def Dev.postSize (s : Nat) (d : Dev) : Nat := min (d.get (R.TDU_TRC_SLOT_CFG_POST_4K.at s) * 4096) (d.ringSize s - 16384)

/-- Words dropped from a slot (R121, step 6). -/
def Dev.tdrop (s n : Nat) (d : Dev) : Dev := (d.bump (R.TDU_TRC_SLOT_STAT_LOSS.at s) n).own 42 n

def Dev.trigIgnored (d : Dev) : Dev := d.bump R.TDU_TRC_STAT_TRIG_IGNORED 1

/-- The 48-bit seconds and the nanoseconds of the long stamp now; 0 while time is not valid. -/
def Dev.longStamp (p : Part) (d : Dev) : Nat × Nat :=
  if d.timeValid p then (d.nowNs p / 1000000000 % 2 ^ 48, d.nowNs p % 1000000000) else (0, 0)

/-! ## Packets (R123 to R125) -/

/-- A packet header: TYPE in bits 63:60 over the other bits. -/
def pktHead (type rest : Nat) : W64 := BitVec.ofNat 64 (type * 2 ^ 60 + rest % 2 ^ 60)

/-- The ring overwrites its oldest packets: a packet is lost once a byte of it is overwritten. -/
def ringDrop (size written : Nat) (ps : List TrcPacket) : List TrcPacket := ps.filter fun p => written ≤ p.start + size

/-- Store a packet in RECORDING or POST. In POST a packet that would pass Q bytes after the TRIGGER packet is dropped, its
words are counted, and the slot enters FROZEN (R131). The result says whether it was stored. -/
def Dev.putPacket (s : Nat) (words : List W64) (syncAll trigger : Bool) (hostWords : Nat) (d : Dev) : Bool × Dev :=
  let t := d.tslot s
  let len := 8 * words.length
  let p : TrcPacket := { start := t.written, words := words, syncAll := syncAll, trigger := trigger, hostWords := hostWords }
  if d.tlive s = false then (false, d)
  else if d.tstate s = 2 ∧ (t.trigEnd.getD 0) + d.postSize s < t.written + len then (false, (d.tdrop s hostWords).setTstate s 3)
  else
    let w := t.written + len
    let ps := t.packets ++ [p]
    (true, d.setTslot s { t with packets := if d.tstate s = 1 then ringDrop (d.ringSize s) w ps else ps, written := w
                                 syncEnd := if syncAll then w else t.syncEnd })

/-- Write a SYNC packet: for every source, or for one. -/
def Dev.putSync (s : Nat) (src : Option Nat) (disc : Bool) (reason : Nat) (d : Dev) : Dev :=
  let cyc := d.tdu.trc.cycle
  let (sec, ns) := d.longStamp .tdu
  let h := pktHead 2 ((src.getD 0) * 2 ^ 54 + (if src.isNone then 2 ^ 53 else 0) + (if disc then 2 ^ 52 else 0) + reason * 2 ^ 48 + cyc % 2 ^ 48)
  let (ok, d) := d.putPacket s [h, BitVec.ofNat 64 sec, BitVec.ofNat 64 (d.tdu.time.base.inForce.code * 2 ^ 32 + ns)] src.isNone false 0
  if ok then
    let t := d.tslot s
    d.setTslot s (match src with
      | none => { t with lastCycle := [], allCycle := cyc }
      | some i => { t with lastCycle := assocSet i cyc t.lastCycle })
  else d

/-- The SYNCs that are due before the next packet: REASON 4 after an input restart (R127), REASON 0 after 4,096 bytes (R125). -/
def Dev.syncsDue (s : Nat) (d : Dev) : Dev :=
  let t := d.tslot s
  if d.tlive s = false then d
  else if t.restartSync then (d.setTslot s { t with restartSync := false }).putSync s none true 4
  else if t.syncEnd + 4096 ≤ t.written then d.putSync s none false 0
  else d

def Dev.laneRun (lane : Fin 2) (d : Dev) : Option TrcRun := if lane = 0 then d.tdu.trc.lane0 else d.tdu.trc.lane1

def Dev.setLaneRun (lane : Fin 2) (r : Option TrcRun) (d : Dev) : Dev :=
  d.updTrc fun t => if lane = 0 then { t with lane0 := r } else { t with lane1 := r }

/-- Close the DATA packet under construction on a lane and store it. -/
def Dev.closeRun (lane : Fin 2) (d : Dev) : Dev :=
  match d.laneRun lane with
  | none => d
  | some r =>
    let h := pktHead 1 (r.src * 2 ^ 54 + r.priv * 2 ^ 52 + lane.val * 2 ^ 51 + (if r.first then 2 ^ 50 else 0) + r.words.length * 2 ^ 46 + r.delta * 2 ^ 26)
    ((d.setLaneRun lane none).putPacket r.slot (h :: r.words) false false r.words.length).2

/-- Close the DATA packets under construction in a slot, which a packet of another type does (log 14). -/
def Dev.closeSlotRuns (s : Nat) (d : Dev) : Dev :=
  ([0, 1] : List (Fin 2)).foldl (fun d l => match d.laneRun l with
    | some r => if r.slot = s then d.closeRun l else d
    | none => d) d

/-- POWER_DOWN (R126 to R128): of a source, or of all. -/
def Dev.putPowerDown (s : Nat) (src : Option Nat) (cause : Nat) (d : Dev) : Dev :=
  let cyc := match src with
    | some i => (assocGet i d.tdu.trc.wordCycle).getD 0
    | none => d.tdu.trc.anyCycle
  let d := (d.closeSlotRuns s).syncsDue s
  (d.putPacket s [pktHead 3 ((src.getD 0) * 2 ^ 54 + (if src.isNone then 2 ^ 53 else 0) + cause * 2 ^ 48 + cyc % 2 ^ 48)] false false 0).2

/-- GRANT_END (R137, R138). -/
def grantEndWord (cause serial : Nat) : W64 := pktHead 5 (cause * 2 ^ 58 + serial % 2 ^ 32)

/-- LOSS. -/
def lossWord (cause count : Nat) : W64 := pktHead 6 (cause * 2 ^ 57 + min count (2 ^ 32 - 1))

/-! ## The state machine (R129 to R134) -/

/-- A capture begins (R133): CAPTURE increments, LOSS is 0, the arm SYNC is written; a LOSS of CAUSE 2 follows after a D2
entry that discarded words (R128, log 15). -/
def Dev.armSlot (s : Nat) (d : Dev) : Dev :=
  let t := d.tslot s
  let n := (t.capture + 1) % 2 ^ 32
  let d := d.setTslot s { capture := n, shadow := t.shadow, restartSync := t.restartSync }
  let d := ((d.set (R.TDU_TRC_SLOT_STAT_CAPTURE.at s) n).set (R.TDU_TRC_SLOT_STAT_LOSS.at s) 0).setTstate s 1
  let d := d.putSync s none false 3
  if t.d2Lost = 0 then d else (d.putPacket s [lossWord 2 t.d2Lost] false false 0).2

/-- The slot enters IDLE: a waiting configuration takes effect (R120). -/
def Dev.idleSlot (s : Nat) (d : Dev) : Dev :=
  let t := d.tslot s
  let d := (d.setTslot s { capture := t.capture, restartSync := t.restartSync, d2Lost := t.d2Lost }).setTstate s 0
  match t.shadow with
  | some w => d.setWord .tdu (R.TDU_TRC_SLOT_CFG.base + 8 * s) w
  | none => d

/-- Write a TRIGGER packet. -/
def Dev.putTrigger (s : Nat) (t : TrcTrig) (follow : Bool) (d : Dev) : Bool × Dev :=
  let d := (d.closeSlotRuns s).syncsDue s
  let st := d.stamp .tdu
  d.putPacket s [pktHead 4 (t.cause * 2 ^ 57 + (if follow then 2 ^ 56 else 0) + d.tdu.trc.cycle % 2 ^ 48),
    BitVec.ofNat 64 ((t.origin.getD st).toNat * 2 ^ 32 + st.toNat)] false true 0

/-- Only the packets of the frozen region that start at its first SYNC with ALL = 1 are kept (R131, R132). -/
def frozenPackets (from_ : Nat) (ps : List TrcPacket) : List TrcPacket :=
  (ps.filter fun p => from_ ≤ p.start).dropWhile fun p => !p.syncAll

/-- Freeze the last `keep` bytes written. -/
def Dev.freezeRing (s keep : Nat) (d : Dev) : Dev :=
  let t := d.tslot s
  d.setTslot s { t with packets := frozenPackets (t.written - keep) t.packets }

/-- A start trigger reaches a slot (R133); while the TDU's time is UNSET it is ignored (R158). -/
def Dev.startTrig (s : Nat) (d : Dev) : Dev := if d.tstate s = 0 ∧ d.tdu.time.state ≠ .unset then d.armSlot s else d.trigIgnored

/-- A stop trigger reaches a slot (R131, R133). -/
def Dev.stopTrig (s : Nat) (t : TrcTrig) (d : Dev) : Dev :=
  match d.tstate s with
  | 1 =>
    let d := (d.closeSlotRuns s).syncsDue s
    let d := d.freezeRing s (d.ringSize s - d.postSize s)
    let d := (d.putTrigger s t false).2
    let x := d.tslot s
    ((d.setTslot s { x with trigEnd := some x.written }).setTstate s 2).set (R.TDU_TRC_SLOT_STAT_STOP_CAUSE.at s) t.cause
  | 2 =>
    let (ok, d) := d.putTrigger s t true
    if ok then d else d.trigIgnored
  | _ => d.trigIgnored

/-- A forced stop (R129, R131, R133): FROZEN at once with the last S bytes. -/
def Dev.forcedStop (s cause : Nat) (write : Dev → Dev) (d : Dev) : Dev :=
  match d.tstate s with
  | 1 =>
    let d := write (d.closeSlotRuns s)
    ((d.freezeRing s (d.ringSize s)).setTstate s 3).set (R.TDU_TRC_SLOT_STAT_STOP_CAUSE.at s) cause
  | 2 => (write (d.closeSlotRuns s)).setTstate s 3
  | _ => d

/-- The trigger reaches the slot under its mask (R129). -/
def Dev.trigReaches (s : Nat) (t : TrcTrig) (start : Bool) (d : Dev) : Bool :=
  t.slots.testBit s && d.tvalid s && (if start then t.start else t.stop) &&
    decide (t.cause ≤ 4) && (d.get ((if start then R.TDU_TRC_SLOT_CFG_START_MASK else R.TDU_TRC_SLOT_CFG_STOP_MASK).at s)).testBit t.cause

/-- TRIGGER_POINT (R130, R134): at each slot the start triggers take effect before the stop triggers. -/
def triggerPoint (d : Dev) : Dev :=
  if d.tdu.smp.trcReset then d else
  let ts := d.tdu.trc.trigs
  let d := d.updTrc fun t => { t with trigs := [] }
  (List.range 8).foldl (fun d s =>
    let d := ts.foldl (fun d t => if d.trigReaches s t true then d.startTrig s else d) d
    ts.foldl (fun d t => if d.trigReaches s t false then d.stopTrig s t else d) d) d

def execTriggerPoint (s : State) := s.run triggerPoint

/-- Raise a trigger: it waits for the next trigger point. -/
def Dev.raiseTrig (t : TrcTrig) (d : Dev) : Dev := d.updTrc fun x => { x with trigs := x.trigs ++ [t] }

/-- The slots of an allotment index, as a mask. -/
def Dev.slotsOf (a : Nat) (d : Dev) : Nat :=
  (List.range 8).foldl (fun m s => if d.tvalid s && d.tallot s == a then m + 2 ^ s else m) 0

/-- A CHECK trigger (cause 3) or a HINT_LATE trigger (cause 4): it raises both kinds, under the slot's masks. -/
def Dev.raiseFor (a cause : Nat) (origin : BitVec 32) (d : Dev) : Dev :=
  d.raiseTrig { slots := d.slotsOf a, start := true, stop := true, cause := cause, origin := some origin }

/-- TRC_TRIG_START, TRC_TRIG_STOP (R129). -/
def execTrcTrigStart (mask : BitVec 8) (s : State) :=
  s.run fun d => d.raiseTrig { slots := mask.toNat, start := true, stop := false, cause := 0, origin := none }
def execTrcTrigStop (mask : BitVec 8) (s : State) :=
  s.run fun d => d.raiseTrig { slots := mask.toNat, start := false, stop := true, cause := 0, origin := none }

/-! ## The grant filter (R51, R122) -/

/-- Seconds of domain A now, on the TDU. -/
def Dev.secondsA (p : Part) (d : Dev) : Nat := ((d.tb p).domA.timeAt (d.tb p).tick / 2 ^ 40 / 1000000000).toNat

/-- A grant covers work of an index, source and privilege, for trace or for precise samples. -/
def Dev.grantCovers (precise : Bool) (a src priv : Nat) (d : Dev) : Bool :=
  let now := d.secondsA .tdu
  let die := d.get R.TDU_DIE_DIE
  d.mapValid a && d.tdu.trc.grants.any fun g =>
    g.allot == d.mapId a && g.dieMask.testBit die && g.sources.getLsbD src && g.flags.testBit (if precise then 2 else 3) &&
    (match priv with
     | 0 => true
     | 1 => g.flags.testBit 0
     | 2 => g.flags.testBit 1
     | _ => false) && decide (g.notBefore ≤ now) && decide (now < g.notAfter)

/-! ## Precise samples (R116, R117) -/

/-- A complete record passes the grant filter and is stored as an entry, or is rejected or dropped and counted; while the
TDU's time is UNSET it is discarded (R158). -/
def Dev.preciseDone (p : PsPartial) (d : Dev) : Dev :=
  if d.tdu.time.state = .unset then d.own 40 1 else
  if d.grantCovers true p.allot p.src p.priv = false then d.own 41 1 else
  let s := d.tdu.smp
  if 4096 ≤ s.psBuf.length then
    ((d.own 40 1).bump R.TDU_PS_STAT_DROPPED_FULL 1).updSmp fun s => { s with psDropBefore := if s.psDropBefore.contains p.src then s.psDropBefore else p.src :: s.psDropBefore }
  else
    let w3 := BitVec.ofNat 64 (p.stamp.toNat * 2 ^ 32 + p.src * 2 ^ 26 + p.priv * 2 ^ 24 + p.allot * 2 ^ 18 +
      (if s.psDropBefore.contains p.src then 2 ^ 17 else 0))
    let d := (d.own 39 1).updSmp fun s => { s with psBuf := s.psBuf ++ [⟨p.allot, p.words ++ [w3]⟩], psDropBefore := s.psDropBefore.filter (· != p.src) }
    d.set R.TDU_PS_STAT_FILL d.tdu.smp.psBuf.length

def Dev.psLane (lane : Fin 2) (d : Dev) : Option PsPartial := if lane = 0 then d.tdu.smp.psLane0 else d.tdu.smp.psLane1

def Dev.setPsLane (lane : Fin 2) (p : Option PsPartial) (d : Dev) : Dev :=
  d.updSmp fun s => if lane = 0 then { s with psLane0 := p } else { s with psLane1 := p }

/-- A record under way that another FIRST or another source breaks is discarded and counted (R116). -/
def Dev.breakRecord (w : TraceIn) (d : Dev) : Dev :=
  match d.psLane w.lane with
  | some p => if w.first ∨ p.src ≠ w.src.val then (d.setPsLane w.lane none).bump R.TDU_PS_STAT_MALFORMED 1 else d
  | none => d

/-- A word of a precise-sample source (R116). -/
def Dev.preciseWord (w : TraceIn) (d : Dev) : Dev :=
  match d.psLane w.lane with
  | none =>
    if w.first then
      d.setPsLane w.lane (some { src := w.src.val, allot := w.allot.val, priv := w.priv.toNat, stamp := d.stamp .tdu, words := [w.word] })
    else d
  | some p =>
    let p := { p with words := p.words ++ [w.word] }
    if 3 ≤ p.words.length then (d.setPsLane w.lane none).preciseDone p else d.setPsLane w.lane (some p)

/-! ## Storing trace words (R123, R124, R126) -/

/-- Open a DATA packet for a word at the current cycle: the SYNCs that are due, DELTA, and a SYNC of REASON 1 on overflow. -/
def Dev.openRun (s : Nat) (w : TraceIn) (wake : Bool) (d : Dev) : Dev :=
  let d := if (d.tslot s).restartSync ∨ (d.tslot s).syncEnd + 4096 ≤ (d.tslot s).written then (d.closeSlotRuns s).syncsDue s else d
  let d := if wake then d.putSync s (some w.src.val) true 2 else d
  let t := d.tslot s
  let cyc := d.tdu.trc.cycle
  let from_ := (assocGet w.src.val t.lastCycle).getD t.allCycle
  let far := 1048575 < cyc - from_
  let d := if far then d.putSync s (some w.src.val) false 1 else d
  if d.tlive s = false then d.tdrop s 1 else
  let t := d.tslot s
  let d := d.setTslot s { t with lastCycle := assocSet w.src.val cyc t.lastCycle }
  d.setLaneRun w.lane (some { slot := s, src := w.src.val, priv := w.priv.toNat, first := w.first
                              delta := if far ∨ wake then 0 else cyc - from_, words := [w.word] })

/-- Store a word in a slot (step 7 of R121). -/
def Dev.storeWord (s : Nat) (w : TraceIn) (d : Dev) : Dev :=
  let fits := match d.laneRun w.lane with
    | some r => decide (r.slot = s ∧ r.src = w.src.val ∧ r.priv = w.priv.toNat ∧ w.first = false ∧ w.wk = false)
    | none => false
  let lone := w.pd && w.word == 0
  let d := if lone then d.closeRun w.lane
    else if fits then
      match d.laneRun w.lane with
      | some r => d.setLaneRun w.lane (some { r with words := r.words ++ [w.word] })
      | none => d
    else (d.closeRun w.lane).openRun s w w.wk
  let d := d.updTrc fun t => { t with wordCycle := assocSet w.src.val t.cycle t.wordCycle, anyCycle := t.cycle }
  let full := match d.laneRun w.lane with
    | some r => decide (15 ≤ r.words.length)
    | none => false
  let d := if full || w.pd then d.closeRun w.lane else d
  if w.pd then d.putPowerDown s (some w.src.val) 0 else d

/-- The slot of an allotment index. -/
def Dev.slotOf (a : Nat) (d : Dev) : Option Nat := (List.range 8).find? fun s => d.tvalid s && d.tallot s == a

/-- TRACE_WORD: the acceptance order of R121. -/
def traceWord (w : TraceIn) (cycle : Nat) (d : Dev) : Dev :=
  if d.tdu.smp.trcReset = true ∨ 2 ≤ d.get R.TDU_PWR_STAT_STATE then d else
  let d := d.updTrc fun t => { t with cycle := max t.cycle (cycle % 2 ^ 48) }
  let other := match d.laneRun w.lane with
    | some r => r.src != w.src.val
    | none => false
  let d := (if other then d.closeRun w.lane else d).breakRecord w
  if d.tdu.smp.psMask.getLsbD w.src.val then d.preciseWord w
  else if w.priv = 3 ∨ d.grantCovers false w.allot.val w.src.val w.priv.toNat = false then
    (d.bump R.TDU_TRC_STAT_FILTER_REJECTED 1).own 41 1
  else match d.slotOf w.allot.val with
    | none => d.bump R.TDU_TRC_STAT_UNSLOTTED 1
    | some s =>
      match d.tstate s with
      | 0 => d
      | 3 | 4 => d.tdrop s 1
      | _ => d.storeWord s w

def execTraceWord (w : TraceIn) (cycle : Nat) (s : State) := s.run (traceWord w cycle)

/-- A SYNC of REASON 5 in every slot in RECORDING or POST when the domain in force changes (R125, R148). -/
def Dev.switchedTrace (d : Dev) : Dev :=
  (List.range 8).foldl (fun d s => if d.tlive s then (d.closeSlotRuns s).putSync s none false 5 else d) d

/-- TRC_CLK_GOOD_FALL (R62, R127): POWER_DOWN of CAUSE 1 in every live slot; the domain resets, and a SYNC of REASON 4 comes
before the first packet stored afterwards. CYCLE restarts from 0 (R124). -/
def trcClkGoodFall (d : Dev) : Dev :=
  if 2 ≤ d.get R.TDU_PWR_STAT_STATE ∨ d.tdu.smp.trcReset = true then d else
  let d := (List.range 8).foldl (fun d s =>
    if d.tlive s then
      let d := d.putPowerDown s none 1
      d.setTslot s { d.tslot s with restartSync := true }
    else d) d
  let d := d.updTrc fun t => { t with cycle := 0, lane0 := none, lane1 := none, wordCycle := [], anyCycle := 0 }
  d.updSmp fun s => { s with trcReset := true, psLane0 := none, psLane1 := none }

def execTrcClkGoodFall (s : State) := s.run trcClkGoodFall

/-! ## Draining (R135, R136) -/

/-- Bytes of words. -/
def wordBytes (ws : List W64) : List Byte := (ws.map fun w => leBytes 8 w.toNat).flatten

/-- A trace segment (R135). -/
def Dev.segment (s : Nat) (first last trig : Bool) (off : Nat) (body : List Byte) (d : Dev) : List Byte :=
  leBytes 1 1 ++ leBytes 1 ((if first then 1 else 0) + (if last then 2 else 0) + (if trig then 4 else 0)) ++
  leBytes 2 (d.mapId (d.tallot s)) ++ leBytes 4 (d.tslot s).capture ++ leBytes 4 off ++ leBytes 2 body.length ++
  leBytes 1 (d.get (R.TDU_TRC_SLOT_STAT_STOP_CAUSE.at s)) ++ leBytes 1 0 ++ body

/-- The TRACE frame of a segment, in class W2 (R169). -/
def Dev.traceFrame (s : Nat) (seg : List Byte) (d : Dev) : Frame :=
  { payload := .trace seg, cls := 6, prot := true, fwd := none, allotIdx := BitVec.ofNat 6 (d.tallot s), len := seg.length, seq := 0, sentAt := 0 }

/-- The largest payload of a segment on the links in use: at most 4,096 bytes within the frame limit (R135, R170). -/
def Dev.segMax (d : Dev) : Nat := min 4096 ((d.frameLimit - 16) / 8 * 8)

/-- TRACE_SEGMENT (R133, R135, R136): the next segment of a frozen or draining slot, if egress or the ring can take it. -/
def traceSegment (sl : Fin 8) (d : Dev) : Dev :=
  let s := sl.val
  if d.tvalid s = false ∨ ¬ (d.tstate s = 3 ∨ d.tstate s = 4) then d else
  let t := d.tslot s
  let all := wordBytes ((t.packets.map (·.words)).flatten)
  let first := t.sent = 0
  if t.sent < all.length then
    let body := (all.drop t.sent).take d.segMax
    let base := (t.packets.head?.map (·.start)).getD 0
    let trig := t.packets.any fun p => p.trigger && decide (t.sent ≤ p.start - base) && decide (p.start - base < t.sent + body.length)
    let (ok, d) := d.placeFrame (d.traceFrame s (d.segment s (decide first) false trig t.sent body))
    if ok then (d.setTslot s { t with sent := t.sent + body.length }).setTstate s 4 else d
  else
    let loss := d.get (R.TDU_TRC_SLOT_STAT_LOSS.at s)
    let (ok, d) := d.placeFrame (d.traceFrame s (d.segment s (decide first) true false t.sent (wordBytes [lossWord 0 loss])))
    if ok = false then d else
    let d := d.idleSlot s
    if d.tvalid s && d.bit (R.TDU_TRC_SLOT_CFG_REARM.at s) then d.armSlot s else d

def execTraceSegment (slot : Fin 8) (s : State) := s.run (traceSegment slot)

/-! ## Release, grant end, D2 entry (R128, R137, R138) -/

/-- Host words stored in a slot that were not sent yet. -/
def Dev.wordsHeld (s : Nat) (d : Dev) : Nat :=
  let t := d.tslot s
  let base := (t.packets.head?.map (·.start)).getD 0
  ((t.packets.filter fun p => t.sent < p.start - base + 8 * p.words.length).map (·.hostWords)).sum

/-- VALID cleared (R138): the content is discarded and one segment with GRANT_END and LOSS goes out; a segment that finds no
room waits at its source. -/
def Dev.releaseSlot (s : Nat) (d : Dev) : Dev :=
  if d.tvalid s = false then d else
  let d := d.closeSlotRuns s
  let n := d.wordsHeld s
  let serial := ((d.tdu.trc.grants.filter fun g => g.allot = d.mapId (d.tallot s)).getLast?.map (·.serial)).getD 0
  let f := d.traceFrame s (d.segment s true true false 0 (wordBytes [grantEndWord 2 serial, lossWord 1 n]))
  let (ok, d) := d.placeFrame f
  let d := if ok then d else d.updSmp fun s => { s with held := s.held ++ [f] }
  let t := d.tslot s
  ((d.setTslot s { capture := t.capture }).setTstate s 0).setWord .tdu (R.TDU_TRC_SLOT_CFG.base + 8 * s) 0

/-- A write of TDU_TRC_SLOT_CFG by the TTA (R120). -/
def Dev.slotCfgWrite (s : Nat) (v : W64) (d : Dev) : Dev :=
  if R.TDU_TRC_SLOT_CFG_VALID.read v = 0 then d.releaseSlot s
  else if d.tvalid s = false ∨ d.tstate s = 0 then
    (d.setTslot s { d.tslot s with shadow := none }).setWord .tdu (R.TDU_TRC_SLOT_CFG.base + 8 * s) v
  else d.setTslot s { d.tslot s with shadow := some v }

/-- A grant ends (R52, R137): GRANT_END in the allotment's live slot; a forced stop with the slot's last grant; event
0x6004. -/
def Dev.endGrant (cause : Nat) (g : Grant) (d : Dev) : Dev :=
  let d := d.updTrc fun t => { t with grants := t.grants.erase g }
  let last := !(d.tdu.trc.grants.any fun h => h.allot = g.allot)
  let put (s : Nat) (d : Dev) : Dev := (((d.closeSlotRuns s).syncsDue s).putPacket s [grantEndWord cause g.serial] false false 0).2
  let d := (List.range 8).foldl (fun d s =>
    if d.tvalid s && d.mapValid (d.tallot s) && d.mapId (d.tallot s) == g.allot then
      if last then d.forcedStop s 6 (put s) else if d.tlive s then put s d else d
    else d) d
  d.event .tdu 6 0x6004 [g.allot, g.serial, cause]

/-- GRANT_EXPIRY (R52): every grant whose NOT_AFTER is reached ends. -/
def grantExpiry (tick : Nat) (d : Dev) : Dev :=
  let d := d.advance .tdu tick
  let now := d.secondsA .tdu
  (d.tdu.trc.grants.filter fun g => g.notAfter ≤ now).foldl (fun d g => d.endGrant 0 g) d

def execGrantExpiry (tick : Nat) (s : State) := s.run (grantExpiry tick)

/-- D2 entry (R128): a forced stop of cause POWER with a POWER_DOWN of CAUSE 2 in every live slot. -/
def Dev.traceD2 (d : Dev) : Dev :=
  (List.range 8).foldl (fun d s => if d.tlive s then d.forcedStop s 5 (fun d => d.putPowerDown s none 2) else d) d

/-- What a slot has not drained at the deadline is discarded (R128). -/
def Dev.traceD2Discard (d : Dev) : Dev :=
  (List.range 8).foldl (fun d s =>
    if d.tvalid s && (d.tstate s == 3 || d.tstate s == 4) then
      let n := d.wordsHeld s
      (d.setTslot s { d.tslot s with d2Lost := n }).idleSlot s
    else d) d

/-- Every slot has drained. -/
def Dev.traceDrained (d : Dev) : Bool := (List.range 8).all fun s => !(d.tvalid s && (d.tstate s == 3 || d.tstate s == 4))

end Sys2Proof.Machine
end

