-- ==== Sys2Proof/Machine/TduCheck.lean ====
section
/-! DEFINITION. Checking in the die unit (R74 to R80, R372 to R379, R390 to R392): item sampling, shadow and third executions,
step entries, bins and field tests. -/
namespace Sys2Proof.Machine

def Dev.updChk (f : TduCheck → TduCheck) (d : Dev) : Dev := { d with tdu := { d.tdu with chk := f d.tdu.chk } }

def Dev.chkIdx (a : Nat) (d : Dev) : ChkIdx := Memory.read (fun _ => {}) d.tdu.chk.idx a

def Dev.updIdx (a : Nat) (f : ChkIdx → ChkIdx) (d : Dev) : Dev :=
  d.updChk fun c => { c with idx := Memory.write (fun _ => {}) c.idx a (f (Memory.read (fun _ => {}) c.idx a)) }

def Dev.chkUnit (u : Nat) (d : Dev) : ChkUnit := Memory.read (fun _ => {}) d.tdu.chk.units u

def Dev.updUnit (u : Nat) (f : ChkUnit → ChkUnit) (d : Dev) : Dev :=
  d.updChk fun c => { c with units := Memory.write (fun _ => {}) c.units u (f (Memory.read (fun _ => {}) c.units u)) }

/-- Die index, the first parameter of check events. -/
def Dev.die (d : Dev) : Nat := d.get R.TDU_DIE_DIE

/-! ## Classes (R74, R75) -/

/-- A class of the written copy is eligible: enabled, at least 3 units, inside 4,096, overlapping no other enabled class. -/
def Dev.classEligible (c : Nat) (d : Dev) : Bool :=
  let lo (c : Nat) := d.get (R.TDU_CHK_CLASS_FIRST_UNIT.at c)
  let n (c : Nat) := d.get (R.TDU_CHK_CLASS_UNIT_COUNT.at c)
  let en (c : Nat) := d.bit (R.TDU_CHK_CLASS_ENABLE.at c)
  en c && decide (3 ≤ n c) && decide (lo c + n c ≤ 4096) &&
    (List.range 16).all fun e => e == c || !en e || decide (lo e + n e ≤ lo c) || decide (lo c + n c ≤ lo e)

/-- The eligible classes of the written copy. -/
def Dev.classMap (d : Dev) : List (Nat × Nat) :=
  ((List.range 16).filter d.classEligible).map fun c => (d.get (R.TDU_CHK_CLASS_FIRST_UNIT.at c), d.get (R.TDU_CHK_CLASS_UNIT_COUNT.at c))

/-- CHK_CLASS_WRITE (R75): the RW fields read back; ELIGIBLE changes only when the copy takes effect. -/
def chkClassWrite (c : Fin 16) (v : W64) (d : Dev) : Dev :=
  [R.TDU_CHK_CLASS_FIRST_UNIT, R.TDU_CHK_CLASS_UNIT_COUNT, R.TDU_CHK_CLASS_ENABLE].foldl (fun d f => d.set (f.at c.val) (f.read v)) d

def execChkClassWrite (c : Fin 16) (v : W64) (s : State) := s.run (chkClassWrite c v)

/-- The written copy takes effect for an index at its step boundary; ELIGIBLE shows the copy taken last (log 16). -/
def Dev.takeClasses (a : Nat) (d : Dev) : Dev :=
  let m := d.classMap
  let el := (List.range 16).map d.classEligible
  let d := (List.range 16).foldl (fun d c => d.setBit (R.TDU_CHK_CLASS_ELIGIBLE.at c) (el.getD c false)) d
  (d.updChk fun c => { c with force := m }).updIdx a fun x => { x with map := some m }

/-- The class of a unit in a map. -/
def classOf (m : List (Nat × Nat)) (u : Nat) : Option (Nat × Nat) := m.find? fun c => c.1 ≤ u && decide (u < c.1 + c.2)

/-- A unit that is withdrawn or under test. -/
def Dev.unitOut (u : Nat) (d : Dev) : Bool := (d.chkUnit u).withdrawn || d.tdu.chk.testing == some u

/-- The next unit of a class after its rotation pointer, outside a list (R375). -/
def Dev.nextUnit (cls : Nat × Nat) (skip : List Nat) (d : Dev) : Option Nat :=
  let p := Memory.read (fun lo => lo + cls.2 - 1) d.tdu.chk.pointer cls.1
  ((List.range cls.2).map fun i => cls.1 + (p - cls.1 + 1 + i) % cls.2).find? fun u => !skip.contains u && !d.unitOut u

/-! ## Sending check messages (R173) -/

def Dev.sendCheck (tag : BitVec 32) (m : ChkMsg) (d : Dev) : Dev := d.sendUp 2 0 (.check tag m)

/-! ## Step entries (R378, R379) -/

/-- The precise sample buffer takes step entries from the step queue, in order, once they have their stamps (R158, R379). -/
def Dev.stepEntriesTake (d : Dev) : Dev :=
  d.tdu.chk.stepQ.foldl (fun (d : Dev) (e : StepEntry) =>
    let now := d.stamp .tdu
    let e' : StepEntry := { e with final := if e.final.isNone && d.tdu.time.state == DomState.locked then some now else e.final }
    let q := d.tdu.chk.stepQ.tail
    match e'.final with
    | some st =>
      if d.tdu.smp.psBuf.length < 4096 ∧ d.tdu.chk.stepQ.head? = some e then
        let ws : List W64 := [e.w0, e.w1, BitVec.ofNat 64 st.toNat, BitVec.ofNat 64 (e.ended.toNat * 2 ^ 32 + 3 * 2 ^ 24 + e.allot * 2 ^ 18)]
        let d := (d.updChk fun c => { c with stepQ := q }).updSmp fun s => { s with psBuf := s.psBuf ++ [PsEntry.mk e.allot ws] }
        d.set R.TDU_PS_STAT_FILL d.tdu.smp.psBuf.length
      else d.updChk fun c => { c with stepQ := c.stepQ.map fun x => if x = e then e' else x }
    | none => d) d

/-- The steps of an index that are complete make their entries, in step order. -/
def Dev.finishSteps (a : Nat) (d : Dev) : Dev :=
  let x := d.chkIdx a
  let done := x.steps.takeWhile fun s => s.ended.isSome && s.waiting == 0
  let d := d.updIdx a fun x => { x with steps := x.steps.drop done.length }
  let d := done.foldl (fun d s =>
    let w0 := BitVec.ofNat 64 (s.step + s.worst * 2 ^ 32 + s.k * 2 ^ 40)
    let w1 := BitVec.ofNat 64 (min s.items (2 ^ 32 - 1) + min s.sampled 65535 * 2 ^ 32 + min s.disagreed 65535 * 2 ^ 48)
    let final := if d.tdu.time.state = .unset then none else some (d.stamp .tdu)
    let d := if s.worst = 0 then d else (d.bump R.TDU_CHK_OUT_STEPS_VOID 1).event .tdu 0 0x4004 [d.die, a, s.step, s.worst]
    d.updChk fun c => { c with stepQ := c.stepQ ++ [⟨a, w0, w1, final, s.ended.getD 0⟩] }) d
  d.stepEntriesTake

/-- Change a step of an index; it is created with k in force when its first item or its end arrives. -/
def Dev.updStep (a step : Nat) (f : ChkStep → ChkStep) (d : Dev) : Dev :=
  let k := d.get (R.TDU_CHK_K_K_EFF.at a)
  d.updIdx a fun x =>
    if x.steps.any fun s => s.step = step then { x with steps := x.steps.map fun s => if s.step = step then f s else s }
    else { x with steps := x.steps ++ [f { step := step, k := k }] }

/-- k as K_REQ and K_CAP ask (R372). -/
def Dev.kWanted (a : Nat) (d : Dev) : Nat := min (d.get (R.TDU_CHK_K_K_REQ.at a)) (d.get (R.TDU_CHK_K_K_CAP.at a))

/-- The TDU Sett draws a new SEED for an index: a free value (log 3). -/
def Dev.drawSeed (a : Nat) (d : Dev) : Dev :=
  let (w, d) := d.free
  d.updIdx a fun x => { x with seed := some (w.setWidth 32) }

/-- CHK_STEP_END (R75, R372, R373, R378, R379): not accepted while the step queue is full. -/
def chkStepEnd (a : Fin 64) (step : BitVec 32) (d : Dev) : Dev :=
  if d.inD0 = false ∨ 64 ≤ d.tdu.chk.stepQ.length then d else
  let st := d.stamp .tdu
  let d := d.updStep a.val step.toNat fun s => { s with ended := some st }
  let d := d.updIdx a.val fun x => { x with openStep := some ((step.toNat + 1) % 2 ^ 32) }
  let d := (d.finishSteps a.val).set (R.TDU_CHK_K_K_EFF.at a.val) (d.kWanted a.val)
  (d.takeClasses a.val).drawSeed a.val

def execChkStepEnd (a : Fin 64) (step : BitVec 32) (s : State) := s.run (chkStepEnd a step)

/-! ## Field tests (R80, R392, R393) -/

/-- Start the next test when none runs: on-demand tests ahead of a periodic one. -/
def Dev.nextTest (d : Dev) : Dev :=
  if d.tdu.chk.testing.isSome then d else
  let start (u : Nat) (d : Dev) : Dev :=
    ((((d.own 23 1).setBit R.TDU_CHK_TEST_BUSY true).set R.TDU_CHK_TEST_UNIT u).updChk fun c => { c with testing := some u }).emit (.chkTest u)
  match d.tdu.chk.testQ with
  | u :: t => start u (d.updChk fun c => { c with testQ := t })
  | [] =>
    if d.tdu.chk.periodicDue = false ∨ d.radioIndex = none then d else
    let mask := d.get R.TDU_CHK_TEST_RADIO_CLASSES
    let inRadio (u : Nat) : Bool := (List.range 16).any fun c => mask.testBit c &&
      decide (d.get (R.TDU_CHK_CLASS_FIRST_UNIT.at c) ≤ u) && decide (u < d.get (R.TDU_CHK_CLASS_FIRST_UNIT.at c) + d.get (R.TDU_CHK_CLASS_UNIT_COUNT.at c))
    match ((List.range 4096).map fun i => (d.tdu.chk.lastPeriodic + 1 + i) % 4096).find? inRadio with
    | some u => start u (d.updChk fun c => { c with periodicDue := false, lastPeriodic := u })
    | none => d.updChk fun c => { c with periodicDue := false }

/-- Queue an on-demand test of a unit. -/
def Dev.queueTest (u : Nat) (d : Dev) : Dev :=
  if d.tdu.chk.testing = some u ∨ d.tdu.chk.testQ.contains u = true then d
  else (d.updChk fun c => { c with testQ := c.testQ ++ [u] }).nextTest

/-- A test ended: the orders that wait for the unit count it, and an order without units left answers TEST_DONE. -/
def Dev.orderDone (u : Nat) (failed : Bool) (d : Dev) : Dev :=
  let os := d.tdu.chk.orders.map fun o =>
    if o.units.contains u then { o with units := o.units.filter (· != u), failures := o.failures + (if failed then 1 else 0) } else o
  let d := d.updChk fun c => { c with orders := os.filter fun o => !o.units.isEmpty }
  (os.filter fun o => o.units.isEmpty).foldl (fun d o => d.sendCheck o.tag (.testDone (BitVec.ofNat 16 (min 65535 o.failures)))) d

/-- The end of the test under way (R392). -/
def testEnd (pass : Bool) (why : Nat) (d : Dev) : Dev :=
  match d.tdu.chk.testing with
  | none => d
  | some u =>
    let d := (d.updChk fun c => { c with testing := none }).setBit R.TDU_CHK_TEST_BUSY false
    let d := if pass then d.updUnit u fun x => { x with timeouts := 0, blame := 0 }
      else
        let was := (d.chkUnit u).withdrawn
        let d := ((d.own 24 1).updUnit u fun x => { x with withdrawn := true }).event .tdu 0 0x4010 [d.die, u, why]
        let d := if was then d else d.sendCheck 0 (.unitState (BitVec.ofNat 16 u) true)
        d.emit .tduIrq
    (d.orderDone u (!pass)).nextTest

def execChkTestDone (pass : Bool) (s : State) := s.run (testEnd pass 0)
def execFieldTestTimeout (s : State) := s.run (testEnd false 1)

/-- PERIODIC_TEST_TIMER (R392): a periodic test that finds another running waits for it. -/
def periodicTestTimer (d : Dev) : Dev :=
  if d.radioIndex = none then d else (d.updChk fun c => { c with periodicDue := true }).nextTest

def execPeriodicTestTimer (s : State) := s.run periodicTestTimer

/-- UNIT_CLEAR (R392): the unit that TDU_CHK_USEL selects returns to service and its counts are 0. -/
def unitClear (d : Dev) : Dev :=
  let u := d.get R.TDU_CHK_USEL_UNIT
  let was := (d.chkUnit u).withdrawn
  let d := d.updUnit u fun _ => {}
  if was then d.sendCheck 0 (.unitState (BitVec.ofNat 16 u) false) else d

def execUnitClear (s : State) := s.run unitClear

/-- A test order of a TTA (R173, R393): every unit of the named classes. -/
def Dev.testOrder (tag : BitVec 32) (classMask : Nat) (d : Dev) : Dev :=
  let us := ((List.range 16).filter classMask.testBit).map fun c =>
    (List.range (d.get (R.TDU_CHK_CLASS_UNIT_COUNT.at c))).map fun i => d.get (R.TDU_CHK_CLASS_FIRST_UNIT.at c) + i
  let us := us.flatten.eraseDups
  if us.isEmpty then d.sendCheck tag (.testDone 0) else
  us.foldl (fun d u => d.queueTest u) (d.updChk fun c => { c with orders := c.orders ++ [⟨tag, us, 0⟩] })

/-! ## Bins (R390, R391) -/

/-- The temperature-voltage bin of a junction temperature in °C and a rail in mV. -/
def tvBin (tempC : Int) (mv nom : Nat) : Nat :=
  let tb := (min 7 (max 0 ((tempC - 25) / 10))).toNat
  let dv : Int := ((mv : Int) - nom) * 100
  let vb := if dv < -3 * nom then 0 else if dv < 0 then 1 else if dv < 3 * nom then 2 else 3
  4 * tb + vb

/-- BIN_CLR. -/
def binClr (d : Dev) : Dev :=
  ((List.range 48).foldl (fun d i => (d.set (R.TDU_CHK_BIN_CHECKED.at i) 0).set (R.TDU_CHK_BIN_MISMATCH.at i) 0) d).updChk
    fun c => { c with trips := [] }

def execBinClr (s : State) := s.run binClr

/-- The trip test of a bin (R391); CELL_MIN 0 acts as 1. -/
def Dev.binTrip (i : Nat) (d : Dev) : Dev :=
  let m := d.get (R.TDU_CHK_BIN_MISMATCH.at i)
  let total := ((List.range 32).map fun j => d.get (R.TDU_CHK_BIN_MISMATCH.at j)).sum
  if d.tdu.chk.trips.contains i = false ∧ max 1 (d.get R.TTA_CHK_CFG_CELL_MIN) ≤ m ∧ total < 2 * m then
    let d := (d.updChk fun c => { c with trips := i :: c.trips }).event .tdu 0 0x4011 [d.die, i, m, d.get (R.TDU_CHK_BIN_CHECKED.at i)]
    (d.tdu.chk.units.filter fun e => 0 < e.2.blame ∨ 0 < e.2.timeouts).foldl (fun d e => d.queueTest e.1) d
  else d

/-- The BINS message of a whole second. -/
def Dev.sendBins (d : Dev) : Dev :=
  d.sendCheck 0 (.bins (d.stamp .tdu) ((List.range 48).map fun i => d.word .tdu (R.TDU_CHK_BIN.base + 8 * i)))

/-! ## Items (R373 to R377) -/

/-- One BLAME or TIMEOUT of a unit; a unit that reaches its limit is queued for a test (R377). -/
def Dev.blameUnit (u : Nat) (timeout : Bool) (d : Dev) : Dev :=
  let d := d.updUnit u fun x => if timeout then { x with timeouts := min 65535 (x.timeouts + 1) } else { x with blame := min 65535 (x.blame + 1) }
  let x := d.chkUnit u
  if max 1 (d.get R.TTA_CHK_CFG_BLAME_MAX) ≤ x.blame ∨ 3 ≤ x.timeouts then d.queueTest u else d

/-- The item's result (R376): CHK_REL, the step's outcome, the blame, the event. -/
def Dev.itemResult (f : ChkFlight) (result : Nat) (blames : List (Nat × Bool)) (viaThird : Bool) (d : Dev) : Dev :=
  let d := (d.updChk fun c => { c with flight := c.flight.filter fun g => !(g.item == f.item && g.allot == f.allot) }).emit (.chkRel f.item)
  let rank (r : Nat) : Nat := match r with | 2 => 3 | 1 => 2 | 3 => 1 | _ => 0
  let d := d.updStep f.allot f.step fun s =>
    { s with waiting := s.waiting - 1, worst := if rank s.worst < rank result then result else s.worst }
  let d := if viaThird then
      let (w, d) := match blames with
        | (u, _) :: _ => (BitVec.ofNat 64 u, d)
        | [] => d.free
      (if result = 0 then d.bump R.TDU_CHK_OUT_CORRECTED 1 else d).event .tdu 0 0x4002 [d.die, result, w.toNat % 2 ^ 32]
    else d
  let d := blames.foldl (fun d b => d.blameUnit b.1 b.2) d
  d.finishSteps f.allot

/-- Take an item's result when its responses decide it, or make the third execution due (R376). -/
def Dev.decideItem (f : ChkFlight) (d : Dev) : Dev :=
  match f.shadow, f.third with
  | some s, none =>
    if s = some f.sig then d.itemResult f 0 [] false
    else d.updChk fun c => { c with due := if c.due.contains (f.item, f.allot, true) then c.due else c.due ++ [(f.item, f.allot, true)] }
  | some s, some t =>
    let su := f.shadowUnit.getD 0
    let tu := f.thirdUnit.getD 0
    if t = some f.sig then d.itemResult f 0 [(su, s.isNone)] true
    else if s.isSome ∧ s = t then d.itemResult f 1 [(f.unit, false)] true
    else if s.isSome ∧ t.isSome then d.itemResult f 2 [] true
    else d.itemResult f 3 ((if s.isNone then [(su, true)] else []) ++ (if t.isNone then [(tu, true)] else [])) true
  | none, _ => d

/-- CHK_ITEM (R373, in its order; R77, R78). Accepted in D0; with every entry in use and k = 0, CHK_ITEM_READY is low. -/
def chkItem (item : BitVec 48) (unit : Fin 4096) (a : Fin 64) (step : BitVec 32) (sig : W64) (poison : Bool) (tempC : Int)
    (railMv : BitVec 16) (d : Dev) : Dev :=
  if d.inD0 = false then d else
  let x := d.chkIdx a.val
  let map := x.map.getD d.tdu.chk.force
  let k := d.get (R.TDU_CHK_K_K_EFF.at a.val)
  let openS := x.openStep.getD step.toNat
  let full := 1024 ≤ d.tdu.chk.flight.length
  let d0 := d
  let d := if x.seed.isNone then d.drawSeed a.val else d
  let seed := ((d.chkIdx a.val).seed.getD 0).toNat
  let h := (crc32c (leBytes 6 item.toNat ++ leBytes 4 step.toNat ++ leBytes 4 seed)).toNat
  let count (d : Dev) : Dev :=
    if step.toNat = openS then (d.updIdx a.val fun x => { x with openStep := some openS }).updStep a.val step.toNat fun s => { s with items := s.items + 1 }
    else d
  let no (d : Dev) : Dev := (count d).emit (.chkKeep item.toNat false)
  if poison then no d else
  match classOf map unit.val with
  | none => (no d).bump R.TDU_CHK_STAT_UNCHECKED 1
  | some cls =>
    let free := ((List.range cls.2).map (cls.1 + ·)).filter fun u => u != unit.val && !d.unitOut u
    if free.length < 2 ∨ step.toNat ≠ openS then (no d).bump R.TDU_CHK_STAT_UNCHECKED 1
    else if k ≠ 0 ∧ h % 2 ^ k ≠ 0 then no d
    else if full then (if k = 0 then d0 else (no d).bump R.TDU_CHK_STAT_SKIPPED 1)
    else
      let b := tvBin tempC railMv.toNat (d.get R.TDU_CHK_TEST_VNOM_MV)
      let p := 32 + item.toNat / 2 ^ 44
      let f : ChkFlight := { item := item.toNat, unit := unit.val, allot := a.val, step := step.toNat, sig := sig, stamp := d.stamp .tdu, cls := cls, bins := (b, p) }
      let d := (count d).updStep a.val step.toNat fun s => { s with sampled := s.sampled + 1, waiting := s.waiting + 1 }
      let d := ((d.own 20 1).bump (R.TDU_CHK_BIN_CHECKED.at b) 1).bump (R.TDU_CHK_BIN_CHECKED.at p) 1
      (d.updChk fun c => { c with flight := c.flight ++ [f], due := c.due ++ [(f.item, f.allot, false)] }).emit (.chkKeep f.item true)

def execChkItem (item : BitVec 48) (unit : Fin 4096) (a : Fin 64) (step : BitVec 32) (sig : W64) (poison : Bool) (tempC : Int)
    (railMv : BitVec 16) (s : State) := s.run (chkItem item unit a step sig poison tempC railMv)

/-- The unit that a due request would name now (R375). -/
def Dev.dueUnit (r : Nat × Nat × Bool) (d : Dev) : Option (ChkFlight × Nat) :=
  match d.tdu.chk.flight.find? fun f => f.item = r.1 ∧ f.allot = r.2.1 with
  | some f => (d.nextUnit f.cls (f.unit :: (if r.2.2 then f.shadowUnit.toList else []))).map fun u => (f, u)
  | none => none

/-- CHK_REQ_ISSUE (R375): the oldest due request with an eligible unit is issued and the class pointer moves to the unit. -/
def chkReqIssue (d : Dev) : Dev :=
  if d.inD0 = false then d else
  match d.tdu.chk.due.find? fun r => (d.dueUnit r).isSome with
  | none => d
  | some r =>
    match d.dueUnit r with
    | none => d
    | some (f, u) =>
      let upd (g : ChkFlight) : ChkFlight :=
        if g.item = f.item ∧ g.allot = f.allot then (if r.2.2 then { g with thirdUnit := some u } else { g with shadowUnit := some u }) else g
      (d.updChk fun c => { c with due := c.due.erase r, flight := c.flight.map upd
                                  pointer := Memory.write (fun lo => lo + f.cls.2 - 1) c.pointer f.cls.1 u }).emit (.chkReq f.item u)

def execChkReqIssue (s : State) := s.run chkReqIssue

/-- A response, or its absence, for the outstanding request of an item to a unit (R376). -/
def Dev.chkAnswer (item a unit : Nat) (r : Option W64) (d : Dev) : Dev :=
  match d.tdu.chk.flight.find? fun f => f.item = item ∧ f.allot = a with
  | none => d
  | some f =>
    let third := f.thirdUnit = some unit ∧ f.third = none
    let shadow := f.shadowUnit = some unit ∧ f.shadow = none
    if ¬ third ∧ ¬ shadow then d else
    let f' := if shadow then { f with shadow := some r } else { f with third := some r }
    let d := d.updChk fun c => { c with flight := c.flight.map fun g => if g.item = item ∧ g.allot = a then f' else g }
    let d := match r with
      | none => d.own 22 1
      | some v =>
        if v = f.sig then d else
        let d := (d.own 21 1).event .tdu 0 0x4001 [d.die, f.unit, unit, item % 2 ^ 32]
        let d := d.updStep a f.step fun s => { s with disagreed := s.disagreed + 1 }
        let d := (d.bump (R.TDU_CHK_BIN_MISMATCH.at f.bins.1) 1).bump (R.TDU_CHK_BIN_MISMATCH.at f.bins.2) 1
        ((d.binTrip f.bins.1).binTrip f.bins.2).raiseFor a 3 f.stamp
    d.decideItem f'

/-- CHK_RSP: a response with its poison flag set is missing (R376). -/
def execChkRsp (item : BitVec 48) (a : Fin 64) (unit : Fin 4096) (sig : W64) (poison : Bool) (s : State) :=
  s.run fun d => d.chkAnswer item.toNat a.val unit.val (if poison then none else some sig)

/-- CHK_RESPONSE_TIMEOUT. -/
def execChkResponseTimeout (item : BitVec 48) (a : Fin 64) (unit : Fin 4096) (s : State) :=
  s.run fun d => d.chkAnswer item.toNat a.val unit.val none

/-- Items in flight complete as missing when the host-main domain resets (R62): rows 2 to 5 with what is still absent. -/
def Dev.flightLost (d : Dev) : Dev :=
  let fs := d.tdu.chk.flight
  let d := d.updChk fun c => { c with due := [] }
  fs.foldl (fun d f =>
    let n := (if f.shadow.isNone then 1 else 0) + (if f.third.isNone then 1 else 0)
    let d := d.own 22 n
    let f := { f with shadow := f.shadow.orElse fun _ => some none, third := f.third.orElse fun _ => some none }
    let su := f.shadowUnit.toList.map fun u => (u, true)
    let tu := f.thirdUnit.toList.map fun u => (u, true)
    d.itemResult f 3 ((if f.shadow = some none then su else []) ++ (if f.third = some none then tu else [])) true) d

/-- EPOCH_BOUNDARY: the boundary, then step entries that waited move in (R379). -/
def execEpochBoundary (tick : Nat) (s : State) := s.run fun d => (epochBoundary tick d).stepEntriesTake

/-- The time of the TDU becomes LOCKED (R158): step entries take their stamps. -/
def Dev.timeLockedTdu (d : Dev) : Dev := d.stepEntriesTake.buildStamps

end Sys2Proof.Machine
end

