-- ==== Sys2Proof/Machine/Time.lean ====
section
/-! DEFINITION. The time base (R139 to R163): domains, bridge, switch, anchors, TIME and ECHO messages, PTP, SyncE, PPS. -/
namespace Sys2Proof.Machine

/-! ## Domain operations (R141) -/

/-- A RATE write at tick `t`: the domain's time is continuous across the change. -/
def Domain.setRate (m : Domain) (t : Nat) (r : Int) : Domain :=
  { m with ofs := m.timeAt t, base := t, rate := r, corrEnd := none }

/-- A SET at tick `t` to `v` (2^-40 ns). -/
def Domain.setTo (m : Domain) (t : Nat) (v : Int) : Domain :=
  match m.corrEnd with
  | some (e, r2) => if t ≤ e then { m with ofs := v, base := t } else { m with ofs := v, base := t, rate := r2, corrEnd := none }
  | none => { m with ofs := v, base := t }

/-- SLEW_PPM of TTA_TIME_CTL: 0 acts as 1, above 50 as 50. -/
def Dev.slewPpm (d : Dev) : Nat := max 1 (min 50 (d.get R.TTA_TIME_CTL_SLEW_PPM))

/-- The TTA's time state changed by `f`. -/
def Dev.updTime (f : TtaTime → TtaTime) (d : Dev) : Dev := { d with tta := { d.tta with time := f d.tta.time } }

/-- The TDU's time state changed by `f`. -/
def Dev.updTduTime (f : TduTime → TduTime) (d : Dev) : Dev := { d with tdu := { d.tdu with time := f d.tdu.time } }

/-- The TTA leads time for the tray (R155). -/
def Dev.leads (d : Dev) : Bool := d.bit R.TTA_TIME_STAT_LEAD

/-- The bridge that keeps presented time at `P` after the domain in force has moved (R144): what P and the domain differ by, less the own
term, which goes on from here. -/
def TimeBase.keepPresent (b : TimeBase) (P : Int) (ppm : Nat) : TimeBase :=
  { b with bridge := { amt := P - b.forceT - b.own.amt, fromT := b.forceT, ppm := ppm }, own := { b.own with fromT := b.forceT } }

/-- Change a domain's state; every change records event 0x1001 (R142). -/
def Dev.setDomState (m : Dom) (st : DomState) (d : Dev) : Dev :=
  let b := d.tta.time.base
  let old := (b.dom m).state
  if old = st then d else
  (d.setTb .tta (b.setDom m { b.dom m with state := st })).event .tta 2 0x1001 [m.code, old.code, st.code]

/-- Restart the hold timer of a LOCKED domain (R142). -/
def Dev.restartHold (m : Dom) (d : Dev) : Dev :=
  let b := d.tta.time.base
  if (b.dom m).state = .locked then d.setTb .tta (b.setDom m { b.dom m with holdFrom := b.tick }) else d

/-! ## The switch (R146 to R148) -/

/-- Bring a domain into force at once, with presented time continuous, or starting as T_u when no time was valid (R147). -/
def Dev.switchNow (p : Part) (u : Dom) (d : Dev) : Dev :=
  let b := d.tb p
  let was := d.timeValid p
  let c := { b with inForce := u, plan := none }
  let amt : Int := if was then b.present - c.forceT else 0
  let b := if was then c.keepPresent b.present b.bridge.ppm
    else { c with bridge := { amt := 0, fromT := c.forceT, ppm := b.bridge.ppm }, own := {} }
  let d := d.setTb p b
  (d.event p 2 0x1003 [u.code, (ns32 amt).toNat]).anchor p (if was then 1 else 2)

/-- Schedule a decided switch (R147), or run it at once while presented time is not valid. -/
def Dev.decideSwitch (u : Dom) (auto : Bool) (d : Dev) : Dev :=
  let b := d.tta.time.base
  if b.valid = false then (d.switchNow .tta u).set R.TTA_TIME_STAT_LAST_SW 1 else
  let at_ := ceilDiv (d.nowNs .tta + 20000 + (if b.present % 2 ^ 40 = 0 then 0 else 1)) 10000 * 10000
  let amt := b.present - (b.dom u).timeAt b.tick
  (d.setTb .tta { b with plan := some ⟨at_, u⟩ }).event .tta 2 0x1002
    [u.code, if auto then 1 else 0, (stampOf at_).toNat, (ns32 amt).toNat]

/-- The automatic decision (R146), a level tested at every change of a domain's state, at a write of AUTO = 1 and when a
pending switch has run. With a switch pending it merges or waits (R148). -/
def Dev.autoSwitch (d : Dev) : Dev :=
  let b := d.tta.time.base
  let other := b.inForce.other
  if d.leads = true ∧ d.bit R.TTA_TIME_CTL_AUTO = true ∧ (b.dom b.inForce).state ≠ .locked ∧ (b.dom other).state = .locked ∧ b.plan = none
  then d.decideSwitch other true else d

/-- A firmware time write on a follower has no effect on its time and records event 0x1007 (R155). -/
def Dev.whileLeading (off : Nat) (k : Dev → Dev) (d : Dev) : Dev :=
  if d.leads then k d else d.event .tta 2 0x1007 [off % 65536]

/-- The offset of a domain register. -/
def domOff (m : Dom) (off : Nat) : Nat := 0x30100 + 0x80 * m.code + off

def Dev.synceLock (m : Dom) (d : Dev) : Bool := d.bit (R.TTA_TIME_DOM_CTL_SYNCE_LOCK.at m.code)

/-! ## The writes -/

/-- TIME_RATE_WRITE (R141, R142, R155, R161). -/
def timeRateWrite (m : Dom) (rate : BitVec 32) (d : Dev) : Dev :=
  d.whileLeading (domOff m 0x18) fun d =>
    if d.synceLock m then d else
    let b := d.tta.time.base
    (d.setTb .tta (b.setDom m ((b.dom m).setRate b.tick rate.toInt))).restartHold m

def execTimeRateWrite (d : Dom) (rate : BitVec 32) (s : State) := s.run (timeRateWrite d rate)

/-- TIME_SET (R141, R142, R144): the first SET moves UNSET to HOLDOVER; a SET on the domain in force enters the bridge. -/
def timeSet (m : Dom) (ns : W64) (d : Dev) : Dev :=
  d.whileLeading (domOff m 0x20) fun d =>
    let b := d.tta.time.base
    let v : Int := ns.toNat * 2 ^ 40 + d.get (R.TTA_TIME_SET_FRAC_FRAC.at m.code) * 2 ^ 8
    let x := b.dom m
    let jump := v - x.timeAt b.tick
    let bridged := m = b.inForce ∧ x.state ≠ .unset
    let b' := b.setDom m (x.setTo b.tick v)
    let b' := if bridged then b'.keepPresent b.present d.slewPpm else b'
    let d := d.setTb .tta b'
    let d := if bridged then (d.event .tta 2 0x1006 [m.code, (ns32 jump).toNat]).anchor .tta 5 else d
    let d := if x.state = .unset then
        let d := d.setDomState m .holdover
        if m = b.inForce then d.anchor .tta 2 else d
      else d.restartHold m
    d.autoSwitch

def execTimeSet (d : Dom) (ns : W64) (s : State) := s.run (timeSet d ns)

/-- TIME_STEP (R141, R144). -/
def timeStep (m : Dom) (k : W64) (d : Dev) : Dev :=
  d.whileLeading (domOff m 0x30) fun d =>
    let b := d.tta.time.base
    let step : Int := k.toInt * 2 ^ 40
    let x := b.dom m
    let b' := b.setDom m { x with ofs := x.ofs + step }
    let b' := if m = b.inForce then b'.keepPresent b.present d.slewPpm else b'
    let d := d.setTb .tta b'
    let d := if m = b.inForce then (d.event .tta 2 0x1006 [m.code, (ns32 step).toNat]).anchor .tta 5 else d
    d.restartHold m

def execTimeStep (d : Dom) (k : W64) (s : State) := s.run (timeStep d k)

/-- DOM_CMD_LOCKED (R142). -/
def domCmdLocked (m : Dom) (d : Dev) : Dev :=
  d.whileLeading (domOff m 0x38) fun d =>
    match (d.tta.time.base.dom m).state with
    | .unset => d
    | .holdover => ((d.setDomState m .locked).restartHold m).autoSwitch
    | .locked => d.restartHold m

def execDomCmdLocked (d : Dom) (s : State) := s.run (domCmdLocked d)

/-- DOM_CMD_HOLDOVER (R142). -/
def domCmdHoldover (m : Dom) (d : Dev) : Dev :=
  d.whileLeading (domOff m 0x38) fun d =>
    match (d.tta.time.base.dom m).state with
    | .locked => (d.setDomState m .holdover).autoSwitch
    | _ => d

def execDomCmdHoldover (d : Dom) (s : State) := s.run (domCmdHoldover d)

/-- HOLD_MS: 0 acts as 1, above 1,000 as 1,000. -/
def Dev.holdTicks (m : Dom) (d : Dev) : Nat := max 1 (min 1000 (d.get (R.TTA_TIME_DOM_CTL_HOLD_MS.at m.code))) * 1000000

/-- HOLD_TIMER_EXPIRY (R142): a LOCKED domain without an adjustment for HOLD_MS enters HOLDOVER. -/
def holdTimerExpiry (m : Dom) (tick : Nat) (d : Dev) : Dev :=
  let d := d.advance .tta tick
  let b := d.tta.time.base
  if d.leads = true ∧ (b.dom m).state = .locked ∧ (b.dom m).holdFrom + d.holdTicks m ≤ b.tick
  then (d.setDomState m .holdover).autoSwitch else d

def execHoldTimerExpiry (d : Dom) (tick : Nat) (s : State) := s.run (holdTimerExpiry d tick)

/-- TIME_SWITCH_REQUEST (R146): checks 1 to 4 in order, the result in LAST_SW. -/
def timeSwitchRequest (u : Dom) (d : Dev) : Dev :=
  let b := d.tta.time.base
  let refuse (code : Nat) : Dev := (d.set R.TTA_TIME_STAT_LAST_SW code).event .tta 2 0x1004 [u.code, code]
  if d.leads = false then (d.set R.TTA_TIME_STAT_LAST_SW 6).event .tta 2 0x1007 [0x0028]
  else if b.plan ≠ none then refuse 2
  else if u = b.inForce then d.set R.TTA_TIME_STAT_LAST_SW 1
  else if (b.dom u).state = .unset then refuse 4
  else if b.valid = true ∧ (max 1 (d.get R.TTA_TIME_CTL_MAX_BRIDGE_MS)) * 1000000 * 2 ^ 40 < (b.present - (b.dom u).timeAt b.tick).natAbs
  then refuse 3
  else d.decideSwitch u false

def execTimeSwitchRequest (target : Dom) (s : State) := s.run (timeSwitchRequest target)

/-- SWITCH_AT (R147, R148): presented time reaches SW_AT. A TTA cancels with code 5 when the target is UNSET. -/
def switchAt (p : Part) (tick : Nat) (d : Dev) : Dev :=
  let d := d.advance p tick
  let b := d.tb p
  match b.plan with
  | none => d
  | some s =>
    if d.timeValid p = true ∧ d.nowNs p < s.swAt then d
    else if (b.dom s.target).state = .unset then
      let d := d.setTb p { b with plan := none }
      let d := (if p = .tta then d.set R.TTA_TIME_STAT_LAST_SW 5 else d).event p 2 0x1004 [s.target.code, 5]
      if p = .tta then d.autoSwitch else d
    else
      let d := d.switchNow p s.target
      match p with
      | .tta => (d.set R.TTA_TIME_STAT_LAST_SW 1).autoSwitch
      | .tdu => d.switchedTrace

def execSwitchAt (p : Part) (tick : Nat) (s : State) := s.run (switchAt p tick)

/-- BRIDGE_SLEW_COMPLETE (R144, R156): the bridge has reached 0; event 0x1005 and an anchor of reason 4. -/
def bridgeSlewComplete (p : Part) (tick : Nat) (d : Dev) : Dev :=
  let d := d.advance p tick
  let b := d.tb p
  if b.bridgeNow = 0 ∧ (b.bridge.amt ≠ 0 ∨ b.own.amt ≠ 0) then
    ((d.setTb p { b with bridge := { b.bridge with amt := 0 }, own := { b.own with amt := 0 } }).event p 2 0x1005 [b.inForce.code]).anchor p 4
  else d

def execBridgeSlewComplete (p : Part) (tick : Nat) (s : State) := s.run (bridgeSlewComplete p tick)

/-! ## TIME and ECHO messages (R153 to R157) -/

/-- A TIME message of the TTA for a port; the times are filled in when it leaves (`Dev.stampFrame`). -/
def Dev.timeMsg (port : Nat) (seq : Nat) (d : Dev) : TimeMsg :=
  let b := d.tta.time.base
  { inForce := b.inForce, stA := b.domA.state, stB := b.domB.state, lead := d.leads
    switchTo := b.plan.map fun s => (s.target, s.swAt)
    seq := BitVec.ofNat 16 seq
    latPs := BitVec.ofNat 26 (d.get (R.TTA_TIME_LAT_LAT_PS.at port)), latDone := d.bit (R.TTA_TIME_LAT_VALID.at port)
    slewPpm := BitVec.ofNat 6 d.slewPpm, ta := 0, tb := 0, bridge := 0 }

/-- TIME_SEND (R153): a TIME message on every trained tray port, and by the lead on the twin link. -/
def timeSend (tick : Nat) (d : Dev) : Dev :=
  let d := d.advance .tta tick
  let seq := d.tta.time.seq
  let ports := (List.range 16) ++ (if d.leads then [16] else [])
  let d := ports.foldl (fun d p => if d.isUp (ttaEnd p) then d.sendFrame (ttaEnd p) 1 0 (.time (d.timeMsg p seq)) else d) d
  d.updTime fun t => { t with seq := (seq + 1) % 65536 }

def execTimeSend (tick : Nat) (s : State) := s.run (timeSend tick)

/-- In MEASURE the exchanges run back to back: the TTA sends a TIME message that asks for an echo, outside the SEQ spaces
(log 10). -/
def Dev.measureSend (p : Nat) (d : Dev) : Dev :=
  let e := ttaEnd p
  let f := d.stampFrame .tta { payload := .time (d.timeMsg p 0), cls := 1, prot := false, fwd := none, allotIdx := 0, len := 48, seq := 0, sentAt := 0 }
  let es := (assocGet p d.tta.time.echo).getD {}
  (d.emit (.frame e f false)).updTime fun t => { t with echo := assocSet p { es with t1 := some d.tta.time.base.tick } t.echo }

/-- The compatibility bits as the TTA sends them to a TDU (R496). -/
def Dev.compatMsg (d : Dev) : CtlMsg := .regWrite 8 7 (d.word .tta R.TTA_COMPAT.base &&& 7)

/-- The link of a tray port has trained: the TTA sends the compatibility bits again (R496). -/
def Dev.trainedTray (p : Nat) (d : Dev) : Dev := if p < 16 then d.sendControl p 0 false d.compatMsg else d

/-- The mean of the last values of L in ps: each value is 2·L in ticks (R154). -/
def meanLat (l : List Int) : Nat := if l.isEmpty then 0 else ((l.sum * 500) / l.length).toNat

/-- ECHO_FRAME (R154): one round trip. In MEASURE the 64th exchange completes the set and brings the port UP. -/
def echoFrame (p : Fin 17) (h : RxHdr) (t2 t3 : BitVec 64) (tick : Nat) (d : Dev) : Dev :=
  let d := d.advance .tta tick
  let e : LinkEnd := .tta p
  let measuring := (d.port e).phase = 5
  let (ok, d) := if measuring then (h.crcOk, d) else d.acceptFrame e false h
  if ok = false then d else
  let es := (assocGet p.val d.tta.time.echo).getD {}
  match es.t1 with
  | none => d
  | some t1 =>
    let twice : Int := ((d.tta.time.base.tick : Int) - t1) - ((t3.toNat : Int) - t2.toNat)
    let last := ((if measuring ∧ es.count = 0 then [] else es.last) |> (twice :: ·)).take 64
    let lat := meanLat last
    if measuring then
      let n := es.count + 1
      if n ≥ 64 then
        let es := { es with t1 := none, last := last, count := 0, trained := lat, deviated := false }
        let d := d.updTime fun t => { t with echo := assocSet p.val es t.echo }
        let d := (d.set (R.TTA_TIME_LAT_LAT_PS.at p.val) lat).setBit (R.TTA_TIME_LAT_VALID.at p.val) true
        let d := d.event .tta 2 0x1010 [p.val, lat]
        (d.linkUp e).trainedTray p.val
      else
        let d := d.updTime fun t => { t with echo := assocSet p.val { es with t1 := none, last := last, count := n } t.echo }
        d.measureSend p.val
    else
      let off := max lat es.trained - min lat es.trained
      let dev := 1000 < off
      let d := d.updTime fun t => { t with echo := assocSet p.val { es with t1 := none, last := last, deviated := decide dev } t.echo }
      let d := d.set (R.TTA_TIME_LAT_LAT_PS.at p.val) lat
      if dev ∧ es.deviated = false then d.event .tta 2 0x1011 [p.val, es.trained, lat] else d


/-- The correction that R156 adds to RATE for the next 10 µs: e / 10 µs in units of 2^-40, limited to ±50 ppm. -/
def rateCorrection (e : Int) : Int :=
  let lim : Int := 50 * 2 ^ 40 / 1000000
  max (-lim) (min lim (e / 10000))

/-- The mean of a list of rates. -/
def meanRate (l : List Int) (dflt : Int) : Int := if l.isEmpty then dflt else l.sum / l.length

/-- Align one domain to a message value `v` (T_d in the message plus the latency, 2^-40 ns) at tick `t` (R156): a small error
corrects the rate for the next 10 µs and sets the base rate to the mean of the last 16 intervals, a large one is a SET. -/
def Domain.align (m : Domain) (t : Nat) (v : Int) : Domain × Bool :=
  let e := v - m.timeAt t
  if e.natAbs < 1000 * 2 ^ 40 then
    let now := match m.corrEnd with
      | some (en, r2) => if t ≤ en then m.rate else r2
      | none => m.rate
    let hist := (now :: m.hist).take 16
    let base := meanRate hist now
    ({ m with ofs := m.timeAt t, base := t, rate := base + rateCorrection e, corrEnd := some (t + 10000, base), hist := hist }, false)
  else (m.setTo t v, true)

/-- The value of a domain that a message gives at arrival (R156). -/
def TimeMsg.value (m : TimeMsg) : Dom → Int
  | .a => (m.ta.toNat : Int) * 2 ^ 8 + (m.latPs.toNat : Int) * 2 ^ 40 / 1000
  | .b => (m.tb.toNat : Int) * 2 ^ 8 + (m.latPs.toNat : Int) * 2 ^ 40 / 1000

def TimeMsg.st (m : TimeMsg) : Dom → DomState
  | .a => m.stA
  | .b => m.stB

/-- The carried part of the bridge at arrival: the message's BRIDGE moved toward 0 for the time since departure (R156). -/
def TimeMsg.carried (m : TimeMsg) : Int :=
  let amt : Int := m.bridge.toInt * 2 ^ 24
  ({ amt := amt, fromT := 0, ppm := m.slewPpm.toNat } : Bridge).left ((m.latPs.toNat : Int) * 2 ^ 40 / 1000)

/-- A message is usable when the sender's domain in force is not UNSET and its LAT_PS comes from a completed set (R156). -/
def TimeMsg.usable (m : TimeMsg) : Bool := m.st m.inForce != .unset && m.latDone

/-- Align one domain of a part to a usable message, and on a SET of the domain in force let the difference enter the own
bridge term and record event 0x1012 (R156). -/
def Dev.alignDom (p : Part) (m : TimeMsg) (x : Dom) (d : Dev) : Dev :=
  if m.st x = .unset then d else
  let b := d.tb p
  let old := (b.dom x).timeAt b.tick
  let fresh := (b.dom x).state = .unset
  let (nd, set) := (b.dom x).align b.tick (m.value x)
  let err := m.value x - old
  let b' := b.setDom x { nd with state := m.st x }
  let b' := if set ∧ x = b.inForce ∧ fresh = false then
      { b' with own := { amt := b.ownLeft - err, fromT := b'.forceT, ppm := m.slewPpm.toNat } } else b'
  let d := d.setTb p b'
  if set then d.event p 2 0x1012 [x.code, (ns32 err).toNat] else d

/-- The in-force domain and the switch schedule that a usable message carries (R147, R156). -/
def Dev.followSwitch (p : Part) (m : TimeMsg) (d : Dev) : Dev :=
  let b := d.tb p
  match m.switchTo with
  | some (u, at_) =>
    if u = b.inForce then d
    else if d.timeValid p = true ∧ at_ ≤ d.nowNs p then
      let d := d.switchNow p u
      if p = .tdu then d.switchedTrace else d
    else d.setTb p { b with plan := some ⟨at_, u⟩ }
  | none =>
    if m.inForce = b.inForce then d.setTb p { b with plan := none }
    else
      let d := d.switchNow p m.inForce
      if p = .tdu then d.switchedTrace else d

/-- Carry the message's bridge (R156): the carried part comes from the message, the own term goes on. -/
def Dev.carryBridge (p : Part) (m : TimeMsg) (d : Dev) : Dev :=
  let b := d.tb p
  let own := b.ownLeft
  let ppm := m.slewPpm.toNat
  d.setTb p { b with bridge := { amt := m.carried, fromT := b.forceT, ppm := ppm }, own := { amt := own, fromT := b.forceT, ppm := ppm } }

/-- The first alignment of a part without time: both domains are set from the message, without the slew rule (R157, R158). -/
def Dev.setFromMsg (p : Part) (m : TimeMsg) (d : Dev) : Dev :=
  let b := d.tb p
  let put (x : Dom) (b : TimeBase) : TimeBase :=
    if m.st x = .unset then b.setDom x { b.dom x with state := .unset }
    else b.setDom x { ((b.dom x).setTo b.tick (m.value x)) with state := m.st x }
  let b := { put .b (put .a b) with inForce := m.inForce, own := {}, plan := m.switchTo.map fun (s : Dom × Nat) => SwitchPlan.mk s.2 s.1 }
  d.setTb p { b with bridge := { amt := m.carried, fromT := b.forceT, ppm := m.slewPpm.toNat } }

/-- A usable message at a TDU (R156, R157). -/
def Dev.tduUsable (m : TimeMsg) (d : Dev) : Dev :=
  match d.tdu.time.state with
  | .unset =>
    if d.tdu.time.usable + 1 < 2 then d.updTduTime fun t => { t with usable := t.usable + 1 }
    else
      let reason := if d.tdu.time.fromD2 then 3 else 2
      let d := d.setFromMsg .tdu m
      let d := d.updTduTime fun t => { t with state := .locked, usable := 0, fromD2 := false }
      ((d.event .tdu 2 0x1001 [2, 0, 1]).anchor .tdu reason).timeLockedTdu
  | st =>
    let d := (d.alignDom .tdu m .a).alignDom .tdu m .b
    let d := (d.followSwitch .tdu m).carryBridge .tdu m
    let d := d.updTduTime fun t => { t with state := .locked }
    if st = .holdover then d.event .tdu 2 0x1001 [2, 2, 1] else d

/-- TIME_FRAME at a TDU. The TDU answers an echo request with its arrival tick (R154); it uses messages with LEAD, or after
100 µs without one the other port's (R156). -/
def timeFrameTdu (port : Fin 2) (h : RxHdr) (m : TimeMsg) (tick : Nat) (d : Dev) : Dev :=
  let e : LinkEnd := .tdu port
  let d := d.advance .tdu tick
  let now := d.tdu.time.base.tick
  if (d.port e).phase = 5 then
    if h.crcOk = false then d else
    let f := d.stampFrame .tdu { payload := .echo (BitVec.ofNat 64 now) 0, cls := 1, prot := false, fwd := none, allotIdx := 0, len := 16, seq := 0, sentAt := 0 }
    let n := (d.port e).echoes + 1
    let d := (d.emit (.frame e f false)).updPort e fun l => { l with echoes := n }
    if n ≥ 64 then d.linkUp e else d
  else
    let (ok, d) := d.acceptFrame e false h
    if ok = false then d else
    let d := if m.seq.toNat % 64 = 0 then d.sendFrame e 1 0 (.echo (BitVec.ofNat 64 now) 0) else d
    let d := if m.lead then d.updTduTime fun t => { t with leadLost := false, srcPort := port } else d
    if m.usable = true ∧ (m.lead = true ∨ (d.tdu.time.leadLost = true ∧ port = d.tdu.time.srcPort)) then d.tduUsable m else d

/-- TIME_FRAME at the follower twin (R155): both domains align to the lead's messages exactly as a TDU does. -/
def timeFrameTwin (h : RxHdr) (m : TimeMsg) (tick : Nat) (d : Dev) : Dev :=
  let e : LinkEnd := .tta 16
  let d := d.advance .tta tick
  let now := d.tta.time.base.tick
  if (d.port e).phase = 5 then
    if h.crcOk = false ∨ d.leads = true then d else
    let f := d.stampFrame .tta { payload := .echo (BitVec.ofNat 64 now) 0, cls := 1, prot := false, fwd := none, allotIdx := 0, len := 16, seq := 0, sentAt := 0 }
    let n := (d.port e).echoes + 1
    let d := (d.emit (.frame e f false)).updPort e fun l => { l with echoes := n }
    if n ≥ 64 then d.linkUp e else d
  else
    let (ok, d) := d.acceptFrame e false h
    if ok = false then d else
    let d := if m.seq.toNat % 64 = 0 then d.sendFrame e 1 0 (.echo (BitVec.ofNat 64 now) 0) else d
    if d.leads = true ∨ m.lead = false ∨ m.usable = false then d else
    if d.tta.time.base.valid = false then (d.setFromMsg .tta m).anchor .tta 2
    else ((((d.alignDom .tta m .a).alignDom .tta m .b).followSwitch .tta m).carryBridge .tta m)

/-- TIME_FRAME (R156). TIME frames travel down, and from lead to follower; one on a tray port of the TTA is discarded (R169). -/
def timeFrame (e : LinkEnd) (h : RxHdr) (m : TimeMsg) (tick : Nat) (d : Dev) : Dev :=
  match e with
  | .tdu p => timeFrameTdu p h m tick d
  | .tta p => if p.val = 16 then timeFrameTwin h m tick d else d.advance .tta tick

def execTimeFrame (e : LinkEnd) (h : RxHdr) (m : TimeMsg) (tick : Nat) (s : State) := s.run (timeFrame e h m tick)

/-- LEAD_MESSAGE_TIMEOUT (R156): the TDU uses the other port's messages. -/
def leadMessageTimeout (tick : Nat) (d : Dev) : Dev :=
  let d := d.advance .tdu tick
  if d.tdu.time.leadLost then d else
  d.updTduTime fun t => { t with leadLost := true, srcPort := if t.srcPort = 0 then 1 else 0 }

def execLeadMessageTimeout (tick : Nat) (s : State) := s.run (leadMessageTimeout tick)

/-- TIME_MESSAGE_TIMEOUT (R157): LOCKED to HOLDOVER. -/
def timeMessageTimeout (tick : Nat) (d : Dev) : Dev :=
  let d := d.advance .tdu tick
  if d.tdu.time.state = .locked then
    (d.updTduTime fun t => { t with state := .holdover }).event .tdu 2 0x1001 [2, 1, 2]
  else d

def execTimeMessageTimeout (tick : Nat) (s : State) := s.run (timeMessageTimeout tick)

/-! ## PTP, SyncE, PPS (R159 to R162) -/

/-- Instance `i` is enabled: ENABLE, a supported PROFILE, and for instance 1 no clash with instance 0 (R160). -/
def Dev.ptpEnabled (i : Nat) (d : Dev) : Bool :=
  let g (f : Fld) (k : Nat) := d.get (f.at k)
  let on (k : Nat) : Bool := g R.TTA_PTP_CFG_ENABLE k = 1 ∧ g R.TTA_PTP_CFG_PROFILE k < 2
  if i = 0 then on 0 else
  on 1 && !(on 0 && (g R.TTA_PTP_CFG_TIME_DOM 0 == g R.TTA_PTP_CFG_TIME_DOM 1 ||
    ((g R.TTA_PTP_CFG_PORT_MASK 0 &&& g R.TTA_PTP_CFG_PORT_MASK 1) != 0 && g R.TTA_PTP_CFG_PROFILE 0 == g R.TTA_PTP_CFG_PROFILE 1 &&
     g R.TTA_PTP_CFG_DOMAIN_NUM 0 == g R.TTA_PTP_CFG_DOMAIN_NUM 1)))

/-- The instance whose port, profile and domain number a message matches. -/
def Dev.ptpInstance (m : PtpMsg) (d : Dev) : Option Nat :=
  [0, 1].find? fun i => d.ptpEnabled i && (d.get (R.TTA_PTP_CFG_PORT_MASK.at i)).testBit m.port.val &&
    d.get (R.TTA_PTP_CFG_DOMAIN_NUM.at i) == m.domainNum.toNat && d.get (R.TTA_PTP_CFG_PROFILE.at i) == (if m.udp then 1 else 0)

/-- PTP_EVENT_MESSAGE: the message is stamped with the tick, T_A and T_B and counted (R159, R497); on one-step transmission
the originTimestamp is inserted. Management messages are discarded; nothing is transmitted before the TTA ID is complete
(R160). -/
def ptpEventMessage (m : PtpMsg) (tick : Nat) (d : Dev) : Dev :=
  let d := d.advance .tta tick
  if m.management then d else
  if m.transmit = true ∧ d.bit R.TTA_POS_LOCKED = false then d else
  match d.ptpInstance m with
  | none => d
  | some i =>
    let b := d.tta.time.base
    let one := m.transmit && m.isSync && !d.bit (R.TTA_PTP_CFG_TWO_STEP.at i)
    (d.cnt 18 1).emit (.ptpStamp m.port b.tick (b.domA.timeAt b.tick / 2 ^ 40).toNat (b.domB.timeAt b.tick / 2 ^ 40).toNat one)

def execPtpEventMessage (m : PtpMsg) (tick : Nat) (s : State) := s.run (ptpEventMessage m tick)

/-- The fabric port of a domain's recovered clock: SYNCE_SRC 1 to 4; other values act as none. -/
def Dev.syncePort (m : Dom) (d : Dev) : Option Nat :=
  let v := d.get (R.TTA_TIME_DOM_CTL_SYNCE_SRC.at m.code)
  if 1 ≤ v ∧ v ≤ 4 then some (v - 1) else none

def Dev.synceLost (m : Dom) (d : Dev) : Bool :=
  match m with
  | .a => d.tta.time.synceLostA
  | .b => d.tta.time.synceLostB

def Dev.setSynceLost (m : Dom) (v : Bool) (d : Dev) : Dev :=
  match m with
  | .a => d.updTime fun t => { t with synceLostA := v }
  | .b => d.updTime fun t => { t with synceLostB := v }

/-- SYNCE_RATE_UPDATE (R161): the measured frequency is shown, and under SYNCE_LOCK written to RATE with continuous time. It
is no adjustment (R142). -/
def synceRateUpdate (m : Dom) (freq : BitVec 32) (d : Dev) : Dev :=
  if d.syncePort m = none ∨ d.synceLost m = true then d else
  let d := (d.set (R.TTA_TIME_FREQ_FREQ.at m.code) freq.toNat).setBit (R.TTA_TIME_FREQ_VALID.at m.code) true
  if d.synceLock m = true ∧ d.leads = true then
    let b := d.tta.time.base
    d.setTb .tta (b.setDom m ((b.dom m).setRate b.tick freq.toInt))
  else d

def execSynceRateUpdate (d : Dom) (freq : BitVec 32) (s : State) := s.run (synceRateUpdate d freq)

/-- SYNCE_CLOCK_LOST (R161): updates stop, RATE keeps its last value, event 0x1021. -/
def synceClockLost (m : Dom) (d : Dev) : Dev :=
  match d.syncePort m with
  | none => d
  | some p =>
    if d.synceLost m then d else
    ((d.setSynceLost m true).setBit (R.TTA_TIME_FREQ_VALID.at m.code) false).event .tta 2 0x1021 [m.code, p, 0]

def execSynceClockLost (d : Dom) (s : State) := s.run (synceClockLost d)

/-- SYNCE_CLOCK_RESTORED (R161): updates resume with the next 1 ms measurement. -/
def synceClockRestored (m : Dom) (d : Dev) : Dev :=
  match d.syncePort m with
  | none => d
  | some p => if d.synceLost m then (d.setSynceLost m false).event .tta 2 0x1021 [m.code, p, 1] else d

def execSynceClockRestored (d : Dom) (s : State) := s.run (synceClockRestored d)

/-- PPS_IN_EDGE (R162, R511): a rising edge is stamped with its tick; one less than 500 ms after the last is ignored. -/
def ppsInEdge (tick : Nat) (d : Dev) : Dev :=
  let d := d.advance .tta tick
  let now := d.tta.time.base.tick
  if d.bit R.TTA_PPS_CFG_IN_EN = false ∨ (d.tta.time.ppsSeen = true ∧ now < d.get R.TTA_PPS_IN_TICK + 500000000) then d else
  (d.set R.TTA_PPS_IN_TICK now).updTime fun t => { t with ppsSeen := true }

def execPpsInEdge (tick : Nat) (s : State) := s.run (ppsInEdge tick)

/-- PPS_OUT_EDGE (R162): PPS_OUT follows the selected source, and is low while that source is UNSET or OUT_SRC is 3. -/
def ppsOutEdge (rise : Bool) (tick : Nat) (d : Dev) : Dev :=
  let d := d.advance .tta tick
  let b := d.tta.time.base
  let on := match d.get R.TTA_PPS_CFG_OUT_SRC with
    | 0 => b.valid
    | 1 => b.domA.state != .unset
    | 2 => b.domB.state != .unset
    | _ => false
  { d with pins := { d.pins with ppsOut := rise && on } }

def execPpsOutEdge (rise : Bool) (tick : Nat) (s : State) := s.run (ppsOutEdge rise tick)

end Sys2Proof.Machine
end

