-- ==== Sys2Proof/Machine/Queue.lean ====
section
/-! DEFINITION. Host queues (R403 to R427): rings, doorbells, descriptor fetch, completion, notification and backlog, function
states, save and restore, and the die unit's own descriptors. -/
namespace Sys2Proof.Machine

/-! ## Rings -/

/-- The function number in events (log 17): the slot of a VF, 0 for the PF, 0x100 for the Lodge and the TDU. -/
def fnNum : Fn → Nat
  | .vf n => n.val
  | .pf => 0
  | .lodge => 0x100
  | .tdu => 0x100

/-- The key of a TTA function's queue state. -/
def fnKey : Fn → Nat
  | .vf n => n.val
  | .pf => 256
  | .lodge => 257
  | .tdu => 258

def Dev.fnq (fn : Fn) (d : Dev) : FnQ :=
  match fn with
  | .tdu => d.tdu.q
  | _ => Memory.read (fun _ => {}) d.tta.fns (fnKey fn)

/-- Show a VF's backlog in TTA_FN_STAT. -/
def Dev.showBacklog (fn : Fn) (n : Nat) (d : Dev) : Dev :=
  match fn with
  | .vf v => if v.val = 0 then d else d.set (R.TTA_FN_STAT_BACKLOG.at (v.val - 1)) (min n 4096)
  | _ => d

def Dev.setFnq (fn : Fn) (q : FnQ) (d : Dev) : Dev :=
  let d := match fn with
    | .tdu => { d with tdu := { d.tdu with q := q } }
    | _ => { d with tta := { d.tta with fns := Memory.write (fun _ => {}) d.tta.fns (fnKey fn) q } }
  d.showBacklog fn (q.backlog.filter fun e => e.1 ≥ 5).length

def Dev.updFnq (fn : Fn) (f : FnQ → FnQ) (d : Dev) : Dev := d.setFnq fn (f (d.fnq fn))

/-- A field of a ring's register block. -/
def qf (vf pf lodge tdu : Fld) (fn : Fn) (r : Nat) : Fld :=
  match fn with
  | .vf n => (vf.ofVf n.val).at r
  | .pf => pf.at r
  | .lodge => lodge.at r
  | .tdu => tdu.at r

def qEn := qf R.VF_Q_CFG_ENABLE R.PF_Q_CFG_ENABLE R.LODGE_Q_CFG_ENABLE R.TDU_Q_CFG_ENABLE
def qErr := qf R.VF_Q_CFG_ERROR R.PF_Q_CFG_ERROR R.LODGE_Q_CFG_ERROR R.TDU_Q_CFG_ERROR
def qIdle := qf R.VF_Q_CFG_IDLE R.PF_Q_CFG_IDLE R.LODGE_Q_CFG_IDLE R.TDU_Q_CFG_IDLE
def qBuf := qf R.VF_Q_CFG_BUF_BYTES R.PF_Q_CFG_BUF_BYTES R.LODGE_Q_CFG_BUF_BYTES R.TDU_Q_CFG_BUF_BYTES
def qSize := qf R.VF_Q_CFG_SIZE_LOG2 R.PF_Q_CFG_SIZE_LOG2 R.LODGE_Q_CFG_SIZE_LOG2 R.TDU_Q_CFG_SIZE_LOG2
def qVec := qf R.VF_Q_CFG_VECTOR R.PF_Q_CFG_VECTOR R.LODGE_Q_CFG_VECTOR R.TDU_Q_CFG_VECTOR
def qFault := qf R.VF_Q_IDX_FAULT_IDX R.PF_Q_IDX_FAULT_IDX R.LODGE_Q_IDX_FAULT_IDX R.TDU_Q_IDX_FAULT_IDX
def qCi := qf R.VF_Q_IDX_CI R.PF_Q_IDX_CI R.LODGE_Q_IDX_CI R.TDU_Q_IDX_CI
def qPi := qf R.VF_Q_IDX_PI R.PF_Q_IDX_PI R.LODGE_Q_IDX_PI R.TDU_Q_IDX_PI
def qLost := qf R.VF_Q_STAT_LOST R.PF_Q_STAT_LOST R.LODGE_Q_STAT_LOST R.TDU_Q_STAT_LOST
def qBadDb := qf R.VF_Q_STAT_BAD_DB R.PF_Q_STAT_BAD_DB R.LODGE_Q_STAT_BAD_DB R.TDU_Q_STAT_BAD_DB

/-- The rings of a function (R408). -/
def ringExists (fn : Fn) (r : Nat) : Bool :=
  match fn with
  | .vf _ | .lodge => r < 7
  | .pf => r < 10 || (16 ≤ r && r < 64)
  | .tdu => r < 3

/-- A command ring. -/
def ringCmd (fn : Fn) (r : Nat) : Bool :=
  match fn with
  | .vf _ | .lodge => r < 4
  | .pf => r < 8 || (16 ≤ r && r < 64 && (r - 16) % 3 == 0)
  | .tdu => r == 0

/-- The completion ring that serves a command ring. -/
def complRing (fn : Fn) (r : Nat) : Nat :=
  match fn with
  | .vf _ | .lodge => 4
  | .pf => if r < 16 then 8 else r + 1
  | .tdu => 1

/-- Descriptors in flight, up to (R408, R426). -/
def maxFlight : Fn → Nat
  | .vf _ => 64
  | .tdu => 8
  | _ => 256

/-- The block code of queue events on the TTA (R442). -/
def Dev.qEvent (fn : Fn) (code : Nat) (ps : List Nat) (d : Dev) : Dev := d.event (if fn = .tdu then .tdu else .tta) 0xA code ps

/-- SIZE of a ring: 2^SIZE_LOG2 between 64 and 32,768. -/
def Dev.ringEntries (fn : Fn) (r : Nat) (d : Dev) : Nat := 2 ^ max 6 (min 15 (d.get (qSize fn r)))

/-- (PI − CI) mod 2^16. -/
def Dev.ringUsed (fn : Fn) (r : Nat) (d : Dev) : Nat := (d.get (qPi fn r) + 65536 - d.get (qCi fn r)) % 65536

/-- The MSI-X vector of a ring: beyond the function's vectors it acts as 0. -/
def Dev.ringVector (fn : Fn) (r : Nat) (d : Dev) : Nat :=
  let v := d.get (qVec fn r)
  match fn with
  | .vf _ => if v < 8 then v else 0
  | _ => v

/-- The state of a function (R421): 0 RUNNING, 1 DRAINING, 2 QUIESCED, 3 FROZEN. -/
def Dev.fnState (fn : Fn) (d : Dev) : Nat :=
  match fn with
  | .vf n => if n.val = 0 then 0 else d.get (R.TTA_FN_STAT_STATE.at (n.val - 1))
  | _ => 0

/-- Change a VF's state; every change records event 0x6022. -/
def Dev.setFnState (n : Nat) (st : Nat) (d : Dev) : Dev :=
  let old := d.get (R.TTA_FN_STAT_STATE.at (n - 1))
  if old = st then d else (d.set (R.TTA_FN_STAT_STATE.at (n - 1)) st).event .tta 0xA 0x6022 [n, old, st]

/-- A ring may be written now. -/
def Dev.ringOpen (fn : Fn) (r : Nat) (d : Dev) : Bool := d.bit (qEn fn r) && !d.bit (qErr fn r)

/-- Write one entry to a completion or notification ring: PHASE in bit 0 of the last byte (R410), PI advances. A TDU ring is
written through the memory port. -/
def Dev.putEntry (fn : Fn) (r : Nat) (bytes : List Byte) (d : Dev) : Dev :=
  let pi := d.get (qPi fn r)
  let n := d.ringEntries fn r
  let phase : Byte := if pi / n % 2 = 0 then 1 else 0
  let d := (d.emit (.ringEntry fn r (pi % n) (bytes ++ [phase]))).set (qPi fn r) (pi + 1)
  match fn with
  | .tdu => ((d.memIssue (.ring r pi)).getD d).emit .tduIrq
  | _ => d

/-- Deliver a notification record: 48 bytes, LOST, zeros, PHASE (R413); the vector is raised when the ring was empty (R412). -/
def Dev.putNotice (fn : Fn) (r : Nat) (rec_ : List Byte) (d : Dev) : Dev :=
  let empty := d.ringUsed fn r = 0
  let q := d.fnq fn
  let lost := min ((assocGet r q.lost).getD 0) (2 ^ 32 - 1)
  let d := if lost = 0 then d else (d.setFnq fn { q with lost := assocDel r q.lost }).qEvent fn 0x6025 [fnNum fn, r, lost]
  let d := d.putEntry fn r ((rec_ ++ List.replicate (48 - rec_.length) 0#8).take 48 ++ leBytes 4 lost ++ List.replicate 11 0#8)
  if empty ∧ fn ≠ .tdu then d.emit (.msix fn (d.ringVector fn r)) else d

/-- A record of the backlog can be delivered now: its ring runs and has room, and the function is not FROZEN. -/
def Dev.canNotify (fn : Fn) (r : Nat) (d : Dev) : Bool :=
  d.ringOpen fn r && decide (d.ringUsed fn r < d.ringEntries fn r) && d.fnState fn != 3

/-- Completions wait in the backlog while their ring is disabled; other records as R413 says. -/
def isComplRing (fn : Fn) (r : Nat) : Bool :=
  match fn with
  | .vf _ | .lodge => r == 4
  | .pf => r == 8 || (16 ≤ r && (r - 16) % 3 == 1)
  | .tdu => r == 1

/-- Deliver the backlog of a ring in order, as far as it goes; `n` bounds the entries. -/
def Dev.drainBacklog (fn : Fn) (r : Nat) : Nat → Dev → Dev
  | 0, d => d
  | n + 1, d =>
    match (d.fnq fn).backlog.find? fun e => e.1 = r with
    | none => d
    | some e =>
      if d.canNotify fn r then
        let d := d.updFnq fn fun q => { q with backlog := q.backlog.erase e }
        (if isComplRing fn r then d.putEntry fn r e.2 else d.putNotice fn r e.2).drainBacklog fn r n
      else d

/-- Deliver what waits for a ring. -/
def Dev.deliver (fn : Fn) (r : Nat) (d : Dev) : Dev := d.drainBacklog fn r ((d.fnq fn).backlog.length) 

/-- Room in the backlog: 4,096 records per VF, shared by its two notification rings, 64 per PF or TDU ring (R413). -/
def Dev.backlogRoom (fn : Fn) (r : Nat) (d : Dev) : Bool :=
  let b := (d.fnq fn).backlog
  match fn with
  | .vf _ | .lodge => decide ((b.filter fun e => e.1 ≥ 5).length < 4096)
  | _ => decide ((b.filter fun e => e.1 = r).length < 64)

/-- Post a record to a notification ring: written, or waiting in the backlog, or dropped and counted (R413). -/
def Dev.notify (fn : Fn) (r : Nat) (rec_ : List Byte) (d : Dev) : Dev :=
  let waits := (d.fnq fn).backlog.any fun e => e.1 = r
  if !waits && d.canNotify fn r then d.putNotice fn r rec_
  else if d.backlogRoom fn r then d.updFnq fn fun q => { q with backlog := q.backlog ++ [(r, rec_)] }
  else (d.bump (qLost fn r) 1).updFnq fn fun q => { q with lost := assocSet r ((assocGet r q.lost).getD 0 + 1) q.lost }

/-! ## Completion (R407, R411, R412) -/

/-- The ring goes idle: IDLE is 1, and a ring that is not enabled returns its indices to 0 (R414). -/
def Dev.showIdle (fn : Fn) (r : Nat) (d : Dev) : Dev :=
  let idle := !((d.fnq fn).inflight.any fun e => e.1 = r)
  let d := d.setBit (qIdle fn r) idle
  if idle && !d.bit (qEn fn r) then (d.set (qPi fn r) 0).set (qCi fn r) 0 else d

/-- A completion entry without its PHASE byte. -/
def complBytes (tag status opcode index ring : Nat) : List Byte :=
  leBytes 4 tag ++ leBytes 1 status ++ leBytes 1 opcode ++ leBytes 2 index ++ leBytes 1 ring ++ List.replicate 6 0#8

/-- Post a completion entry; with the ring disabled it waits in the backlog (R414). The vector is raised with IRQ set. -/
def Dev.postCompletion (fn : Fn) (ring : Nat) (irq : Bool) (bytes : List Byte) (d : Dev) : Dev :=
  let r := complRing fn ring
  if d.ringOpen fn r then
    let d := d.putEntry fn r bytes
    if irq ∧ fn ≠ .tdu then d.emit (.msix fn (d.ringVector fn r)) else d
  else d.updFnq fn fun q => { q with backlog := q.backlog ++ [(r, bytes)] }

/-- Remove a descriptor from those in flight. -/
def Dev.retire (fn : Fn) (ring index : Nat) (d : Dev) : Dev :=
  (d.updFnq fn fun q => { q with inflight := q.inflight.erase (ring, index), orphans := q.orphans.erase (ring, index) }).showIdle fn ring

/-- Write-back and completion of a descriptor; a descriptor fetched before a function reset writes neither (R422). -/
def Dev.finish (q : Desc) (opcode status : Nat) (wb : List (Nat × Nat × Nat)) (d : Dev) : Dev :=
  let orphan := (d.fnq q.fn).orphans.contains (q.ring.val, q.index.toNat)
  let d := d.retire q.fn q.ring.val q.index.toNat
  if orphan then d else
  (d.emit (.writeBack q status wb)).postCompletion q.fn q.ring.val (q.flags.getLsbD 0)
    (complBytes q.tag.toNat status opcode q.index.toNat q.ring.val)

/-- A draining VF whose last descriptor completed is QUIESCED, and its FN_QUIESCE completes (R421). -/
def Dev.drainCheck (fn : Fn) (d : Dev) : Dev :=
  match fn with
  | .vf n =>
    if d.fnState fn = 1 ∧ (d.fnq fn).inflight = [] ∧ (d.fnq fn).orphans = [] then
      let w := (d.fnq fn).quiesce
      let d := (d.updFnq fn fun q => { q with quiesce := none }).setFnState n.val 2
      match w with
      | some q => d.finish q 0x10 0 []
      | none => d
    else d
  | _ => d

/-- The descriptor completes with a status and its WB fields. -/
def Dev.complete (q : Desc) (opcode status : Nat) (wb : List (Nat × Nat × Nat)) (d : Dev) : Dev :=
  (d.finish q opcode status wb).drainCheck q.fn

/-! ## Opcodes (R415) -/

/-- Where an opcode is allowed and whether it takes a buffer. -/
def opcodeRow (op : Nat) : Option (Bool × Bool × Bool × Bool × Bool) :=
  -- V, P, L, T, buffer
  match op with
  | 0x08 => some (false, true, false, false, true)
  | 0x09 => some (true, true, false, false, false)
  | 0x0A => some (false, true, false, false, true)
  | 0x0B => some (true, false, true, false, false)
  | 0x10 | 0x11 | 0x12 | 0x15 => some (false, true, false, false, false)
  | 0x13 | 0x14 => some (false, true, false, false, true)
  | 0x20 => some (true, false, true, false, true)
  | 0x28 | 0x29 | 0x2B => some (true, false, false, false, false)
  | 0x2A => some (true, false, false, false, true)
  | 0x30 | 0x31 => some (true, false, true, false, true)
  | 0x32 | 0x33 | 0x34 | 0x35 | 0x36 => some (true, false, true, false, false)
  | 0x38 | 0x3A | 0x3B => some (true, false, true, false, false)
  | 0x39 => some (true, false, true, false, true)
  | 0x40 => some (true, false, true, false, true)
  | 0x41 => some (true, false, true, false, false)
  | 0x48 | 0x50 | 0x51 => some (true, false, false, false, false)
  | 0x52 => some (true, true, true, false, false)
  | 0x70 | 0x71 | 0x72 => some (false, false, false, true, true)
  | _ => none

/-- The opcode is in the index and allowed on the ring's function (check 1 of R406). -/
def opAllowed (op : Nat) (fn : Fn) (ring : Nat) : Bool :=
  match opcodeRow op with
  | none => false
  | some (v, p, l, t, _) =>
    match fn with
    | .vf _ => v
    | .pf => if 16 ≤ ring then t else p
    | .lodge => l
    | .tdu => t

/-- The ALLOT_ID check of R35 and R426: a VF names its own slot's allotment, the PF names any allotment only to OPEN, CLOSE and
REBIND and otherwise 0x0000, the Lodge and the TDU name 0x0000. -/
def Dev.allotAllowed (op : Nat) (q : Desc) (d : Dev) : Bool :=
  match q.fn with
  | .vf n => q.allot.toNat == d.get (R.TTA_ALT_ENTRY_ALLOT_ID.at n.val) && q.allot != 0xFFFF
  | .pf => op == 8 || op == 9 || op == 0xA || q.allot == 0
  | .lodge | .tdu => q.allot == 0

/-- The common header checks (R406), in order: the status of the first that fails. -/
def Dev.headerCheck (op : Nat) (q : Desc) (d : Dev) : Option Nat :=
  let r := q.ring.val
  let buf := if q.fn = .tdu ∧ 16 ≤ r then 0xFFFFFF else d.get (qBuf q.fn r)
  if opAllowed op q.fn r = false then some 4
  else if q.length = 0 then some 1
  else if (match opcodeRow op with | some (_, _, _, _, b) => b | none => false) = true ∧ buf < q.length.toNat then some 2
  else if d.allotAllowed op q = false then some 4
  else none

/-- A descriptor with FENCE set starts only after every earlier descriptor of its ring has completed (R411). -/
def Dev.fenceHolds (q : Desc) (d : Dev) : Bool :=
  q.flags.getLsbD 1 &&
    ((d.fnq q.fn).inflight.takeWhile fun e => e != (q.ring.val, q.index.toNat)).any fun e => e.1 == q.ring.val

/-- Run a descriptor: one held back by its FENCE does not start; a failing header check completes it; else its own chapter. -/
def Dev.runDesc (op : Nat) (q : Desc) (body : Dev → Dev) (d : Dev) : Dev :=
  if d.fenceHolds q && (d.fnq q.fn).inflight.contains (q.ring.val, q.index.toNat) then d else
  match d.headerCheck op q with
  | some st => d.complete q op st []
  | none => body d

/-- The status of a failed fetch (R85, R404). -/
def Fetch.status : Fetch → Nat
  | .data _ => 0
  | .poison => 5
  | .denied => 4
  | .timeout => 6

/-! ## The ring commands -/

/-- DOORBELL (R409). -/
def doorbell (fn : Fn) (ring : Fin 64) (v : BitVec 16) (d : Dev) : Dev :=
  let r := ring.val
  if ringExists fn r = false then d else
  let pi := d.get (qPi fn r)
  let ci := d.get (qCi fn r)
  let used := d.ringUsed fn r
  let refuse : Dev := (d.bump (qBadDb fn r) 1).qEvent fn 0x6020 [fnNum fn, r, v.toNat]
  if ringCmd fn r then
    if (v.toNat + 65536 - pi) % 65536 + used ≤ d.ringEntries fn r then d.set (qPi fn r) v.toNat else refuse
  else if (v.toNat + 65536 - ci) % 65536 ≤ used then (d.set (qCi fn r) v.toNat).deliver fn r else refuse

def execDoorbell (fn : Fn) (ring : Fin 64) (v : BitVec 16) (s : State) := s.run (doorbell fn ring v)

/-- A ring enters ERROR and stops (R414). -/
def Dev.ringError (fn : Fn) (r index status : Nat) (d : Dev) : Dev :=
  ((d.setBit (qErr fn r) true).set (qFault fn r) index).qEvent fn 0x6021 [fnNum fn, r, index, status]

/-- The completion entry of the next descriptor of a ring can be reserved (R411). -/
def Dev.canReserve (fn : Fn) (r : Nat) (d : Dev) : Bool :=
  let cr := complRing fn r
  let q := d.fnq fn
  let open_ := (q.inflight.filter fun e => complRing fn e.1 = cr).length + (q.backlog.filter fun e => e.1 = cr).length
  d.ringUsed fn cr + open_ < d.ringEntries fn cr && decide (q.inflight.length < maxFlight fn)

/-- DESCRIPTOR_FETCH (R411, R414): the ring runs, holds a descriptor, and a completion entry can be reserved. A mirrored
ring's descriptor is sent to its TDU (R427). -/
def descriptorFetch (fn : Fn) (ring : Fin 64) (res : Fetch) (d : Dev) : Dev :=
  let r := ring.val
  let ci := d.get (qCi fn r)
  if ringExists fn r = false ∨ ringCmd fn r = false ∨ d.ringOpen fn r = false ∨ d.ringUsed fn r = 0 ∨ d.canReserve fn r = false ∨
      d.fnState fn ≠ 0 then d else
  let mirror := fn = .pf ∧ 16 ≤ r
  if mirror ∧ (d.get R.TTA_TDU_MIRROR_PORT).testBit ((r - 16) / 3) = false then d else
  match res with
  | .data bs =>
    let op := leAt bs 0 1
    let q : Desc := { fn := fn, ring := ring, index := BitVec.ofNat 16 ci, flags := BitVec.ofNat 8 (leAt bs 1 1)
                      allot := BitVec.ofNat 16 (leAt bs 2 2), tag := BitVec.ofNat 32 (leAt bs 4 4)
                      length := BitVec.ofNat 24 (leAt bs 8 3), slackUs := BitVec.ofNat 16 (leAt bs 12 2) }
    let d := ((d.set (qCi fn r) (ci + 1)).updFnq fn fun x => { x with inflight := x.inflight ++ [(r, ci)] }).showIdle fn r
    if opAllowed op fn r = false then d.complete q op 4 []
    else if mirror then
      let p := (r - 16) / 3
      let d := { d with tta := { d.tta with mirrored := d.tta.mirrored ++ [Mirrored.mk p q op (BitVec.ofNat 64 (leAt bs 24 8)) bs none] } }
      d.sendFrame (ttaEnd p) 7 0 (.ring 1 (BitVec.ofNat 16 ci) 0 bs)
    else d
  | f =>
    (d.ringError fn r ci f.status).postCompletion fn r false (complBytes 0xFFFFFFFF f.status 0 ci r)

def execDescriptorFetch (fn : Fn) (ring : Fin 64) (r : Fetch) (s : State) := s.run (descriptorFetch fn ring r)

/-- Q_ENABLE (R410, R414). -/
def qEnable (fn : Fn) (ring : Fin 64) (en : Bool) (d : Dev) : Dev :=
  let r := ring.val
  if ringExists fn r = false ∨ d.bit (qEn fn r) = en then d
  else if en then
    (((((d.setBit (qEn fn r) true).setBit (qErr fn r) false).set (qPi fn r) 0).set (qCi fn r) 0).deliver fn r)
  else ((d.setBit (qEn fn r) false).setBit (qErr fn r) false).showIdle fn r

def execQEnable (fn : Fn) (ring : Fin 64) (en : Bool) (s : State) := s.run (qEnable fn ring en)

/-- The ring registers of a function return to their reset values. -/
def Dev.ringsReset (fn : Fn) (d : Dev) : Dev :=
  let n := match fn with | .pf => 64 | .tdu => 3 | _ => 7
  (List.range n).foldl (fun d r =>
    if ringExists fn r = false then d else
    [qEn, qErr, qBuf, qVec, qFault, qCi, qPi, qLost, qBadDb].foldl (fun d f => d.set (f fn r) 0)
      (((d.setWord (qEn fn r).space ((qEn fn r).addr - 8) 0).set (qSize fn r) 6).setBit (qIdle fn r) true)) d

/-- A function reset (R421, R422): ring registers and the function state; descriptors in flight end without write-back; a locked TDI goes to
ERROR (R425). -/
def Dev.fnReset (fn : Fn) (d : Dev) : Dev :=
  let d := d.ringsReset fn
  let w := (d.fnq fn).quiesce
  let d := d.updFnq fn fun q => { q with orphans := q.orphans ++ q.inflight, inflight := [], quiesce := none
                                         tdi := if q.tdi = 1 ∨ q.tdi = 2 then 3 else q.tdi }
  let d := match fn with
    | .vf n => if n.val = 0 then d else d.setFnState n.val 0
    | _ => d
  match w with
  | some q => d.finish q 0x10 8 []
  | none => d

def execFlr (fn : Fn) (s : State) := s.run fun d => match fn with
  | .vf _ | .pf => d.fnReset fn
  | _ => d

/-- VF_ENABLE_CLEAR (R422): every VF. -/
def execVfEnableClear (s : State) := s.run fun d =>
  (List.range 255).foldl (fun d i => d.fnReset (.vf (Fin.ofNat 256 (i + 1)))) d

/-! ## Function states (R421 to R425) -/

/-- A VF operation of the PF: header checks, VF number, the states that have a row (else QUIESCED). `NumVFs` is 255. -/
def Dev.fnOp (op : Nat) (q : Desc) (vf : BitVec 8) (states : List Nat) (body : Nat → Fn → Dev → Dev) (d : Dev) : Dev :=
  d.runDesc op q (fun d =>
    let n := vf.toNat
    let fn : Fn := .vf (Fin.ofNat 256 n)
    if n = 0 then d.complete q op 4 []
    else if states.contains (d.fnState fn) = false then d.complete q op 8 []
    else body n fn d) 

/-- FN_QUIESCE: completes when the last fetched descriptor has completed. -/
def execFnQuiesce (q : Desc) (vf : BitVec 8) (s : State) := s.run fun d =>
  d.fnOp 0x10 q vf [0] fun n fn d => ((d.updFnq fn fun x => { x with quiesce := some q }).setFnState n 1).drainCheck fn

/-- The rings of a VF whose waiting records are delivered. -/
def Dev.deliverAll (fn : Fn) (d : Dev) : Dev := [4, 5, 6].foldl (fun d r => d.deliver fn r) d

def execFnResume (q : Desc) (vf : BitVec 8) (s : State) := s.run fun d =>
  d.fnOp 0x11 q vf [2, 3] fun n fn d => ((d.setFnState n 0).deliverAll fn).complete q 0x11 0 []

/-- The TDI is CONFIG_LOCKED or RUN (R425). -/
def Dev.tdiLocked (fn : Fn) (d : Dev) : Bool := (d.fnq fn).tdi == 1 || (d.fnq fn).tdi == 2

/-- DENIED for a locked TDI comes before the function's state (log 18). -/
def Dev.fnOpLocked (op : Nat) (q : Desc) (vf : BitVec 8) (states : List Nat) (body : Nat → Fn → Dev → Dev) (d : Dev) : Dev :=
  d.runDesc op q (fun d =>
    if vf.toNat ≠ 0 ∧ d.tdiLocked (.vf (Fin.ofNat 256 vf.toNat)) = true then d.complete q op 4 [] else d.fnOp op q vf states body)

def execFnFreeze (q : Desc) (vf : BitVec 8) (s : State) := s.run fun d =>
  d.fnOpLocked 0x12 q vf [2] fun n _ d => (d.setFnState n 3).complete q 0x12 0 []

/-- The record of a ring in a save image (R423): BASE, CFG, indices with the pass parity, 0. -/
def Dev.ringImage (fn : Fn) (r : Nat) (d : Dev) : List Byte :=
  let w (f : Fld) := (d.word f.space f.addr).toNat
  let pi := d.get (qPi fn r)
  leBytes 8 (w { qEn fn r with addr := (qEn fn r).addr - 8 }) ++ leBytes 8 (w (qEn fn r)) ++
  leBytes 8 (pi + d.get (qCi fn r) * 2 ^ 16 + (pi / d.ringEntries fn r % 2) * 2 ^ 32) ++ leBytes 8 0

/-- Records waiting for the notification rings, as save images carry them: the ring in byte 63 (log 19). -/
def backlogImage (e : Nat × List Byte) : List Byte := (e.2 ++ List.replicate (63 - e.2.length) 0#8).take 63 ++ leBytes 1 e.1

/-- FN_SAVE (R423): the image is written as ciphertext under the STORE key; the log shows its header and body. -/
def fnSave (q : Desc) (vf : BitVec 8) (addr : W64) (d : Dev) : Dev :=
  d.fnOpLocked 0x13 q vf [3] (fun n fn d =>
    let b := (d.fnq fn).backlog.filter fun e => e.1 ≥ 5
    let bytes := 496 + 64 * b.length
    if addr.toNat % 64 ≠ 0 then d.complete q 0x13 3 []
    else if q.length.toNat < bytes then d.complete q 0x13 9 []
    else
      let body := ((List.range 7).map fun r => d.ringImage fn r).flatten ++ (b.map backlogImage).flatten
      let (ctr, d) := d.free
      let hdr := leBytes 1 1 ++ leBytes 1 0 ++ leBytes 2 (d.get (R.TTA_ALT_ENTRY_ALLOT_ID.at n)) ++
        leBytes 1 (d.get (R.TTA_ALT_ENTRY_STORE_GEN.at n)) ++ leBytes 1 0 ++ leBytes 2 d.ttaId ++ leBytes 8 ctr.toNat ++
        leBytes 4 b.length ++ leBytes 4 body.length ++ List.replicate 232 0#8
      let d := (d.emit (.bufWrite q.fn addr.toNat (hdr ++ body))).event .tta 0xA 0x6023 [n, bytes]
      d.complete q 0x13 0 [(32, 4, bytes)])

def execFnSave (q : Desc) (vf : BitVec 8) (addr : W64) (s : State) := s.run (fnSave q vf addr)

/-- Load a ring's record of a save image. -/
def Dev.loadRing (fn : Fn) (r : Nat) (bs : List Byte) (d : Dev) : Dev :=
  let idx := leAt bs 16 8
  let e := qEn fn r
  let d := (d.setWord e.space (e.addr - 8) (BitVec.ofNat 64 (leAt bs 0 8))).setWord e.space e.addr (BitVec.ofNat 64 (leAt bs 8 8))
  (d.set (qPi fn r) (idx % 65536)).set (qCi fn r) (idx / 65536 % 65536)

/-- FN_RESTORE (R424), its checks in order. -/
def fnRestore (q : Desc) (vf : BitVec 8) (addr : W64) (img : Fetch) (tagOk : Bool) (body : List Byte) (d : Dev) : Dev :=
  d.fnOpLocked 0x14 q vf [3] (fun n fn d =>
    if addr.toNat % 64 ≠ 0 then d.complete q 0x14 3 [] else
    match img with
    | .data bs =>
      let cnt := leAt bs 16 4
      if q.length.toNat ≠ 272 + leAt bs 20 4 then d.complete q 0x14 3 []
      else if leAt bs 2 2 ≠ d.get (R.TTA_ALT_ENTRY_ALLOT_ID.at n) then d.complete q 0x14 4 []
      else if leAt bs 4 1 ≠ d.get (R.TTA_ALT_ENTRY_STORE_GEN.at n) then d.complete q 0x14 0xC []
      else if tagOk = false then d.complete q 0x14 5 []
      else if 4096 < cnt + ((d.fnq fn).backlog.filter fun e => e.1 ≥ 5).length then d.complete q 0x14 9 []
      else
        let d := (List.range 7).foldl (fun d r => d.loadRing fn r ((body.drop (32 * r)).take 32)) d
        let recs := (List.range cnt).map fun i => (leAt body (224 + 64 * i + 63) 1, (body.drop (224 + 64 * i)).take 48)
        let d := d.updFnq fn fun x => { x with backlog := recs ++ x.backlog }
        (d.event .tta 0xA 0x6024 [n, leAt bs 6 2, cnt]).complete q 0x14 0 []
    | f => d.complete q 0x14 f.status [])

def execFnRestore (q : Desc) (vf : BitVec 8) (addr : W64) (img : Fetch) (tagOk : Bool) (body : List Byte) (s : State) :=
  s.run (fnRestore q vf addr img tagOk body)

/-! ## Descriptors of the die unit (R426) -/

/-- Output of a TDU descriptor: to its buffer on the local ring, or up in RING frames for the mirror (R174). -/
def Dev.tduOutput (q : Desc) (addr : W64) (bytes : List Byte) (d : Dev) : Dev :=
  if q.ring.val < 16 then d.emit (.bufWrite .tdu addr.toNat bytes) else
  let step := (d.frameLimit - 8) / 8 * 8
  let p : Fin 2 := if q.ring.val = 16 then 0 else 1
  (List.range (ceilDiv bytes.length step)).foldl (fun d i =>
    d.sendFrame (.tdu p) 7 0 (.ring 2 q.index (BitVec.ofNat 32 (i * step)) ((bytes.drop (i * step)).take step))) d

/-- Completion of a TDU descriptor: on its own ring, or as WRITEBACK and COMPLETION messages; the write-back is the descriptor as it came
(`orig`) with its status and WB fields (R407). -/
def Dev.tduComplete (orig : List Byte) (q : Desc) (op status : Nat) (wb : List (Nat × Nat × Nat)) (d : Dev) : Dev :=
  if q.ring.val < 16 then d.complete q op status wb else
  let p : Fin 2 := if q.ring.val = 16 then 0 else 1
  let body := wb.foldl (fun (bs : List Byte) (f : Nat × Nat × Nat) => bs.take f.1 ++ leBytes f.2.1 f.2.2 ++ bs.drop (f.1 + f.2.1))
    (orig.take 11 ++ leBytes 1 status ++ orig.drop 12)
  (d.sendFrame (.tdu p) 7 0 (.ring 3 q.index 0 body)).sendFrame (.tdu p) 7 0
    (.ring 4 q.index 0 (complBytes q.tag.toNat status op q.index.toNat 0 ++ [0#8]))

/-- A TDU descriptor: header checks, then its output if the buffer holds it. -/
def Dev.tduDesc (orig : List Byte) (op : Nat) (q : Desc) (addr : W64) (out : Dev → List Byte) (wb : List Byte → List (Nat × Nat × Nat)) (d : Dev) : Dev :=
  if d.fenceHolds q then d else
  match d.headerCheck op q with
  | some st => d.tduComplete orig q op st []
  | none =>
    let bs := out d
    if addr.toNat % 64 ≠ 0 then d.tduComplete orig q op 3 []
    else if q.length.toNat < bs.length then d.tduComplete orig q op 9 []
    else (d.tduOutput q addr bs).tduComplete orig q op 0 (wb bs)

/-- Records of the areas, oldest first. -/
def Dev.recordsOf (area : Nat) (d : Dev) : List Rec :=
  let rc := d.tdu.recorder
  let nxt := d.get R.TDU_REC_STAT_CIRC_NEXT
  let circ := (rc.circ.filter fun e => nxt ≤ e.1) ++ (rc.circ.filter fun e => e.1 < nxt)
  (if area = 0 ∨ area = 2 then rc.perm else []) ++ (if area = 1 ∨ area = 2 then circ.map (·.2) else [])

/-- A descriptor of the die unit as its 64 bytes (R405, R426). -/
def Desc.image (op : Nat) (area : BitVec 8) (addr : W64) (q : Desc) : List Byte :=
  leBytes 1 op ++ [q.flags] ++ leBytes 2 q.allot.toNat ++ leBytes 4 q.tag.toNat ++ leBytes 3 q.length.toNat ++ [0#8] ++ leBytes 2 q.slackUs.toNat ++
  List.replicate 2 0#8 ++ [area] ++ List.replicate 7 0#8 ++ leBytes 8 addr.toNat ++ List.replicate 32 0#8

/-- REC_COPY: the copy is taken under a freeze (R426, R449); records that arrive meanwhile would be staged, and here none
arrive inside one command. -/
def execRecCopy (q : Desc) (area : BitVec 8) (addr : W64) (s : State) := s.run fun d =>
  d.tduDesc (q.image 0x70 area addr) 0x70 q addr (fun d => ((d.recordsOf area.toNat).map Rec.bytes).flatten) fun bs => [(32, 4, bs.length / 32)]

def execAonCopy (q : Desc) (addr : W64) (s : State) := s.run fun d =>
  d.tduDesc (q.image 0x71 0 addr) 0x71 q addr (fun d => ((List.range 32).map fun i => leBytes 8 (Memory.read (fun _ => 0#64) d.tdu.bank i).toNat).flatten) fun _ => []

def execChkCopy (q : Desc) (addr : W64) (s : State) := s.run fun d =>
  d.tduDesc (q.image 0x72 0 addr) 0x72 q addr (fun d => ((List.range 48).map fun i => leBytes 8 (d.word .tdu (R.TDU_CHK_BIN.base + 8 * i)).toNat).flatten) fun _ => []

/-- The notice ring copies a TDU record whose range bit is set, locally and, under the mirror, up the port (R426, R427). -/
def Dev.noticeCopy (r : Rec) (d : Dev) : Dev :=
  if (d.get R.TDU_Q_NOTICE_MASK).testBit (r.code.toNat / 4096) then
    let d := d.notify .tdu 2 r.bytes
    if d.bit R.TDU_Q_MIRROR_EN then
      d.sendUp 7 0 (.ring 5 0 0 ((r.bytes ++ List.replicate 16 0#8).take 48))
    else d
  else d

/-! ## Mirroring (R427) -/

/-- A mirrored descriptor ends with a status that the TTA gives it. -/
def Dev.mirrorEnd (m : Mirrored) (status : Nat) (d : Dev) : Dev :=
  ({ d with tta := { d.tta with mirrored := d.tta.mirrored.erase m } } : Dev).complete m.q m.opcode status []

/-- MIRROR_TIMEOUT: no answer after 1 ms. -/
def mirrorTimeout (p : Fin 16) (index : BitVec 16) (d : Dev) : Dev :=
  match d.tta.mirrored.find? fun m => m.port = p.val ∧ m.q.index = index with
  | some m => d.mirrorEnd m 6
  | none => d

def execMirrorTimeout (p : Fin 16) (index : BitVec 16) (s : State) := s.run (mirrorTimeout p index)

/-- TDU_MIRROR_WRITE: the TTA sends each changed port its setting in a CONTROL frame. -/
def tduMirrorWrite (v : W64) (d : Dev) : Dev :=
  let old := d.get R.TTA_TDU_MIRROR_PORT
  let new := R.TTA_TDU_MIRROR_PORT.read v
  (List.range 16).foldl (fun d p => if old.testBit p != new.testBit p then d.sendControl p 0 false (.mirror (new.testBit p)) else d)
    (d.set R.TTA_TDU_MIRROR_PORT new)

def execTduMirrorWrite (v : W64) (s : State) := s.run (tduMirrorWrite v)

end Sys2Proof.Machine
end

