-- ==== Sys2Proof/Machine/LinkCmds.lean ====
section
/-! DEFINITION. The commands of training and lanes that can take a port DOWN: a descriptor mirrored on it then ends with TIMEOUT (R427). -/
namespace Sys2Proof.Machine

/-- Mirrored descriptors whose port is not UP complete with TIMEOUT. -/
def Dev.mirrorsDown (d : Dev) : Dev :=
  (d.tta.mirrored.filter fun m => !d.isUp (ttaEnd m.port)).foldl (fun d m => d.mirrorEnd m 6) d

def execLinkEnable (e : LinkEnd) (en : Bool) (s : State) := s.run fun d => (linkEnable e en d).mirrorsDown

def execDeskewDone (e : LinkEnd) (skewed : BitVec 8) (s : State) := s.run fun d => (deskewDone e skewed d).mirrorsDown

def execTrainingStateTimeout (e : LinkEnd) (s : State) := s.run fun d => (trainingFailed e d).mirrorsDown

def execLaneFault (e : LinkEnd) (f : LaneFault) (s : State) := s.run fun d => (laneFault e f d).mirrorsDown

def execLane (e : LinkEnd) (crcOk : Bool) (ln kind : BitVec 8) (s : State) := s.run fun d => (laneBlock e crcOk ln kind d).mirrorsDown

def execTrainFrame (e : LinkEnd) (crcOk : Bool) (t : Train) (s : State) := s.run fun d => (trainFrame e crcOk t d).mirrorsDown

end Sys2Proof.Machine
end

