-- ==== Sys2Proof/Machine/Ports.lean ====
section
/-! DEFINITION. The die unit's host ports: clock loss (R62), the memory port (R85), relief hints (R24, R73, R370), and what a
frame boundary does beside the transmitter. -/
namespace Sys2Proof.Machine

/-! ## Clock loss -/

/-- The host-main domain is held in reset (R62): counters and precise samples are lost, commands and checks in flight end,
configuration, step entries, hints, stamps and frames are kept; the next samples carry RESTART. -/
def Dev.hostDomainReset (d : Dev) : Dev :=
  let step (e : PsEntry) : Bool := (e.words.getD 3 0).toNat / 2 ^ 24 % 4 == 3
  let lost := (d.tdu.smp.psBuf.filter fun e => !step e).length
  let d := { d with tdu := { d.tdu with bank := [] } }
  let d := d.own 40 lost
  let d := d.updSmp fun s => { s with hostReset := true, cmdId := [], psBuf := s.psBuf.filter step }
  let d := d.set R.TDU_PS_STAT_FILL d.tdu.smp.psBuf.length
  (d.flightLost).restartAll

/-- HOST_CLK_GOOD_FALL in D0 or D1: event 0x0120 in the permanent area. -/
def hostClkGoodFall (d : Dev) : Dev :=
  let st := d.get R.TDU_PWR_STAT_STATE
  if 2 ≤ st ∨ d.tdu.smp.hostReset = true then d else
  (d.eventPerm .tdu 0 0x0120 [st, (d.stamp .tdu).toNat]).hostDomainReset

def execHostClkGoodFall (s : State) := s.run hostClkGoodFall

/-- TDU_RAIL_REMOVAL (R509): in D0 or D1 a loss of HOST_CLK_GOOD. -/
def execTduRailRemoval (s : State) := s.run hostClkGoodFall

/-! ## Memory port (R85, R113, R115) -/

/-- A frame leaves the spill ring. -/
def Dev.unspill (b : Nat) (d : Dev) : Dev := (d.updSmp fun s => { s with spill := s.spill.filter fun f => f.born != b }).showFill

/-- A spill access failed: the ring counts as full for that frame, and the frame is lost (R114, R115). -/
def Dev.spillFailed (b : Nat) (d : Dev) : Dev :=
  ((d.unspill b).bump R.TDU_SMP_STAT_LOST_BLOCKS 1).updSmp fun s => { s with sawFull := true }

/-- A memory request ends with a status of R85. -/
def Dev.memDone (r : MemReq) (status : Nat) (d : Dev) : Dev :=
  let d := d.updSmp fun s => { s with memReqs := s.memReqs.erase r }
  match r.use with
  | .spillWrite b => if status = 0 then d else d.spillFailed b
  | .spillRead b =>
    match d.tdu.smp.spill.find? fun f => f.born = b with
    | none => d
    | some f => if status = 0 then (((d.unspill b).own 35 f.size).queueBoth f).showFill else d.spillFailed b
  | .ring ring idx => if status = 0 then d else d.ringError .tdu ring idx status

/-- The status that MEM_RSTAT gives. -/
def memStatus : Fin 4 → Nat
  | 0 => 0
  | 1 => 5
  | 2 => 4
  | 3 => 6

/-- MEM_RESPONSE: a response for a tag that is not outstanding is discarded and counted. -/
def memResponse (tag : Fin 64) (stat : Fin 4) (d : Dev) : Dev :=
  match d.tdu.smp.memReqs.find? fun r => r.tag = tag.val with
  | none => d.own 31 1
  | some r => (d.memDone r (memStatus stat)).spillService

def execMemResponse (tag : Fin 64) (stat : Fin 4) (s : State) := s.run (memResponse tag stat)

/-- MEM_REQUEST_TIMEOUT: 100 µs without a response. -/
def memRequestTimeout (tag : Fin 64) (d : Dev) : Dev :=
  match d.tdu.smp.memReqs.find? fun r => r.tag = tag.val with
  | none => d
  | some r => (d.memDone r 6).spillService

def execMemRequestTimeout (tag : Fin 64) (s : State) := s.run (memRequestTimeout tag)

/-! ## Relief hints (R24, R73, R370) -/

/-- Put the front hint on HINT_DATA: LATE when it is more than 80,000 ns after its stamp; a late hint raises HINT_LATE. -/
def Dev.placeHint (d : Dev) : Dev :=
  match d.tdu.smp.hints with
  | [] => d
  | (p, h) :: t =>
    let late := 80000 < (d.stamp .tdu - h.stamp).toNat
    let h := if late then { h with flags := h.flags ||| 1 } else h
    let d := (d.updSmp fun s => { s with hints := (p, h) :: t }).emit (.hintOut h)
    if late then
      let d := d.own 27 1
      match d.radioIndex with
      | some a => d.raiseFor a 4 h.stamp
      | none => d
    else d

/-- A first hint goes to the store: at once on HINT_DATA when the store is empty; with 256 entries in use it is discarded. -/
def Dev.storeHint (port : Nat) (h : Hint) (d : Dev) : Dev :=
  if 256 ≤ d.tdu.smp.hints.length then
    let d := (d.own 44 1).event .tdu 0 0x5003 [h.pipe.val, h.slotNum.toNat]
    match d.radioIndex with
    | some a => d.raiseFor a 4 h.stamp
    | none => d
  else
    let empty := d.tdu.smp.hints.isEmpty
    let d := d.updSmp fun s => { s with hints := s.hints ++ [(port, h)] }
    if empty then d.placeHint else d

/-- One hint of an accepted HINT frame (R24): the second of a pair is compared and discarded, a first hint is kept. -/
def Dev.takeHint (port : Nat) (h : Hint) (d : Dev) : Dev :=
  match d.tdu.smp.unpaired.find? fun e => e.1 = h.pipe.val with
  | some (_, p, g) =>
    if p ≠ port ∧ g.slotNum = h.slotNum then
      let d := d.updSmp fun s => { s with unpaired := s.unpaired.filter fun e => e.1 != h.pipe.val }
      if g = h then d else (d.own 28 1).event .tdu 0 0x4030 [2, h.pipe.val, h.slotNum.toNat]
    else (d.updSmp fun s => { s with unpaired := (h.pipe.val, port, h) :: (s.unpaired.filter fun e => e.1 != h.pipe.val) }).storeHint port h
  | none => (d.updSmp fun s => { s with unpaired := (h.pipe.val, port, h) :: s.unpaired }).storeHint port h

/-- HINT_ACCEPTED (R73): the host takes the hint; the next one is placed. -/
def hintAccepted (d : Dev) : Dev :=
  match d.tdu.smp.hints with
  | [] => d
  | _ :: t => ((d.own 26 1).updSmp fun s => { s with hints := t }).placeHint

def execHintAccepted (s : State) := s.run hintAccepted

/-! ## The frame boundary of a TDU port -/

/-- Since when a W0 frame has been ready at a port (R192). -/
def Dev.trackW0 (p : Fin 2) (d : Dev) : Dev :=
  let now := d.nowNs .tdu
  d.updPort (.tdu p) fun l =>
    match l.w0Since, (l.head 4).isSome with
    | some t, false => { l with w0Since := none, w0Ready := l.w0Ready ++ [(t, now)] }
    | none, true => { l with w0Since := some now }
    | _, _ => l

/-- FRAME_BOUNDARY: the transmitter's choice; on a TDU the egress buffer then takes what waited for room. -/
def execFrameBoundary (e : LinkEnd) (tick : Nat) (s : State) := s.run fun d =>
  let d := frameBoundary e tick d
  match e with
  | .tdu p => ((((d.trackW0 p).heldService).spillService).buildStamps).showFill
  | .tta _ => d

end Sys2Proof.Machine
end

