-- ==== Sys2Proof/Machine/TduFrames.lean ====
section
/-! DEFINITION. Frames that a TDU receives: HINT, the CONTROL messages of R172, TEST_ORDER, RING descriptors; and the snapshot
triggers of both parts (R451). -/
namespace Sys2Proof.Machine

/-! ## HINT -/

/-- HINT_FRAME (R24, R73); a downstream frame on the twin link goes on to its die's tray port (R186). -/
def hintFrame (e : LinkEnd) (h : RxHdr) (hints : List Hint) (d : Dev) : Dev :=
  let (ok, d) := d.acceptFrame e true h
  if ok = false then d else
  match e, h.fwd with
  | .tdu p, _ => hints.foldl (fun d x => d.takeHint p.val x) d
  | .tta p, some o =>
    if p.val = 16 ∧ o.down = true then
      d.updPort (ttaEnd o.die.val) fun l => { l with queue := l.queue ++
        [{ payload := .hint hints, cls := h.cls, prot := h.prot, fwd := some o, allotIdx := h.allotIdx, len := h.len.toNat, seq := 0, sentAt := 0 }] }
    else d
  | .tta _, none => d

def execHintFrame (e : LinkEnd) (h : RxHdr) (hints : List Hint) (s : State) := s.run (hintFrame e h hints)

/-! ## CONTROL (R172) -/

/-- Answer a message that asked for an acknowledgement. -/
def Dev.ackControl (p : Fin 2) (tag : BitVec 32) (ackReq : Bool) (status : Nat) (d : Dev) : Dev :=
  if ackReq then d.sendFrame (.tdu p) 2 0 (.control tag false (.ack (BitVec.ofNat 8 status))) else d

/-- A CONTROL message: its frame is accepted (a further message of the same frame needs none), it takes effect, and it is
acknowledged with the status when asked. -/
def Dev.control (p : Fin 2) (h : Option RxHdr) (tag : BitVec 32) (ackReq : Bool) (body : Dev → Nat × Dev) (d : Dev) : Dev :=
  let (ok, d) := match h with
    | some h => d.acceptFrame (.tdu p) true h
    | none => (d.isUp (.tdu p), d)
  if ok = false then d else
  let (st, d) := body d
  d.ackControl p tag ackReq st

/-- The bits of a word under a mask replaced. -/
def maskPut (old mask v : W64) : W64 := (old &&& ~~~mask) ||| (v &&& mask)

/-- A write of TDU_ALLOT_MAP (R98): only from the twin whose TIME messages the TDU uses; entry 0 stays the platform's.
K_REQ takes 8 when an index is mapped (R372). -/
def Dev.mapWrite (p : Fin 2) (a : Nat) (mask v : W64) (d : Dev) : Dev :=
  if a = 0 ∨ p ≠ d.tdu.time.srcPort then d else
  let addr := R.TDU_ALLOT_MAP.base + 8 * a
  let was := d.mapValid a
  let d := d.setWord .tdu addr (maskPut (d.word .tdu addr) mask v &&& 0x7FFFF)
  let is := d.mapValid a
  if was && !is then d.updSmp fun s => { s with cleared := a :: s.cleared.filter (· != a) }
  else if !was && is then d.set (R.TDU_CHK_K_K_REQ.at a) 8
  else d

/-- REG_WRITE: TDU_ALLOT_MAP, TDU_TRC_SLOT_CFG, TDU_CHK_K, TDU_COMPAT; any other register answers DENIED. -/
def regWriteMsg (p : Fin 2) (off : Nat) (mask v : W64) (d : Dev) : Nat × Dev :=
  let o := off / 8 * 8
  if 0x5200 ≤ o ∧ o < 0x5400 then (0, d.mapWrite p ((o - 0x5200) / 8) mask v)
  else if 0x6840 ≤ o ∧ o < 0x6880 then
    let s := (o - 0x6840) / 8
    (0, d.slotCfgWrite s (maskPut (((d.tslot s).shadow).getD (d.word .tdu o)) mask v))
  else if 0x4000 ≤ o ∧ o < 0x4200 then (0, d.setWord .tdu o (maskPut (d.word .tdu o) (mask &&& 0x1F1F) v))
  else if o = 8 then (0, if p = d.tdu.time.srcPort then d.setWord .tdu 8 (maskPut (d.word .tdu 8) (mask &&& 7) v) else d)
  else (4, d)

def execRegWrite (p : Fin 2) (h : Option RxHdr) (tag : BitVec 32) (ackReq : Bool) (off : BitVec 16) (mask value : W64) (s : State) :=
  s.run fun d => d.control p h tag ackReq (regWriteMsg p off.toNat mask value)

/-- CONTROL_TRIGGER: a relayed trigger; only ANOMALY carries an ORIGIN (R129). -/
def execControlTrigger (p : Fin 2) (h : Option RxHdr) (tag : BitVec 32) (ackReq : Bool) (slots : BitVec 8) (start stop : Bool)
    (cause : BitVec 8) (origin : BitVec 32) (s : State) :=
  s.run fun d => d.control p h tag ackReq fun d => (0, d.raiseTrig
    { slots := slots.toNat, start := start, stop := stop, cause := cause.toNat, origin := if cause = 2 then some origin else none })

/-- PARTNER_QUERY (R219): event 0x3135 with the ticks since the other port last accepted a frame. -/
def execPartnerQuery (p : Fin 2) (h : Option RxHdr) (tag : BitVec 32) (ackReq : Bool) (s : State) :=
  s.run fun d => d.control p h tag ackReq fun d =>
    let o : Fin 2 := if p = 0 then 1 else 0
    (0, d.event .tdu 0 0x3135 [o.val, min (d.tdu.time.base.tick - (d.port (.tdu o)).lastRx) (2 ^ 32 - 1)])

/-- PARK (R476): the port is then treated as a sleeping port. -/
def execPark (p : Fin 2) (h : Option RxHdr) (tag : BitVec 32) (ackReq : Bool) (on : Bool) (s : State) :=
  s.run fun d => d.control p h tag ackReq fun d => (0, d.updPort (.tdu p) fun l => { l with parked := on })

/-- SLOT_TABLE (R194). -/
def execSlotTable (p : Fin 2) (h : Option RxHdr) (tag : BitVec 32) (ackReq : Bool) (boundaryNs : W64) (entries : List SlotWin)
    (s : State) :=
  s.run fun d => d.control p h tag ackReq fun d => (0, d.takeSlotTable boundaryNs.toNat (entries.take 32))

/-- SNAPSHOT (R451): T received after T latches on receipt and sets LATE. -/
def Dev.snapFromTta (t : Nat) (d : Dev) : Dev :=
  if d.bit (snapBusy .tdu) then (d.bump (snapIgnored .tdu) 1).event .tdu 0 0xF011 [4] else
  let d := ((d.setBit (snapBusy .tdu) true).setBit (snapValid .tdu) false).set (snapSource .tdu) 4
  if d.timeValid .tdu = true ∧ d.nowNs .tdu < t then
    (d.setBit R.TDU_SNAP_STAT_LATE false).setSnap .tdu (some { tNs := t, source := 4 })
  else ((d.setBit R.TDU_SNAP_STAT_LATE true).setSnap .tdu (some { tNs := t, source := 4 })).latchNow .tdu

def execSnapshot (p : Fin 2) (h : Option RxHdr) (tag : BitVec 32) (ackReq : Bool) (tNs : W64) (s : State) :=
  s.run fun d => d.control p h tag ackReq fun d => (0, d.snapFromTta tNs.toNat)

/-- MIRROR (R427). -/
def execMirror (p : Fin 2) (h : Option RxHdr) (tag : BitVec 32) (ackReq : Bool) (on : Bool) (s : State) :=
  s.run fun d => d.control p h tag ackReq fun d => (0, d.setBit R.TDU_Q_MIRROR_EN on)

/-- TEST_ORDER (R173, R393). -/
def execTestOrder (p : Fin 2) (h : RxHdr) (tag : BitVec 32) (classMask : BitVec 16) (s : State) :=
  s.run fun d =>
    let (ok, d) := d.acceptFrame (.tdu p) true h
    if ok then d.testOrder tag classMask.toNat else d

/-- RING_DESCRIPTOR (R427): the mirrored descriptor is executed. -/
def ringDescriptor (p : Fin 2) (h : RxHdr) (index : BitVec 16) (bs : List Byte) (d : Dev) : Dev :=
  let (ok, d) := d.acceptFrame (.tdu p) true h
  if ok = false then d else
  let q : Desc := { fn := .tdu, ring := if p = 0 then 16 else 17, index := index, flags := BitVec.ofNat 8 (leAt bs 1 1)
                    allot := BitVec.ofNat 16 (leAt bs 2 2), tag := BitVec.ofNat 32 (leAt bs 4 4)
                    length := BitVec.ofNat 24 (leAt bs 8 3), slackUs := BitVec.ofNat 16 (leAt bs 12 2) }
  let addr := BitVec.ofNat 64 (leAt bs 24 8)
  match leAt bs 0 1 with
  | 0x70 => d.tduDesc bs 0x70 q addr (fun d => ((d.recordsOf (leAt bs 16 1)).map Rec.bytes).flatten) fun o => [(32, 4, o.length / 32)]
  | 0x71 => d.tduDesc bs 0x71 q addr (fun d => ((List.range 32).map fun i => leBytes 8 (Memory.read (fun _ => 0#64) d.tdu.bank i).toNat).flatten) fun _ => []
  | 0x72 => d.tduDesc bs 0x72 q addr (fun d => ((List.range 48).map fun i => leBytes 8 (d.word .tdu (R.TDU_CHK_BIN.base + 8 * i)).toNat).flatten) fun _ => []
  | op => d.tduComplete bs q op 4 []

def execRingDescriptor (p : Fin 2) (h : RxHdr) (index : BitVec 16) (bytes : List Byte) (s : State) :=
  s.run (ringDescriptor p h index bytes)

/-! ## Snapshot triggers (R451) -/

def execSnapTrig (p : Part) (s : State) := s.run fun d => d.snapTrigger p 0 0

def execSnapArmAt (s : State) := s.run fun d => d.snapTrigger .tta 1 (d.get R.TTA_SNAP_AT_NS)

def execSnapDebugTrigger (p : Part) (s : State) := s.run fun d => d.snapTrigger p 3 0

end Sys2Proof.Machine
end

