-- ==== Sys2Proof/Machine/Operands.lean ====
section
/-! DEFINITION. Tile arithmetic: lanes, number formats, rounding, conversions, integer rules and the exact accumulator
(R234 to R245). -/
namespace Sys2Proof.Machine

/-! ## Lanes (R234) -/

/-- Lane `i` of `w` bits. -/
def laneAt (w i : Nat) (x : W64) : Nat := (x.toNat / 2 ^ (w * i)) % 2 ^ w

/-- The lanes of a word, lane 0 first. -/
def lanes (w : Nat) (x : W64) : List Nat := (List.range (64 / w)).map fun i => laneAt w i x

/-- The word of a list of lanes, lane 0 in the lowest bits. -/
def packLanes (w : Nat) (l : List Nat) : W64 := BitVec.ofNat 64 (l.foldr (fun x acc => x % 2 ^ w + 2 ^ w * acc) 0)

/-- Apply a function to each lane of one word, two words or three words. -/
def map1 (w : Nat) (f : Nat → Nat) (a : W64) : W64 := packLanes w ((lanes w a).map f)

def map2 (w : Nat) (f : Nat → Nat → Nat) (a b : W64) : W64 := packLanes w (List.zipWith f (lanes w a) (lanes w b))

def map3 (w : Nat) (f : Nat → Nat → Nat → Nat) (a b c : W64) : W64 :=
  packLanes w (List.zipWith (fun g z => g z) (List.zipWith f (lanes w a) (lanes w b)) (lanes w c))

/-- All ones in a lane when a comparison holds, else 0. -/
def maskIf (w : Nat) (b : Bool) : Nat := if b then 2 ^ w - 1 else 0

/-! ## Integers (R240) -/

/-- The two's complement value of `w` bits. -/
def sInt (w x : Nat) : Int := if x < 2 ^ (w - 1) then x else (x : Int) - 2 ^ w

/-- The value of a lane of an integer type: signed for types 0 to 3. -/
def intOf (ty x : Nat) : Int := if ty < 4 then sInt (tyWidth ty) x else x

/-- The low `w` bits of an integer. -/
def wrapTo (w : Nat) (v : Int) : Nat := (v % 2 ^ w).toNat

/-- Least and greatest value of an integer type. -/
def intMin (ty : Nat) : Int := if ty < 4 then -(2 ^ (tyWidth ty - 1)) else 0
def intMax (ty : Nat) : Int := if ty < 4 then 2 ^ (tyWidth ty - 1) - 1 else 2 ^ tyWidth ty - 1

/-- An integer saturated to the range of a type, as bits. -/
def satTo (ty : Nat) (v : Int) : Nat := wrapTo (tyWidth ty) (max (intMin ty) (min (intMax ty) v))

/-- The number of leading zeros of `w` bits. -/
def clz (w x : Nat) : Nat := if x = 0 then w else w - 1 - Nat.log2 x

/-- The number of one bits of `w` bits. -/
def popc (w x : Nat) : Nat := ((List.range w).filter fun i => x.testBit i).length

/-- Shift right by `n`: arithmetic for signed types (R240). -/
def shrLane (ty x n : Nat) : Nat := wrapTo (tyWidth ty) (intOf ty x / 2 ^ n)

/-! ## Floating point (R234 to R238) -/

/-- A floating-point format: width, fraction bits, bias, encoding of the largest finite value, infinity, canonical NaN. -/
structure Fmt where
  w : Nat
  f : Nat
  bias : Nat
  maxEnc : Nat
  inf : Bool
  nan : Nat

/-- Formats of type codes 8 to 12. -/
def fmtOf : Nat → Fmt
  | 8 => { w := 8, f := 3, bias := 7, maxEnc := 0x7E, inf := false, nan := 0x7F }
  | 9 => { w := 8, f := 2, bias := 15, maxEnc := 0x7B, inf := true, nan := 0x7E }
  | 10 => { w := 16, f := 10, bias := 15, maxEnc := 0x7BFF, inf := true, nan := 0x7E00 }
  | 11 => { w := 16, f := 7, bias := 127, maxEnc := 0x7F7F, inf := true, nan := 0x7FC0 }
  | _ => { w := 32, f := 23, bias := 127, maxEnc := 0x7F7FFFFF, inf := true, nan := 0x7FC00000 }

/-- Exponent of the smallest quantum of a format. -/
def Fmt.qmin (F : Fmt) : Int := 1 - F.bias - F.f

/-- The value of an encoding: NaN, a signed infinity, or (−1)^s · m · 2^e. -/
inductive FVal where
  | nan
  | inf (s : Bool)
  | fin (s : Bool) (m : Nat) (e : Int)
  deriving DecidableEq, Repr

def Fmt.dec (F : Fmt) (x : Nat) : FVal :=
  let s := x.testBit (F.w - 1)
  let mag := x % 2 ^ (F.w - 1)
  if F.maxEnc < mag then (if F.inf && mag == F.maxEnc + 1 then .inf s else .nan)
  else if mag < 2 ^ F.f then .fin s mag F.qmin
  else .fin s (mag % 2 ^ F.f + 2 ^ F.f) (F.qmin + (mag / 2 ^ F.f - 1 : Nat))

/-- The sign bit in place. -/
def Fmt.sign (F : Fmt) (s : Bool) : Nat := if s then 2 ^ (F.w - 1) else 0

/-- A magnitude above the largest finite value (R239). -/
def Fmt.overflow (F : Fmt) (sat s : Bool) : Nat :=
  if sat then F.sign s + F.maxEnc else if F.inf then F.sign s + F.maxEnc + 1 else F.nan

/-- `m · 2^e`, plus a part below its last bit when `sticky`, as a multiple of 2^q, to nearest with ties to even (R235). -/
def roundMul (m : Nat) (e q : Int) (sticky : Bool) : Nat :=
  if q ≤ e then m * 2 ^ (e - q).toNat else
  let sh := (q - e).toNat
  let k := m / 2 ^ sh
  let r := m % 2 ^ sh
  let half := 2 ^ (sh - 1)
  if half < r ∨ (r = half ∧ (sticky = true ∨ k % 2 = 1)) then k + 1 else k

/-- Round a finite value once to the format (R235, R236). -/
def Fmt.round (F : Fmt) (sat s : Bool) (m : Nat) (e : Int) (sticky : Bool := false) : Nat :=
  if m = 0 then F.sign s else
  let q := max ((Nat.log2 m : Int) + e - F.f) F.qmin
  let enc := (q - F.qmin).toNat * 2 ^ F.f + roundMul m e q sticky
  if F.maxEnc < enc then F.overflow sat s else F.sign s + enc

/-- The encoding of a value (R237, R239). -/
def Fmt.enc (F : Fmt) (sat : Bool) : FVal → Nat
  | .nan => F.nan
  | .inf s => if F.inf then F.sign s + F.maxEnc + 1 else F.overflow sat s
  | .fin s m e => F.round sat s m e

/-- A finite value as an integer multiple of 2^e. -/
def toExp (s : Bool) (m : Nat) (e' e : Int) : Int := (if s then -1 else 1) * ((m * 2 ^ (e' - e).toNat : Nat) : Int)

def FVal.neg : FVal → FVal
  | .nan => .nan
  | .inf s => .inf !s
  | .fin s m e => .fin (!s) m e

/-- The exact sum (R238): an exact zero of different signs is +0. -/
def FVal.add : FVal → FVal → FVal
  | .nan, _ | _, .nan => .nan
  | .inf s, .inf s' => if s = s' then .inf s else .nan
  | .inf s, _ => .inf s
  | _, .inf s => .inf s
  | .fin s m e, .fin s' m' e' =>
    let q := min e e'
    let v := toExp s m e q + toExp s' m' e' q
    if v = 0 then .fin (s && s') 0 q else .fin (decide (v < 0)) v.natAbs q

/-- The exact product. -/
def FVal.mul : FVal → FVal → FVal
  | .nan, _ | _, .nan => .nan
  | .inf s, .inf s' => .inf (s != s')
  | .inf s, .fin s' m _ => if m = 0 then .nan else .inf (s != s')
  | .fin s m _, .inf s' => if m = 0 then .nan else .inf (s != s')
  | .fin s m e, .fin s' m' e' => .fin (s != s') (m * m') (e + e')

/-- The quotient, rounded once. -/
def Fmt.div (F : Fmt) : FVal → FVal → Nat
  | .nan, _ | _, .nan | .inf _, .inf _ => F.nan
  | .inf s, .fin s' _ _ => F.enc false (.inf (s != s'))
  | .fin s _ _, .inf s' => F.sign (s != s')
  | .fin s m e, .fin s' m' e' =>
    if m' = 0 then (if m = 0 then F.nan else F.enc false (.inf (s != s')))
    else F.round false (s != s') (m * 2 ^ 64 / m') (e - e' - 64) (m * 2 ^ 64 % m' != 0)

/-- ⌊√n⌋ for n below 2^96. -/
def isqrt (n : Nat) : Nat :=
  (List.range 48).foldl (fun r i => let c := r + 2 ^ (47 - i); if c * c ≤ n then c else r) 0

/-- The square root, rounded once; the root of −0 is −0. -/
def Fmt.sqrt (F : Fmt) : FVal → Nat
  | .nan | .inf true => F.nan
  | .inf false => F.enc false (.inf false)
  | .fin s m e =>
    if m = 0 then F.sign s
    else if s then F.nan
    else
      let m' := if e % 2 = 0 then m * 2 ^ 64 else m * 2 ^ 65
      let e' := if e % 2 = 0 then e - 64 else e - 65
      let r := isqrt m'
      F.round false false r (e' / 2) (r * r != m')

/-- a < b, false when either is NaN; −0 equals +0 (R238). -/
def FVal.lt : FVal → FVal → Bool
  | .nan, _ | _, .nan => false
  | .inf s, .inf s' => s && !s'
  | .inf s, .fin .. => s
  | .fin .., .inf s => !s
  | .fin s m e, .fin s' m' e' => let q := min e e'; decide (toExp s m e q < toExp s' m' e' q)

def FVal.isNan : FVal → Bool
  | .nan => true
  | _ => false

def FVal.eq (a b : FVal) : Bool := !a.isNan && !b.isNan && !a.lt b && !b.lt a

/-- FMIN (`hi` false) and FMAX of two encodings: canonical NaN when either is NaN, −0 below +0 (R238). -/
def Fmt.pick (F : Fmt) (hi : Bool) (x y : Nat) : Nat :=
  let a := F.dec x
  let b := F.dec y
  if a.isNan || b.isNan then F.nan
  else if a.lt b then (if hi then y else x)
  else if b.lt a then (if hi then x else y)
  else if x.testBit (F.w - 1) then (if hi then y else x)
  else (if hi then x else y)

/-- One rounded operation on encodings. -/
def Fmt.op2 (F : Fmt) (g : FVal → FVal → FVal) (x y : Nat) : Nat := F.enc false (g (F.dec x) (F.dec y))

/-- A·B + D with a single rounding (R245). -/
def Fmt.fma (F : Fmt) (x y z : Nat) : Nat := F.enc false (((F.dec x).mul (F.dec y)).add (F.dec z))

/-! ## Conversions (R239) -/

/-- Rounded to the nearest integer, ties to even, then saturated; NaN gives 0. -/
def FVal.toInt (ty : Nat) : FVal → Nat
  | .nan => 0
  | .inf s => satTo ty (if s then intMin ty else intMax ty)
  | .fin s m e => satTo ty ((if s then -1 else 1) * (roundMul m e 0 false : Int))

/-- CVT of one lane. -/
def cvtLane (src dst : Nat) (sat : Bool) (x : Nat) : Nat :=
  if 8 ≤ src then
    let v := (fmtOf src).dec x
    if 8 ≤ dst then (fmtOf dst).enc sat v else v.toInt dst
  else
    let v := intOf src x
    if 8 ≤ dst then (fmtOf dst).round sat (decide (v < 0)) v.natAbs 0
    else if sat ∧ tyWidth dst ≤ tyWidth src then satTo dst v else wrapTo (tyWidth dst) v

/-- CVT of a lane group (R253); `old` is D before. -/
def cvtWord (src dst g : Nat) (sat : Bool) (a old : W64) : W64 :=
  let ws := tyWidth src
  let wd := tyWidth dst
  let n := 64 / max ws wd
  if ws < wd then packLanes wd ((List.range n).map fun i => cvtLane src dst sat (laneAt ws (g * n + i) a))
  else packLanes wd ((List.range (64 / wd)).map fun i =>
    if g * n ≤ i ∧ i < g * n + n then cvtLane src dst sat (laneAt ws (i - g * n) a) else laneAt wd i old)

/-- DOT (R245): lanes in ascending order, one rounding each. -/
def dotWord (tyA tyB : Nat) (a b d : W64) : W64 :=
  let w := tyWidth tyA
  let F := fmtOf 12
  let acc := (List.zip (lanes w a) (lanes w b)).foldl
    (fun acc xy => F.enc false ((((fmtOf tyA).dec xy.1).mul ((fmtOf tyB).dec xy.2)).add (F.dec acc))) (laneAt 32 0 d)
  BitVec.ofNat 64 acc

/-! ## The exact accumulator (R241 to R244) -/

/-- Add a lane. -/
def Accum.addLane (ty x : Nat) (c : Accum) : Accum :=
  if ty < 8 then { c with n := c.n + BitVec.ofInt 320 (intOf ty x * 2 ^ 149) } else
  match (fmtOf ty).dec x with
  | .nan => { c with nan := true }
  | .inf true => { c with ninf := true }
  | .inf false => { c with pinf := true }
  | .fin s m e => { c with n := c.n + BitVec.ofInt 320 (toExp s m e (-149)) }

/-- ACC.ADD: every lane of a word, and its poison. -/
def Accum.addWord (ty : Nat) (a : TWord) (c : Accum) : Accum :=
  let c := (lanes (tyWidth ty) a.v).foldl (fun c x => c.addLane ty x) c
  { c with poison := c.poison || a.p }

/-- ACC.MRG. -/
def Accum.merge (c m : Accum) : Accum :=
  { n := c.n + m.n, nan := c.nan || m.nan, pinf := c.pinf || m.pinf, ninf := c.ninf || m.ninf, poison := c.poison || m.poison }

/-- The value that ACC.RD reads (R243). -/
def Accum.read (ty : Nat) (sat : Bool) (c : Accum) : Nat :=
  let v := c.n.toInt
  if 8 ≤ ty then
    let F := fmtOf ty
    if c.nan || (c.pinf && c.ninf) then F.nan
    else if c.pinf then (if sat then F.maxEnc else F.enc false (.inf false))
    else if c.ninf then (if sat then F.sign true + F.maxEnc else F.enc false (.inf true))
    else F.round sat (decide (v < 0)) v.natAbs (-149)
  else
    if c.nan || (c.pinf && c.ninf) then 0
    else if c.pinf then satTo ty (intMax ty)
    else if c.ninf then satTo ty (intMin ty)
    else (FVal.fin (decide (v < 0)) v.natAbs (-149)).toInt ty

/-- The 48-byte image (R244). -/
def Accum.image (c : Accum) : List W64 :=
  ((List.range 5).map fun i => c.n.extractLsb' (64 * i) 64) ++
  [BitVec.ofNat 64 ((if c.nan then 1 else 0) + (if c.pinf then 2 else 0) + (if c.ninf then 4 else 0) + (if c.poison then 8 else 0))]

/-- The accumulator of an image; a poisoned word sets POISON. -/
def Accum.ofImage (l : List TWord) : Accum :=
  let w (i : Nat) : TWord := l.getD i {}
  let fl := (w 5).v
  { n := (w 4).v ++ (w 3).v ++ (w 2).v ++ (w 1).v ++ (w 0).v
    nan := fl.getLsbD 0, pinf := fl.getLsbD 1, ninf := fl.getLsbD 2, poison := fl.getLsbD 3 || l.any (·.p) }

/-! ## Histogram buckets (R259) -/

/-- ⌊64 · log2 x⌋ for 1 ≤ x < 2^32: the greatest b with 2^b ≤ x^64. -/
def bucketOf (x : Nat) : Nat := if x = 0 then 0 else if 2 ^ 32 ≤ x then 2047 else Nat.log2 (x ^ 64)

/-! ## CRC-64 of the compare signature (R274) -/

/-- One byte into the CRC-64 with generator 0x42F0_E1EB_A9EA_3693, not reflected. -/
def crc64Byte (crc : Nat) (b : Byte) : Nat :=
  (List.range 8).foldl (fun c _ => if c.testBit 63 then ((2 * c) % 2 ^ 64) ^^^ 0x42F0E1EBA9EA3693 else 2 * c)
    (crc ^^^ (b.toNat * 2 ^ 56))

/-- Fold an output record (R274): kind, poison, target, data. -/
def foldSig (sig : W64) (kind : Nat) (p : Bool) (target : Nat) (data : W64) : W64 :=
  let w0 := kind * 2 ^ 56 + (if p then 2 ^ 55 else 0) + target % 2 ^ 32
  BitVec.ofNat 64 ((leBytes 8 w0 ++ leBytes 8 data.toNat).foldl crc64Byte sig.toNat)

end Sys2Proof.Machine
end

