-- ==== Sys2Proof/Machine/Store.lean ====
section
/-! DEFINITION. Allotment slots and their fields (R30, R33), the history store's regions and words (R206 to R208), SHA-384
(R37, R330), clusters and tiles by index (R198), and retirement (R225). -/
namespace Sys2Proof.Machine

/-! ## SHA-384 -/

/-- The first 80 primes, for the constants of SHA-512 and SHA-384. -/
def primes80 : List Nat :=
  [2, 3, 5, 7, 11, 13, 17, 19, 23, 29, 31, 37, 41, 43, 47, 53, 59, 61, 67, 71] ++
  [73, 79, 83, 89, 97, 101, 103, 107, 109, 113, 127, 131, 137, 139, 149, 151, 157, 163, 167, 173] ++
  [179, 181, 191, 193, 197, 199, 211, 223, 227, 229, 233, 239, 241, 251, 257, 263, 269, 271, 277, 281] ++
  [283, 293, 307, 311, 313, 317, 331, 337, 347, 349, 353, 359, 367, 373, 379, 383, 389, 397, 401, 409]

/-- The greatest r below 2^72 with r^k ≤ n. -/
def iroot (k n : Nat) : Nat := (List.range 72).foldl (fun r i => let c := r + 2 ^ (71 - i); if c ^ k ≤ n then c else r) 0

/-- The first 64 fraction bits of the cube root of a prime, and of its square root. -/
def fracCbrt (p : Nat) : W64 := BitVec.ofNat 64 (iroot 3 (p * 2 ^ 192))
def fracSqrt (p : Nat) : W64 := BitVec.ofNat 64 (iroot 2 (p * 2 ^ 128))

def shaK : List W64 := primes80.map fracCbrt

/-- The initial value: square roots of the 9th to 16th primes. -/
def sha384Init : List W64 := ((primes80.drop 8).take 8).map fracSqrt

/-- The message schedule, newest word first. -/
def shaSchedule (block : List W64) : List W64 :=
  ((List.range 64).foldl (fun ws _ =>
    let w (i : Nat) : W64 := ws.getD (i - 1) 0
    let s0 := (w 15).rotateRight 1 ^^^ (w 15).rotateRight 8 ^^^ ((w 15) >>> 7)
    let s1 := (w 2).rotateRight 19 ^^^ (w 2).rotateRight 61 ^^^ ((w 2) >>> 6)
    (w 16 + s0 + w 7 + s1) :: ws) block.reverse).reverse

/-- One block. -/
def shaBlock (h : List W64) (block : List W64) : List W64 :=
  let out := (List.zip shaK (shaSchedule block)).foldl (fun (v : List W64) (kw : W64 × W64) =>
    let g (i : Nat) : W64 := v.getD i 0
    let e := g 4
    let a := g 0
    let t1 := g 7 + (e.rotateRight 14 ^^^ e.rotateRight 18 ^^^ e.rotateRight 41) + ((e &&& g 5) ^^^ (~~~e &&& g 6)) + kw.1 + kw.2
    let t2 := (a.rotateRight 28 ^^^ a.rotateRight 34 ^^^ a.rotateRight 39) + ((a &&& g 1) ^^^ (a &&& g 2) ^^^ (g 1 &&& g 2))
    [t1 + t2, a, g 1, g 2, g 3 + t1, e, g 5, g 6]) h
  List.zipWith (· + ·) h out

/-- The `n` big-endian bytes of a value. -/
def beBytes (n v : Nat) : List Byte := (leBytes n v).reverse

def beVal (bs : List Byte) : Nat := leVal bs.reverse

/-- SHA-384 of a byte string. -/
def sha384 (bs : List Byte) : List Byte :=
  let z := (239 - bs.length % 128) % 128
  let m := bs ++ [0x80#8] ++ List.replicate z 0#8 ++ beBytes 16 (8 * bs.length)
  let h := (List.range (m.length / 128)).foldl (fun h i =>
    shaBlock h ((List.range 16).map fun j => BitVec.ofNat 64 (beVal ((m.drop (128 * i + 8 * j)).take 8)))) sha384Init
  ((h.take 6).map fun w => beBytes 8 w.toNat).flatten

/-! ## Slots -/

def Dev.slotX (n : Nat) (d : Dev) : Slot := Memory.read (fun _ => {}) d.tta.slotsX n

def Dev.setSlotX (n : Nat) (s : Slot) (d : Dev) : Dev :=
  { d with tta := { d.tta with slotsX := Memory.write (fun _ => {}) d.tta.slotsX n s } }

def Dev.updSlotX (n : Nat) (f : Slot → Slot) (d : Dev) : Dev := d.setSlotX n (f (d.slotX n))

def Dev.slotAllot (n : Nat) (d : Dev) : Nat := d.get (R.TTA_ALT_ENTRY_ALLOT_ID.at n)
def Dev.slotState (n : Nat) (d : Dev) : Nat := d.get (R.TTA_ALT_ENTRY_STATE.at n)
def Dev.slotClass (n : Nat) (d : Dev) : Nat := d.get (R.TTA_ALT_ENTRY_CLASS.at n)
def Dev.slotActive (n : Nat) (d : Dev) : Bool := d.slotState n == 2
/-- The allotment is of class RADIO. -/
def Dev.slotRadio (n : Nat) (d : Dev) : Bool := d.slotClass n == 1

/-- The slot that holds an allotment. -/
def Dev.slotHolding (allot : Nat) (d : Dev) : Option Nat :=
  (List.range 256).find? fun n => d.slotState n != 0 && d.slotAllot n == allot

/-- The slot that a descriptor's function works for (R30). -/
def descSlot (q : Desc) : Nat :=
  match q.fn with
  | .vf n => n.val
  | _ => 0

/-! ## Regions of the history store (R208) -/

/-- Base and size in bytes of region r: ring, summary tiers, feature tables, checkpoints, plans and images, system. -/
def regionBase : Nat → Nat
  | 0 => 0
  | 1 => 0x2800000000
  | 2 => 0x3400000000
  | 3 => 0x3A00000000
  | 4 => 0x3E00000000
  | _ => 0x3F00000000

def regionSize : Nat → Nat
  | 0 => 0x2800000000
  | 1 => 0x0C00000000
  | 2 => 0x0600000000
  | 3 => 0x0400000000
  | 4 => 0x0100000000
  | _ => 0x0100000000

/-- A slot's area of a region: the spec gives none, and the model divides each region evenly among the 256 slots (log 20). -/
def areaSize (r : Nat) : Nat := regionSize r / 256
def areaBase (r slot : Nat) : Nat := regionBase r + slot * areaSize r

/-- What the store holds at an address. -/
def Dev.histAt (addr : Nat) (d : Dev) : Option StoreWord := Memory.read (fun _ => none) d.tta.hist (addr / 8)

/-- The 32-byte granule of an address is poisoned (R206): one of its words is. -/
def Dev.granulePoison (addr : Nat) (d : Dev) : Bool :=
  (List.range 4).any fun i => match d.histAt (addr / 32 * 32 + 8 * i) with
    | some x => x.w.p
    | none => false

/-- A word of the store; one that nothing has written holds a free value. -/
def Dev.histRead (addr : Nat) (d : Dev) : TWord × Dev :=
  let p := d.granulePoison addr
  match d.histAt addr with
  | some x => (⟨x.w.v, p⟩, d)
  | none => let (v, d) := d.free; (⟨v, p⟩, d)

/-- Consecutive words. -/
def Dev.histReads (addr : Nat) : Nat → Dev → List TWord × Dev
  | 0, d => ([], d)
  | n + 1, d =>
    let (w, d) := d.histRead addr
    let (ws, d) := d.histReads (addr + 8) n
    (w :: ws, d)

/-- Write a word under a generation of the STORE key. -/
def Dev.histWrite (gen addr : Nat) (w : TWord) (d : Dev) : Dev :=
  { d with tta := { d.tta with hist := Memory.write (fun _ => none) d.tta.hist (addr / 8) (some ⟨w, gen⟩) } }

def Dev.histWrites (gen addr : Nat) (ws : List TWord) (d : Dev) : Dev :=
  (ws.zipIdx).foldl (fun d wi => d.histWrite gen (addr + 8 * wi.2) wi.1) d

/-- A word of the range lies under an older generation (R43). -/
def Dev.histStale (gen addr n : Nat) (d : Dev) : Bool :=
  (List.range n).any fun i => match d.histAt (addr + 8 * i) with
    | some x => decide (x.gen < gen)
    | none => false

/-- A logical page of the range is still to come from the twin (R207): its readers wait. -/
def Dev.pageAwaited (addr bytes : Nat) (d : Dev) : Bool :=
  d.tta.ing.awaited.any fun (p : Nat × Nat) => decide (addr / 4194304 ≤ p.1 ∧ p.1 * 4194304 < addr + bytes)

/-! ## Tiles and clusters (R198) -/

def Dev.tile (t : Nat) (d : Dev) : Tile := Memory.read (fun _ => {}) d.tta.tiles t

def Dev.setTile (t : Nat) (x : Tile) (d : Dev) : Dev :=
  { d with tta := { d.tta with tiles := Memory.write (fun _ => {}) d.tta.tiles t x } }

def Dev.updTile (t : Nat) (f : Tile → Tile) (d : Dev) : Dev := d.setTile t (f (d.tile t))

/-- Tile j of cluster c is retired. -/
def Dev.tileRetired (t : Nat) (d : Dev) : Bool :=
  (d.get (R.TTA_FAB_CLU_TILE_RET.at (t / 16))).testBit (t % 16) || d.get (R.TTA_FAB_CLU_STATE.at (t / 16)) == 2

/-- A free live tile (R272). -/
def Dev.tileFree (t : Nat) (d : Dev) : Bool := !d.tileRetired t && (d.tile t).use.isNone

/-- Clusters in state `st` of a quadrant, and the counts that TTA_FAB_QUAD shows. -/
def Dev.quadCount (q : Nat) (d : Dev) : Dev :=
  let n (st : Nat) := ((List.range 160).filter fun k => d.get (R.TTA_FAB_CLU_STATE.at (160 * q + k)) == st).length
  ((d.set (R.TTA_FAB_QUAD_OK.at q) (n 0)).set (R.TTA_FAB_QUAD_SLOW.at q) (n 1)).set (R.TTA_FAB_QUAD_RETIRED.at q) (n 2)

/-- Retire a cluster (R225): event 0x3104. Causes (log 21): 0 handshake ring, 1 tiles, 2 rate. -/
def Dev.retireCluster (c cause : Nat) (d : Dev) : Dev :=
  if d.get (R.TTA_FAB_CLU_STATE.at c) = 2 then d else
  ((d.set (R.TTA_FAB_CLU_STATE.at c) 2).quadCount (c / 160)).event .tta 5 0x3104 [c, cause]

/-- Retire a tile (R225): event 0x3103; a cluster with more than 4 retired tiles goes too. Causes (log 21): 0 corrected errors,
1 uncorrectable error, 2 field test. The re-bind follows at the next ingest epoch boundary. -/
def Dev.retireTile (t cause : Nat) (d : Dev) : Dev :=
  if (d.get (R.TTA_FAB_CLU_TILE_RET.at (t / 16))).testBit (t % 16) then d else
  let m := d.get (R.TTA_FAB_CLU_TILE_RET.at (t / 16)) ||| 2 ^ (t % 16)
  let d := (d.set (R.TTA_FAB_CLU_TILE_RET.at (t / 16)) m).event .tta 5 0x3103 [t, cause]
  let d := { d with tta := { d.tta with retireDue := (t / 16) :: d.tta.retireDue } }
  if 4 < ((List.range 16).filter fun j => m.testBit j).length then d.retireCluster (t / 16) 1 else d

/-! ## Jobs of the DEFLATE engine that a rotation or a release cuts (R441) -/

/-- Jobs of the allotment complete with STALE_KEY: those taken, at a rotation; all those posted, when its release begins. -/
def Dev.cmpCut (allot : Nat) (all : Bool) (d : Dev) : Dev :=
  let c := d.tta.cmp
  let posted := c.posted.zipIdx.map fun (x : List Nat × Nat) => if all || decide (x.2 < c.taken) then allot :: x.1 else x.1
  { d with tta := { d.tta with cmp := { c with posted := posted } } }

/-! ## Graph and table lookups -/

def Dev.graph (h : Nat) (d : Dev) : Option Graph := assocGet h d.tta.graphs

def Dev.setGraph (h : Nat) (g : Graph) (d : Dev) : Dev :=
  { d with tta := { d.tta with graphs := assocSet h g d.tta.graphs } }

def Dev.updGraph (h : Nat) (f : Graph → Graph) (d : Dev) : Dev :=
  match d.graph h with
  | some g => d.setGraph h (f g)
  | none => d

/-- The handle of a graph resident for a slot. -/
def Dev.graphOf (slot gid : Nat) (d : Dev) : Option Nat :=
  (d.tta.graphs.find? fun e => e.2.slot == slot && e.2.gid == gid).map (·.1)

/-- The twin state (R220), and whether it is PAIRED. -/
def Dev.twinState (d : Dev) : Nat := d.get R.TTA_TWIN_STAT_STATE
def Dev.paired (d : Dev) : Bool := d.twinState == 0

/-- The graph runs on both twins without a primary: it belongs to the RADIO allotment (R29). -/
def Graph.isRadio (g : Graph) (d : Dev) : Bool := d.slotRadio g.slot

/-- Show a graph in TTA_GRAPH. -/
def Dev.showGraph (h : Nat) (d : Dev) : Dev :=
  match d.graph h with
  | none => d.setWord .tta (R.TTA_GRAPH.base + 8 * h) 0
  | some g =>
    let s (f : Fld) (v : Nat) (d : Dev) : Dev := d.set (f.at h) v
    let b (x : Bool) : Nat := if x then 1 else 0
    (((((((d.setWord .tta (R.TTA_GRAPH.base + 8 * h) 0) |> s R.TTA_GRAPH_VALID 1) |> s R.TTA_GRAPH_STATE g.state) |>
      s R.TTA_GRAPH_SLOT g.slot) |> s R.TTA_GRAPH_KIND (b g.plan.stamp)) |> s R.TTA_GRAPH_PRIMARY (b (g.primary || g.isRadio d))) |>
      s R.TTA_GRAPH_REPLACING (b g.replace.isSome)) |> s R.TTA_GRAPH_CHECK_K g.plan.k |> s R.TTA_GRAPH_TILES (g.plan.p + g.plan.shadows.length)

/-- Resident graphs. -/
def Dev.showResident (d : Dev) : Dev := d.set R.TTA_SCHED_STAT_RESIDENT d.tta.graphs.length

/-- The handle's graph changed: store it and show it. -/
def Dev.putGraph (h : Nat) (g : Graph) (d : Dev) : Dev := (d.setGraph h g).showGraph h

/-- This twin's number (R11). -/
def Dev.twinNo (d : Dev) : Nat := if d.pins.twinSel then 1 else 0

end Sys2Proof.Machine
end

