-- ==== Sys2Proof/Machine/Plan.lean ====
section
/-! DEFINITION. The admission scheduler (R260 to R273): the graph image, its well-formedness, the logical schedule, the tile
layout, the physical mapping and the loading of a tile. -/
namespace Sys2Proof.Machine

/-! ## The graph image (R260 to R263) -/

/-- A fixup record. -/
structure Fixup where
  target : Nat
  kind : Nat
  arg : Nat
  deriving DecidableEq, Repr

/-- A parsed image. -/
structure Image where
  bytes : List Byte
  taskOff : Nat
  edgeOff : Nat
  codeOff : Nat
  dataOff : Nat
  fixOff : Nat
  tasks : List GTask
  edges : List GEdge
  fixups : List Fixup

/-- The 32-bit instruction of an index within the code section. -/
def Image.insn (m : Image) (i : Nat) : BitVec 32 := BitVec.ofNat 32 (leAt m.bytes (m.codeOff + 4 * i) 4)

/-- The instructions of a task; none where one is illegal (R247). -/
def Image.taskInsns (m : Image) (t : GTask) : Option (List Instr) :=
  (List.range t.codeLen).mapM fun i => tileLegalWord (m.insn (t.codeIdx + i))

def parseTask (bs : List Byte) (o : Nat) : GTask :=
  { codeIdx := leAt bs o 4, codeLen := leAt bs (o + 4) 2, dataWords := leAt bs (o + 6) 2, dataInit := leAt bs (o + 8) 4,
    steps := leAt bs (o + 12) 4, waitNs := leAt bs (o + 16) 4, ltile := leAt bs (o + 20) 2 }

def parseEdge (bs : List Byte) (o : Nat) : GEdge :=
  { src := leAt bs o 2, dst := leAt bs (o + 2) 2, srcOff := leAt bs (o + 4) 2, dstOff := leAt bs (o + 6) 2, words := leAt bs (o + 8) 2 }

def parseImage (bs : List Byte) : Image :=
  let o (i : Nat) := leAt bs i 4
  { bytes := bs, taskOff := o 24, edgeOff := o 28, codeOff := o 32, dataOff := o 36, fixOff := o 40
    tasks := (List.range (leAt bs 8 2)).map fun i => parseTask bs (o 24 + 32 * i)
    edges := (List.range (o 12)).map fun i => parseEdge bs (o 28 + 16 * i)
    fixups := (List.range (o 44)).map fun i =>
      { target := leAt bs (o 40 + 8 * i) 4, kind := leAt bs (o 40 + 8 * i + 4) 1, arg := leAt bs (o 40 + 8 * i + 6) 2 } }

/-- All bytes of a range are 0. -/
def zeroRange (bs : List Byte) (i n : Nat) : Bool := ((bs.drop i).take n).all (· == 0)

/-- Step cost of a sequence of instructions (R248, R249): none where a loop breaks R248 or an END stands before the last
instruction. `fuel` is at least the length. -/
def seqCost : Nat → Nat → List Instr → Option Nat
  | 0, _, _ => some 0
  | _, _, [] => some 0
  | fuel + 1, depth, i :: rest =>
    match i with
    | .loop _ f _ =>
      let n := f.len.toNat
      if 4 ≤ depth ∨ rest.length < n then none else do
        let body ← seqCost fuel (depth + 1) (rest.take n)
        let tail ← seqCost fuel depth (rest.drop n)
        pure (1 + f.n.toNat * body + tail)
    | .end_ .. => if depth = 0 ∧ rest = [] then some 1 else none
    | i => do
      let tail ← seqCost fuel depth rest
      pure (tileSteps i + tail)

def isSwaitSsig : Instr → Bool
  | .swait .. | .ssig .. => true
  | _ => false
def isNput : Instr → Bool
  | .nput .. => true
  | _ => false
def isInrd : Instr → Bool
  | .inrd .. => true
  | _ => false
def isLiq : Instr → Bool
  | .liq .. => true
  | _ => false
def isEnd : Instr → Bool
  | .end_ .. => true
  | _ => false

/-- The writers of inbox words: (target logical tile, inbox word, writing logical tile) of the NPUTs of a task. -/
def inboxWrites (t : GTask) (l : List Instr) : List (Nat × Nat × Nat) :=
  l.filterMap fun i => match i with
    | .nput _ f _ => some (t.ltile / 16 * 16 + f.d.toNat, f.imm.toNat, t.ltile)
    | _ => none

/-- A task is well-formed (R266): code, step cost, windows, pinning. -/
def taskOk (m : Image) (ltiles : Nat) (t : GTask) : Bool :=
  decide (1 ≤ t.codeLen ∧ t.codeLen ≤ 8190 ∧ t.dataWords ≤ 8184 ∧ t.waitNs ≤ 10000000) &&
  decide (m.codeOff + 4 * (t.codeIdx + t.codeLen) ≤ m.dataOff) &&
  (t.dataInit == 0xFFFFFFFF || decide (m.dataOff + t.dataInit + 8 * t.dataWords ≤ m.fixOff)) &&
  (t.ltile == 0xFFFF || decide (t.ltile < ltiles)) &&
  match m.taskInsns t with
  | none => false
  | some l =>
    (l.getLast?.map isEnd == some true) && (l.dropLast.all fun i => !isEnd i) &&
    (seqCost l.length 0 l == some t.steps) &&
    (t.ltile != 0xFFFF || !(l.any fun i => isNput i || isInrd i)) &&
    ((inboxWrites t l).all fun w => decide (w.1 < ltiles))

/-- The fixups are well-formed (R263, R266). -/
def fixupsOk (m : Image) (syncs : Nat) : Bool :=
  let nCode := (m.dataOff - m.codeOff) / 4
  let nData := (m.fixOff - m.dataOff) / 8
  let objOf (f : Fixup) : Nat := if f.kind = 2 then (m.insn f.target).toNat % 65536
    else leAt m.bytes (m.dataOff + 8 * f.target + 4) 2
  (m.fixups.all fun f =>
    let isCode := f.kind == 0 || f.kind == 2 || f.kind == 4
    decide (f.kind ≤ 5) && (if isCode then decide (f.target < nCode) else decide (f.target < nData)) &&
    (match f.kind with
     | 0 => (match tileDecode 0 (m.insn f.target) with | some i => isLiq i | none => false) && decide (f.arg < m.tasks.length)
     | 1 => decide (f.arg < m.tasks.length)
     | 2 => (match tileDecode 0 (m.insn f.target) with | some i => isSwaitSsig i | none => false) && decide (objOf f < syncs + 2)
     | 3 => decide (objOf f < syncs + 2)
     | 4 => (match tileDecode 0 (m.insn f.target) with | some i => isNput i | none => false)
     | _ => decide (f.arg ≤ 5))) &&
  (m.tasks.all fun t => (List.range t.codeLen).all fun j =>
    let x := t.codeIdx + j
    match tileDecode 0 (m.insn x) with
    | some i => !(isSwaitSsig i || isNput i) || ((m.fixups.filter fun f => (f.kind == 2 || f.kind == 4) && f.target == x).length == 1)
    | none => true)

/-- Each inbox word of a logical tile has a single writing logical tile (R266). -/
def inboxOk (m : Image) : Bool :=
  let ws := (m.tasks.map fun t => match m.taskInsns t with | some l => inboxWrites t l | none => []).flatten
  ws.all fun w => ws.all fun v => !(w.1 == v.1 && w.2.1 == v.2.1) || w.2.2 == v.2.2

/-- The image is well-formed (R266); `len` is the descriptor's length. -/
def imageOk (bs : List Byte) (len : Nat) : Bool :=
  let m := parseImage bs
  let tasks := leAt bs 8 2
  let ltiles := leAt bs 10 2
  let edges := leAt bs 12 4
  let syncs := leAt bs 16 2
  let q := leAt bs 18 2
  let fixN := leAt bs 44 4
  leAt bs 0 1 == 1 && decide (leAt bs 1 1 < 2) && leAt bs 3 1 == 0 && zeroRange bs 48 12 &&
  decide (leAt bs 2 1 ≤ 16) && leAt bs 20 4 == len && bs.length == len &&
  crc32c (bs.take 60 ++ List.replicate 4 0#8 ++ bs.drop 64) == BitVec.ofNat 32 (leAt bs 60 4) &&
  decide (1 ≤ tasks ∧ tasks ≤ 16384 ∧ 1 ≤ ltiles ∧ ltiles ≤ 10240 ∧ edges ≤ 131072 ∧ syncs ≤ 8192 ∧ 1 ≤ q ∧ 4000 % q = 0) &&
  decide (64 ≤ m.taskOff ∧ m.taskOff + 32 * tasks ≤ m.edgeOff ∧ m.edgeOff + 16 * edges ≤ m.codeOff ∧ m.codeOff ≤ m.dataOff ∧
    m.dataOff ≤ m.fixOff ∧ m.fixOff + 8 * fixN ≤ len) &&
  ([m.taskOff, m.edgeOff, m.codeOff, m.dataOff, m.fixOff].all fun o => o % 8 == 0) &&
  ((List.range tasks).all fun i => zeroRange bs (m.taskOff + 32 * i + 22) 10) &&
  ((List.range edges).all fun i => zeroRange bs (m.edgeOff + 16 * i + 10) 6) &&
  ((List.range fixN).all fun i => leAt bs (m.fixOff + 8 * i + 5) 1 == 0) &&
  (m.tasks.all (taskOk m ltiles)) &&
  (m.edges.all fun e => decide (e.src < tasks ∧ e.dst < tasks ∧ e.words ≤ 512 ∧
    e.srcOff + e.words ≤ ((m.tasks[e.src]?).map (·.dataWords)).getD 0 ∧ e.dstOff + e.words ≤ ((m.tasks[e.dst]?).map (·.dataWords)).getD 0)) &&
  ((List.range tasks).all fun t => decide ((m.edges.filter fun e => e.dst = t).length ≤ 65535)) &&
  inboxOk m && fixupsOk m syncs

/-! ## The logical schedule (R268) -/

/-- Kahn's algorithm, lowest task index first: the topological order; shorter than the task count where there is a cycle. -/
def topoOrder (n : Nat) (edges : List GEdge) : List Nat :=
  (List.range n).foldl (fun done _ =>
    match (List.range n).find? fun t => !done.contains t && edges.all fun e => e.dst != t || done.contains e.src with
    | some t => done ++ [t]
    | none => done) []

/-- dur[t] in units of 0.25 ns. -/
def dur4 (t : GTask) : Nat := 5 * t.steps + 4 * t.waitNs

/-- b[t] for every task, from a reverse topological order. -/
def prioB (tasks : List GTask) (edges : List GEdge) (order : List Nat) : List (Nat × Nat) :=
  order.reverse.foldl (fun b t =>
    let m := (edges.filter fun e => e.src = t).foldl (fun x e => max x ((assocGet e.dst b).getD 0)) 0
    (t, ((tasks[t]?).map dur4).getD 0 + m) :: b) []

/-- A placed task: its logical tile, start and finish, in units of 0.25 ns. -/
structure Placed where
  task : Nat
  tile : Nat
  start : Nat
  fin : Nat

/-- Words of code and data of a task (R270). -/
def footprint (t : GTask) : Nat := (t.codeLen + 1) / 2 + t.dataWords

/-- Place one task: the logical tile with the earliest start, the lowest on equal times. -/
def placeTask (tasks : List GTask) (edges : List GEdge) (p : Nat) (done : List Placed) (t : Nat) : Option Placed :=
  match tasks[t]? with
  | none => none
  | some tk =>
    let preds := done.filter fun x => edges.any fun e => e.src = x.task ∧ e.dst = t
    let words (x : Placed) : Nat := ((edges.filter fun e => e.src = x.task ∧ e.dst = t).map (·.words)).sum
    let est (l : Nat) : Nat :=
      let avail := (done.filter fun x => x.tile = l).foldl (fun m x => max m x.fin) 0
      preds.foldl (fun m x => max m (x.fin + (if x.tile = l then 0 else if x.tile / 16 = l / 16 then 80 + 5 * words x else 400 + 5 * words x))) avail
    let fits (l : Nat) : Bool :=
      decide (((done.filter fun x => x.tile = l).map fun x => ((tasks[x.task]?).map footprint).getD 0).sum + footprint tk ≤ 8184)
    let best := (List.range p).foldl (fun (b : Option (Nat × Nat)) l =>
      if (tk.ltile = 0xFFFF ∨ tk.ltile = l) ∧ fits l = true then
        match b with
        | none => some (l, est l)
        | some (_, e) => if est l < e then some (l, est l) else b
      else b) none
    best.map fun (l, e) => { task := t, tile := l, start := e, fin := e + dur4 tk }

/-- The list schedule: none where a task fits nowhere. -/
def listSchedule (tasks : List GTask) (edges : List GEdge) (p : Nat) (b : List (Nat × Nat)) : Option (List Placed) :=
  (List.range tasks.length).foldl (fun (acc : Option (List Placed)) _ =>
    match acc with
    | none => none
    | some done =>
      let ready := (List.range tasks.length).filter fun t => !(done.any fun x => x.task == t) &&
        edges.all fun e => e.dst != t || done.any fun x => x.task == e.src
      let pick := ready.foldl (fun (x : Option Nat) t =>
        match x with
        | none => some t
        | some u => if (assocGet u b).getD 0 < (assocGet t b).getD 0 then some t else x) none
      match pick with
      | none => some done
      | some t => (placeTask tasks edges p done t).map fun x => done ++ [x]) (some [])

/-! ## Lists and layout (R269, R270) -/

/-- The tasks on a logical tile in order of start time. -/
def tileTasks (done : List Placed) (l : Nat) : List Placed := sortBy (fun a b => decide (a.start ≤ b.start)) (done.filter fun x => x.tile = l)

/-- The list of a logical tile. -/
def tileList (edges : List GEdge) (done : List Placed) (l : Nat) : List LEntry :=
  [.run] ++ ((tileTasks done l).map fun x =>
    (if edges.any (fun e => e.dst = x.task) then [LEntry.wait x.task] else []) ++ [.task x.task] ++
      ((List.range edges.length).filter fun i => ((edges[i]?).map (·.src)) == some x.task).map LEntry.copy).flatten ++ [.endList]

/-- First instruction index of each task of a tile, and first data word of each. -/
def tileLayout (tasks : List GTask) (ts : List Placed) : List (Nat × Nat × Nat) :=
  let words (t : Nat) : Nat := ((tasks[t]?).map fun k => (k.codeLen + 1) / 2).getD 0
  let data (t : Nat) : Nat := ((tasks[t]?).map (·.dataWords)).getD 0
  let codeEnd := (ts.map fun x => words x.task).sum
  (ts.foldl (fun (acc : Nat × Nat × List (Nat × Nat × Nat)) x =>
    (acc.1 + words x.task, acc.2.1 + data x.task, acc.2.2 ++ [(x.task, 2 * acc.1, acc.2.1)])) (0, codeEnd, [])).2.2

/-! ## Admission: the logical plan -/

/-- The logical plan of a well-formed image: none for a cycle (false) or no placement (true). -/
def logicalPlan (bs : List Byte) (radio treeNan : Bool) : Except Bool Plan :=
  let m := parseImage bs
  let p := leAt bs 10 2
  let order := topoOrder m.tasks.length m.edges
  if order.length < m.tasks.length then .error false else
  match listSchedule m.tasks m.edges p (prioB m.tasks m.edges order) with
  | none => .error true
  | some done =>
    let lay := ((List.range p).map fun l => tileLayout m.tasks (tileTasks done l)).flatten
    let k := if radio then 0 else leAt bs 2 1
    let per (f : Placed → Nat) : List Nat := (List.range m.tasks.length).map fun t => ((done.find? fun x => x.task = t).map f).getD 0
    let at_ (f : Nat × Nat × Nat → Nat) : List Nat := (List.range m.tasks.length).map fun t => ((lay.find? fun x => x.1 = t).map f).getD 0
    .ok { image := bs, stamp := leAt bs 1 1 = 1, k := k, q := leAt bs 18 2, p := p, syncs := leAt bs 16 2, tasks := m.tasks
          edges := m.edges, place := per (·.tile), start := per (·.start), lists := (List.range p).map (tileList m.edges done)
          codeAt := at_ (·.2.1), winAt := at_ (·.2.2)
          d4 := done.foldl (fun x y => max x y.fin) 0 + (if 0 < k then 80000 else 0), treeNan := treeNan }

/-- D within its limit (R267, R271). -/
def Plan.dOk (pl : Plan) : Bool := if pl.stamp then decide (pl.d4 ≤ 240000) else decide (pl.d4 ≤ 800000 * pl.q)

/-- PLAN_NS. -/
def Plan.planNs (pl : Plan) : Nat := ceilDiv pl.d4 4

/-- S (R273). -/
def Plan.shadowCount (pl : Plan) : Nat := if pl.k = 0 then pl.p else ceilDiv pl.p (2 ^ pl.k)

/-- Objects of a plan: declared, edge objects, RUN, COMMIT (R275). -/
def Plan.edgeTasks (pl : Plan) : List Nat := (List.range pl.tasks.length).filter fun t => pl.edges.any fun e => e.dst = t

/-- Bytes of a save image (R288). -/
def Plan.saveBytes (pl : Plan) : Nat := 256 + 8 * (pl.syncs + 2 + pl.edgeTasks.length) + 67584 * (pl.p + pl.shadowCount)

/-! ## Physical mapping (R272, R273) -/

/-- Clusters eligible for a slot's graph, best rate first. -/
def Dev.eligible (slot : Nat) (d : Dev) : List Nat :=
  let cs := (d.slotX slot).clusters.filter fun c => d.get (R.TTA_FAB_CLU_STATE.at c) != 2 && !(d.slotRadio slot && d.get (R.TTA_FAB_CLU_STATE.at c) == 1)
  sortBy (fun a b =>
    let ra := d.get (R.TTA_FAB_CLU_RATE_M.at a)
    let rb := d.get (R.TTA_FAB_CLU_RATE_M.at b)
    decide (rb < ra ∨ (ra = rb ∧ a ≤ b))) cs

/-- Map the logical tiles of groups of 16 onto clusters. `used` lists the tiles already taken by this plan; `ok` restricts the
cluster of group i. The result pairs each logical tile with its physical tile. -/
def Dev.mapGroups (elig : List Nat) (ok : Nat → Nat → Bool) (groups : List (Nat × List Nat)) (used : List (Nat × Nat)) (d : Dev) :
    Option (List (Nat × Nat)) :=
  groups.foldl (fun (acc : Option (List (Nat × Nat))) g =>
    match acc with
    | none => none
    | some m =>
      let freeIn (c : Nat) : List Nat := (List.range 16).filter fun j => d.tileFree (16 * c + j) && !(used ++ m).any fun e => e.2 == 16 * c + j
      match elig.find? fun c => ok g.1 c && decide (g.2.length ≤ (freeIn c).length) with
      | none => none
      | some c => some (g.2.foldl (fun m l =>
          let fr := (freeIn c).filter fun j => !m.any fun e => e.2 == 16 * c + j
          let j := if fr.contains (l % 16) then l % 16 else fr.headD 0
          m ++ [(l, 16 * c + j)]) m)) (some [])

/-- The groups of 16 of the tiles 0 to n − 1, in descending total of their tasks' durations, lower index first on a tie. -/
def Plan.groups (pl : Plan) (n : Nat) : List (Nat × List Nat) :=
  let total (i : Nat) : Nat := ((List.range pl.tasks.length).map fun t =>
    if (pl.place.getD t 0) / 16 = i then ((pl.tasks[t]?).map dur4).getD 0 else 0).sum
  (sortBy (fun a b => decide (total b < total a ∨ (total a = total b ∧ a ≤ b))) (List.range (ceilDiv n 16))).map fun i =>
    (i, (List.range 16).filterMap fun j => if 16 * i + j < n then some (16 * i + j) else none)

/-- Map a plan for a slot: primaries, then shadows; none where no placement meets the constraints. -/
def Dev.mapPlan (slot : Nat) (pl : Plan) (d : Dev) : Option Plan := do
  let elig := d.eligible slot
  let prim ← d.mapGroups elig (fun _ _ => true) (pl.groups pl.p) []
  let cl (l : Nat) : Nat := (assocGet l prim).getD 0 / 16
  let ok (i c : Nat) : Bool :=
    if pl.k = 0 then c != cl (16 * i) && !(d.slotRadio slot && c / 160 == cl (16 * i) / 160)
    else !(prim.any fun e => e.2 / 16 == c)
  let sh ← d.mapGroups elig ok (pl.groups pl.shadowCount) prim
  pure { pl with phys := (List.range pl.p).map fun l => (assocGet l prim).getD 0
                 shadows := (List.range pl.shadowCount).map fun l => (assocGet l sh).getD 0 }

/-! ## Sync objects of a plan (R275) -/

/-- The lowest `n` free objects. -/
def Dev.freeObjs (n : Nat) (d : Dev) : List Nat :=
  let used := d.tta.regs.filterMap fun e => if 0x80000 ≤ e.1 ∧ e.1 < 0x100000 then some ((e.1 - 0x80000) / 8) else none
  ((List.range (n + used.length)).filter fun i => !used.contains i).take n

/-- Allocate a plan's objects: TYPE, SLOT and TARGET are written. -/
def Dev.allocObjs (slot : Nat) (pl : Plan) (d : Dev) : Plan × Dev :=
  let et := pl.edgeTasks
  let os := d.freeObjs (pl.syncs + 2 + et.length)
  let put (o ty target : Nat) (d : Dev) : Dev :=
    ((d.set (R.TTA_SYNC_TYPE.at o) ty).set (R.TTA_SYNC_SLOT.at o) slot).set (R.TTA_SYNC_TARGET.at o) target
  let decl := os.take pl.syncs
  let run := os.getD pl.syncs 0
  let com := os.getD (pl.syncs + 1) 0
  let eo := List.zip et (os.drop (pl.syncs + 2))
  let d := decl.foldl (fun d o => put o 1 0 d) d
  let d := put com 3 0 (put run 2 0 d)
  let d := eo.foldl (fun d ob => put ob.2 1 ((pl.edges.filter fun e => e.dst = ob.1).length) d) d
  ({ pl with objs := decl ++ [run, com], edgeObjs := eo }, d.set R.TTA_SYNC_STAT_FREE (d.get R.TTA_SYNC_STAT_FREE - os.length))

/-- Free a plan's objects. -/
def Dev.freePlanObjs (pl : Plan) (d : Dev) : Dev :=
  let os := pl.objs ++ pl.edgeObjs.map (·.2)
  (os.foldl (fun d o => d.setWord .tta (R.TTA_SYNC_TYPE.addr + 8 * o) 0) d).set R.TTA_SYNC_STAT_FREE (d.get R.TTA_SYNC_STAT_FREE + os.length)

def Plan.runObj (pl : Plan) : Nat := pl.objs.getD pl.syncs 0
def Plan.commitObj (pl : Plan) : Nat := pl.objs.getD (pl.syncs + 1) 0

/-! ## Loading tiles (R263, R270) -/

/-- The instruction at an index of the code section after fixups, for a task on logical tile `l`. -/
def Plan.fixedInsn (pl : Plan) (m : Image) (l : Nat) (x : Nat) : BitVec 32 :=
  m.fixups.foldl (fun w f =>
    if f.target ≠ x then w else
    match f.kind with
    | 0 => wordQ 0x12 { fieldsQ w with imm := (fieldsQ w).imm + BitVec.ofNat 16 (pl.winAt.getD f.arg 0) }
    | 2 => (w &&& 0xFFFF0000#32) ||| BitVec.ofNat 32 (pl.objs.getD (w.toNat % 65536) 0)
    | 4 =>
      let i := fieldsI w
      wordI 0x3B { i with d := BitVec.ofNat 5 (pl.phys.getD (l / 16 * 16 + i.d.toNat) 0 % 16) }
    | _ => w) (m.insn x)

/-- A data word of the data section after fixups. -/
def Plan.fixedData (pl : Plan) (m : Image) (slot x : Nat) : W64 :=
  m.fixups.foldl (fun w f =>
    if f.target ≠ x then w else
    match f.kind with
    | 1 => w + BitVec.ofNat 64 (pl.winAt.getD f.arg 0)
    | 3 => (w &&& 0xFFFF0000FFFFFFFF#64) ||| (BitVec.ofNat 64 (pl.objs.getD ((w.toNat / 2 ^ 32) % 65536) 0) <<< 32)
    | 5 => w + BitVec.ofNat 64 (areaBase f.arg slot)
    | _ => w) (BitVec.ofNat 64 (leAt m.bytes (m.dataOff + 8 * x) 8))

/-- SRAM and code ranges of a logical tile. -/
def Plan.tileImage (pl : Plan) (slot l : Nat) : Memory TWord × List (Nat × Nat) :=
  let m := parseImage pl.image
  let put (s : Memory TWord) (a : Nat) (v : W64) : Memory TWord := Memory.write (fun _ => {}) s a ⟨v, false⟩
  (List.range pl.tasks.length).foldl (fun (acc : Memory TWord × List (Nat × Nat)) t =>
    if pl.place.getD t 0 ≠ l then acc else
    match pl.tasks[t]? with
    | none => acc
    | some tk =>
      let n := (tk.codeLen + 1) / 2
      let c0 := pl.codeAt.getD t 0 / 2
      let insn (j : Nat) : BitVec 32 := if j < tk.codeLen then pl.fixedInsn m l (tk.codeIdx + j) else 0
      let s := (List.range n).foldl (fun s j => put s (c0 + j) (insn (2 * j + 1) ++ insn (2 * j))) acc.1
      let s := if tk.dataInit = 0xFFFFFFFF then s else
        (List.range tk.dataWords).foldl (fun s j => put s (pl.winAt.getD t 0 + j) (pl.fixedData m slot (tk.dataInit / 8 + j))) s
      (s, acc.2 ++ [(c0, n)])) ([], [])

/-- Load every tile of a plan from its initial data. -/
def Dev.loadPlan (h slot : Nat) (pl : Plan) (d : Dev) : Dev :=
  let put (l phys : Nat) (sh : Bool) (src : Nat) (d : Dev) : Dev :=
    let (s, c) := pl.tileImage slot src
    d.setTile phys { (({} : Tile)) with sram := s, code := c, use := some ⟨h, l, sh⟩
                                        ce := (d.tile phys).ce, ue := (d.tile phys).ue, addrFault := (d.tile phys).addrFault
                                        codeUe := (d.tile phys).codeUe, wordErrs := (d.tile phys).wordErrs, strikes := (d.tile phys).strikes }
  let d := (pl.phys.zipIdx).foldl (fun d x => put x.2 x.1 false x.2 d) d
  (pl.shadows.zipIdx).foldl (fun d x => put x.2 x.1 true x.2 d) d

/-- Clear a tile (R228): all of its state; its error counts stay. -/
def Dev.clearTile (t : Nat) (d : Dev) : Dev :=
  d.updTile t fun x => { (({} : Tile)) with ce := x.ce, ue := x.ue, addrFault := x.addrFault, codeUe := x.codeUe,
                                            wordErrs := x.wordErrs, strikes := x.strikes, steps := x.steps }

end Sys2Proof.Machine
end

