-- ==== Sys2Proof/Machine/Tile.lean ====
section
/-! DEFINITION. The tile instructions (R228 to R259, R276, R277, R292 to R295): how an instruction is fetched, checked and
completed, list entries between tasks, sync objects, and the meaning of each instruction but XFER. -/
namespace Sys2Proof.Machine

/-! ## Registers, SRAM, accumulators of a tile -/

/-- g0 reads as 0 without poison (R228). -/
def Tile.reg (r : BitVec 5) (x : Tile) : TWord := if r = 0 then {} else Memory.read (fun _ => {}) x.regs r.toNat

/-- Writes to g0 are discarded (R228). -/
def Tile.setReg (r : BitVec 5) (w : TWord) (x : Tile) : Tile :=
  if r = 0 then x else { x with regs := Memory.write (fun _ => {}) x.regs r.toNat w }

def Tile.word (a : Nat) (x : Tile) : TWord := Memory.read (fun _ => {}) x.sram a

def Tile.setWord (a : Nat) (w : TWord) (x : Tile) : Tile := { x with sram := Memory.write (fun _ => {}) x.sram a w }

def Tile.accum (r : BitVec 5) (x : Tile) : Accum := Memory.read (fun _ => {}) x.acc r.toNat

def Tile.setAccum (r : BitVec 5) (c : Accum) (x : Tile) : Tile := { x with acc := Memory.write (fun _ => {}) x.acc r.toNat c }

def Tile.inboxWord (a : Nat) (x : Tile) : InboxWord := Memory.read (fun _ => {}) x.inbox a

def Tile.setInbox (a : Nat) (w : InboxWord) (x : Tile) : Tile := { x with inbox := Memory.write (fun _ => {}) x.inbox a w }

/-- The SRAM address of A plus an offset: the full signed sum (R251). -/
def Tile.addr (a : BitVec 5) (off : Int) (x : Tile) : Int := (x.reg a).v.toInt + off

def inSram (a : Int) : Bool := decide (0 ≤ a ∧ a < 8192)

/-- The plan marks the word as code (R229). -/
def Tile.isCode (a : Nat) (x : Tile) : Bool := x.code.any fun r => decide (r.1 ≤ a ∧ a < r.1 + r.2)

/-- A store may write the word (R251). -/
def Tile.storable (a : Int) (x : Tile) : Bool := inSram a && !x.isCode a.toNat

/-- The instruction word at an index (R229). -/
def Tile.insnAt (pc : Nat) (x : Tile) : BitVec 32 := (x.word (pc / 2)).v.extractLsb' (32 * (pc % 2)) 32

/-- The graph and plan of a tile. -/
def Dev.tileGraph (t : Nat) (d : Dev) : Option (Nat × Graph) :=
  match (d.tile t).use with
  | some u => (d.graph u.handle).map fun g => (u.handle, g)
  | none => none

def Dev.tileSlot (t : Nat) (d : Dev) : Nat := ((d.tileGraph t).map (·.2.slot)).getD 256

def Dev.isShadow (t : Nat) (d : Dev) : Bool := match (d.tile t).use with
  | some u => u.shadow
  | none => false

/-- The shadow tile that duplicates a primary tile in this run (R273). -/
def Dev.shadowOf (t : Nat) (d : Dev) : Option Nat :=
  match (d.tile t).use, d.tileGraph t with
  | some u, some (_, g) =>
    if u.shadow then none
    else g.plan.shadows.find? fun s => match (d.tile s).use with
      | some v => v.handle == u.handle && v.shadow && v.logical == u.logical
      | none => false
  | _, _ => none

/-! ## Sync objects (R275 to R277) -/

/-- The object is allocated to the tile's graph. -/
def Dev.ownObj (t obj : Nat) (d : Dev) : Bool :=
  match d.tileGraph t with
  | some (_, g) => g.plan.objs.contains obj || g.plan.edgeObjs.any fun e => e.2 == obj
  | none => false

/-- A signal or wait refused under R277. -/
def Dev.foreign (t obj : Nat) (d : Dev) : Dev :=
  ((d.updTile t fun x => { x with fault := true }).bump R.TTA_SYNC_STAT_FOREIGN 1).event .tta 5 0x3207 [t, obj]

/-- Fields of a COMMIT object. -/
def Dev.commitPassed (o : Nat) (d : Dev) : Nat := d.get (R.TTA_SYNC_VALUE.at o) / 65536
def Dev.commitMismatch (o : Nat) (d : Dev) : Nat := d.get (R.TTA_SYNC_VALUE.at o) / 256 % 256
def Dev.commitState (o : Nat) (d : Dev) : Nat := d.get (R.TTA_SYNC_VALUE.at o) % 4
def Dev.setCommit (o passed mismatch state : Nat) (d : Dev) : Dev :=
  d.set (R.TTA_SYNC_VALUE.at o) (passed % 65536 * 65536 + min mismatch 255 * 256 + state)

/-- SSIG on an object of the graph (R276); `none` where the RUN object refuses it. -/
def Dev.signalObj (obj n : Nat) (d : Dev) : Option Dev :=
  match d.get (R.TTA_SYNC_TYPE.at obj) with
  | 1 => some (d.bump (R.TTA_SYNC_VALUE.at obj) (max n 1))
  | 3 => some (if 1 ≤ n then d.setCommit obj (d.commitPassed obj + n) (d.commitMismatch obj) (d.commitState obj)
               else d.setCommit obj (d.commitPassed obj) (d.commitMismatch obj + 1) (d.commitState obj))
  | _ => none

/-- A signal by a task or a transfer of tile `t`. -/
def Dev.ssig (t obj n : Nat) (d : Dev) : Dev :=
  if d.ownObj t obj = false then d.foreign t obj else
  match d.signalObj obj n with
  | some d => d
  | none => d.updTile t fun x => { x with fault := true }

/-- The condition of an SWAIT holds (R276). -/
def Dev.swaitDone (obj n : Nat) (d : Dev) : Bool :=
  match d.get (R.TTA_SYNC_TYPE.at obj) with
  | 1 => decide ((if n = 0 then d.get (R.TTA_SYNC_TARGET.at obj) else n) ≤ d.get (R.TTA_SYNC_VALUE.at obj))
  | 3 => d.commitState obj != 0
  | _ => true

/-! ## Errors (R231, R233, R251) -/

/-- An address fault (R251): counted and recorded. -/
def Dev.addrFault (t : Nat) (a : Int) (store : Bool) (i : Instr) (d : Dev) : Dev :=
  let opc := match tileEncode i with
    | some w => w.toNat / 2 ^ 24
    | none => 0
  let d := (d.updTile t fun x => { x with addrFault := min (x.addrFault + 1) 0xFFFF, fault := x.fault || store }).bump R.TTA_TILE_ERR_SUM_ADDR_FAULT 1
  d.event .tta 5 0x3160 [t, wrapTo 32 a, if store then 1 else 0, opc]

/-- 24 h in ticks. -/
def dayTicks : Nat := 24 * 3600 * 1000000000

/-- A word error that a read met (R231, R225). -/
def Dev.wordErr (t : Nat) (e : TileErr) (d : Dev) : Dev :=
  let a := e.word.toNat
  let now := (d.tb .tta).tick
  if e.ue then
    let d := d.updTile t fun x =>
      let x := { x with ue := min (x.ue + 1) 0xFFFF }
      match e.place with
      | 0 => let r := BitVec.ofNat 5 a; x.setReg r { x.reg r with p := true }
      | 1 => x.setWord a { x.word a with p := true }
      | _ => x.setInbox (a % 32) { x.inboxWord (a % 32) with p := true }
    ((d.bump R.TTA_TILE_ERR_SUM_UE 1).event .tta 5 0x3162 [t, e.place.val, a]).retireTile t 1
  else
    let key := e.place.val * 8192 + a
    let old := (d.tile t).wordErrs.filter fun w => decide (now < w.2 + dayTicks)
    let d := d.updTile t fun x => { x with ce := min (x.ce + 1) 0xFFFF, wordErrs := (key, now) :: old }
    let d := (d.bump R.TTA_TILE_ERR_SUM_CE 1).event .tta 5 0x3161 [t, e.place.val, a]
    if 2 ≤ (old.filter fun w => w.1 = key).length then d.retireTile t 0 else d

/-! ## List entries (R269) -/

/-- The list entry that the tile executes next. -/
def Dev.listEntry (t : Nat) (d : Dev) : Option LEntry :=
  match (d.tile t).use, d.tileGraph t with
  | some u, some (_, g) => (g.plan.lists.getD u.logical [])[(d.tile t).entry]?
  | _, _ => none

/-- Move on through the list: past fulfilled waits, into a task, up to a COPY or END_LIST. A shadow tile applies no copy
(R274). `n` bounds the entries. -/
def Dev.advanceList (t : Nat) : Nat → Dev → Dev
  | 0, d => d
  | n + 1, d =>
    let next (d : Dev) : Dev := d.updTile t fun x => { x with entry := x.entry + 1, wait := none }
    match d.listEntry t, d.tileGraph t with
    | some .run, _ => (next d).advanceList t n
    | some (.wait k), some (_, g) =>
      let o := (assocGet k g.plan.edgeObjs).getD 0
      if d.swaitDone o 0 then (next d).advanceList t n else d.updTile t fun x => { x with wait := some (.list o) }
    | some (.task k), some (_, g) =>
      (next d).updTile t fun x => { x with task := some k, pc := g.plan.codeAt.getD k 0, loops := [], fault := false, sig := 0 }
    | some (.copy _), _ => if d.isShadow t then (next d).advanceList t n else d
    | _, _ => d

/-- Entries of the tile's list. -/
def Dev.listLen (t : Nat) (d : Dev) : Nat :=
  match (d.tile t).use, d.tileGraph t with
  | some u, some (_, g) => (g.plan.lists.getD u.logical []).length
  | _, _ => 0

/-- A strike (R384); the STRIKE_MAX-th within 24 h has the tile tested at the next run boundary of its graph (R394). -/
def Dev.strike (t : Nat) (d : Dev) : Dev :=
  let now := (d.tb .tta).tick
  let l := now :: ((d.tile t).strikes.filter fun s => decide (now < s + dayTicks))
  let d := d.updTile t fun x => { x with strikes := l }
  if max 1 (d.get R.TTA_CHK_CFG_STRIKE_MAX) ≤ l.length then
    match (d.tile t).use with
    | some u => d.updGraph u.handle fun g => { g with testTiles := if g.testTiles.contains t then g.testTiles else t :: g.testTiles }
    | none => d
  else d

/-- The compare at a pair of ENDs (R274, R384). -/
def Dev.compareSig (h k : Nat) (prim shadow : Nat) (same : Bool) (d : Dev) : Dev :=
  match d.graph h with
  | none => d
  | some g =>
    let o := g.plan.commitObj
    if same then (d.signalObj o 1).getD d
    else
      let d := (d.signalObj o 0).getD d
      let d := d.event .tta 8 0x4020 [prim, shadow, g.slot, h]
      let d := d.updGraph h fun g => { g with run := g.run.map fun r => { r with blamed := k :: r.blamed } }
      (d.strike prim).strike shadow

/-- A task ends (R251, R274): its status is POISON with FAULT set or when `poison` says so. The list goes on. -/
def Dev.taskEnd (t : Nat) (poison : Bool) (d : Dev) : Dev :=
  let x := d.tile t
  match x.task, x.use with
  | some k, some u =>
    let st := if poison || x.fault then 5 else 0
    let sig := foldSig x.sig 5 false k (BitVec.ofNat 64 st)
    let d := d.setTile t { x with task := none, loops := [], sig := 0 }
    let d := d.updGraph u.handle fun g => { g with run := g.run.map fun r =>
      { r with poisoned := r.poisoned || (st == 5 && !u.shadow), sigs := r.sigs ++ [(k, u.shadow, sig)] } }
    let d := match d.graph u.handle with
      | some g =>
        match g.run with
        | some r =>
          let other := r.sigs.find? fun (e : Nat × Bool × W64) => e.1 == k && e.2.1 != u.shadow
          let pair := if u.shadow then g.plan.phys.getD u.logical 0 else (d.shadowOf t).getD 0
          match other with
          | some e => d.compareSig u.handle k (if u.shadow then pair else t) (if u.shadow then t else pair) (decide (e.2.2 = sig))
          | none => d
        | none => d
      | none => d
    d.advanceList t (d.listLen t)
  | _, _ => d.setTile t { x with task := none, loops := [] }

/-- An uncorrectable error in the code word (R233): the task ends, registers and accumulators are poisoned, the tile is
retired (R225). -/
def Dev.codeError (t : Nat) (d : Dev) : Dev :=
  let d := d.event .tta 5 0x3163 [t, (d.tile t).pc]
  let d := d.updTile t fun x =>
    let regs := (List.range 31).foldl (fun x i => let r := BitVec.ofNat 5 (i + 1); x.setReg r { x.reg r with p := true }) x
    let x := (List.range 4).foldl (fun x i => let r := BitVec.ofNat 5 i; x.setAccum r { x.accum r with poison := true }) regs
    { x with codeUe := min (x.codeUe + 1) 0xFF }
  (d.taskEnd t true).retireTile t 1

/-! ## Executing an instruction (R229, R230) -/

/-- The loop stack after the instruction before `pc` completed (R248). -/
def loopBack : List LoopLvl → Nat → Nat × List LoopLvl
  | [], pc => (pc, [])
  | l :: r, pc =>
    if pc = l.start + l.len then
      (if l.index + 1 < l.count then (l.start, { l with index := l.index + 1 } :: r) else loopBack r pc)
    else (pc, l :: r)

/-- Go on at an instruction index. -/
def Tile.goto (pc : Nat) (x : Tile) : Tile :=
  let (pc, ls) := loopBack x.loops pc
  { x with pc := pc, loops := ls }

/-- The instruction completed: its steps count (R203, R249), and inside a task the next one follows. -/
def Dev.insnDone (t : Nat) (i : Instr) (d : Dev) : Dev :=
  let n := tileSteps i
  (d.cnt 12 n).updTile t fun x =>
    let x := { x with steps := x.steps + n, wait := none }
    if x.task.isSome then x.goto (x.pc + 1) else x

/-- The SRAM words that an instruction reads and those it writes, where a transfer in flight can delay it (R256). -/
def Tile.touches (i : Instr) (x : Tile) : List Int × List Int :=
  let run (a : Int) (n : Nat) : List Int := (List.range n).map fun (k : Nat) => a + (k : Int)
  match i with
  | .ld _ f _ => ([x.addr f.a f.imm.toInt], [])
  | .st _ f _ => ([], [x.addr f.a f.imm.toInt])
  | .accLd _ f _ => (run (x.addr f.a f.imm.toInt) 6, [])
  | .accSt _ f _ => ([], run (x.addr f.a f.imm.toInt) 6)
  | .gld _ f _ =>
    let w := tyWidth f.ty.toNat
    ((List.range (64 / w)).map fun k => x.addr f.b ((laneAt 16 k (x.reg f.a).v * w / 64 : Nat) : Int), [])
  | .hadd _ f _ => let a := x.addr f.b (bucketOf (x.reg f.a).v.toNat); ([a], [a])
  | .twalk _ f _ => (run (x.addr f.a 0) (2 ^ (f.c.toNat + 1)) ++ run (x.addr f.b 0) 8192, [])
  | .xfer _ f _ =>
    let a := x.addr f.a f.imm.toInt
    let w (k : Nat) : Nat := if inSram (a + k) then (x.word (a + k).toNat).v.toNat else 0
    (run a 4 ++ (if w 0 / 2 ^ 52 % 16 = 0 then [] else run ((w 2 % 8192 : Nat) : Int) (w 0 % 65536)), [])
  | _ => ([], [])

/-- A transfer in flight holds the instruction back (R256). TWALK is held by any gather into the words it can reach. -/
def Tile.held (i : Instr) (x : Tile) : Bool :=
  if x.xfers = [] then false else
  let (rs, ws) := x.touches i
  x.xfers.any fun f =>
    let inLoc (a : Int) : Bool := decide ((f.loc : Int) ≤ a ∧ a < f.loc + f.words)
    if f.kind = 0 then (rs ++ ws).any inLoc else ws.any inLoc

/-- Execute instruction `i` on tile `t` (log 23): outside a task it executes by itself; inside one it must be the instruction
at the program counter. A tile that waits or is stopped executes nothing. The body answers whether the instruction
completed. -/
def Dev.tileStep (t : Nat) (i : Instr) (x : TileEcc) (body : Dev → Dev × Bool) (d : Dev) : Dev :=
  let tl := d.tile t
  if tl.wait.isSome || tl.stopped then d
  else if tl.task.isSome && tileEncode i != some (tl.insnAt tl.pc) then d
  else if x.code then d.codeError t
  else
    let d := x.errs.foldl (fun d e => d.wordErr t e) d
    if (d.tile t).held i then d else
    let (d, ok) := body d
    if ok then d.insnDone t i else d

/-- A tile instruction: a reserved encoding is refused (R247), else it executes. -/
def State.tileInsn (t : Fin 10240) (i : Instr) (x : TileEcc) (body : Dev → Dev × Bool) (s : State) : Host.Outcome State Fault Refusal :=
  if tileLegal i then s.run (Dev.tileStep t.val i x body) else .refused .illegalEncoding

/-- An instruction that only changes its tile. -/
def State.tileLocal (t : Fin 10240) (i : Instr) (x : TileEcc) (f : Tile → Tile) (s : State) : Host.Outcome State Fault Refusal :=
  s.tileInsn t i x fun d => (d.updTile t.val f, true)

/-- D := f(A, B), poisoned when A or B is (R232). -/
def Tile.op2 (f : RFmt) (g : W64 → W64 → W64) (x : Tile) : Tile :=
  let a := x.reg f.a
  let b := x.reg f.b
  x.setReg f.d { v := g a.v b.v, p := a.p || b.p }

/-- D := f(A). -/
def Tile.op1 (d a : BitVec 5) (g : W64 → W64) (x : Tile) : Tile :=
  let w := x.reg a
  x.setReg d { v := g w.v, p := w.p }

/-- D := f(A, B, D), where D is also a source. -/
def Tile.op3 (f : RFmt) (g : W64 → W64 → W64 → W64) (x : Tile) : Tile :=
  let a := x.reg f.a
  let b := x.reg f.b
  let o := x.reg f.d
  x.setReg f.d { v := g a.v b.v o.v, p := a.p || b.p || o.p }

/-- Lane-wise on integers of the type: wrapping, or saturating. -/
def wrapOp (ty : BitVec 4) (g : Int → Int → Int) : W64 → W64 → W64 :=
  let n := ty.toNat
  map2 (tyWidth n) fun a b => wrapTo (tyWidth n) (g (intOf n a) (intOf n b))

def satOp (ty : BitVec 4) (g : Int → Int → Int) : W64 → W64 → W64 :=
  let n := ty.toNat
  map2 (tyWidth n) fun a b => satTo n (g (intOf n a) (intOf n b))

/-- Lane-wise on encodings of a float type. -/
def floatOp (ty : BitVec 4) (g : Fmt → Nat → Nat → Nat) : W64 → W64 → W64 :=
  let F := fmtOf ty.toNat
  map2 F.w (g F)

/-! ## Integer instructions -/

def execNop (t : Fin 10240) (f : RFmt) (x : TileEcc) (s : State) := s.tileLocal t (.nop t f x) x id

def execAdd (t : Fin 10240) (f : RFmt) (x : TileEcc) (s : State) := s.tileLocal t (.add t f x) x (Tile.op2 f (wrapOp f.ty (· + ·)))

def execSub (t : Fin 10240) (f : RFmt) (x : TileEcc) (s : State) := s.tileLocal t (.sub t f x) x (Tile.op2 f (wrapOp f.ty (· - ·)))

def execAdds (t : Fin 10240) (f : RFmt) (x : TileEcc) (s : State) := s.tileLocal t (.adds t f x) x (Tile.op2 f (satOp f.ty (· + ·)))

def execSubs (t : Fin 10240) (f : RFmt) (x : TileEcc) (s : State) := s.tileLocal t (.subs t f x) x (Tile.op2 f (satOp f.ty (· - ·)))

def execMul (t : Fin 10240) (f : RFmt) (x : TileEcc) (s : State) := s.tileLocal t (.mul t f x) x (Tile.op2 f (wrapOp f.ty (· * ·)))

/-- MULH (R240): the high w bits of the 2w-bit product. -/
def execMulh (t : Fin 10240) (f : RFmt) (x : TileEcc) (s : State) :=
  s.tileLocal t (.mulh t f x) x (Tile.op2 f (wrapOp f.ty fun a b => a * b / 2 ^ tyWidth f.ty.toNat))

def execMin (t : Fin 10240) (f : RFmt) (x : TileEcc) (s : State) := s.tileLocal t (.min t f x) x (Tile.op2 f (wrapOp f.ty min))

def execMax (t : Fin 10240) (f : RFmt) (x : TileEcc) (s : State) := s.tileLocal t (.max t f x) x (Tile.op2 f (wrapOp f.ty max))

def execAnd (t : Fin 10240) (f : RFmt) (x : TileEcc) (s : State) := s.tileLocal t (.and t f x) x (Tile.op2 f (· &&& ·))

def execOr (t : Fin 10240) (f : RFmt) (x : TileEcc) (s : State) := s.tileLocal t (.or t f x) x (Tile.op2 f (· ||| ·))

def execXor (t : Fin 10240) (f : RFmt) (x : TileEcc) (s : State) := s.tileLocal t (.xor t f x) x (Tile.op2 f (· ^^^ ·))

/-- SHL (R240): the count is the matching lane of B modulo w. -/
def execShl (t : Fin 10240) (f : RFmt) (x : TileEcc) (s : State) :=
  let w := tyWidth f.ty.toNat
  s.tileLocal t (.shl t f x) x (Tile.op2 f (map2 w fun a b => a * 2 ^ (b % w) % 2 ^ w))

def execShr (t : Fin 10240) (f : RFmt) (x : TileEcc) (s : State) :=
  let w := tyWidth f.ty.toNat
  s.tileLocal t (.shr t f x) x (Tile.op2 f (map2 w fun a b => shrLane f.ty.toNat a (b % w)))

def execCmplt (t : Fin 10240) (f : RFmt) (x : TileEcc) (s : State) :=
  let w := tyWidth f.ty.toNat
  s.tileLocal t (.cmplt t f x) x (Tile.op2 f (map2 w fun a b => maskIf w (decide (intOf f.ty.toNat a < intOf f.ty.toNat b))))

def execCmpeq (t : Fin 10240) (f : RFmt) (x : TileEcc) (s : State) :=
  let w := tyWidth f.ty.toNat
  s.tileLocal t (.cmpeq t f x) x (Tile.op2 f (map2 w fun a b => maskIf w (a == b)))

/-- SEL: bitwise by the mask C; a poisoned mask poisons the result (R232). -/
def Tile.sel (f : RFmt) (x : Tile) : Tile :=
  let a := x.reg f.a
  let b := x.reg f.b
  let c := x.reg f.c
  x.setReg f.d { v := (c.v &&& a.v) ||| (~~~c.v &&& b.v), p := a.p || b.p || c.p }

def execSel (t : Fin 10240) (f : RFmt) (x : TileEcc) (s : State) := s.tileLocal t (.sel t f x) x (Tile.sel f)

def execAddi (t : Fin 10240) (f : IFmt) (x : TileEcc) (s : State) :=
  let w := tyWidth f.ty.toNat
  s.tileLocal t (.addi t f x) x (Tile.op1 f.d f.a (map1 w fun a => wrapTo w (a + f.imm.toInt)))

/-- LIQ: 16 bits of D; the other bits and D's poison stay. -/
def Tile.liq (f : QFmt) (x : Tile) : Tile :=
  let o := x.reg f.d
  let sh := 16 * f.qtr.toNat
  x.setReg f.d { o with v := (o.v &&& ~~~(0xFFFF#64 <<< sh)) ||| (f.imm.setWidth 64 <<< sh) }

def execLiq (t : Fin 10240) (f : QFmt) (x : TileEcc) (s : State) := s.tileLocal t (.liq t f x) x (Tile.liq f)

def execClz (t : Fin 10240) (f : RFmt) (x : TileEcc) (s : State) :=
  let w := tyWidth f.ty.toNat
  s.tileLocal t (.clz t f x) x (Tile.op1 f.d f.a (map1 w (clz w)))

def execPopc (t : Fin 10240) (f : RFmt) (x : TileEcc) (s : State) :=
  let w := tyWidth f.ty.toNat
  s.tileLocal t (.popc t f x) x (Tile.op1 f.d f.a (map1 w (popc w)))

/-- LIDX (R248): the index of an open loop level; for a level that is not open the spec states no value, and D takes a free
value (log 24). -/
def lidxBody (t : Nat) (f : IFmt) (d : Dev) : Dev × Bool :=
  match (d.tile t).loops[f.imm.toNat]? with
  | some l => (d.updTile t fun x => x.setReg f.d { v := BitVec.ofNat 64 l.index, p := false }, true)
  | none =>
    let (v, d) := d.free
    (d.updTile t fun x => x.setReg f.d { v := v, p := false }, true)

def execLidx (t : Fin 10240) (f : IFmt) (x : TileEcc) (s : State) := s.tileInsn t (.lidx t f x) x (lidxBody t.val f)

/-! ## Floating-point instructions -/

def execFadd (t : Fin 10240) (f : RFmt) (x : TileEcc) (s : State) :=
  s.tileLocal t (.fadd t f x) x (Tile.op2 f (floatOp f.ty fun F => F.op2 FVal.add))

def execFsub (t : Fin 10240) (f : RFmt) (x : TileEcc) (s : State) :=
  s.tileLocal t (.fsub t f x) x (Tile.op2 f (floatOp f.ty fun F => F.op2 fun a b => a.add b.neg))

def execFmul (t : Fin 10240) (f : RFmt) (x : TileEcc) (s : State) :=
  s.tileLocal t (.fmul t f x) x (Tile.op2 f (floatOp f.ty fun F => F.op2 FVal.mul))

def execFma (t : Fin 10240) (f : RFmt) (x : TileEcc) (s : State) :=
  let F := fmtOf f.ty.toNat
  s.tileLocal t (.fma t f x) x (Tile.op3 f (map3 F.w F.fma))

def execFmin (t : Fin 10240) (f : RFmt) (x : TileEcc) (s : State) :=
  s.tileLocal t (.fmin t f x) x (Tile.op2 f (floatOp f.ty fun F => F.pick false))

def execFmax (t : Fin 10240) (f : RFmt) (x : TileEcc) (s : State) :=
  s.tileLocal t (.fmax t f x) x (Tile.op2 f (floatOp f.ty fun F => F.pick true))

def execFdiv (t : Fin 10240) (f : RFmt) (x : TileEcc) (s : State) :=
  s.tileLocal t (.fdiv t f x) x (Tile.op2 f (floatOp f.ty fun F a b => F.div (F.dec a) (F.dec b)))

def execFsqrt (t : Fin 10240) (f : RFmt) (x : TileEcc) (s : State) :=
  let F := fmtOf f.ty.toNat
  s.tileLocal t (.fsqrt t f x) x (Tile.op1 f.d f.a (map1 F.w fun a => F.sqrt (F.dec a)))

def execFcmplt (t : Fin 10240) (f : RFmt) (x : TileEcc) (s : State) :=
  s.tileLocal t (.fcmplt t f x) x (Tile.op2 f (floatOp f.ty fun F a b => maskIf F.w ((F.dec a).lt (F.dec b))))

def execFcmpeq (t : Fin 10240) (f : RFmt) (x : TileEcc) (s : State) :=
  s.tileLocal t (.fcmpeq t f x) x (Tile.op2 f (floatOp f.ty fun F a b => maskIf F.w ((F.dec a).eq (F.dec b))))

/-- FSGN: bit operations on the sign; only C = 2 reads B. -/
def Tile.fsgn (f : RFmt) (x : Tile) : Tile :=
  let w := tyWidth f.ty.toNat
  let m := 2 ^ (w - 1)
  match f.c.toNat with
  | 0 => x.op1 f.d f.a (map1 w fun a => a % m)
  | 1 => x.op1 f.d f.a (map1 w fun a => a ^^^ m)
  | _ => x.op2 f (map2 w fun a b => a % m + b / m * m)

def execFsgn (t : Fin 10240) (f : RFmt) (x : TileEcc) (s : State) := s.tileLocal t (.fsgn t f x) x (Tile.fsgn f)

/-- CVT (R239, R253): D is a source too when the group leaves other lanes of D unchanged. -/
def Tile.cvt (f : RFmt) (x : Tile) : Tile :=
  let src := f.c.toNat % 16
  let dst := f.ty.toNat
  let a := x.reg f.a
  let o := x.reg f.d
  let v := cvtWord src dst f.b.toNat (f.c.getLsbD 4) a.v o.v
  x.setReg f.d { v := v, p := a.p || (decide (tyWidth dst ≤ tyWidth src) && o.p) }

def execCvt (t : Fin 10240) (f : RFmt) (x : TileEcc) (s : State) := s.tileLocal t (.cvt t f x) x (Tile.cvt f)

def execDot (t : Fin 10240) (f : RFmt) (x : TileEcc) (s : State) :=
  s.tileLocal t (.dot t f x) x (Tile.op3 f fun a b o => dotWord f.ty.toNat (f.c.toNat % 16) a b o)

/-! ## Accumulators -/

def execAccClr (t : Fin 10240) (f : RFmt) (x : TileEcc) (s : State) := s.tileLocal t (.accClr t f x) x fun y => y.setAccum f.d {}

def execAccAdd (t : Fin 10240) (f : RFmt) (x : TileEcc) (s : State) :=
  s.tileLocal t (.accAdd t f x) x fun y => y.setAccum f.d ((y.accum f.d).addWord f.ty.toNat (y.reg f.a))

/-- ACC.RD (R243): the result in lane 0 of D, the other lanes 0. -/
def execAccRd (t : Fin 10240) (f : RFmt) (x : TileEcc) (s : State) :=
  s.tileLocal t (.accRd t f x) x fun y =>
    let c := y.accum f.a
    y.setReg f.d { v := BitVec.ofNat 64 (c.read f.ty.toNat (f.c.getLsbD 4)), p := c.poison }

def execAccMrg (t : Fin 10240) (f : RFmt) (x : TileEcc) (s : State) :=
  s.tileLocal t (.accMrg t f x) x fun y => y.setAccum f.d ((y.accum f.d).merge (y.accum f.a))

/-- ACC.LD (R244); on a load fault the accumulator is 0 with POISON set (R251). -/
def accLdBody (t : Nat) (f : IFmt) (i : Instr) (d : Dev) : Dev × Bool :=
  let x := d.tile t
  let a := x.addr f.a f.imm.toInt
  if inSram a && inSram (a + 5) then
    let c := Accum.ofImage ((List.range 6).map fun k => x.word (a.toNat + k))
    (d.updTile t fun x => x.setAccum f.d { c with poison := c.poison || (x.reg f.a).p }, true)
  else ((d.updTile t fun x => x.setAccum f.d { poison := true }).addrFault t a false i, true)

def execAccLd (t : Fin 10240) (f : IFmt) (x : TileEcc) (s : State) := s.tileInsn t (.accLd t f x) x (accLdBody t.val f (.accLd t f x))

/-- ACC.ST (R244). -/
def accStBody (t : Nat) (f : IFmt) (i : Instr) (d : Dev) : Dev × Bool :=
  let x := d.tile t
  let a := x.addr f.a f.imm.toInt
  if (List.range 6).all fun k => x.storable (a + k) then
    (d.updTile t fun x => ((x.accum f.d).image.zipIdx).foldl (fun y w => y.setWord (a.toNat + w.2) ⟨w.1, (x.reg f.a).p⟩) x, true)
  else (d.addrFault t a true i, true)

def execAccSt (t : Fin 10240) (f : IFmt) (x : TileEcc) (s : State) := s.tileInsn t (.accSt t f x) x (accStBody t.val f (.accSt t f x))

/-! ## SRAM -/

/-- LD (R251). -/
def ldBody (t : Nat) (f : IFmt) (i : Instr) (d : Dev) : Dev × Bool :=
  let x := d.tile t
  let a := x.addr f.a f.imm.toInt
  if inSram a then
    let w := x.word a.toNat
    (d.updTile t fun x => x.setReg f.d { w with p := w.p || (x.reg f.a).p }, true)
  else ((d.updTile t fun x => x.setReg f.d { v := 0, p := true }).addrFault t a false i, true)

def execLd (t : Fin 10240) (f : IFmt) (x : TileEcc) (s : State) := s.tileInsn t (.ld t f x) x (ldBody t.val f (.ld t f x))

/-- ST (R251, R232, log 22). -/
def stBody (t : Nat) (f : IFmt) (i : Instr) (d : Dev) : Dev × Bool :=
  let x := d.tile t
  let a := x.addr f.a f.imm.toInt
  if x.storable a then
    let w := x.reg f.d
    (d.updTile t fun x => x.setWord a.toNat { w with p := w.p || (x.reg f.a).p }, true)
  else (d.addrFault t a true i, true)

def execSt (t : Fin 10240) (f : IFmt) (x : TileEcc) (s : State) := s.tileInsn t (.st t f x) x (stBody t.val f (.st t f x))

/-- GLD (R252): an element outside SRAM gives its lane 0, poisons D and is an address fault. -/
def gldBody (t : Nat) (f : RFmt) (i : Instr) (d : Dev) : Dev × Bool :=
  let x := d.tile t
  let w := tyWidth f.ty.toNat
  let n := 64 / w
  let ix (k : Nat) : Nat := laneAt 16 k (x.reg f.a).v
  let wa (k : Nat) : Int := x.addr f.b ((ix k * w / 64 : Nat) : Int)
  let el (k : Nat) : Nat := if inSram (wa k) then laneAt w (ix k % (64 / w)) (x.word (wa k).toNat).v else 0
  let bad := (List.range n).filter fun k => !inSram (wa k)
  let p := (x.reg f.a).p || (x.reg f.b).p || !bad.isEmpty || ((List.range n).any fun k => inSram (wa k) && (x.word (wa k).toNat).p)
  let d := d.updTile t fun x => x.setReg f.d { v := packLanes w ((List.range n).map el), p := p }
  (bad.foldl (fun d k => d.addrFault t (wa k) false i) d, true)

def execGld (t : Fin 10240) (f : RFmt) (x : TileEcc) (s : State) := s.tileInsn t (.gld t f x) x (gldBody t.val f (.gld t f x))

def execHbkt (t : Fin 10240) (f : RFmt) (x : TileEcc) (s : State) :=
  s.tileLocal t (.hbkt t f x) x (Tile.op1 f.d f.a fun a => BitVec.ofNat 64 (bucketOf a.toNat))

/-- HADD (R259). -/
def haddBody (t : Nat) (f : RFmt) (i : Instr) (d : Dev) : Dev × Bool :=
  let x := d.tile t
  let a := x.addr f.b (bucketOf (x.reg f.a).v.toNat)
  if x.storable a then
    let w := x.word a.toNat
    (d.updTile t fun x => x.setWord a.toNat { v := w.v + 1, p := w.p || (x.reg f.a).p || (x.reg f.b).p }, true)
  else (d.addrFault t a true i, true)

def execHadd (t : Fin 10240) (f : RFmt) (x : TileEcc) (s : State) := s.tileInsn t (.hadd t f x) x (haddBody t.val f (.hadd t f x))

/-! ## Tree walk (R258, R292 to R295) -/

/-- TREE_NAN in force (R296). -/
def Dev.treeNan (t : Nat) (d : Dev) : Bool :=
  match d.tileGraph t with
  | some (_, g) => g.plan.treeNan
  | none => d.bit R.TTA_COMPAT_TREE_NAN

/-- A word of the walk: its content and whether its address is outside SRAM. -/
def Tile.walkWord (a : Int) (x : Tile) : Option TWord := if inSram a then some (x.word a.toNat) else none

/-- The decision at a node (R295): go right, poison met, addresses at fault. -/
def Tile.direction (treeNan : Bool) (a b : Int) (depth node : Nat) (x : Tile) : Bool × Bool × List Int :=
  let na := a + node
  match x.walkWord na with
  | none => (false, true, [na])
  | some nw =>
    let n := nw.v.toNat
    let kind := n / 2 ^ 62
    let dflt := nw.v.getLsbD 61
    if 2 ≤ kind then (dflt, nw.p, []) else
    let fa := b + ((n / 2 ^ 48 % 8192 : Nat) : Int)
    match x.walkWord fa with
    | none => (dflt, true, [fa])
    | some fw =>
      let tag := fw.v.toNat / 2 ^ 62
      let v := fw.v.toNat % 2 ^ 32
      if kind = 0 then
        let F := fmtOf 12
        let r := if tag ≠ 0 then dflt
          else if (F.dec v).isNan then (treeNan || dflt)
          else !((F.dec v).lt (F.dec (n % 2 ^ 32)))
        (r, nw.p || fw.p, [])
      else
        let ma := a + ((2 ^ depth - 1 + n % 4096 : Nat) : Int)
        match x.walkWord ma with
        | none => (dflt, true, [ma])
        | some mw => (if tag ≠ 2 then dflt else !mw.v.getLsbD (v % 64), nw.p || fw.p || mw.p, [])

/-- The walk. A word outside SRAM reads as 0 with poison (R251), so a node outside SRAM sends the walk left (log 25). -/
def Tile.walk (treeNan : Bool) (a b : Int) (depth : Nat) : Nat → Nat → Bool → List Int → Tile → Nat × Bool × List Int
  | 0, node, p, bad, _ => (node, p, bad)
  | n + 1, node, p, bad, x =>
    let (right, p', bad') := x.direction treeNan a b depth node
    Tile.walk treeNan a b depth n (2 * node + (if right then 2 else 1)) (p || p') (bad ++ bad') x

/-- TWALK: the leaf index in lane 0 of D. -/
def twalkBody (t : Nat) (f : RFmt) (i : Instr) (d : Dev) : Dev × Bool :=
  let x := d.tile t
  let depth := f.c.toNat
  let (node, p, bad) := Tile.walk (d.treeNan t) (x.addr f.a 0) (x.addr f.b 0) depth depth 0 false [] x
  let d := d.updTile t fun x => x.setReg f.d { v := BitVec.ofNat 64 (node - (2 ^ depth - 1)), p := p || (x.reg f.a).p || (x.reg f.b).p }
  (bad.foldl (fun d a => d.addrFault t a false i) d, true)

def execTwalk (t : Fin 10240) (f : RFmt) (x : TileEcc) (s : State) := s.tileInsn t (.twalk t f x) x (twalkBody t.val f (.twalk t f x))

/-! ## Inbox exchange (R257, R274) -/

/-- Fold an output of a task into its signature (R274). -/
def Dev.foldOut (t kind : Nat) (p : Bool) (target : Nat) (data : W64) (d : Dev) : Dev :=
  d.updTile t fun x => if x.task.isSome then { x with sig := foldSig x.sig kind p target data } else x

/-- NPUT: waits while the target word is FULL. A shadow tile's NPUT is only folded; the write to a primary is mirrored to its
shadow. -/
def nputBody (t : Nat) (f : IFmt) (i : Instr) (d : Dev) : Dev × Bool :=
  let w := (d.tile t).reg f.a
  let k := f.imm.toNat
  let out (d : Dev) : Dev := d.foldOut t 1 w.p (32 * f.d.toNat + k) w.v
  if d.isShadow t then (out d, true) else
  let g := t / 16 * 16 + f.d.toNat
  if ((d.tile g).inboxWord k).full then (d.updTile t fun x => { x with wait := some (.inbox i) }, false)
  else
    let d := (out d).updTile g fun x => x.setInbox k { v := w.v, p := w.p, full := true }
    match d.shadowOf g with
    | some s => (d.updTile s fun x =>
        if (x.inboxWord k).full then { x with inq := x.inq ++ [(k, w)] } else x.setInbox k { v := w.v, p := w.p, full := true }, true)
    | none => (d, true)

def execNput (t : Fin 10240) (f : IFmt) (x : TileEcc) (s : State) := s.tileInsn t (.nput t f x) x (nputBody t.val f (.nput t f {}))

/-- INRD: waits until the tile's own word is FULL, then reads and empties it; a mirrored word that waits takes its place. -/
def inrdBody (t : Nat) (f : IFmt) (i : Instr) (d : Dev) : Dev × Bool :=
  let k := f.imm.toNat
  let w := (d.tile t).inboxWord k
  if w.full = false then (d.updTile t fun x => { x with wait := some (.inbox i) }, false)
  else (d.updTile t fun x =>
    let x := (x.setReg f.d { v := w.v, p := w.p }).setInbox k { v := w.v, p := w.p, full := false }
    match x.inq.find? fun e => e.1 == k with
    | some e => ({ x with inq := x.inq.erase e } : Tile).setInbox k { v := e.2.v, p := e.2.p, full := true }
    | none => x, true)

def execInrd (t : Fin 10240) (f : IFmt) (x : TileEcc) (s : State) := s.tileInsn t (.inrd t f x) x (inrdBody t.val f (.inrd t f {}))

/-! ## Sync objects -/

/-- SSIG (R276, R277): a shadow tile's signal is only folded (R274). -/
def ssigBody (t : Nat) (f : SFmt) (d : Dev) : Dev × Bool :=
  let d := d.foldOut t 2 false f.obj.toNat (BitVec.ofNat 64 f.count.toNat)
  if d.isShadow t then (d, true) else (d.ssig t f.obj.toNat f.count.toNat, true)

def execSsig (t : Fin 10240) (f : SFmt) (x : TileEcc) (s : State) := s.tileInsn t (.ssig t f x) x (ssigBody t.val f)

/-- SWAIT (R276, R277): a foreign object does not hold the tile and sets FAULT. -/
def swaitBody (t : Nat) (f : SFmt) (d : Dev) : Dev × Bool :=
  let o := f.obj.toNat
  let n := f.count.toNat
  if d.ownObj t o = false then (d.foreign t o, true)
  else if d.swaitDone o n then (d, true)
  else (d.updTile t fun x => { x with wait := some (.sync o n) }, false)

def execSwait (t : Fin 10240) (f : SFmt) (x : TileEcc) (s : State) := s.tileInsn t (.swait t f x) x (swaitBody t.val f)

/-! ## Control -/

/-- LOOP (R248). Outside a task there is no instruction that follows, and nothing is repeated. -/
def loopBody (t : Nat) (f : LFmt) (i : Instr) (d : Dev) : Dev × Bool :=
  if (d.tile t).task.isNone then (d, true) else
  ((d.cnt 12 (tileSteps i)).updTile t fun x =>
    let x := { x with steps := x.steps + tileSteps i }
    if f.n = 0 then x.goto (x.pc + 1 + f.len.toNat)
    else { x with pc := x.pc + 1, loops := ⟨f.n.toNat, 0, x.pc + 1, f.len.toNat⟩ :: x.loops }, false)

def execLoop (t : Fin 10240) (f : LFmt) (x : TileEcc) (s : State) := s.tileInsn t (.loop t f x) x (loopBody t.val f (.loop t f x))

/-- END (R229): the task ends and the tile's list goes on. -/
def endBody (t : Nat) (i : Instr) (d : Dev) : Dev × Bool :=
  if (d.tile t).task.isNone then (d, true) else
  (((d.cnt 12 (tileSteps i)).updTile t fun x => { x with steps := x.steps + tileSteps i }).taskEnd t false, false)

def execEnd_ (t : Fin 10240) (f : RFmt) (x : TileEcc) (s : State) := s.tileInsn t (.end_ t f x) x (endBody t.val (.end_ t f x))

/-- SYNC_WAIT_END: the condition holds, and the tile continues. -/
def syncWaitEnd (t : Nat) (d : Dev) : Dev :=
  let x := d.tile t
  if x.stopped then d else
  match x.wait with
  | some (.sync o n) =>
    if d.swaitDone o n then d.insnDone t (.swait 0 ⟨BitVec.ofNat 8 n, BitVec.ofNat 16 o⟩ {}) else d
  | some (.list o) => if d.swaitDone o 0 then (d.updTile t fun x => { x with wait := none }).advanceList t (d.listLen t) else d
  | _ => d

def execSyncWaitEnd (t : Fin 10240) (s : State) := s.run (syncWaitEnd t.val)

/-- INBOX_WAIT_END: the word is free (NPUT) or FULL (INRD), and the instruction completes. -/
def inboxWaitEnd (t : Nat) (d : Dev) : Dev :=
  let x := d.tile t
  if x.stopped then d else
  match x.wait with
  | some (.inbox i) =>
    let (d', ok) := match i with
      | .nput _ f _ => nputBody t f i d
      | .inrd _ f _ => inrdBody t f i d
      | _ => (d, false)
    if ok then d'.insnDone t i else d
  | _ => d

def execInboxWaitEnd (t : Fin 10240) (s : State) := s.run (inboxWaitEnd t.val)

end Sys2Proof.Machine
end

