-- ==== Sys2Proof/Machine/Pair.lean ====
section
/-! DEFINITION. What the chapters above the tiles share: ingest epochs by number, messages to the twin (R215, R216), SETT and
CONTROL frames to the dies, and the allotment index of a die (R98). -/
namespace Sys2Proof.Machine

/-! ## Ingest epochs -/

/-- Ingest epochs are numbered EPOCH_SEC × 4,000 + EPOCH_IDX (R210). -/
def epochOf (sec idx : Nat) : Nat := sec * 4000 + idx
/-- The closing boundary of an epoch in presented ns. -/
def epochEnd (n : Nat) : Nat := n * 250000
/-- The newest boundary at or before a presented time. -/
def epochAt (ns : Nat) : Nat := ns / 250000
/-- EPOCH_SEC and EPOCH_IDX as bytes. -/
def epochBytes (n : Nat) : List Byte := leBytes 6 (n / 4000) ++ leBytes 2 (n % 4000)

def Dev.updIng (f : Ingest → Ingest) (d : Dev) : Dev := { d with tta := { d.tta with ing := f d.tta.ing } }
def Dev.updTwin (f : Twin → Twin) (d : Dev) : Dev := { d with tta := { d.tta with twin := f d.tta.twin } }
def Dev.updSett (f : Sett → Sett) (d : Dev) : Dev := { d with tta := { d.tta with sett := f d.tta.sett } }
def Dev.updWrn (f : Warren → Warren) (d : Dev) : Dev := { d with tta := { d.tta with wrn := f d.tta.wrn } }
def Dev.updDet (f : Detect → Detect) (d : Dev) : Dev := { d with tta := { d.tta with det := f d.tta.det } }
def Dev.updTchk (f : TtaChk → TtaChk) (d : Dev) : Dev := { d with tta := { d.tta with chk := f d.tta.chk } }
def Dev.updRpt (f : Reports → Reports) (d : Dev) : Dev := { d with tta := { d.tta with rpt := f d.tta.rpt } }

/-- Presented ns of the TTA. -/
def Dev.ttaNs (d : Dev) : Nat := d.nowNs .tta

/-! ## The twin -/

/-- Channels retired. -/
def Dev.channelsOut (d : Dev) : Nat := ((List.range 64).filter fun c => d.bit (R.TTA_MEM_CH_RETIRED.at c)).length

/-- Whether the TTA is withdrawn from the twin protocol: from the 17th retired channel (R207), for a reset of the fabric (R457), for
a power entry (R476), and in recovery mode (R467). -/
def Dev.withdrawn (d : Dev) : Bool :=
  decide (16 < d.channelsOut) || d.tta.twin.out || d.bit R.TTA_BOOT_STAT_RECOVERY

/-- The TTA is parked, or enters or leaves a parked state (R476). -/
def Dev.parked (d : Dev) : Bool := d.get R.TTA_PWR_STAT_STATE != 0 || d.tta.pwr.trans != 0

/-- This TTA follows and is in step with, or returning to, a lead (R304): it forwards what the lead orders. -/
def Dev.follows (d : Dev) : Bool := !d.leads && (d.twinState == 0 || d.twinState == 3)

/-- This TTA is the partitioned follower (R220). -/
def Dev.cutFollower (d : Dev) : Bool := !d.leads && d.twinState == 1

/-- The version of this TTA's twin messages (R215): the lower of the two twins'. -/
def Dev.twinVersion (d : Dev) : Nat :=
  let own := d.get R.TTA_CAPS_TWIN_VER
  if d.tta.twin.peerVersion + 1 = own then d.tta.twin.peerVersion else own

/-- A frame that the twin link would carry goes over fabric Ethernet while the link is DOWN and ETH_FALLBACK is 1 (R216). -/
def Dev.toTwin (f : Frame) (d : Dev) : Dev :=
  if d.isUp (.tta 16) = false ∧ d.bit R.TTA_TWIN_CFG_ETH_FALLBACK = true then d.emit (.ethTwin f)
  else d.updPort (.tta 16) fun l => { l with queue := l.queue ++ [f] }

/-- Send a twin message about an epoch (0 where none applies). -/
def Dev.sendTwin (epoch : Nat) (m : TwinMsg) (d : Dev) : Dev :=
  if d.withdrawn then d else
  let p : Payload := .twin (d.twinVersion) epoch m
  d.toTwin { payload := p, cls := 2, prot := false, fwd := none, allotIdx := 0, len := payloadLen p, seq := 0, sentAt := 0 }

def Dev.sendRole (m : RoleMsg) (d : Dev) : Dev := d.sendTwin 0 (.role m)

/-! ## The dies -/

/-- The tray ports whose link is UP. -/
def Dev.diesUp (d : Dev) : List Nat := (List.range 16).filter fun p => d.isUp (ttaEnd p)

/-- A die whose port is enabled (R14). -/
def Dev.dieEnabled (p : Nat) (d : Dev) : Bool := decide (p < 16) && d.bit (R.TTA_TL_CTL_ENABLE.at p)

/-- A SETT frame to a die (R169). -/
def Dev.sendSett (p : Nat) (m : SettMsg) (d : Dev) : Dev := if d.isUp (ttaEnd p) then d.sendFrame (ttaEnd p) 2 0 (.sett m) else d

/-- A CONTROL message to a die whose port is UP; with a descriptor to serve it asks for an acknowledgement (R172). -/
def Dev.controlDie (p : Nat) (q : Option (Nat × Desc)) (m : CtlMsg) (d : Dev) : Dev :=
  if d.isUp (ttaEnd p) = false then d else
  match q with
  | none => d.sendControl p 0 false m
  | some _ =>
    let tag := d.tta.chk.nextTag
    (d.updTchk fun c => { c with nextTag := tag % (2 ^ 32 - 1) + 1, ctl := c.ctl ++ [{ port := p, tag := tag, q := q }] }).sendControl p (BitVec.ofNat 32 tag) true m

/-- The allotment index of an allotment on a die (R98). -/
def Dev.indexOn (die allot : Nat) (d : Dev) : Option Nat :=
  if allot = 0 then some 0 else
  (List.range 64).find? fun i => assocGet (die * 64 + i) d.tta.sett.dieMap == some allot

/-- Indices of a die that are in use, the platform's included. -/
def Dev.indicesUsed (die : Nat) (d : Dev) : Nat := 1 + (d.tta.sett.dieMap.filter fun e => e.1 / 64 == die).length

/-- The entry of TDU_ALLOT_MAP for an allotment of this TTA. -/
def Dev.mapEntry (slot : Nat) (d : Dev) : W64 := BitVec.ofNat 64 (d.slotAllot slot + 2 ^ 16 + d.slotClass slot * 2 ^ 17)

/-- Write an entry of a die's TDU_ALLOT_MAP (R98, R172). -/
def Dev.writeMap (die ix : Nat) (v : W64) (d : Dev) : Dev :=
  if ix = 0 then d else d.controlDie die none (.regWrite (BitVec.ofNat 16 (0x5200 + 8 * ix)) 0x7FFFF v)

/-- Install the LINK key of a slot's allotment in a die's TDU Sett (R41, R42): a new instance, sent to the partner twin. -/
def Dev.installLink (slot die : Nat) (d : Dev) : Dev :=
  if d.isUp (ttaEnd die) = false then d else
  match d.indexOn die (d.slotAllot slot) with
  | none => d
  | some ix =>
    let (inst, d) := d.free
    let a := d.slotAllot slot
    let d := d.updSlotX slot fun s => { s with links := (s.links.filter fun e => e.1 != die) ++ [(die, ix, inst)] }
    let d := d.updPort (ttaEnd die) fun l => { l with ivs := Memory.erase l.ivs ix }
    ((d.writeMap die ix (d.mapEntry slot)).sendSett die (.linkKey ix a inst)).sendTwin 0 (.linkInst a die inst)

/-- The lead, or a twin alone, chooses the lowest free index of a die for an allotment and tells its partner (R98). -/
def Dev.chooseIndex (slot die : Nat) (d : Dev) : Dev :=
  let a := d.slotAllot slot
  if (d.indexOn die a).isSome ∨ d.follows = true ∨ d.cutFollower = true then d else
  match (List.range 64).find? fun i => decide (0 < i) && (assocGet (die * 64 + i) d.tta.sett.dieMap).isNone with
  | none => d
  | some ix => (d.updSett fun s => { s with dieMap := assocSet (die * 64 + ix) a s.dieMap }).sendRole (.index die a ix)

/-- The Sett installs a slot's LINK key on every die that is up. -/
def Dev.installLinks (slot : Nat) (d : Dev) : Dev :=
  d.diesUp.foldl (fun d die => (d.chooseIndex slot die).installLink slot die) d

/-- Slots whose keys the Sett holds. -/
def Dev.keyedSlots (d : Dev) : List Nat := (List.range 256).filter fun n => (d.slotState n == 2 || d.slotState n == 3) && (assocGet n d.tta.sett.arks).isSome

end Sys2Proof.Machine
end

