-- ==== Sys2Proof/Machine/Tables.lean ====
section
/-! DEFINITION. Feature tables and models (R299 to R308): windows, banks, commits, and what a gather reads of them. -/
namespace Sys2Proof.Machine

/-- Bytes of a window (R299). -/
def windowBytes (rows rowWords : Nat) : Nat := ceilDiv (64 + 8 * rowWords * rows) 4096 * 4096

def Table.wb (t : Table) : Nat := windowBytes t.rows t.rowWords

/-- What a fresh row holds: MISSING in a FEATURE table, 0 in a MODEL. -/
def Table.fill (t : Table) : W64 := if t.kind = 0 then 0x4000000000000000#64 else 0

/-- The live table of a slot with an identifier. -/
def Dev.table (slot tid : Nat) (d : Dev) : Option Table :=
  d.tta.tables.find? fun t => t.slot == slot && t.tid == tid && t.gone.isNone

def Dev.setTables (l : List Table) (d : Dev) : Dev := { d with tta := { d.tta with tables := l } }

/-- Change a live table; while the pair is parted it counts as changed (R307). -/
def Dev.updTable (slot tid : Nat) (f : Table → Table) (d : Dev) : Dev :=
  let d := d.setTables (d.tta.tables.map fun t => if t.slot = slot ∧ t.tid = tid ∧ t.gone = none then f t else t)
  if d.paired ∨ d.tta.twin.changed.contains (slot, tid) = true then d else d.updTwin fun w => { w with changed := (slot, tid) :: w.changed }

/-- The current STORE generation of a slot. -/
def Dev.storeGen (slot : Nat) (d : Dev) : Nat := d.get (R.TTA_ALT_ENTRY_STORE_GEN.at slot)

/-- A header word of a bank. -/
def Table.header (t : Table) (b : Bank) (i : Nat) : W64 :=
  BitVec.ofNat 64 (match i with
    | 0 => 1 + t.kind * 2 ^ 8 + t.entity * 2 ^ 16 + t.tid * 2 ^ 24 + t.rows * 2 ^ 32
    | 1 => t.rowWords + b.gen * 2 ^ 32
    | 2 => t.since / 4000 + t.since % 4000 * 2 ^ 48
    | _ => 0)

/-- Word `i` of a bank's window. -/
def Table.word (t : Table) (b : Bank) (i : Nat) : W64 :=
  if i < 8 then t.header b i else Memory.read (fun _ => t.fill) b.words (i - 8)

/-- The generation that protects the word. -/
def Table.wordGen (t : Table) (b : Bank) (i : Nat) : Nat :=
  if i < 8 then b.hdrGen else (assocGet ((i - 8) / max 1 t.rowWords) b.rowGens).getD b.storeGen

/-- Write whole rows into the shadow bank. -/
def Table.writeRows (t : Table) (gen first : Nat) (bs : List Byte) : Table :=
  let n := bs.length / 8
  let ws := (List.range n).foldl (fun m i => Memory.write (fun _ => t.fill) m (first * t.rowWords + i) (BitVec.ofNat 64 (leAt bs (8 * i) 8))) t.shadow.words
  let gens := (List.range (n / max 1 t.rowWords)).foldl (fun g r => assocSet (first + r) gen g) t.shadow.rowGens
  { t with shadow := { t.shadow with words := ws, rowGens := if t.shadow.storeGen = gen then t.shadow.rowGens else gens } }

/-- A gather from the region (R300, R301): the table whose window holds the whole range, in the bank in force at epoch `at_`;
status DENIED or STALE_KEY otherwise. -/
def Dev.tableGather (slot addr words at_ : Nat) (d : Dev) : Nat × List TWord :=
  let a := areaBase 2 slot
  match d.tta.tables.find? fun t => t.slot == slot && decide (a + t.offset ≤ addr ∧ addr + 8 * words ≤ a + t.offset + t.wb) with
  | none => (4, [])
  | some t =>
    let deleted : Bool := match t.gone with
      | some ns => decide (epochAt ns - 40000 ≤ at_)
      | none => false
    if deleted then (4, []) else
    let b := if t.since ≤ at_ ∨ t.retained.isNone = true then t.active else t.shadow
    let i0 := (addr - a - t.offset) / 8
    let is := (List.range words).map (i0 + ·)
    if is.any fun i => decide (t.wordGen b i < d.storeGen slot) then (0xC, [])
    else (0, is.map fun i => ⟨t.word b i, false⟩)

/-! ## What takes effect at a boundary, and after it -/

/-- A commit in force (R305): the shadow becomes active, the old bank is retained for 10 s; or the table is deleted. -/
def Dev.tableDue (n : Nat) (t : Table) (d : Dev) : Dev :=
  match t.due with
  | none => d
  | some (b, del) =>
    if n < b then d else
    if del then d.updTable t.slot t.tid fun x => { x with due := none, gone := some (epochEnd b + 10000000000) }
    else
      let gen := t.active.gen + 1
      let g := d.storeGen t.slot
      let d := d.updTable t.slot t.tid fun x =>
        { x with due := none, since := b, retained := some (epochEnd b + 10000000000)
                 active := { x.shadow with gen := gen, act := b, hdrGen := g }, shadow := x.active }
      (d.bump R.TTA_TAB_SUM_COMMITS 1).event .tta 5 0x3301 [t.slot, t.tid, gen, b / 4000 % 2 ^ 32, b % 4000]

/-- The boundary of ingest epoch `n`. -/
def Dev.tablesBoundary (n : Nat) (d : Dev) : Dev := d.tta.tables.foldl (fun d t => d.tableDue n t) d

/-- TABLE_RETAIN_EXPIRE (R305): the retained bank takes a copy of the active one and becomes writable. -/
def tableRetainExpire (slot : Fin 256) (tid : BitVec 8) (tick : Nat) (d : Dev) : Dev :=
  let d := d.advance .tta tick
  match d.table slot.val tid.toNat with
  | some t =>
    match t.retained with
    | some ns => if ns ≤ d.ttaNs then d.updTable slot.val tid.toNat fun x => { x with retained := none, shadow := x.active } else d
    | none => d
  | none => d

def execTableRetainExpire (slot : Fin 256) (tid : BitVec 8) (tick : Nat) (s : State) := s.run (tableRetainExpire slot tid tick)

/-- Tables on this TTA, as TTA_TAB_SUM shows them. -/
def Dev.showTables (d : Dev) : Dev := d.set R.TTA_TAB_SUM_TABLES d.tta.tables.length

/-- TABLE_WINDOW_FREE (R305). -/
def tableWindowFree (slot : Fin 256) (tid : BitVec 8) (tick : Nat) (d : Dev) : Dev :=
  let d := d.advance .tta tick
  let now := d.ttaNs
  let freed (t : Table) : Bool := t.slot == slot.val && t.tid == tid.toNat && (match t.gone with | some ns => decide (ns ≤ now) | none => false)
  if d.tta.tables.any freed then
    ((d.setTables (d.tta.tables.filter fun t => !freed t)).showTables).event .tta 5 0x3303 [slot.val, tid.toNat]
  else d

def execTableWindowFree (slot : Fin 256) (tid : BitVec 8) (tick : Nat) (s : State) := s.run (tableWindowFree slot tid tick)

end Sys2Proof.Machine
end

