-- ==== Sys2Proof/Machine/Order.lean ====
section
/-! DEFINITION. Operations that the lead twin orders (R304, R305): table operations, stamp routes (R365), trace slots and minimum
serials (R420). A follower forwards them to the lead; the lead applies them on both twins. -/
namespace Sys2Proof.Machine

/-! ## Applying an operation -/

/-- Lowest table identifier that is free for a slot. -/
def Dev.freeTid (slot : Nat) (d : Dev) : Nat :=
  ((List.range 256).find? fun i => !(d.tta.tables.any fun t => t.slot == slot && t.tid == i)).getD 0

/-- Routes of a die's pipelines (R365). -/
def setRoutes (die : Nat) (mask : W64) (h : Option Nat) (l : List (Nat × Nat)) : List (Nat × Nat) :=
  (List.range 64).foldl (fun (l : List (Nat × Nat)) p =>
    if mask.getLsbD p = false then l else
    match h with
    | some h => assocSet (die * 64 + p) h l
    | none => assocDel (die * 64 + p) l) l

/-- Apply an operation for a slot on this TTA; the lead fills in the identifier of a new table. -/
def Dev.applyOp (slot : Nat) (op : OrdOp) (pick : Bool) (d : Dev) : OrdOp × Dev :=
  match op with
  | .create off rows rw kind entity tid =>
    let tid := if pick then d.freeTid slot else tid
    let g := d.storeGen slot
    let t : Table := { slot := slot, tid := tid, offset := off, rows := rows, rowWords := rw, kind := kind, entity := entity
                       active := { storeGen := g, hdrGen := g }, shadow := { storeGen := g, hdrGen := g } }
    let d := (d.setTables (d.tta.tables ++ [t])).showTables
    (.create off rows rw kind entity tid, (d.updTable slot tid id).event .tta 5 0x3300 [slot, tid, rows, rw])
  | .write tid first bs => let g := d.storeGen slot; (op, d.updTable slot tid fun t => t.writeRows g first bs)
  | .commit tid req => (op, d.updTable slot tid fun t => { t with asked := some (req, false) })
  | .delete tid req => (op, d.updTable slot tid fun t => { t with asked := some (req, true) })
  | .route gid die mask =>
    let h := if gid = 0xFFFF then none else d.graphOf slot gid
    (op, d.updDet fun x => { x with routes := setRoutes die mask h x.routes })
  | .traceSlot die sl cfg =>
    let d := d.updSett fun s => { s with traceSlots := (s.traceSlots.filter fun e => !(e.1 == die && e.2.1 == sl)) ++
      (if R.TDU_TRC_SLOT_CFG_VALID.read cfg = 1 then [(die, sl, cfg)] else []) }
    (op, if d.follows then d else d.controlDie die none (.regWrite (BitVec.ofNat 16 (0x6840 + 8 * sl)) (BitVec.allOnes 64) cfg))
  | .serial m =>
    let d := d.updSlotX slot fun x => { x with minSerial := max x.minSerial m }
    let a := d.slotAllot slot
    let n := (d.slotX slot).minSerial
    let d := d.updSett fun s => { s with grants := s.grants.filter fun g => g.grant.allot != a || decide (n ≤ g.grant.serial) }
    (op, d.diesUp.foldl (fun d p => d.sendSett p (.minSerial a n)) d)

/-- An operation other than a commit or delete completes its descriptor. -/
def Dev.ordDone (q : Desc) (slot : Nat) (op : OrdOp) (d : Dev) : Dev :=
  match op with
  | .create _ _ _ _ _ tid => d.complete q 0x38 0 [(28, 1, tid)]
  | .write .. => d.complete q 0x39 0 []
  | .route .. => d.complete q 0x48 0 []
  | .traceSlot _ sl cfg => d.complete q 0x28 0 [(24, 1, sl), (25, 1, R.TDU_TRC_SLOT_CFG_BASE_64K.read cfg)]
  | .serial _ => d.complete q 0x2B 0 [(20, 4, (d.slotX slot).minSerial)]
  | .commit .. | .delete .. => d

/-- The boundary of a commit or delete is fixed (R305): the descriptor that waits here completes. -/
def Dev.boundaryFixed (slot tid b : Nat) (del : Bool) (d : Dev) : Dev :=
  match d.table slot tid with
  | none => d
  | some t =>
    let d := d.updTable slot tid fun t => { t with due := some (b, del), asked := none, q := none }
    match t.q with
    | none => d
    | some (op, q) => d.complete q op 0 ([(20, 6, b / 4000), (26, 2, b % 4000)] ++ (if del then [] else [(28, 4, t.active.gen + 1)]))

/-- The lead fixes the boundary: at or after the requested one, at least 1 ms from now. -/
def Dev.fixBoundary (slot tid req : Nat) (del : Bool) (d : Dev) : Dev :=
  let b := max req (ceilDiv (d.ttaNs + 1000000) 250000)
  (d.sendRole (.boundary (d.slotAllot slot) tid b del)).boundaryFixed slot tid b del

/-- An operation is applied wherever it must be. -/
def Dev.ordEnd (slot : Nat) (op : OrdOp) (q : Option Desc) (d : Dev) : Dev :=
  match op with
  | .commit tid req => d.fixBoundary slot tid req false
  | .delete tid req => d.fixBoundary slot tid req true
  | _ => match q with
    | some q => d.ordDone q slot op
    | none => d

/-- The descriptor of a commit or delete waits with its table. -/
def Dev.holdCommit (q : Desc) (slot : Nat) (op : OrdOp) (d : Dev) : Dev :=
  match op with
  | .commit tid req => d.updTable slot tid fun t => { t with q := some (0x3A, q), asked := some (req, false) }
  | .delete tid req => d.updTable slot tid fun t => { t with q := some (0x3B, q), asked := some (req, true) }
  | _ => d

/-- Order an operation of a descriptor that passed its checks. -/
def Dev.orderOp (q : Desc) (op : OrdOp) (d : Dev) : Dev :=
  let slot := descSlot q
  let a := d.slotAllot slot
  let n := d.tta.twin.nextNum
  let d := d.holdCommit q slot op
  if d.follows then
    (d.updTwin fun w => { w with nextNum := n + 1, forwarded := w.forwarded ++ [⟨n, a, op, some q⟩] }).sendRole (.forward n a op)
  else
    let (op, d) := d.applyOp slot op true
    if d.paired then
      (d.updTwin fun w => { w with nextNum := n + 1, waits := w.waits ++ [⟨n, a, op, some q⟩] }).sendRole (.apply n a op none)
    else d.ordEnd slot op (some q)

/-! ## ROLE messages about operations -/

/-- The lead receives a forwarded operation. -/
def Dev.roleForward (ref allot : Nat) (op : OrdOp) (d : Dev) : Dev :=
  match d.slotHolding allot with
  | none => d
  | some slot =>
    let (op, d) := d.applyOp slot op true
    let n := d.tta.twin.nextNum
    (d.updTwin fun w => { w with nextNum := n + 1, waits := w.waits ++ [⟨n, allot, op, none⟩] }).sendRole (.apply n allot op (some ref))

/-- The follower applies an operation that the lead ordered. -/
def Dev.roleApply (num allot : Nat) (op : OrdOp) (ref : Option Nat) (d : Dev) : Dev :=
  match d.slotHolding allot with
  | none => d.sendRole (.applied num)
  | some slot =>
    let (op, d) := d.applyOp slot op false
    let d := d.sendRole (.applied num)
    match d.tta.twin.forwarded.find? fun w => some w.num == ref with
    | none => d
    | some w =>
      let d := d.updTwin fun t => { t with forwarded := t.forwarded.erase w }
      match w.q with
      | some q => d.ordDone q slot op
      | none => d

/-- The partner has applied an operation. -/
def Dev.roleApplied (num : Nat) (d : Dev) : Dev :=
  match d.tta.twin.waits.find? fun w => w.num = num with
  | none => d
  | some w =>
    let d := d.updTwin fun t => { t with waits := t.waits.erase w }
    match d.slotHolding w.allot with
    | some slot => d.ordEnd slot w.op w.q
    | none => d

/-- The pair parts: the lead goes on alone; a partitioned follower's forwarded operations end with TIMEOUT; a survivor orders
them itself. -/
def Dev.ordersParted (d : Dev) : Dev :=
  let ws := d.tta.twin.waits
  let fs := d.tta.twin.forwarded
  let d := d.updTwin fun t => { t with waits := [], forwarded := [] }
  let d := ws.foldl (fun d w => match d.slotHolding w.allot with | some slot => d.ordEnd slot w.op w.q | none => d) d
  fs.foldl (fun d w => match w.q with
    | none => d
    | some q =>
      if d.cutFollower then
        let op := match w.op with
          | .create .. => 0x38 | .write .. => 0x39 | .commit .. => 0x3A | .delete .. => 0x3B | .route .. => 0x48 | .traceSlot .. => 0x28 | .serial _ => 0x2B
        d.complete q op 6 []
      else d.orderOp q w.op) d

/-! ## The table descriptors (R302, R303) -/

/-- A failed check: counted, event 0x3302. -/
def Dev.tableFail (op : Nat) (q : Desc) (tid st check : Nat) (d : Dev) : Dev :=
  ((d.bump R.TTA_TAB_SUM_REFUSED 1).event .tta 5 0x3302 [descSlot q, tid, st, check]).complete q op st []

/-- The start of a table descriptor: FENCE and the common header checks. -/
def Dev.tableDesc (op : Nat) (q : Desc) (tid : Nat) (body : Dev → Dev) (d : Dev) : Dev :=
  if d.fenceHolds q && (d.fnq q.fn).inflight.contains (q.ring.val, q.index.toNat) then d else
  match d.headerCheck op q with
  | some st => d.tableFail op q tid st 1
  | none => body d

/-- A shape of R299. -/
def tableShape (kind entity rows rw : Nat) : Bool :=
  let cap := match entity with
    | 0 => 16
    | 1 => 1048576
    | _ => 65536
  decide (kind < 2 ∧ entity < 5 ∧ (kind = 0 ∨ entity = 4) ∧ rows ≤ cap ∧ 4 ≤ rw ∧ rw ≤ (if kind = 0 then 4096 else 16384))

/-- The window and its second bank fit the area and overlap no other table. -/
def Dev.windowFits (slot off wb : Nat) (d : Dev) : Bool :=
  decide (off + 2 * wb ≤ areaSize 2) &&
  d.tta.tables.all fun t => t.slot != slot || decide (off + 2 * wb ≤ t.offset ∨ t.offset + 2 * t.wb ≤ off)

/-- TABLE_CREATE. -/
def tableCreate (q : Desc) (off rows rw kind entity : Nat) (d : Dev) : Dev :=
  d.tableDesc 0x38 q 0 (fun d =>
    let slot := descSlot q
    if off % 4096 ≠ 0 ∨ rw % 4 ≠ 0 then d.tableFail 0x38 q 0 3 2
    else if d.slotActive slot = false then d.tableFail 0x38 q 0 4 3
    else if tableShape kind entity rows rw = false ∨ d.windowFits slot off (windowBytes rows rw) = false ∨ 4096 ≤ d.tta.tables.length ∨
      256 ≤ (d.tta.tables.filter fun t => t.slot == slot).length then d.tableFail 0x38 q 0 9 4
    else if d.cutFollower then d.tableFail 0x38 q 0 6 6
    else d.orderOp q (.create off rows rw kind entity 0))

def execTableCreate (q : Desc) (offset rows : BitVec 32) (rowWords : BitVec 16) (kind entity : BitVec 8) (s : State) :=
  s.run (tableCreate q offset.toNat rows.toNat rowWords.toNat kind.toNat entity.toNat)

/-- Check 4 for a table that exists. -/
def Table.busy (t : Table) : Bool := t.retained.isSome || t.due.isSome || t.asked.isSome

/-- TABLE_WRITE. -/
def tableWrite (q : Desc) (tid first : Nat) (addr : W64) (data : Fetch) (d : Dev) : Dev :=
  d.tableDesc 0x39 q tid (fun d =>
    let slot := descSlot q
    let len := q.length.toNat
    let rw := ((d.table slot tid).map (·.rowWords)).getD 0
    if addr.toNat % 64 ≠ 0 ∨ (0 < rw ∧ len % (8 * rw) ≠ 0) then d.tableFail 0x39 q tid 3 2
    else match d.table slot tid with
    | none => d.tableFail 0x39 q tid 4 3
    | some t =>
      if d.slotActive slot = false then d.tableFail 0x39 q tid 4 3
      else if t.rows < first + len / (8 * rw) ∨ t.busy = true then d.tableFail 0x39 q tid 9 4
      else match data with
      | .data bs => if d.cutFollower then d.tableFail 0x39 q tid 6 6 else d.orderOp q (.write tid first (bs.take len))
      | f => d.tableFail 0x39 q tid f.status 5)

def execTableWrite (q : Desc) (tid : BitVec 8) (first : BitVec 32) (addr : W64) (data : Fetch) (s : State) :=
  s.run (tableWrite q tid.toNat first.toNat addr data)

/-- TABLE_COMMIT and TABLE_DELETE. -/
def tableEnd (op : Nat) (q : Desc) (tid : Nat) (o : OrdOp) (d : Dev) : Dev :=
  d.tableDesc op q tid (fun d =>
    match d.table (descSlot q) tid with
    | none => d.tableFail op q tid 4 3
    | some t =>
      if d.slotActive (descSlot q) = false then d.tableFail op q tid 4 3
      else if t.busy then d.tableFail op q tid 9 4
      else if d.cutFollower then d.tableFail op q tid 6 6
      else d.orderOp q o)

def execTableCommit (q : Desc) (tid : BitVec 8) (actSec : BitVec 48) (actIdx : BitVec 16) (s : State) :=
  s.run (tableEnd 0x3A q tid.toNat (.commit tid.toNat (epochOf actSec.toNat actIdx.toNat)))

def execTableDelete (q : Desc) (tid : BitVec 8) (actSec : BitVec 48) (actIdx : BitVec 16) (s : State) :=
  s.run (tableEnd 0x3B q tid.toNat (.delete tid.toNat (epochOf actSec.toNat actIdx.toNat)))

/-! ## Routes, trace slots, serials -/

/-- SLOT_ROUTE (R365). -/
def slotRoute (q : Desc) (gid die : Nat) (mask : W64) (d : Dev) : Dev :=
  d.runDesc 0x48 q (fun d =>
    let slot := descSlot q
    let stampGraph : Bool := match (d.graphOf slot gid).bind fun h => d.graph h with
      | some g => g.plan.stamp
      | none => false
    if d.slotActive slot = false ∨ d.slotRadio slot = false then d.complete q 0x48 4 []
    else if gid ≠ 0xFFFF ∧ stampGraph = false then d.complete q 0x48 0xA []
    else if d.dieEnabled die = false then d.complete q 0x48 4 []
    else if d.cutFollower then d.complete q 0x48 6 []
    else d.orderOp q (.route gid die mask))

def execSlotRoute (q : Desc) (gid : BitVec 16) (die : BitVec 8) (mask : W64) (s : State) :=
  s.run (slotRoute q gid.toNat die.toNat mask)

/-- An installed grant with TRACE covers a die (R119). -/
def Dev.traceGrant (allot die : Nat) (d : Dev) : Bool :=
  d.tta.sett.grants.any fun g => g.grant.allot == allot && g.die == die && g.grant.flags.testBit 3

/-- The trace slots of a die as (slot, base, size, allotment index). -/
def Dev.dieTraceSlots (die : Nat) (d : Dev) : List (Nat × Nat × Nat × Nat) :=
  (d.tta.sett.traceSlots.filter fun e => e.1 = die).map fun e =>
    (e.2.1, R.TDU_TRC_SLOT_CFG_BASE_64K.read e.2.2, R.TDU_TRC_SLOT_CFG_SIZE_64K.read e.2.2, R.TDU_TRC_SLOT_CFG_ALLOT_IDX.read e.2.2)

/-- Slot and base for a request: the allotment's own slot or the lowest free one, and the lowest free run of units (R119). -/
def Dev.placeTrace (die ix size : Nat) (d : Dev) : Option (Nat × Nat) :=
  let l := d.dieTraceSlots die
  let others := l.filter fun e => e.2.2.2 != ix
  let slot := match l.find? fun e => e.2.2.2 = ix with
    | some e => some e.1
    | none => (List.range 8).find? fun i => !(l.any fun e => e.1 == i)
  let base := (List.range 32).find? fun b =>
    decide (0 < size ∧ b + size ≤ 32) && others.all fun e => decide (b + size ≤ e.2.1 ∨ e.2.1 + e.2.2.1 ≤ b)
  match slot, base with
  | some s, some b => some (s, b)
  | _, _ => none

/-- TRACE_SLOT (R417, R420). -/
def traceSlot (q : Desc) (die : Nat) (free : Bool) (size : Nat) (rearm : Bool) (post : Nat) (start stop : BitVec 8) (d : Dev) : Dev :=
  d.runDesc 0x28 q (fun d =>
    let slot := descSlot q
    let a := d.slotAllot slot
    if d.slotActive slot = false ∨ d.dieEnabled die = false ∨ d.traceGrant a die = false ∨
        (d.slotRadio slot = false ∧ (start.getLsbD 4 || stop.getLsbD 4) = true) then d.complete q 0x28 4 []
    else match d.indexOn die a with
    | none => d.complete q 0x28 9 []
    | some ix =>
      if free then
        match (d.dieTraceSlots die).find? fun e => e.2.2.2 = ix with
        | some e => if d.cutFollower then d.complete q 0x28 6 [] else d.orderOp q (.traceSlot die e.1 0)
        | none => d.complete q 0x28 9 []
      else match d.placeTrace die ix size with
      | none => d.complete q 0x28 9 []
      | some (sl, base) =>
        if d.cutFollower then d.complete q 0x28 6 [] else
        let f (x : Fld) (v : Nat) (w : W64) : W64 := x.put w v
        let cfg := (0#64) |> f R.TDU_TRC_SLOT_CFG_VALID 1 |> f R.TDU_TRC_SLOT_CFG_ALLOT_IDX ix |> f R.TDU_TRC_SLOT_CFG_BASE_64K base |>
          f R.TDU_TRC_SLOT_CFG_SIZE_64K size |> f R.TDU_TRC_SLOT_CFG_POST_4K post |> f R.TDU_TRC_SLOT_CFG_REARM (if rearm then 1 else 0) |>
          f R.TDU_TRC_SLOT_CFG_START_MASK start.toNat |> f R.TDU_TRC_SLOT_CFG_STOP_MASK stop.toNat
        d.orderOp q (.traceSlot die sl cfg))

def execTraceSlot (q : Desc) (die : BitVec 8) (free : Bool) (size64k : BitVec 8) (rearm : Bool) (post4k : BitVec 16)
    (startMask stopMask : BitVec 8) (s : State) :=
  s.run (traceSlot q die.toNat free size64k.toNat rearm post4k.toNat startMask stopMask)

/-- TRACE_TRIG (R420): relayed as cause HOLDER to the allotment's slot on each die of the mask. -/
def traceTrig (q : Desc) (mask : Nat) (start stop : Bool) (d : Dev) : Dev :=
  d.runDesc 0x29 q (fun d =>
    let slot := descSlot q
    if d.slotActive slot = false then d.complete q 0x29 4 [] else
    let hits := (List.range 16).filterMap fun die =>
      if mask.testBit die && d.isUp (ttaEnd die) then
        match d.indexOn die (d.slotAllot slot) with
        | some ix => ((d.dieTraceSlots die).find? fun e => e.2.2.2 = ix).map fun e => (die, e.1)
        | none => none
      else none
    let d := hits.foldl (fun d x => d.controlDie x.1 none (.trigger (BitVec.ofNat 8 (2 ^ x.2)) start stop 1 0)) d
    d.complete q 0x29 0 [(19, 1, hits.length)])

def execTraceTrig (q : Desc) (dieMask : BitVec 16) (start stop : Bool) (s : State) := s.run (traceTrig q dieMask.toNat start stop)

/-- GRANT_SERIAL (R52, R420). -/
def grantSerial (q : Desc) (m : Nat) (d : Dev) : Dev :=
  d.runDesc 0x2B q (fun d =>
    if d.slotActive (descSlot q) = false then d.complete q 0x2B 4 []
    else if d.cutFollower then d.complete q 0x2B 6 []
    else d.orderOp q (.serial m))

def execGrantSerial (q : Desc) (min : BitVec 32) (s : State) := s.run (grantSerial q min.toNat)

/-- The two grant checks of the Sett on a signed image (R50): the number of the first that fails. -/
def Dev.grantCheck (bs : List Byte) (holderSig platformSig : Bool) (d : Dev) : Option Nat :=
  let flags := leAt bs 1 1
  let a := leAt bs 2 2
  let slot := d.slotHolding a
  let now := d.secondsA .tta
  if leAt bs 0 1 ≠ 1 ∨ 16 ≤ flags ∨ leAt bs 6 2 ≠ 0 ∨ zeroRange bs 32 32 = false then some 1
  else if (if flags % 4 = 0 then holderSig else platformSig) = false then some 2
  else match slot with
  | none => some 3
  | some n =>
    if d.slotActive n = false then some 3
    else if leAt bs 28 4 < (d.slotX n).minSerial then some 4
    else if now < leAt bs 16 6 ∨ leAt bs 22 6 ≤ now then some 5
    else none

/-- GRANT_INSTALL (R50, R51, R417). -/
def grantInstall (q : Desc) (addr : W64) (g : GrantFetch) (d : Dev) : Dev :=
  d.runDesc 0x2A q (fun d =>
    if addr.toNat % 64 ≠ 0 ∨ q.length ≠ 160 then d.complete q 0x2A 3 [] else
    match g with
    | .failed f => d.complete q 0x2A f.status []
    | .grant im =>
      let bs := im.bytes
      let a := leAt bs 2 2
      match d.grantCheck bs im.holderSig im.platformSig with
      | some n => (d.event .tta 7 0x6003 [a, n]).complete q 0x2A 4 []
      | none =>
        let dies := (List.range 16).filter fun p => (leAt bs 4 2).testBit p && d.dieEnabled p
        let gr : Grant := { allot := a, flags := leAt bs 1 1, dieMask := leAt bs 4 2, sources := BitVec.ofNat 64 (leAt bs 8 8)
                            notBefore := leAt bs 16 6, notAfter := leAt bs 22 6, serial := leAt bs 28 4 }
        let now := d.secondsA .tta
        let live (die : Nat) : Nat := (d.tta.sett.grants.filter fun x => x.die == die && decide (now < x.grant.notAfter)).length
        if dies.any fun p => decide (8 ≤ live p) then d.complete q 0x2A 9 [] else
        let d := d.updSett fun s => { s with grants := (s.grants.filter fun x => decide (now < x.grant.notAfter)) ++ dies.map fun p => ⟨p, gr⟩ }
        let d := dies.foldl (fun d p => d.sendSett p (.grant a gr.flags gr.sources gr.notBefore gr.notAfter gr.serial)) d
        (d.event .tta 7 0x6002 [a, gr.serial, gr.dieMask]).complete q 0x2A 0 [])

def execGrantInstall (q : Desc) (addr : W64) (g : GrantFetch) (s : State) := s.run (grantInstall q addr g)

end Sys2Proof.Machine
end

