-- ==== Sys2Proof/Machine/WarrenCore.lean ====
section
/-! DEFINITION. What Warren, Bandstand and the budget share (R309 to R326): the tree, payloads and merges, packets sent and
received, and rounds up to the point where a member learns a result. -/
namespace Sys2Proof.Machine

/-! ## The tree (R309, R310) -/

/-- The tray address of a TTA ID. -/
def trayOf (tta : Nat) : Nat := tta / 2
def Dev.ownTray (d : Dev) : Nat := d.ttaId / 2

/-- L for n members (R18). -/
def levelsFor (n : Nat) : Nat := if n ≤ 32 then 1 else if n ≤ 1024 then 2 else 3

/-- Levels of the tree over member trays. -/
def treeLevels (trays : List Nat) : Nat := levelsFor (2 * trays.length)

/-- The group of level h that a tray belongs to. -/
def groupOf (trays : List Nat) (h tray : Nat) : Nat := 2 * trays.idxOf tray / 32 ^ h

/-- The parent tray of group g of level h. -/
def groupParent (trays : List Nat) (h g : Nat) : Nat := trays.getD (g * 32 ^ h / 2) 0

/-- The parent tray of a tray at level h. -/
def parentTray (trays : List Nat) (h tray : Nat) : Nat := groupParent trays h (groupOf trays h tray)

/-- The tray is parent of its group of level h. -/
def isParent (trays : List Nat) (h tray : Nat) : Bool := parentTray trays h tray == tray

/-- The trays that give a group its inputs. -/
def groupInputs (trays : List Nat) (h g : Nat) : List Nat :=
  if h = 1 then (trays.drop (16 * g)).take 16
  else (List.range 32).filterMap fun i =>
    let k := 32 * g + i
    if k * 32 ^ (h - 1) < 2 * trays.length then some (groupParent trays (h - 1) k) else none

def rootTray (trays : List Nat) : Nat := trays.headD 0

/-- Where a parent tray sends what comes down: every other tray that sends one of its groups an input (R311). -/
def downTrays (trays : List Nat) (tray : Nat) : List Nat :=
  ((List.range (treeLevels trays)).foldl (fun (l : List Nat) i =>
    if isParent trays (i + 1) tray then
      l ++ (groupInputs trays (i + 1) (groupOf trays (i + 1) tray)).filter fun t => t != tray && !l.contains t
    else l) [])

/-- Both twins of a tray. -/
def twinsOf (tray : Nat) : List Nat := [2 * tray, 2 * tray + 1]

/-! ## Payloads (R322) -/

/-- The bytes of a payload: its words, then one poison bit a word. -/
def payloadBytes (ws : List TWord) : List Byte :=
  let maps := (List.range (ceilDiv ws.length 64)).map fun m =>
    ((ws.drop (64 * m)).take 64).zipIdx.foldl (fun (n : Nat) x => if x.1.p then n + 2 ^ x.2 else n) 0
  (ws.map fun w => leBytes 8 w.v.toNat).flatten ++ (maps.map fun m => leBytes 8 m).flatten

/-- The payload of `len` bytes that a byte string holds. -/
def payloadWords (len : Nat) (bs : List Byte) : List TWord :=
  let n := len / 8
  (List.range n).map fun i =>
    { v := BitVec.ofNat 64 (leAt bs (8 * i) 8), p := (leAt bs (8 * (n + i / 64)) 8).testBit (i % 64) }

/-- Segments of 8,192 bytes. -/
def segments (bs : List Byte) : List (List Byte) := (List.range (max 1 (ceilDiv bs.length 8192))).map fun i => (bs.drop (8192 * i)).take 8192

/-- Add a segment: the parts, and the payload once it is whole. -/
def Parts.add (p : Parts) (ix : Nat) (seg : List Byte) : Parts × Option (List TWord) :=
  let segs := if (assocGet ix p.segs).isSome then p.segs else assocSet ix seg p.segs
  let p := { p with segs := segs }
  if segs.length < p.cnt then (p, none)
  else (p, some (payloadWords p.length ((List.range p.cnt).map fun i => (assocGet i segs).getD []).flatten))

/-! ## Merging (R323) -/

/-- Merge two words. -/
def mergeWord (kind : Nat) (a b : TWord) : TWord :=
  let v := match kind with
    | 2 => a.v + b.v
    | 3 => if a.v.toNat ≤ b.v.toNat then a.v else b.v
    | 4 => if a.v.toNat ≤ b.v.toNat then b.v else a.v
    | _ => a.v ||| b.v
  { v := v, p := a.p || b.p }

/-- Merge accumulator images, six words each; the result's poison map is zero. -/
def mergeAccs : Nat → List TWord → List TWord → List TWord
  | 0, _, _ => []
  | n + 1, a, b =>
    (((Accum.ofImage (a.take 6)).merge (Accum.ofImage (b.take 6))).image.map fun w => { v := w, p := false }) ++ mergeAccs n (a.drop 6) (b.drop 6)

/-- A poisoned word of an image sets its POISON flag before the merge. -/
def cleanAccs (a : List TWord) : List TWord :=
  ((List.range (a.length / 6)).map fun i => (Accum.ofImage ((a.drop (6 * i)).take 6)).image.map fun w => ({ v := w, p := false } : TWord)).flatten

/-- Merge two payloads. -/
def mergePayload (kind : Nat) (a b : List TWord) : List TWord :=
  if kind = 1 then mergeAccs (a.length / 6) a b else List.zipWith (mergeWord kind) a b

/-- Merge the inputs of a round. -/
def mergeAll (kind : Nat) : List (List TWord) → List TWord
  | [] => []
  | a :: r => r.foldl (mergePayload kind) (if kind = 1 then cleanAccs a else a)

/-- A payload carries poison: a word, or the POISON flag of an image (R324). -/
def payloadPoison (kind : Nat) (ws : List TWord) : Bool :=
  ws.any (·.p) || (kind == 1 && (List.range (ws.length / 6)).any fun i => ((ws.getD (6 * i + 5) {}).v).getLsbD 3)

/-! ## Sending -/

/-- The TTA may send and accept fleet traffic: position set and platform ARK held (R11, R40). -/
def Dev.fleetReady (d : Dev) : Bool := d.bit R.TTA_POS_LOCKED && d.bit R.TTA_SETT_PKEY_HELD

/-- The version sent to a tray (R317). -/
def Dev.sendVersion (tta : Nat) (d : Dev) : Nat :=
  let own := d.get R.TTA_CAPS_WRN_VER
  match assocGet (trayOf tta) d.tta.wrn.versions with
  | some v => min own v
  | none => max 1 (own - 1)

/-- Key of a suspect destination of a job. -/
def suspectKey (allot job : Nat) : Nat := allot * 65536 + job

def Dev.isSuspect (allot job dst : Nat) (d : Dev) : Bool := d.tta.wrn.suspects.contains (suspectKey allot job, dst)

/-- Protect a packet under this TTA's WARREN key of an allotment (R41, R42): the key instance and the invocation counter. A new instance is
drawn before a counter would repeat. -/
def Dev.sealPacket (allot : Nat) (d : Dev) : (W64 × Nat) × Dev :=
  match d.slotHolding allot with
  | none => ((0, 0), d)
  | some n =>
    let x := d.slotX n
    if x.wrnCtr < 2 ^ 64 then ((x.wrnInst, x.wrnCtr), d.updSlotX n fun s => { s with wrnCtr := x.wrnCtr + 1 })
    else
      let (inst, d) := d.free
      ((inst, 0), d.updSlotX n fun s => { s with wrnInst := inst, wrnCtr := 1 })

/-- Send a packet: it stays in the outbox until acknowledged. -/
def Dev.sendPacket (p : Packet) (d : Dev) : Dev :=
  if p.dst = d.ttaId then d else
  let no := d.tta.wrn.nextNo
  let ((inst, ctr), d) := d.sealPacket p.allot
  let p := { p with no := no, inst := inst, ctr := ctr, hdr := leBytes 1 (d.sendVersion p.dst) ++ p.hdr.drop 1 }
  let d := d.updWrn fun w => { w with nextNo := no + 1, outbox := w.outbox ++ [p] }
  if d.fleetReady then d.emit (.packet no p.proto p.dst inst ctr p.hdr p.body) else d

/-- Drop packets that have become obsolete (R316). -/
def Dev.dropPackets (f : Packet → Bool) (d : Dev) : Dev := d.updWrn fun w => { w with outbox := w.outbox.filter fun p => !f p }

/-- A Warren header (R314). -/
def warrenBytes (type level : Nat) (k : RoundKey) (sender seg cnt len kind : Nat) : List Byte :=
  [1#8] ++ leBytes 1 type ++ [0#8] ++ leBytes 1 level ++ leBytes 2 k.allot ++ leBytes 2 k.job ++ epochBytes k.epoch ++ leBytes 2 k.group ++
    leBytes 1 k.sub ++ leBytes 1 k.replay ++ leBytes 2 sender ++ leBytes 1 seg ++ leBytes 1 cnt ++ leBytes 4 len ++ leBytes 1 kind ++
    List.replicate 3 0#8

/-- Send a payload to a TTA in segments. -/
def Dev.sendRound (type level : Nat) (k : RoundKey) (kind : Nat) (ws : List TWord) (dst : Nat) (d : Dev) : Dev :=
  let segs := segments (payloadBytes ws)
  segs.zipIdx.foldl (fun d s => d.sendPacket
    { no := 0, proto := 0, dst := dst, hdr := warrenBytes type level k d.ttaId s.2 segs.length (8 * ws.length) kind, body := s.1, allot := k.allot
      job := k.job, epoch := k.epoch, group := k.group, sub := k.sub, replay := k.replay }) d

/-! ## Jobs -/

def Dev.jobOf (allot id : Nat) (d : Dev) : Option Job := d.tta.wrn.jobs.find? fun j => j.allot == allot && j.id == id

/-- Change a job of this member. -/
def Dev.updJob (allot id : Nat) (f : Job → Job) (d : Dev) : Dev :=
  d.updWrn fun w => { w with jobs := w.jobs.map fun j => if j.allot = allot ∧ j.id = id then f j else j }

/-- Graph handles' GRAPH_IDs and image digests of a description (R330). -/
def jobGraphs (bs : List Byte) : List (Nat × List Byte) :=
  (List.range (leAt bs 2 1)).map fun i => (leAt bs (1088 + 56 * i) 2, (bs.drop (1096 + 56 * i)).take 48)

/-- Groups of a description: GROUP, KIND, LENGTH. -/
def jobGroups (bs : List Byte) : List (Nat × Nat × Nat) :=
  let o := 1088 + 56 * leAt bs 2 1
  (List.range (leAt bs 3 1)).map fun i => (leAt bs (o + 8 * i) 2, leAt bs (o + 8 * i + 2) 1, leAt bs (o + 8 * i + 4) 4)

/-- Member trays of a description, ascending. -/
def jobTrays (bs : List Byte) : List Nat :=
  ((bs.drop 64).take 1024).zipIdx.flatMap fun b => (List.range 8).filterMap fun j => if b.1.getLsbD j then some (8 * b.2 + j) else none

/-- COMMIT_FLEET. -/
def jobFleet (bs : List Byte) : Bool := (bs.getD 1 0#8).getLsbD 0

/-- Position of a graph in the description. -/
def Job.position (j : Job) (gid : Nat) : Option Nat := (jobGraphs j.desc).findIdx? fun g => g.1 == gid

/-- The RUNNING or ENDING job that makes the run of a graph epoch a job run (R336, R339). -/
def Dev.jobFor (slot gid epoch q : Nat) (d : Dev) : Option Job :=
  d.tta.wrn.jobs.find? fun j =>
    (j.state == 1 || j.state == 2) && j.slot == slot && (j.position gid).isSome &&
    decide (j.goNs ≤ epochEnd (epoch - q)) && (j.endNs == 0 || decide (epochEnd (epoch - q) < j.endNs))

/-! ## States in use (R324) -/

def Dev.openStates (d : Dev) : Nat :=
  (d.tta.wrn.merges.filter fun m => !m.done).length + (d.tta.wrn.jobs.filter fun j => j.state == 0 && !j.readies.isEmpty).length

def Dev.showOpen (d : Dev) : Dev := d.set R.TTA_WRN_STAT_OPEN d.openStates

/-! ## Self-check (R385) -/

/-- A twin self-check failure: event 0x4030 with its source (0 partial, 1 vote, 3 duplicate input), and a strike to each of this TTA's
tiles that ran the run concerned. -/
def Dev.selfCheck (source slot h : Nat) (d : Dev) : Dev :=
  let d := (d.bump R.TTA_CHK_STAT_SELF_FAIL 1).event .tta 8 0x4030 [source, slot, h]
  match d.graph h with
  | none => d
  | some g => (g.plan.phys ++ g.plan.shadows).foldl (fun d t => d.strike t) d

/-! ## Round state -/

def Dev.roundSeen (k : RoundKey) (d : Dev) : RoundSeen := (d.tta.wrn.rounds.find? fun r => r.key = k).getD { key := k }

def Dev.putRound (r : RoundSeen) (d : Dev) : Dev :=
  d.updWrn fun w => { w with rounds := (w.rounds.filter fun x => x.key != r.key) ++ [r] }

def Dev.mergeOf (k : RoundKey) (level : Nat) (d : Dev) : Merge :=
  (d.tta.wrn.merges.find? fun m => m.key == k && m.level == level).getD { key := k, level := level }

def Dev.putMerge (m : Merge) (d : Dev) : Dev :=
  (d.updWrn fun w => { w with merges := (w.merges.filter fun x => !(x.key == m.key && x.level == m.level)) ++ [m] }).showOpen

/-- The graph handle that a job's round concerns, for R385: the position in SUB of a vote, else the first named graph. -/
def Dev.roundGraph (j : Job) (k : RoundKey) (d : Dev) : Nat :=
  let gid := ((jobGraphs j.desc).getD (if k.group = 0 then k.sub else 0) (0, [])).1
  (d.graphOf j.slot gid).getD 1024

/-- Compare the contributor's payload with this twin's own (R19, R322, R327). -/
def Dev.compareOwn (j : Job) (k : RoundKey) (d : Dev) : Dev :=
  let r := d.roundSeen k
  match r.copy, r.own with
  | some a, some b => if a = b then d else d.selfCheck (if k.group = 0 then 1 else 0) j.slot (d.roundGraph j k)
  | _, _ => d

/-- A payload to compare arrives: the contributor's (`own = false`) or this twin's own. -/
def Dev.noteLeaf (j : Job) (k : RoundKey) (own : Bool) (ws : List TWord) (d : Dev) : Dev :=
  let r := d.roundSeen k
  let had := if own then r.own.isSome else r.copy.isSome
  if had then d else
  (d.putRound (if own then { r with own := some ws } else { r with copy := some ws })).compareOwn j k

/-- Send a result down from this tray (R311). -/
def Dev.sendDown (j : Job) (k : RoundKey) (kind : Nat) (ws : List TWord) (d : Dev) : Dev :=
  ((downTrays j.trays d.ownTray).map twinsOf).flatten.foldl (fun d t => d.sendRound 2 0 k kind ws t) d

/-- The merge of a level holds everything it needs (R310, R328). -/
def Merge.complete (m : Merge) (trays : List Nat) (tray : Nat) : Bool :=
  (m.kind == 0 && m.inputs.any fun e => ((e.2.getD 0 {}).v).getLsbD 0) ||
  (groupInputs trays m.level (groupOf trays m.level tray)).all fun t => m.inputs.any fun e => e.1 == t

/-- Give an input to the merge of a level, and pass the result on when it is complete: up to the next parent tray, internally
where that is this tray, or, at the root, as the RESULT, which is the answer. `n` bounds the levels. -/
def Dev.mergeInput (j : Job) (k : RoundKey) (kind : Nat) : Nat → Nat → Nat → List TWord → Dev → Option (List TWord) × Dev
  | 0, _, _, _, d => (none, d)
  | n + 1, level, tray, ws, d =>
    let m := d.mergeOf k level
    match m.inputs.find? fun e => e.1 = tray with
    | some e =>
      if e.2 = ws then (none, d.bump R.TTA_WRN_DUP_DUP 1)
      else (none, ((d.event .tta 4 0x3402 [k.job, tray, k.group, level]).bump R.TTA_WRN_ERR_MISMATCH 1).selfCheck 3 j.slot (d.roundGraph j k))
    | none =>
      if m.done then (none, d) else
      let m := { m with kind := kind, inputs := m.inputs ++ [(tray, ws)] }
      let own := d.ownTray
      if m.complete j.trays own = false then (none, d.putMerge m) else
      let out := mergeAll kind (m.inputs.map (·.2))
      let d := d.putMerge { m with done := true }
      if treeLevels j.trays ≤ level then (some out, d)
      else
        let up := parentTray j.trays (level + 1) own
        if up = own then d.mergeInput j k kind n (level + 1) own out
        else (none, (twinsOf up).foldl (fun d t => d.sendRound 1 (level + 1) k kind out t) d)

/-- A contributor sends its payload (R322): to both twins of the level-1 parent tray, and a COPY to its own twin when that is not one
of them. The answer is a result that this tray itself completed. -/
def Dev.contribute (j : Job) (k : RoundKey) (kind : Nat) (ws : List TWord) (d : Dev) : Option (List TWord) × Dev :=
  let own := d.ownTray
  let up := parentTray j.trays 1 own
  if up = own then
    let partner := if d.ttaId % 2 = 0 then d.ttaId + 1 else d.ttaId - 1
    (d.sendRound 1 1 k kind ws partner).mergeInput j k kind 4 1 own ws
  else
    let partner := if d.ttaId % 2 = 0 then d.ttaId + 1 else d.ttaId - 1
    (none, ((twinsOf up).foldl (fun d t => d.sendRound 1 1 k kind ws t) d).sendRound 3 0 k kind ws partner)

/-- This twin is the contributor of its tray for a graph (R19, R322): the primary; for a duplicated graph twin 0, or twin 1 alone. -/
def Dev.contributes (radio primary : Bool) (d : Dev) : Bool :=
  if radio then d.twinNo == 0 || d.twinState == 2 || (d.twinState == 1 && d.leads)
  else primary && !d.cutFollower

/-! ## Receiving (R315 to R317) -/

/-- A packet's tag, version and allotment are right: the answer, and what the receiver does with one that is refused. The sender's key
instances and the highest version of its tray are kept. -/
def Dev.acceptPacket (allot sender version : Nat) (a : PktAuth) (d : Dev) : Bool × Dev :=
  let own := d.get R.TTA_CAPS_WRN_VER
  if d.fleetReady = false then (false, d) else
  if version ≠ own ∧ version + 1 ≠ own then
    (false, (d.bump R.TTA_WRN_ERR_BAD_VERSION 1).event .tta 4 0x3403 [sender, version])
  else
    let keyed : Bool := match d.slotHolding allot with
      | some n => (if n = 0 then d.tta.sett.platform.isSome else (assocGet n d.tta.sett.arks).isSome)
      | none => false
    if keyed = false ∨ a.tagOk = false then (false, d.tagFailure 2 allot sender) else
    let old := d.tta.wrn.peers.find? fun p => p.1 == allot && p.2.1 == sender
    let entry : Nat × Nat × W64 × Option W64 := match old with
      | none => (allot, sender, a.inst, none)
      | some (_, _, cur, prev) => if a.inst = cur ∨ some a.inst = prev then (allot, sender, cur, prev) else (allot, sender, a.inst, some cur)
    let best := max version ((assocGet (trayOf sender) d.tta.wrn.versions).getD 0)
    (true, d.updWrn fun w => { w with
      peers := (w.peers.filter fun p => !(p.1 == allot && p.2.1 == sender)) ++ [entry]
      versions := assocSet (trayOf sender) best w.versions })

/-- Acknowledge a packet: its header with TYPE changed (R316). -/
def Dev.ackPacket (allot proto sender ackType : Nat) (hdr : List Byte) (busy : Bool) (d : Dev) : Dev :=
  let h := hdr.take 1 ++ leBytes 1 ackType ++ [if busy then 2#8 else 0#8] ++ hdr.drop 3
  let d := if busy then d.bump R.TTA_WRN_ERR_BUSY 1 else d
  let ((inst, ctr), d) := d.sealPacket allot
  d.emit (.packetAck proto sender inst ctr h busy)

/-- The header bytes of an arriving Warren packet. -/
def WrnHdr.bytes (h : WrnHdr) (type : Nat) : List Byte :=
  leBytes 1 h.version.toNat ++ leBytes 1 type ++ leBytes 1 h.flags.toNat ++ leBytes 1 h.level.toNat ++ leBytes 2 h.allot.toNat ++ leBytes 2 h.job.toNat ++
    leBytes 6 h.epochSec.toNat ++ leBytes 2 h.epochIdx.toNat ++ leBytes 2 h.group.toNat ++ leBytes 1 h.sub.toNat ++ leBytes 1 h.replay.toNat ++
    leBytes 2 h.sender.toNat ++ leBytes 1 h.segIdx.toNat ++ leBytes 1 h.segCnt.toNat ++ leBytes 4 h.length.toNat ++ leBytes 1 h.kind.toNat ++
    List.replicate 3 0#8

/-- The round of a Warren packet. -/
def WrnHdr.key (h : WrnHdr) : RoundKey :=
  { allot := h.allot.toNat, job := h.job.toNat, epoch := epochOf h.epochSec.toNat h.epochIdx.toNat, group := h.group.toNat % 4096
    sub := h.sub.toNat, replay := h.replay.toNat }

/-- The highest REPLAY seen for a round (R326): a packet below it is obsolete, and one above it frees the older states. -/
def Dev.freeOlder (k : RoundKey) (d : Dev) : Bool × Dev :=
  let same (x : RoundKey) : Bool := x.allot == k.allot && x.job == k.job && x.epoch == k.epoch && x.sub == k.sub
  let newer := (d.tta.wrn.merges.any fun m => same m.key && decide (k.replay < m.key.replay)) ||
    (d.tta.wrn.rounds.any fun r => same r.key && decide (k.replay < r.key.replay))
  if newer then (false, d) else
  let old (x : RoundKey) : Bool := same x && decide (x.replay < k.replay)
  let d := d.updWrn fun w => { w with merges := w.merges.filter fun m => !old m.key
                                      rounds := w.rounds.filter fun r => !old r.key }
  (true, (d.dropPackets fun p => p.proto == 0 && p.allot == k.allot && p.job == k.job && p.epoch == k.epoch && p.sub == k.sub &&
    decide (p.replay < k.replay)).showOpen)

end Sys2Proof.Machine
end

