-- ==== Sys2Proof/Machine/DetectCore.lean ====
section
/-! DEFINITION. Die states, verdict delivery and the expulsion budget (R343 to R346, R355 to R363), as far as other chapters use
them. -/
namespace Sys2Proof.Machine

/-! ## Verdict records (R346) -/

/-- A 48-byte verdict record. -/
def verdictRecord (kind allot gid epoch : Nat) (payload : List W64) : List Byte :=
  [1#8] ++ leBytes 1 kind ++ leBytes 2 allot ++ leBytes 2 gid ++ epochBytes epoch ++ leBytes 2 0 ++
    ((payload ++ List.replicate 4 0#64).take 4).flatMap fun w => leBytes 8 w.toNat

/-- The function that a slot's holder works through (R30). -/
def slotFn (slot : Nat) : Fn := if slot = 0 then .lodge else .vf (Fin.ofNat 256 slot)

/-- Post a record to the verdict ring of a slot's holder; platform records go to the Lodge. -/
def Dev.postVerdict (slot : Nat) (r : List Byte) (d : Dev) : Dev := d.notify (slotFn slot) 5 r

/-- Post a record to the check ring. -/
def Dev.postCheck (slot : Nat) (r : List Byte) (d : Dev) : Dev := d.notify (slotFn slot) 6 r

/-! ## Die states (R357 to R359) -/

def Dev.dieState (die : Nat) (d : Dev) : Nat := d.get (R.TTA_DIE_STATE_STATE.at die)

/-- The cap on k that a die's TDU gets (R358, R372). -/
def Dev.kCap (die : Nat) (d : Dev) : Nat := if d.dieState die = 0 then min 16 (d.get R.TTA_CHK_CFG_K_CAP) else 0

/-- Write K_CAP of every index of a die. -/
def Dev.sendKCap (die : Nat) (d : Dev) : Dev :=
  (List.range 64).foldl (fun d a =>
    d.controlDie die none (.regWrite (BitVec.ofNat 16 (0x4000 + 8 * a)) 0x1F00 (BitVec.ofNat 64 (256 * d.kCap die)))) d

/-- The slots whose allotments are valid in a die's TDU_ALLOT_MAP, the platform's left out. -/
def Dev.slotsOn (die : Nat) (d : Dev) : List Nat :=
  d.tta.sett.dieMap.filterMap fun e => if e.1 / 64 = die then d.slotHolding e.2 else none

/-- The DIE_STATE record to every holder on the die and to the Lodge (R359). -/
def Dev.postDieState (die st cause : Nat) (d : Dev) : Dev :=
  let e := ceilDiv d.ttaNs 250000
  let w := BitVec.ofNat 64 (6 + die * 2 ^ 8 + d.ownTray * 2 ^ 16 + st * 2 ^ 32 + cause * 2 ^ 34)
  (d.slotsOn die ++ [0]).foldl (fun d n => d.postVerdict n (verdictRecord 6 (d.slotAllot n) 0xFFFF e [w])) d

/-- Enter SUSPECT (1) or EXPELLED (2) with a cause. -/
def Dev.enterDie (die st cause : Nat) (d : Dev) : Dev :=
  let old := d.dieState die
  if st ≤ old then d else
  let d := (d.set (R.TTA_DIE_STATE_STATE.at die) st).set (R.TTA_DIE_STATE_CAUSE.at die) cause
  ((d.sendKCap die).event .tta 8 0x5010 [die, old, st, cause]).postDieState die st cause

/-- A checking cause (R357, R376, R392). -/
def Dev.suspectDie (die : Nat) (d : Dev) : Dev := d.enterDie die 1 4

/-- CLEAR (R357): back to IN_SERVICE, k restored, event 0x5015. -/
def Dev.clearDie (die : Nat) (d : Dev) : Dev :=
  let old := d.dieState die
  if old = 0 then d else
  let d := (d.set (R.TTA_DIE_STATE_STATE.at die) 0).set (R.TTA_DIE_STATE_CAUSE.at die) 0
  ((d.sendKCap die).event .tta 8 0x5015 [die, old]).postDieState die 0 0

/-! ## The expulsion budget (R360 to R363) -/

/-- The keeper tray of this pod. -/
def Dev.keeperTray (d : Dev) : Nat := d.ownTray / 32 * 32
def Dev.isKeeper (d : Dev) : Bool := d.ownTray == d.keeperTray && d.leads

/-- A budget message as bytes. -/
def BudgetMsg.bytes (m : BudgetMsg) (type : Nat) : List Byte :=
  leBytes 1 m.version.toNat ++ leBytes 1 type ++ leBytes 1 m.flags.toNat ++ leBytes 1 m.cause.toNat ++ leBytes 2 m.tray.toNat ++ leBytes 1 m.die.toNat ++
    leBytes 1 m.result.toNat ++ leBytes 4 m.serial.toNat ++ leBytes 2 m.sender.toNat ++ leBytes 1 m.used.toNat ++ leBytes 1 m.budget.toNat ++
    leBytes 6 m.grantSec.toNat ++ List.replicate 10 0#8

/-- Send a budget message to a TTA, delivered as Warren packets are. -/
def Dev.sendBudget (type : Nat) (m : BudgetMsg) (dst : Nat) (d : Dev) : Dev :=
  d.sendPacket { no := 0, proto := 2, dst := dst, hdr := ({ m with sender := BitVec.ofNat 16 d.ttaId } : BudgetMsg).bytes type, body := [], allot := 0, job := 0 }

def Dev.windowSecs (d : Dev) : Nat := max 1 (min 168 (d.get R.TTA_DET_CFG_WINDOW_H)) * 3600
def Dev.ttaSec (d : Dev) : Nat := d.ttaNs / 1000000000

/-- Grants that count. -/
def Dev.liveGrants (d : Dev) : List (Nat × Nat × Nat) := d.tta.det.budget.filter fun g => decide (d.ttaSec < g.2.2 + d.windowSecs)

/-- USED: BUDGET while the log is lost (R363). -/
def Dev.budgetUsed (d : Dev) : Nat := if d.bit R.TTA_EXPEL_STAT_LOG_LOST then d.get R.TTA_DET_CFG_BUDGET else d.liveGrants.length

/-- Show the keeper's registers. -/
def Dev.showKeeper (d : Dev) : Dev :=
  (d.setBit R.TTA_EXPEL_STAT_KEEPER d.isKeeper).set R.TTA_EXPEL_STAT_USED (if d.isKeeper then d.budgetUsed else 0)

/-- An answer reaches a twin of the requesting tray (R357). -/
def Dev.takeAnswer (m : BudgetMsg) (d : Dev) : Dev :=
  let die := m.die.toNat
  let d := d.updDet fun x => { x with asked := assocDel die x.asked }
  let d := d.event .tta 8 0x5012 [die, m.serial.toNat, m.result.toNat, m.used.toNat]
  if m.result = 1 then (if d.dieState die = 0 then d.enterDie die 1 2 else d) else d.enterDie die 2 1

/-- Send an answer to both twins of the tray that asked. -/
def Dev.sendAnswer (m : BudgetMsg) (result : Nat) (d : Dev) : Dev :=
  let a := { m with result := BitVec.ofNat 8 result, used := BitVec.ofNat 8 d.budgetUsed, budget := BitVec.ofNat 8 (d.get R.TTA_DET_CFG_BUDGET) }
  let d := match result with
    | 0 => d.bump R.TTA_EXPEL_STAT_GRANTED 1
    | 1 => d.bump R.TTA_EXPEL_STAT_REFUSED 1
    | _ => d
  let d := (twinsOf m.tray.toNat).foldl (fun d t => d.sendBudget 0x22 a t) d
  (if m.tray.toNat = d.ownTray then d.takeAnswer a else d).showKeeper

/-- The keeper processes a request (R361). -/
def Dev.keeperRequest (m : BudgetMsg) (d : Dev) : Dev :=
  let tray := m.tray.toNat
  let die := m.die.toNat
  let now := d.ttaSec
  if d.liveGrants.any fun g => g.1 == tray && g.2.1 == die && decide (now < g.2.2 + 60) then d.sendAnswer m 2
  else if d.budgetUsed < d.get R.TTA_DET_CFG_BUDGET then
    let d := d.updDet fun x => { x with budget := d.liveGrants ++ [(tray, die, now)], haveLog := true }
    let m := { m with grantSec := BitVec.ofNat 48 now }
    if d.paired then
      let no := d.tta.wrn.nextNo
      let partner := if d.ttaId % 2 = 0 then d.ttaId + 1 else d.ttaId - 1
      (d.updDet fun x => { x with pendingGrants := x.pendingGrants ++ [(no, m)] }).sendBudget 0x23 m partner
    else d.sendAnswer m 0
  else d.sendAnswer m 1

/-- An expulsion request accepted from the health graph (R356, R357). -/
def Dev.requestExpulsion (die cause : Nat) (d : Dev) : Dev :=
  if d.dieState die = 2 then d else
  let n := d.tta.det.serial + 1
  let d := (d.updDet fun x => { x with serial := n, asked := assocSet die n x.asked }).event .tta 8 0x5011 [die, n]
  let m : BudgetMsg := { version := 1, flags := 0, cause := BitVec.ofNat 8 cause, tray := BitVec.ofNat 16 d.ownTray, die := BitVec.ofNat 8 die, result := 0
                         serial := BitVec.ofNat 32 n, sender := 0, used := 0, budget := 0, grantSec := 0 }
  let d := (twinsOf d.keeperTray).foldl (fun d t => d.sendBudget 0x21 m t) d
  if d.isKeeper then d.keeperRequest m else d

/-! ## Delivering a verdict (R345) -/

/-- A health score: the register and the sum of the coarse window (R355); a NaN is 0. -/
def Dev.healthScore (die : Nat) (w : W64) (d : Dev) : Dev :=
  let F := fmtOf 12
  let s := if (F.dec (w.toNat % 2 ^ 32)).isNan then 0 else w.toNat % 2 ^ 32
  let d := d.set (R.TTA_DIE_STATE_SCORE.at die) s
  let (acc, n) : Accum × Nat := (assocGet die d.tta.det.scores).getD ({}, 0)
  d.updDet fun x => { x with scores := assocSet die (acc.addLane 12 s, n + 1) x.scores }

/-- Deliver a verdict of a graph's run; one with a poisoned word is not delivered (R396). -/
def Dev.deliverVerdict (g : Graph) (v : Held) (d : Dev) : Dev :=
  if v.words.any (·.p) then d.bump R.TTA_CHK_POISON_VERDICTS 1 else
  let ws := v.words.map (·.v)
  let w0 := ws.getD 0 0
  match v.vkind with
  | 1 => d.postVerdict g.slot (verdictRecord (w0.toNat % 256) (d.slotAllot g.slot) g.gid v.epoch ws)
  | 2 => d.healthScore v.die w0
  | 4 => d.requestExpulsion v.die (w0.toNat % 256)
  | _ => d

end Sys2Proof.Machine
end

