-- ==== Sys2Proof/Machine/XferCore.lean ====
section
/-! DEFINITION. Boundary transfers (R204, R254 to R256, R274): reading the history store under the visibility matrix, the delivery of
hints and trace triggers (R345, R369), and the completion of a transfer. -/
namespace Sys2Proof.Machine

/-! ## What a gather reads (R44, R208, R270, R300) -/

/-- Bytes that a block takes in the ring: its header and its samples, rounded up to a granule (log 29). -/
def Block.span (b : Block) : Nat := ceilDiv (16 + 8 * b.words.length) 32 * 32

/-- A stored word of a block. -/
def Block.wordAt (b : Block) (i : Nat) : W64 :=
  BitVec.ofNat 64 (if i < 2 then leAt b.hdr (8 * i) 8 else b.words.getD (i - 2) 0)

/-- The stored block of an allotment that covers a logical address. -/
def Dev.blockAt (allot addr : Nat) (d : Dev) : Option Block :=
  d.tta.ing.epochs.findSome? fun (e : Nat × Epoch) =>
    if e.2.decided = false then none else
    (e.2.blocks.find? fun (b : Nat × Block) => b.2.allot == allot && decide (b.2.addr ≤ addr ∧ addr < b.2.addr + b.2.span)).map (·.2)

/-- A gather from the ring: own blocks only; POISON where a block carries poison, STALE_KEY under an older generation. -/
def Dev.ringGather (slot addr n : Nat) (d : Dev) : Nat × List TWord :=
  let bs := (List.range n).map fun i => (d.blockAt (d.slotAllot slot) (addr + 8 * i), addr + 8 * i)
  if bs.any fun x => x.1.isNone then (4, [])
  else if bs.any fun x => (x.1.map fun b => decide (b.gen < d.storeGen slot)) == some true then (0xC, [])
  else
    let ws := bs.map fun x => match x.1 with
      | some b => ({ v := b.wordAt ((x.2 - b.addr) / 8), p := b.poison || b.lostPages.contains (x.2 / 4194304) } : TWord)
      | none => {}
    (if ws.any (·.p) then 5 else 0, ws)

/-- The logical address of the decided indices of a graph's run: a window of the system region (log 30). -/
def indexBase (h : Nat) : Nat := regionBase 5 + h * 0x400000

/-- The range lies in the slot's own area of region 1, 3, 4 or 5. -/
def ownArea (slot addr n : Nat) : Bool :=
  [1, 3, 4, 5].any fun r => decide (areaBase r slot ≤ addr ∧ addr + 8 * n ≤ areaBase r slot + areaSize r)

/-- The range lies in the feature tables and models region. -/
def inTables (addr n : Nat) : Bool := decide (regionBase 2 < addr + 8 * n ∧ addr < regionBase 2 + regionSize 2)

/-- A range outside what the visibility matrix grants to the slot's allotment (check 5 of R255, R300). -/
def Dev.denied (slot h addr n : Nat) (scatter : Bool) (d : Dev) : Bool :=
  if scatter then !ownArea slot addr n || inTables addr n
  else
    let idx : Bool := match (d.graph h).bind (·.run) with
      | some r => decide (indexBase h ≤ addr ∧ addr + 8 * n ≤ indexBase h + 8 * r.index.length)
      | none => false
    !(idx || ownArea slot addr n || inTables addr n || (d.ringGather slot addr n).1 != 4)

/-- What a gather of a graph brings in: status and words. -/
def Dev.gather (slot h addr n : Nat) (d : Dev) : (Nat × List TWord) × Dev :=
  let r := (d.graph h).bind (·.run)
  let ix := (r.map (·.index)).getD []
  if indexBase h ≤ addr ∧ addr + 8 * n ≤ indexBase h + 8 * ix.length then
    ((0, (List.range n).map fun i => ({ v := ix.getD ((addr - indexBase h) / 8 + i) 0 } : TWord)), d)
  else if inTables addr n then (d.tableGather slot addr n ((r.map (·.epoch)).getD 0), d)
  else if ownArea slot addr n then
    if d.histStale (d.storeGen slot) addr n then ((0xC, []), d)
    else
      let (ws, d) := d.histReads addr n
      ((if ws.any (·.p) then 5 else 0, ws), d)
  else (d.ringGather slot addr n, d)

/-! ## Completion (R255) -/

/-- Set FAULT of the task that issued a transfer, while it runs. -/
def Dev.taskFault (t : Nat) (task : Option Nat) (d : Dev) : Dev :=
  d.updTile t fun x => if task.isSome && x.task == task then { x with fault := true } else x

/-- Write words into a tile's SRAM from a word on; a word beyond SRAM or marked as code is not written (log 31). -/
def Tile.fillWords (at_ : Nat) (ws : List TWord) (x : Tile) : Tile :=
  ws.zipIdx.foldl (fun x w => if x.storable ((at_ + w.2 : Nat) : Int) then x.setWord (at_ + w.2) w.1 else x) x

/-- STATUS of the descriptor. -/
def Tile.putStatus (addr st : Nat) (x : Tile) : Tile :=
  if x.storable (addr : Int) then
    let w := x.word addr
    x.setWord addr { w with v := (w.v &&& 0x00FFFFFFFFFFFFFF#64) ||| (BitVec.ofNat 64 st <<< 56) }
  else x

/-- The completion as the issuing tile sees it. -/
def Tile.finishXfer (f : Xfer) (st : Nat) (ws : List TWord) (x : Tile) : Tile :=
  let x := x.fillWords f.loc ws
  let x := x.putStatus f.addr st
  { x with xfers := x.xfers.filter fun (e : Xfer) => e.id != f.id }

/-- The signal of a completed transfer (R276, R277). -/
def Dev.xferSignal (t : Nat) (f : Xfer) (d : Dev) : Dev :=
  if d.ownObj t f.obj = false then
    ((d.taskFault t f.task).bump R.TTA_SYNC_STAT_FOREIGN 1).event .tta 5 0x3207 [t, f.obj]
  else match d.signalObj f.obj 1 with
  | some d => d
  | none => d.taskFault t f.task

/-- A transfer of a primary tile completes: what it writes, STATUS, the copy to its shadow (R274), OBJ. -/
def Dev.completeXfer (t : Nat) (f : Xfer) (st : Nat) (ws : List TWord) (d : Dev) : Dev :=
  let code : Bool := (List.range ws.length).any fun i => (d.tile t).isCode (f.loc + i)
  let d := d.updTile t (Tile.finishXfer f st ws)
  let d := if code then (d.taskFault t f.task).addrFault t (f.loc : Int) true (.xfer 0 ⟨0, 0, 0, 0⟩ {}) else d
  let d := match d.shadowOf t with
    | none => d
    | some s => d.updTile s fun x =>
        match x.xfers.find? fun (e : Xfer) => e.id = f.id with
        | some e => x.finishXfer e st ws
        | none => { x with early := x.early ++ [(f.id, st, ws)] }
  d.xferSignal t f

/-- What a failed check leaves: a gather's LOCAL range, up to the end of SRAM, is 0 with poison. -/
def Xfer.failWords (f : Xfer) : List TWord :=
  if f.kind = 0 then List.replicate (min f.words (8192 - f.loc)) { v := 0, p := true } else []

/-! ## Hints and triggers -/

def hintOf (bs : List Byte) : Hint :=
  { version := BitVec.ofNat 8 (leAt bs 0 1), flags := 0, pipe := Fin.ofNat 64 (leAt bs 2 1), stage := BitVec.ofNat 8 (leAt bs 3 1)
    slotNum := BitVec.ofNat 16 (leAt bs 4 2), excess := BitVec.ofNat 16 (leAt bs 6 2), stamp := BitVec.ofNat 32 (leAt bs 8 4)
    forecast := BitVec.ofNat 32 (leAt bs 12 4) }

/-- Send a relief hint (R369): the status of its transfer. -/
def Dev.sendHint (slot die : Nat) (ws : List W64) (d : Dev) : Nat × Dev :=
  let h := hintOf (ws.flatMap fun w => leBytes 8 w.toNat)
  let key := die * 64 + h.pipe.val
  if assocGet key d.tta.det.lastHint = some h.slotNum.toNat then
    (0, (d.bump R.TTA_HINT_STAT_REPEAT 1).event .tta 8 0x5002 [die, h.pipe.val, h.slotNum.toNat])
  else
    let ix := if d.slotRadio slot then d.indexOn die (d.slotAllot slot) else none
    let sent (d : Dev) : Nat × Dev :=
      (0, (d.bump R.TTA_HINT_STAT_SENT 1).updDet fun x => { x with lastHint := assocSet key h.slotNum.toNat x.lastHint, hintsSent := x.hintsSent + 1 })
    match ix with
    | none => (6, d.bump R.TTA_HINT_STAT_NO_PATH 1)
    | some ix =>
      if d.isUp (ttaEnd die) then sent (d.sendFrame (ttaEnd die) 0 (BitVec.ofNat 6 ix) (.hint [h]))
      else if d.isUp (.tta 16) ∨ d.bit R.TTA_TWIN_CFG_ETH_FALLBACK = true then
        sent (d.toTwin { payload := .hint [h], cls := 0, prot := true
                         fwd := some { down := true, port := if d.pins.twinSel then 0 else 1, die := Fin.ofNat 16 die, ttaId := BitVec.ofNat 14 d.ttaId }
                         allotIdx := BitVec.ofNat 6 ix, len := 16, seq := 0, sentAt := 0 })
      else (6, d.bump R.TTA_HINT_STAT_NO_PATH 1)

/-- Send a trace trigger to the capture slot of the allotment's index on a die (R345). -/
def Dev.sendTrigger (slot die : Nat) (w : W64) (d : Dev) : Dev :=
  match d.indexOn die (d.slotAllot slot) with
  | none => d
  | some ix =>
    match (d.dieTraceSlots die).find? fun e => e.2.2.2 = ix with
    | none => d
    | some e => d.controlDie die none (.trigger (BitVec.ofNat 8 (2 ^ e.1)) (w.getLsbD 0) (w.getLsbD 1) 2 (w.extractLsb' 32 32))

/-- This twin sends a graph's verdicts (R345): the primary, both twins for a graph of the RADIO allotment; a partitioned follower sends
none for the others. -/
def Dev.postsFor (g : Graph) (d : Dev) : Bool := g.isRadio d || (g.primary && !d.cutFollower)

/-- The TTA takes a verdict transfer (R345): status of the transfer. -/
def Dev.takeVerdict (h : Nat) (g : Graph) (r : Run) (vkind die : Nat) (ws : List TWord) (d : Dev) : Nat × Dev :=
  let poison := ws.any (·.p)
  let dropped (d : Dev) : Dev := d.bump R.TTA_CHK_POISON_VERDICTS 1
  match vkind with
  | 0 => if poison then (0, dropped d) else d.sendHint g.slot die (ws.map (·.v))
  | 3 =>
    if r.reexec ∨ (if g.isRadio d then !d.leads else !d.postsFor g) = true then (0, d)
    else if poison then (0, dropped d) else (0, d.sendTrigger g.slot die ((ws.map (·.v)).getD 0 0))
  | k =>
    if r.reexec ∨ d.postsFor g = false then (0, d)
    else (0, d.updGraph h fun x => { x with held := x.held ++ [⟨r.no, r.epoch, k, die, ws⟩] })

end Sys2Proof.Machine
end

