-- ==== Sys2Proof/Machine/Save.lean ====
section
/-! DEFINITION. Save images and checkpoints (R288, R291): the byte layout, taking one, loading one, and the CHECKPOINT frames that
carry one to the standby (R217). -/
namespace Sys2Proof.Machine

/-! ## The byte layout -/

/-- The poison map of the words of a sparse store, one bit a word. -/
def poisonMap (words : Nat) (f : Nat → Bool) : List Byte :=
  (List.range (words / 8)).map fun i => BitVec.ofNat 8 ((List.range 8).foldl (fun n j => if f (8 * i + j) then n + 2 ^ j else n) 0)

def LoopLvl.word (l : LoopLvl) : W64 :=
  BitVec.ofNat 64 (l.count % 4096 + l.index % 4096 * 2 ^ 12 + l.start % 16384 * 2 ^ 24 + l.len % 4096 * 2 ^ 38)

/-- The control block: bytes 0 to 63 of the tile block of R288. -/
def Tile.control (x : Tile) : List Byte :=
  leBytes 2 x.entry ++ leBytes 2 (x.pc % 16384) ++
  wordBytes (((x.loops.map LoopLvl.word) ++ List.replicate 4 0#64).take 4) ++
  [BitVec.ofNat 8 ((if x.fault then 1 else 0) + (if x.task.isSome then 2 else 0) + (if x.wait.isSome then 4 else 0))] ++ List.replicate 27 0#8

/-- The tile block of R288: 67,584 bytes. -/
def Tile.block (x : Tile) : List Byte :=
  let reg (i : Nat) : TWord := x.reg (BitVec.ofNat 5 i)
  let ib (i : Nat) : InboxWord := x.inboxWord i
  x.control ++
  wordBytes ((List.range 32).map fun i => (reg i).v) ++ poisonMap 64 (fun i => decide (i < 32) && (reg i).p) ++
  wordBytes ((List.range 4).flatMap fun i => (x.accum (BitVec.ofNat 5 i)).image) ++
  wordBytes ((List.range 32).map fun i => (ib i).v) ++
  poisonMap 32 (fun i => (ib i).p) ++ poisonMap 32 (fun i => (ib i).full) ++ List.replicate 240 0#8 ++
  wordBytes ((List.range 8192).map fun i => (x.word i).v) ++ poisonMap 8192 fun i => (x.word i).p

/-- The state that a tile block holds; the task is the one before the next list entry. -/
def tileOfBlock (bs : List Byte) : Tile :=
  let w (o : Nat) : W64 := BitVec.ofNat 64 (leAt bs o 8)
  let bit (o i : Nat) : Bool := (bs.getD (o + i / 8) 0#8).getLsbD (i % 8)
  let lv (i : Nat) : LoopLvl :=
    let n := leAt bs (4 + 8 * i) 8
    ⟨n % 4096, n / 2 ^ 12 % 4096, n / 2 ^ 24 % 16384, n / 2 ^ 38 % 4096⟩
  let x : Tile := { entry := leAt bs 0 2, pc := leAt bs 2 2, fault := bit 36 0, loops := ((List.range 4).map lv).filter fun l => l.count != 0 }
  let x := (List.range 32).foldl (fun x i => x.setReg (BitVec.ofNat 5 i) ⟨w (64 + 8 * i), bit 320 i⟩) x
  let x := (List.range 4).foldl (fun x i =>
    x.setAccum (BitVec.ofNat 5 i) (Accum.ofImage ((List.range 6).map fun j => ⟨w (328 + 48 * i + 8 * j), false⟩))) x
  let x := (List.range 32).foldl (fun x i => x.setInbox i { v := w (520 + 8 * i), p := bit 776 i, full := bit 780 i }) x
  (List.range 8192).foldl (fun x i => x.setWord i ⟨w (1024 + 8 * i), bit 66560 i⟩) x

/-- Objects of a plan in local number order, the edge objects last. -/
def Plan.allObjs (pl : Plan) : List Nat := pl.objs ++ pl.edgeObjs.map (·.2)

/-- Tiles of a plan: the logical tiles, then the shadow tiles. -/
def Plan.allTiles (pl : Plan) : List Nat := pl.phys ++ pl.shadows

/-- A save image as bytes. -/
def GraphSave.bytes (s : GraphSave) (allot gid p sh : Nat) : List Byte :=
  [1#8] ++ [if s.boundary then 1#8 else 0#8] ++ leBytes 2 allot ++ leBytes 2 gid ++ leBytes 2 0 ++ sha384 s.image ++ leBytes 4 s.run ++
    epochBytes s.epoch ++ leBytes 2 p ++ leBytes 2 sh ++ leBytes 2 s.objs.length ++ List.replicate 182 0#8 ++
    wordBytes s.objs ++ s.tiles.flatMap Tile.block

/-- The save image that bytes hold, for a graph whose image is `image`. -/
def saveOfBytes (image bs : List Byte) : GraphSave :=
  let n := leAt bs 72 2
  { run := leAt bs 56 4, epoch := epochOf (leAt bs 60 6) (leAt bs 66 2), boundary := (bs.getD 1 0#8).getLsbD 0, image := image
    objs := (List.range n).map fun i => BitVec.ofNat 64 (leAt bs (256 + 8 * i) 8)
    tiles := (List.range (leAt bs 68 2 + leAt bs 70 2)).map fun i => tileOfBlock ((bs.drop (256 + 8 * n + 67584 * i)).take 67584) }

/-! ## Taking and loading -/

/-- The state of a graph now; `run` and `epoch` are those of the run in progress, or of the next one at a boundary. -/
def Dev.saveOf (g : Graph) (run epoch : Nat) (boundary : Bool) (d : Dev) : GraphSave :=
  { run := run, epoch := epoch, boundary := boundary, storeGen := d.storeGen g.slot, image := g.plan.image
    tiles := g.plan.allTiles.map fun t => d.tile t
    objs := g.plan.allObjs.map fun o => d.word .tta (R.TTA_SYNC_VALUE.addr + 8 * o)
    cur := g.run }

/-- The SRAM words of a plan's logical tile that hold a physical object number, with that number (SYNC_DATA, R263). -/
def Plan.objWords (pl : Plan) (l : Nat) : List (Nat × Nat) :=
  let m := parseImage pl.image
  m.fixups.flatMap fun f =>
    if f.kind ≠ 3 then [] else
    (List.range pl.tasks.length).filterMap fun t =>
      match pl.tasks[t]? with
      | none => none
      | some k =>
        if pl.place.getD t 0 = l ∧ k.dataInit ≠ 0xFFFFFFFF ∧ k.dataInit / 8 ≤ f.target ∧ f.target < k.dataInit / 8 + k.dataWords then
          some (pl.winAt.getD t 0 + (f.target - k.dataInit / 8), pl.objs.getD (leAt m.bytes (m.dataOff + 8 * f.target + 4) 2) 0)
        else none

/-- Load a saved tile into a physical tile of a plan: code words, error counts and use stay; object numbers are those of this plan
(log 32). -/
def Tile.loadSaved (s : Tile) (objs : List (Nat × Nat)) (x : Tile) : Tile :=
  let code := x.code.flatMap fun r => (List.range r.2).map (r.1 + ·)
  let sram := code.foldl (fun m a => Memory.write (fun _ => {}) m a (x.word a)) s.sram
  let y : Tile := { s with sram := sram, use := x.use, code := x.code, steps := x.steps, ce := x.ce, ue := x.ue, addrFault := x.addrFault
                           codeUe := x.codeUe, wordErrs := x.wordErrs, strikes := x.strikes, xfers := [], issued := 0, early := [], stopped := false }
  objs.foldl (fun (y : Tile) o =>
    let w := y.word o.1
    y.setWord o.1 { w with v := (w.v &&& 0xFFFF0000FFFFFFFF#64) ||| (BitVec.ofNat 64 (o.2 % 65536) <<< 32) }) y

/-- Load a saved state into a graph's tiles and objects. -/
def Dev.loadSave (g : Graph) (s : GraphSave) (d : Dev) : Dev :=
  let pl := g.plan
  let logical (i : Nat) : Nat := if i < pl.p then i else match (d.tile (pl.allTiles.getD i 0)).use with
    | some u => u.logical
    | none => 0
  let d := (List.zip pl.allTiles s.tiles).zipIdx.foldl (fun d x => d.updTile x.1.1 (x.1.2.loadSaved (pl.objWords (logical x.2)))) d
  (List.zip pl.allObjs s.objs).foldl (fun d x =>
    (d.set (R.TTA_SYNC_TARGET.at x.1) (R.TTA_SYNC_TARGET.read x.2)).set (R.TTA_SYNC_VALUE.at x.1) (R.TTA_SYNC_VALUE.read x.2)) d

/-- The state of a graph at admission: tiles loaded anew, every object's VALUE 0. -/
def Dev.freshState (h : Nat) (g : Graph) (d : Dev) : Dev :=
  g.plan.allObjs.foldl (fun d o => d.set (R.TTA_SYNC_VALUE.at o) 0) (d.loadPlan h g.slot g.plan)

/-! ## Checkpoints in transfer (R217) -/

/-- Send a checkpoint in CHECKPOINT frames. -/
def Dev.sendCkpt (g : Graph) (s : GraphSave) (d : Dev) : Dev :=
  let a := d.slotAllot g.slot
  let bs := s.bytes a g.gid g.plan.phys.length g.plan.shadows.length
  (List.range (ceilDiv bs.length 1024)).foldl (fun d i =>
    let p : Payload := .checkpoint a g.gid (1024 * i) ((bs.drop (1024 * i)).take 1024)
    d.toTwin { payload := p, cls := 7, prot := false, fwd := none, allotIdx := 0, len := payloadLen p, seq := 0, sentAt := 0 }) d

/-- Close a checkpoint with CKPT_DONE; without a partner there is no transfer. -/
def Dev.ckptClose (h : Nat) (s : GraphSave) (d : Dev) : Dev :=
  match d.graph h with
  | none => d
  | some g =>
    let n := 256 + 8 * s.objs.length + 67584 * s.tiles.length
    let now := d.ttaNs
    (d.setGraph h { g with ckptDoneNs := some now, ckpts := g.ckpts.map fun c => if c.run = s.run then { c with sent := true } else c }).sendTwin
      (s.epoch - g.plan.q) (.ckptDone (d.slotAllot g.slot) g.gid n)

end Sys2Proof.Machine
end

