-- ==== Sys2Proof/Machine/Outcome.lean ====
section
/-! DEFINITION. What a run's outcome, a vote and a round's RESULT lead to (R327 to R329, R380 to R382, R386 to R389). -/
namespace Sys2Proof.Machine

/-! ## Runs of a graph -/

/-- A run of a job: its key in a round (R319). -/
def Dev.roundKey (g : Graph) (r : Run) (group sub : Nat) (d : Dev) : RoundKey :=
  { allot := d.slotAllot g.slot, job := r.job.getD 0, epoch := r.epoch, group := group, sub := sub, replay := r.replay }

/-- The job of a run. -/
def Dev.runJob (g : Graph) (r : Run) (d : Dev) : Option Job := r.job.bind fun id => d.jobOf (d.slotAllot g.slot) id

/-- Bytes of the round logs of every graph: 8 a payload word (log 33), and the register that shows them. -/
def Dev.logBytes (d : Dev) : Nat := (d.tta.graphs.map fun (g : Nat × Graph) => (g.2.log.map fun (l : RoundLog) => 8 * l.words.length).sum).sum
def Dev.showLog (d : Dev) : Dev := d.set R.TTA_CHK_LOG_FILL_MIB (min 256 (ceilDiv d.logBytes 1048576))

/-- Put a RESULT into a graph's round log (R388). -/
def Dev.logRound (h : Nat) (l : RoundLog) (d : Dev) : Dev := (d.updGraph h fun g => { g with log := g.log ++ [l] }).showLog

/-- Complete the pending Warren transfers of a graph's run with a status. -/
def Dev.endWarren (g : Graph) (st : Nat) (d : Dev) : Dev :=
  g.plan.phys.foldl (fun d t => ((d.tile t).xfers.filter fun (f : Xfer) => f.round.isSome).foldl (fun d f => d.completeXfer t f st []) d) d

/-- Discard the held verdicts that a test selects (R345). -/
def Dev.discardHeld (h : Nat) (f : Held → Bool) (d : Dev) : Dev :=
  match d.graph h with
  | none => d
  | some g => (d.bump R.TTA_VERDICT_STAT_VOIDED (g.held.filter f).length).updGraph h fun g => { g with held := g.held.filter fun v => !f v }

/-- Stop a graph as a PAUSE would (R287). -/
def Dev.forcePause (h : Nat) (d : Dev) : Dev :=
  match d.graph h with
  | none => d
  | some g =>
    if g.state ≠ 2 then d else
    let d := g.plan.allTiles.foldl (fun d t => d.updTile t fun x => { x with stopped := true }) d
    d.putGraph h { g with state := 3 }

/-! ## Checkpoints becoming clean (R386, R388) -/

/-- Mark checkpoints clean; the newest clean one and the newer ones stay, with the runs and round log entries from it on. -/
def Dev.cleanCkpts (h : Nat) (d : Dev) : Dev :=
  match d.graph h with
  | none => d
  | some g =>
    let ok (c : GraphSave) : Bool := c.clean || g.past.all fun (p : PastRun) => decide (c.run ≤ p.run.no)
    let cs := g.ckpts.map fun c => { c with clean := ok c }
    match (cs.filter (·.clean)).getLast? with
    | none => d
    | some c =>
      let d := (d.setGraph h { g with
        ckpts := cs.filter fun x => decide (c.run ≤ x.run)
        ran := g.ran.filter fun x => decide (c.run ≤ x.1)
        log := g.log.filter fun (x : RoundLog) => decide (c.epoch ≤ x.epoch) }).showLog
      if c.sent = false ∧ g.primary = true then d.ckptClose h c else d

/-! ## Delivery (R345, R386) -/

/-- The verdicts of a run whose every predecessor has PASSED, in order. A survivor's replay posts only what its partner has not. -/
def Dev.deliverRun (h : Nat) (r : Run) (d : Dev) : Dev :=
  match d.graph h with
  | none => d
  | some g =>
    let vs := g.held.filter fun (v : Held) => v.run = r.no
    let d := d.setGraph h { g with held := g.held.filter fun (v : Held) => v.run != r.no, posted := max g.posted r.epoch }
    vs.foldl (fun d v =>
      if v.epoch ≤ g.partnerPosted then d
      else
        let d := if v.words.any (·.p) then d else d.bump R.TTA_VERDICT_STAT_POSTED 1
        d.deliverVerdict g v) d

/-- Deliver runs from the oldest on while they have PASSED. `n` bounds them. -/
def Dev.deliverPassed (h : Nat) : Nat → Dev → Dev
  | 0, d => d
  | n + 1, d =>
    match d.graph h with
    | none => d
    | some g =>
      match g.past with
      | p :: rest =>
        if p.passed = some true then ((d.setGraph h { g with past := rest }).deliverRun h p.run).deliverPassed h n else d
      | [] => d

/-! ## Rollback and replay (R387, R389) -/

/-- The procedure of R387 for the earliest voided run: steps 1 to 3 at once; the runs of steps 4 and 5 are started one by one. -/
def Dev.startRedo (h : Nat) (r : Run) (d : Dev) : Dev :=
  match d.graph h with
  | none => d
  | some g =>
    let d := d.endWarren g 7
    let d := d.discardHeld h fun v => decide (r.no ≤ v.run)
    match d.graph h with
    | none => d
    | some g =>
      let ck := (g.ckpts.filter (·.clean)).getLast?
      let d := match ck with
        | some s => d.loadSave g s
        | none => d.freshState h g
      let from_ := (ck.map (·.run)).getD 0
      let redo := (g.ran.filter fun x => decide (from_ ≤ x.1)).map fun x => (x.1, x.2.1, if x.1 < r.no then x.2.2 else x.2.2 + 1, decide (x.1 < r.no))
      d.putGraph h { g with run := none, redo := redo, redoRun := some (r.no, d.ttaNs), redoDone := 0
                            ckpts := g.ckpts.filter (·.clean), past := g.past.filter fun (p : PastRun) => decide (p.run.no < r.no) }

/-- A run is voided. -/
def Dev.voidRun (h : Nat) (r : Run) (d : Dev) : Dev :=
  match d.graph h with
  | none => d
  | some g =>
    let d := d.bump R.TTA_CHK_STAT_RUNS_VOIDED 1
    if 255 ≤ r.replay then
      let pos := ((d.runJob g r).bind fun j => j.position g.gid).getD 0
      let d := d.event .tta 4 0x3405 [r.job.getD 0, pos, r.epoch / 4000 % 2 ^ 32, r.epoch % 4000]
      let d := d.discardHeld h fun v => v.run == r.no
      (d.updGraph h fun g => { g with past := g.past.filter fun (p : PastRun) => p.run.no != r.no }).forcePause h
    else d.startRedo h r

/-- What follows from the outcomes known: delivery, clean checkpoints, and the replay of the earliest voided run. -/
def Dev.settle (h : Nat) (d : Dev) : Dev :=
  match d.graph h with
  | none => d
  | some g =>
    let d := (d.deliverPassed h g.past.length).cleanCkpts h
    match (d.graph h).bind fun g => g.past.find? fun (p : PastRun) => p.passed = some false with
    | some p => d.voidRun h p.run
    | none => d

/-- The COMMIT object of a graph's last or present run leaves OPEN. -/
def Dev.closeCommit (g : Graph) (pass : Bool) (d : Dev) : Dev :=
  let o := g.plan.commitObj
  d.setCommit o (d.commitPassed o) (d.commitMismatch o) (if pass then 1 else 2)

/-- The fleet verdict on a run (R329). -/
def Dev.voteResult (j : Job) (k : RoundKey) (void : Bool) (d : Dev) : Dev :=
  let gid := ((jobGraphs j.desc).getD k.sub (0, [])).1
  match d.graphOf j.slot gid with
  | none => d
  | some h =>
    match d.graph h with
    | none => d
    | some g =>
      let d := d.logRound h { epoch := k.epoch, group := 0, sub := k.sub, replay := k.replay, words := [{ v := if void then 1 else 0 }], status := 0 }
      let now : Bool := match g.run with
        | some r => r.epoch == k.epoch && r.replay == k.replay && r.job == some j.id && !r.reexec
        | none => false
      let d := if void then d.event .tta 4 0x3404 [k.job, k.sub, k.epoch / 4000 % 2 ^ 32, k.epoch % 4000, k.replay] else d
      let d := if void && now then d.endWarren g 7 else d
      let last : Bool := match g.past.getLast? with
        | some p => p.run.epoch == k.epoch && p.run.replay == k.replay && g.run.isNone
        | none => false
      let d := if now || last then d.closeCommit g (!void) else d
      let d := d.updGraph h fun g => { g with
        past := (g.past.map fun (p : PastRun) =>
          if p.run.epoch = k.epoch ∧ p.run.replay = k.replay ∧ p.run.job = some j.id then { p with passed := some (!void) } else p) ++
          (match g.run with
            | some r => if void && now then [{ run := r, passed := some false }] else []
            | none => []) }
      d.settle h

/-! ## Step commit (R380 to R382) -/

def Dev.gateOpen (slot : Nat) (d : Dev) : Bool := d.bit (R.TTA_CHK_GATE_OPEN.at slot)

/-- Close a step gate: event 0x4005. -/
def Dev.closeGate (slot job epoch : Nat) (d : Dev) : Dev :=
  if d.gateOpen slot then (d.set (R.TTA_CHK_GATE_OPEN.at slot) 0).event .tta 8 0x4005 [slot, job, epoch / 4000 % 2 ^ 32, epoch % 4000] else d

/-- Outcome of a step entry as the TDU gave it. -/
def StepWait.outcome (e : StepWait) : Nat := e.w0.toNat / 2 ^ 32 % 256

/-- Post the step record of an entry (R382). -/
def Dev.postStep (job outcome : Nat) (e : StepWait) (d : Dev) : Dev :=
  let r := [1#8] ++ leBytes 1 outcome ++ leBytes 2 (d.slotAllot e.slot) ++ leBytes 1 e.die ++ [0#8] ++ leBytes 2 job ++ leBytes 4 (e.w0.toNat % 2 ^ 32) ++
    epochBytes e.epoch ++ leBytes 4 (e.w1.toNat / 2 ^ 32 % 2 ^ 16) ++ leBytes 2 (e.w1.toNat / 2 ^ 48) ++ List.replicate 6 0#8
  let d := d.postCheck e.slot r
  if outcome = 0 then d.set (R.TTA_CHK_GATE_LAST_SEC.at e.slot) (e.epoch / 4000)
  else (d.bump R.TTA_CHK_STAT_STEPS_VOIDED 1).updDet fun x => { x with stepsVoided := x.stepsVoided + 1 }

/-- Local commit of one entry. -/
def Dev.localStep (e : StepWait) (d : Dev) : Dev :=
  if d.gateOpen e.slot = false then d.postStep 0 5 e
  else if e.outcome = 0 then d.postStep 0 0 e
  else (d.postStep 0 e.outcome e).closeGate e.slot 0 e.epoch

/-- The fleet verdict on the step entries of an ingest epoch. -/
def Dev.stepResult (j : Job) (epoch : Nat) (void : Bool) (d : Dev) : Dev :=
  let mine (e : StepWait) : Bool := e.slot == j.slot && e.epoch == epoch
  let es := d.tta.chk.steps.filter mine
  let d := d.updTchk fun c => { c with steps := c.steps.filter fun e => !mine e
                                       votes := c.votes.filter fun v => !(v.1 == j.slot && v.2.1 == j.id && v.2.2.1 == epoch) }
  let d := es.foldl (fun d e =>
    d.postStep j.id (if !void then 0 else if e.gated then 5 else if e.outcome = 0 then 4 else e.outcome) e) d
  if void then d.closeGate j.slot j.id epoch else d

/-! ## A round's RESULT (R324) -/

/-- Finish one transfer of a round: the window under the STORE key, the round log, STATUS and OBJ. -/
def Dev.finishRound (h t : Nat) (f : Xfer) (kind : Nat) (k : RoundKey) (ws : List TWord) (d : Dev) : Dev :=
  match d.graph h with
  | none => d
  | some g =>
    let st := if payloadPoison kind ws then 5 else 0
    let d := d.histWrites (d.storeGen g.slot) (areaBase 4 g.slot + f.remote % 2 ^ 20) ws
    let d := d.logRound h { epoch := k.epoch, group := k.group, sub := k.sub, replay := k.replay, words := ws, status := st }
    let d := if st = 5 then d.updGraph h fun g => { g with run := g.run.map fun r => { r with poisoned := true } } else d
    d.completeXfer t f st []

/-- The RESULT of a data round reaches this member. -/
def Dev.dataResult (j : Job) (k : RoundKey) (kind : Nat) (ws : List TWord) (d : Dev) : Dev :=
  (jobGraphs j.desc).foldl (fun d gd =>
    match d.graphOf j.slot gd.1 with
    | none => d
    | some h =>
      match d.graph h with
      | none => d
      | some g =>
        match g.run with
        | none => d
        | some r =>
          if r.job = some j.id ∧ r.epoch = k.epoch ∧ r.replay = k.replay ∧ r.reexec = false then
            g.plan.phys.foldl (fun d t =>
              ((d.tile t).xfers.filter fun (f : Xfer) => f.round = some (k.group, k.sub)).foldl (fun d f => d.finishRound h t f kind k ws) d) d
          else d) d

/-- A RESULT becomes known on this TTA: counted; packets of its round stop; what it decides happens. -/
def Dev.roundResult (j : Job) (k : RoundKey) (kind : Nat) (ws : List TWord) (d : Dev) : Dev :=
  if (d.roundSeen k).result.isSome then d else
  let d := (d.putRound { d.roundSeen k with result := some ws }).bump R.TTA_WRN_STAT_ROUNDS 1
  let d := d.dropPackets fun p => p.proto == 0 && (leAt p.hdr 1 1 == 1 || leAt p.hdr 1 1 == 3) && p.allot == k.allot && p.job == k.job &&
    p.epoch == k.epoch && p.group == k.group && p.sub == k.sub && p.replay == k.replay
  let void := ((ws.getD 0 {}).v).getLsbD 0
  if k.group ≠ 0 then d.dataResult j k kind ws
  else if k.sub = 16 then d.stepResult j k.epoch void
  else d.voteResult j k void

/-- A payload that this tray as root completed goes down and counts here. -/
def Dev.rootResult (j : Job) (k : RoundKey) (kind : Nat) (ws : Option (List TWord)) (d : Dev) : Dev :=
  match ws with
  | none => d
  | some ws => (d.sendDown j k kind ws).roundResult j k kind ws

/-- Give this tray's payload to a round (R322, R327): the contributor sends it, another twin that has one compares it. -/
def Dev.giveRound (j : Job) (k : RoundKey) (kind : Nat) (send : Bool) (ws : List TWord) (d : Dev) : Dev :=
  let (ok, d) := d.freeOlder k
  if ok = false then d
  else if send then
    let (res, d) := d.contribute j k kind ws
    d.rootResult j k kind res
  else d.noteLeaf j k true ws

/-- A tray's step vote for an ingest epoch (R380), with the entries that it decides. -/
def Dev.stepVote (j : Job) (epoch : Nat) (es : List StepWait) (d : Dev) : Dev :=
  let gate := d.gateOpen j.slot
  let void := !gate || es.any fun e => e.outcome != 0
  let d := d.updTchk fun c => { c with steps := c.steps ++ es.map fun e => { e with gated := !gate }
                                       votes := c.votes ++ [(j.slot, j.id, epoch, void)] }
  let k : RoundKey := { allot := j.allot, job := j.id, epoch := epoch, group := 0, sub := 16, replay := 0 }
  let d := d.giveRound j k 0 (d.contributes true true) [{ v := if void then 1 else 0 }]
  match (d.roundSeen k).result with
  | some ws => d.stepResult j epoch (((ws.getD 0 {}).v).getLsbD 0)
  | none => d

/-- The job whose fleet commit an allotment's steps follow in an epoch: RUNNING, COMMIT_FLEET, the lowest number. -/
def Dev.stepJob (slot epoch : Nat) (d : Dev) : Option Job :=
  (d.tta.wrn.jobs.filter fun j => j.slot == slot && (j.state == 1 || j.state == 2) && jobFleet j.desc && decide (j.goNs ≤ epochEnd epoch) &&
    (j.endNs == 0 || decide (epochEnd epoch < j.endNs))).foldl (fun (b : Option Job) j =>
      match b with
      | some x => if x.id ≤ j.id then b else some j
      | none => some j) none

/-- The step entries of a slot that a decided epoch holds. -/
def Dev.stepsDecided (slot epoch : Nat) (es : List StepWait) (d : Dev) : Dev :=
  match d.stepJob slot epoch with
  | some j => d.stepVote j epoch es
  | none => es.foldl (fun d e => d.localStep e) d

/-- Gates whose boundary has come (R381). -/
def Dev.openGates (n : Nat) (d : Dev) : Dev :=
  (d.tta.slotsX.map (·.1)).foldl (fun d slot =>
    match (d.slotX slot).reopen with
    | none => d
    | some (job, b) =>
      if n < b then d else
      let d := (d.updSlotX slot fun s => { s with reopen := none }).set (R.TTA_CHK_GATE_PENDING.at slot) 0
      if d.gateOpen slot then d else
      (d.set (R.TTA_CHK_GATE_OPEN.at slot) 1).event .tta 8 0x4006 [slot, job, b / 4000 % 2 ^ 32, b % 4000]) d

end Sys2Proof.Machine
end

