-- ==== Sys2Proof/Machine/Transfer.lean ====
section
/-! DEFINITION. XFER and the completion of boundary transfers (R254 to R256, R321, R322, R343 to R345). -/
namespace Sys2Proof.Machine

/-! ## Egress handles -/

/-- The checks of R344 on a verdict handle: status and check number of the first that fails. -/
def Dev.verdictCheck (g : Graph) (remote words : Nat) (d : Dev) : Option (Nat × Nat) :=
  let vk := remote / 2 ^ 56 % 16
  let die := remote / 2 ^ 52 % 16
  let row : Bool := match vk with
    | 0 => g.plan.stamp && g.isRadio d
    | 2 | 4 => !g.plan.stamp && g.slot == 0
    | _ => !g.plan.stamp
  let size := match vk with
    | 0 => 2
    | 1 => 4
    | _ => 1
  if 4 < vk then some (4, 1) else if row = false then some (4, 2) else if words ≠ size then some (2, 3)
  else if d.dieEnabled die = false then some (4, 4) else none

/-- The checks of R321 on a Warren handle: the status of the first that fails. -/
def Dev.warrenCheck (g : Graph) (r : Run) (remote words : Nat) (d : Dev) : Option Nat :=
  let group := remote / 2 ^ 48 % 4096
  let sub := remote / 2 ^ 40 % 256
  match (if g.plan.stamp then none else d.runJob g r) with
  | none => some 4
  | some j =>
    match (jobGroups j.desc).find? fun x => x.1 = group with
    | none => some 4
    | some (_, _, len) =>
      if 8 * words ≠ len ∨ 2 ^ 20 < remote % 2 ^ 20 + len then some 2
      else if r.rounds.contains (group, sub) then some 4 else none

/-- The checks of R255 on the descriptor's own fields. -/
def Dev.xferCheck (slot h kind words loc remote : Nat) (d : Dev) : Nat :=
  if 3 < kind then 4 else if words = 0 then 1 else if 8192 < loc + words then 2 else if remote % 32 ≠ 0 then 3
  else if kind < 2 ∧ d.denied slot h remote words (kind == 1) = true then 4 else 0

/-- The status of a transfer's checks; a verdict handle that fails is counted and recorded. -/
def Dev.egressCheck (g : Graph) (r : Run) (remote words : Nat) (d : Dev) : Nat × Dev :=
  match remote / 2 ^ 60 % 16 with
  | 1 => ((d.warrenCheck g r remote words).getD 0, d)
  | 2 =>
    match d.verdictCheck g remote words with
    | none => (0, d)
    | some (st, n) => (st, (d.bump R.TTA_VERDICT_STAT_REFUSED 1).event .tta 8 0x5001 [g.slot, remote / 2 ^ 56 % 16, st, n])
  | _ => (4, d)

/-! ## Issue -/

/-- A Warren transfer is under way: the payload goes to its round, or, in a re-executed run, the round log answers (R387). -/
def Dev.issueWarren (h t : Nat) (g : Graph) (r : Run) (f : Xfer) (ws : List TWord) (d : Dev) : Dev :=
  let group := f.remote / 2 ^ 48 % 4096
  let sub := f.remote / 2 ^ 40 % 256
  let f := { f with round := some (group, sub) }
  let d := (d.updTile t fun x => { x with xfers := x.xfers.map fun (e : Xfer) => if e.id = f.id then f else e }).updGraph h fun g =>
    { g with run := g.run.map fun r => { r with rounds := r.rounds ++ [(group, sub)] } }
  if r.reexec then
    match (g.log.filter fun (l : RoundLog) => l.epoch == r.epoch && l.group == group && l.sub == sub).getLast? with
    | some l => (if l.words = [] then d else d.histWrites (d.storeGen g.slot) (areaBase 4 g.slot + f.remote % 2 ^ 20) l.words).completeXfer t f l.status []
    | none => d.completeXfer t f 6 []
  else if g.decisions.contains (r.no, r.replay, group * 256 + sub, 1) then d.completeXfer t f 6 []
  else match d.runJob g r with
  | none => d
  | some j =>
    let kind := (((jobGroups j.desc).find? fun x => x.1 = group).map (·.2.1)).getD 0
    let k := d.roundKey g r group sub
    let d := d.giveRound j k kind (d.contributes (g.isRadio d) g.primary) ws
    match (d.roundSeen k).result, (d.tile t).xfers.any fun (e : Xfer) => e.id == f.id && e.round.isSome with
    | some res, true => d.finishRound h t f kind k res
    | _, _ => d

/-- A shadow tile's transfer is only folded; what the primary's gather or STATUS brought, or will bring, is written to it too (R274). -/
def Dev.issueShadow (t : Nat) (f : Xfer) (d : Dev) : Dev :=
  d.updTile t fun x =>
    match x.early.find? fun e => e.1 = f.id with
    | some (_, st, ws) => { x.finishXfer f st ws with early := x.early.filter fun e => e.1 != f.id }
    | none => { x with xfers := x.xfers ++ [{ f with mirror := true }] }

/-- XFER (R254): a fifth transfer waits; a descriptor that is not wholly in SRAM is an address fault (log 34). -/
def xferBody (t : Nat) (f : IFmt) (i : Instr) (d : Dev) : Dev × Bool :=
  let x := d.tile t
  let a := x.addr f.a f.imm.toInt
  if 4 ≤ x.xfers.length then (d, false)
  else if (inSram a && inSram (a + 3)) = false then (d.addrFault t a true i, true)
  else
    let w (k : Nat) : TWord := x.word (a.toNat + k)
    let n (k : Nat) : Nat := (w k).v.toNat
    let words := n 0 % 65536
    let kind := n 0 / 2 ^ 52 % 16
    let loc := n 2 % 8192
    let poison := (x.reg f.a).p || (List.range 4).any fun k => (w k).p
    let load : List TWord := if kind = 0 then [] else (List.range words).map fun k =>
      if loc + k < 8192 then let y := x.word (loc + k); { y with p := y.p || poison } else {}
    let xf : Xfer := { id := x.issued, addr := a.toNat, kind := kind, obj := n 0 / 2 ^ 32 % 65536, words := words, remote := n 1, loc := loc
                       deadline := n 3 % 2 ^ 32, status := 0, mirror := false, round := none, poison := poison, task := x.task }
    let d := (List.range 4).foldl (fun d k => d.foldOut t 3 (w k).p (a.toNat + k) (w k).v) d
    let d := load.zipIdx.foldl (fun d y => d.foldOut t 4 y.1.p (loc + y.2) y.1.v) d
    let d := d.updTile t fun x => { x with issued := x.issued + 1 }
    if d.isShadow t then (d.issueShadow t xf, true) else
    let slot := d.tileSlot t
    let h := ((d.tileGraph t).map (·.1)).getD 1024
    let run := (d.tileGraph t).bind fun hg => hg.2.run.map fun r => (hg.2, r)
    let st := d.xferCheck slot h kind words loc (n 1)
    let (st, d) := if st ≠ 0 ∨ kind ≠ 2 then (st, d) else match run with
      | none => (4, d)
      | some (g, r) => d.egressCheck g r (n 1) words
    let xf := { xf with status := st }
    let d := d.updTile t fun x => { x with xfers := x.xfers ++ [xf], fault := x.fault || (decide (st ≠ 0) && decide (1 ≤ kind ∧ kind ≤ 3) && x.task.isSome) }
    if kind ≠ 2 ∨ st ≠ 0 then (d, true) else
    let d := if load.any (·.p) then d.updGraph h fun g => { g with run := g.run.map fun r => { r with poisoned := true } } else d
    match run with
    | some (g, r) => if n 1 / 2 ^ 60 % 16 = 1 then (d.issueWarren h t g r xf load, true) else (d, true)
    | none => (d, true)

def execXfer (t : Fin 10240) (f : IFmt) (x : TileEcc) (s : State) := s.tileInsn t (.xfer t f x) x (xferBody t.val f (.xfer t f x))

/-! ## Completion -/

/-- XFER_COMPLETE (R255): a transfer whose checks failed writes what R255 says; a gather and a scatter move their words; a verdict is taken;
a Warren transfer completes with its RESULT and not here. -/
def xferComplete (t : Nat) (id : Nat) (d : Dev) : Dev :=
  match (d.tile t).xfers.find? fun (f : Xfer) => f.id == id && !f.mirror && f.round.isNone with
  | none => d
  | some f =>
    if f.status ≠ 0 then d.completeXfer t f f.status f.failWords else
    if (f.kind = 0 ∨ f.kind = 1) ∧ d.pageAwaited f.remote (8 * f.words) = true then d else
    let slot := d.tileSlot t
    let h := ((d.tileGraph t).map (·.1)).getD 1024
    let load : List TWord := (List.range f.words).map fun k => let y := (d.tile t).word (f.loc + k); { y with p := y.p || f.poison }
    match f.kind with
    | 0 =>
      let ((st, ws), d) := d.gather slot h f.remote f.words
      if ws.length = f.words then d.completeXfer t f st (ws.map fun w => { w with p := w.p || f.poison })
      else d.completeXfer t f st f.failWords
    | 1 => (d.histWrites (d.storeGen slot) f.remote load).completeXfer t f 0 []
    | 2 =>
      match d.tileGraph t with
      | some (h, g) =>
        match g.run with
        | some r =>
          let (st, d) := d.takeVerdict h g r (f.remote / 2 ^ 56 % 16) (f.remote / 2 ^ 52 % 16) load
          d.completeXfer t f st []
        | none => d.completeXfer t f 4 []
      | none => d.completeXfer t f 4 []
    | _ => (d.emit (.mailbox t f.remote load)).completeXfer t f 0 []

def execXferComplete (t : Fin 10240) (id : Nat) (s : State) := s.run (xferComplete t.val id)

end Sys2Proof.Machine
end

