-- ==== Sys2Proof/Machine/Admit.lean ====
section
/-! DEFINITION. Admission, replacement and removal of graphs (R264 to R267, R282, R284 to R286), and what the twins agree about them. -/
namespace Sys2Proof.Machine

/-! ## Freeing -/

/-- Clear tiles. -/
def Dev.clearTiles (ts : List Nat) (d : Dev) : Dev := ts.foldl (fun d t => d.clearTile t) d

/-- Remove a graph (R285): tiles cleared, objects freed, event 0x3203. A REPLACE that waits ends with TIMEOUT. -/
def Dev.freeGraph (h : Nat) (d : Dev) : Dev :=
  match d.graph h with
  | none => d
  | some g =>
    let d := d.clearTiles g.plan.allTiles
    let d := if g.plan.objs = [] then d else d.freePlanObjs g.plan
    let d := match g.replace with
      | none => d
      | some r =>
        let d := if r.own then (d.clearTiles r.plan.allTiles).freePlanObjs r.plan else d
        d.complete r.q 0x31 6 []
    let d := match g.pauseQ with
      | some (op, q) => d.complete q op 0xA []
      | none => d
    let d := { d with tta := { d.tta with graphs := assocDel h d.tta.graphs } }
    let d := d.updDet fun x => { x with routes := x.routes.filter fun e => e.2 != h }
    (d.showGraph h).showResident.showLog

/-- A REMOVE that takes effect. -/
def Dev.removeGraph (h : Nat) (d : Dev) : Dev :=
  match d.graph h with
  | none => d
  | some g =>
    let d := (d.freeGraph h).event .tta 5 0x3203 [g.slot, h]
    match g.removeQ with
    | some q => d.complete q 0x32 0 []
    | none => d

/-! ## Roles (R22, R282) -/

/-- Steps per epoch, in steps per second, of the tenant and platform graphs for which this twin, or its partner, is primary. -/
def Dev.loadOf (own : Bool) (d : Dev) : Nat :=
  (d.tta.graphs.map fun (e : Nat × Graph) =>
    if e.2.isRadio d = false ∧ e.2.firstRun.isSome = true ∧ e.2.primary = own then (e.2.plan.tasks.map (·.steps)).sum * (4000 / max 1 e.2.plan.q) else 0).sum

/-- First graph epoch that closes at or after a presented time. -/
def epochAfter (ns q : Nat) : Nat := ceilDiv ns (250000 * max 1 q) * max 1 q

/-- The first-run agreement on this twin. -/
def Dev.setFirstRun (h : Nat) (primary : Bool) (epoch : Nat) (treeNan : Bool) (d : Dev) : Dev :=
  match d.graph h with
  | none => d
  | some g =>
    if g.state ≠ 1 ∨ g.firstRun.isSome = true then d else
    d.putGraph h { g with primary := primary, firstRun := some epoch, nextEpoch := epoch, plan := { g.plan with treeNan := treeNan } }

/-- The lead fixes the primary and the first run once both twins have committed; a twin without a partner decides alone (R282). A graph of
the RADIO allotment needs no agreement: each twin runs it from its own commit on. -/
def Dev.agreeFirstRun (h : Nat) (d : Dev) : Dev :=
  match d.graph h with
  | none => d
  | some g =>
    if g.state ≠ 1 ∨ g.ownCommit = false then d else
    let first := epochAfter (d.ttaNs + 1000000) g.plan.q
    if g.plan.stamp then d.putGraph h { g with state := 2, firstRun := some 0 }
    else if g.isRadio d then d.setFirstRun h false first g.plan.treeNan
    else if d.twinState = 1 ∨ d.twinState = 2 then d.setFirstRun h true first g.plan.treeNan
    else if g.partnerCommit ∧ d.leads = true then
      let own := d.loadOf true
      let other := d.loadOf false
      let me : Bool := if own = other then d.twinNo == 0 else decide (own < other)
      let twin := if me then d.twinNo else 1 - d.twinNo
      (d.sendRole (.firstRun (d.slotAllot g.slot) g.gid twin first g.plan.treeNan)).setFirstRun h me first g.plan.treeNan
    else d

/-- Graphs whose first-run boundary comes become ACTIVE (R286). -/
def Dev.activateGraphs (n : Nat) (d : Dev) : Dev :=
  d.tta.graphs.foldl (fun d e =>
    match d.graph e.1 with
    | none => d
    | some g => match g.state, g.firstRun with
      | 1, some f => if f ≤ n then d.putGraph e.1 { g with state := 2, ckptEpoch := n } else d
      | _, _ => d) d

/-! ## Descriptors -/

/-- A refused admission: counted, event 0x3201. -/
def Dev.admitFail (op : Nat) (q : Desc) (st check : Nat) (d : Dev) : Dev :=
  (((d.bump R.TTA_SCHED_STAT_REFUSED 1).set R.TTA_SCHED_STAT_LAST_STATUS st).event .tta 5 0x3201 [descSlot q, st, check]).complete q op st []

/-- Bytes of the plans and graph images region in use: the Warren windows of 1 MiB of every slot and the images (log 35). -/
def Dev.plansUsed (d : Dev) : Nat :=
  256 * 2 ^ 20 + (d.tta.graphs.map fun (e : Nat × Graph) => e.2.plan.image.length + ((e.2.replace.map fun r => r.plan.image.length).getD 0)).sum

/-- The checks of R265 up to the cycle check, and the logical plan. -/
def Dev.admitChecks (op : Nat) (q : Desc) (addr : W64) (img : Fetch) (d : Dev) : Except (Nat × Nat) Plan :=
  let slot := descSlot q
  let len := q.length.toNat
  match d.headerCheck op q with
  | some st => .error (st, 1)
  | none =>
    if addr.toNat % 64 ≠ 0 then .error (3, 2)
    else if d.slotActive slot = false then .error (4, 3)
    else if d.parked = true ∨ (op = 0x30 ∧ 1024 ≤ d.tta.graphs.length) ∨ regionSize 4 < d.plansUsed + len then .error (9, 4)
    else match img with
    | .data bs =>
      let resident := (d.graphOf slot (leAt bs 6 2)).isSome
      if leAt bs 4 2 ≠ d.slotAllot slot ∨ (leAt bs 1 1 % 2 = 1 ∧ d.slotRadio slot = false) then .error (4, 6)
      else if imageOk bs len = false ∨ resident ≠ decide (op = 0x31) then .error (0xA, 7)
      else match logicalPlan bs (d.slotRadio slot) (d.bit R.TTA_COMPAT_TREE_NAN) with
        | .error false => .error (0xB, 8)
        | .error true => .error (9, 9)
        | .ok p => .ok p
    | f => .error (f.status, 5)

/-- A descriptor starts unless its FENCE holds it. -/
def Dev.unfenced (q : Desc) (d : Dev) : Bool := !(d.fenceHolds q && (d.fnq q.fn).inflight.contains (q.ring.val, q.index.toNat))

/-- GRAPH_ADMIT: the checks up to R268; the graph is ADMITTING until ADMISSION_DONE. -/
def graphAdmit (q : Desc) (addr : W64) (img : Fetch) (d : Dev) : Dev :=
  if d.unfenced q = false then d else
  match d.admitChecks 0x30 q addr img with
  | .error (st, n) => d.admitFail 0x30 q st n
  | .ok pl =>
    match (List.range 1024).find? fun i => (assocGet i d.tta.graphs).isNone with
    | none => d.admitFail 0x30 q 9 4
    | some h =>
      let d := d.putGraph h { slot := descSlot q, gid := leAt pl.image 6 2, plan := pl, admitQ := some q }
      (d.showResident).set R.TTA_SCHED_STAT_BUSY 1

def execGraphAdmit (q : Desc) (addr : W64) (img : Fetch) (s : State) := s.run (graphAdmit q addr img)

/-- GRAPH_REPLACE (R284). A second REPLACE of a graph that has one pending finds no place for its plan (log 36). -/
def graphReplace (q : Desc) (addr : W64) (img : Fetch) (actSec : Nat) (d : Dev) : Dev :=
  if d.unfenced q = false then d else
  match d.admitChecks 0x31 q addr img with
  | .error (st, n) => d.admitFail 0x31 q st n
  | .ok pl =>
    match d.graphOf (descSlot q) (leAt pl.image 6 2) with
    | none => d.admitFail 0x31 q 0xA 7
    | some h =>
      match d.graph h with
      | none => d.admitFail 0x31 q 0xA 7
      | some g =>
        if g.replace.isSome then d.admitFail 0x31 q 9 9
        else (d.putGraph h { g with replace := some { plan := pl, actSec := actSec, q := q } }).set R.TTA_SCHED_STAT_BUSY 1

def execGraphReplace (q : Desc) (addr : W64) (img : Fetch) (actSec : BitVec 48) (s : State) := s.run (graphReplace q addr img actSec.toNat)

/-- A descriptor that names a resident graph of its slot. -/
def Dev.graphDesc (op : Nat) (q : Desc) (gid : Nat) (body : Nat → Graph → Dev → Dev) (d : Dev) : Dev :=
  d.runDesc op q (fun d =>
    match d.graphOf (descSlot q) gid with
    | none => d.complete q op 0xA []
    | some h => match d.graph h with
      | some g => body h g d
      | none => d.complete q op 0xA [])

/-- GRAPH_REMOVE (R285): at once when WAITING or PAUSED or between runs; held while ADMITTING, PAUSING or in a run. -/
def graphRemove (q : Desc) (gid : Nat) (d : Dev) : Dev :=
  d.graphDesc 0x32 q gid (fun h g d =>
    let d := d.setGraph h { g with removeQ := some q }
    if g.state = 1 ∨ g.state = 4 ∨ (g.state = 2 ∧ g.run.isNone = true) then d.removeGraph h else d)

def execGraphRemove (q : Desc) (gid : BitVec 16) (s : State) := s.run (graphRemove q gid.toNat)

/-! ## ADMISSION_DONE -/

/-- Save images of every tenant and platform graph, with one more plan (R267). -/
def Dev.saveTotal (d : Dev) : Nat :=
  (d.tta.graphs.map fun (e : Nat × Graph) => if e.2.isRadio d ∨ e.2.state = 0 then 0 else e.2.plan.saveBytes).sum

/-- The placement of a plan and its budgets (check 9): the mapped plan with its objects allocated. -/
def Dev.placePlan (slot : Nat) (pl : Plan) (d : Dev) : Option (Plan × Dev) :=
  if pl.dOk = false ∨ (d.slotRadio slot = false ∧ 2 ^ 30 < d.saveTotal + pl.saveBytes) ∨
      d.get R.TTA_SYNC_STAT_FREE < pl.syncs + 2 + pl.edgeTasks.length then none
  else (d.mapPlan slot pl).map fun p => d.allocObjs slot p

/-- Commit an admitted plan: tiles loaded, WAITING; the partner is told. -/
def Dev.commitPlan (h : Nat) (g : Graph) (pl : Plan) (d : Dev) : Dev :=
  let d := (d.loadPlan h g.slot pl).putGraph h { g with state := 1, plan := pl, admitQ := none, ownCommit := true }
  (d.sendRole (.commit (d.slotAllot g.slot) g.gid false)).agreeFirstRun h

/-- The tiles of a shadow plan are kept for it under a handle that no graph has. -/
def Dev.reservePlan (h : Nat) (pl : Plan) (d : Dev) : Dev :=
  let d := pl.phys.zipIdx.foldl (fun d x => d.updTile x.1 fun t => { t with use := some ⟨h + 2048, x.2, false⟩ }) d
  pl.shadows.zipIdx.foldl (fun d x => d.updTile x.1 fun t => { t with use := some ⟨h + 2048, x.2, true⟩ }) d

/-- The boundary of a replacement (R284): the lead fixes it when both twins have committed the shadow plan. -/
def Dev.agreeSwitch (h : Nat) (d : Dev) : Dev :=
  match d.graph h with
  | none => d
  | some g =>
    match g.replace with
    | none => d
    | some r =>
      if r.own = false ∨ r.at_.isSome = true then d else
      let b := max (r.actSec * 4000) (ceilDiv (d.ttaNs + 1000000) 250000)
      let alone : Bool := g.isRadio d || d.twinState == 1 || d.twinState == 2
      if alone then d.setGraph h { g with replace := some { r with at_ := some b } }
      else if r.partner ∧ d.leads = true then
        (d.sendRole (.planSwitch (d.slotAllot g.slot) g.gid b)).setGraph h { g with replace := some { r with at_ := some b } }
      else d

/-- ADMISSION_DONE: the last check, and the commit of the plan or of the shadow plan. A held REMOVE follows. -/
def admissionDone (h : Nat) (tick : Nat) (d : Dev) : Dev :=
  let d := d.advance .tta tick
  match d.graph h with
  | none => d
  | some g =>
    let d' := d.set R.TTA_SCHED_STAT_BUSY 0
    if g.state = 0 then
      match g.admitQ with
      | none => d
      | some q =>
        match d'.placePlan g.slot g.plan with
        | none =>
          let d := ({ d' with tta := { d'.tta with graphs := assocDel h d'.tta.graphs } }).showGraph h |>.showResident
          let d := d.admitFail 0x30 q 9 9
          match g.removeQ with
          | some r => d.complete r 0x32 0xA []
          | none => d
        | some (pl, d) =>
          let d := ((d.bump R.TTA_SCHED_STAT_ADMITTED 1).set R.TTA_SCHED_STAT_LAST_STATUS 0).commitPlan h g pl
          let d := d.event .tta 5 0x3200 [g.slot, h, pl.p + pl.shadows.length, pl.planNs]
          let d := d.complete q 0x30 0 [(24, 2, h), (28, 4, pl.planNs)]
          if g.removeQ.isSome then d.removeGraph h else d
    else match g.replace with
    | none => d
    | some r =>
      if r.own then d else
      match d'.placePlan g.slot r.plan with
      | none => (d'.putGraph h { g with replace := none }).admitFail 0x31 r.q 9 9
      | some (pl, d) =>
        let d := (d.reservePlan h pl).putGraph h { g with replace := some { r with plan := pl, own := true } }
        (d.sendRole (.commit (d.slotAllot g.slot) g.gid true)).agreeSwitch h

def execAdmissionDone (h : Fin 1024) (tick : Nat) (s : State) := s.run (admissionDone h.val tick)

/-- REPLACE_TIMEOUT (R284): ACT_SEC + 1 s has passed without a run of the new plan. -/
def replaceTimeout (h : Nat) (tick : Nat) (d : Dev) : Dev :=
  let d := d.advance .tta tick
  match d.graph h with
  | none => d
  | some g =>
    match g.replace with
    | none => d
    | some r =>
      if d.ttaNs < (r.actSec + 1) * 1000000000 then d else
      let d := if r.own then (d.clearTiles r.plan.allTiles).freePlanObjs r.plan else d
      (d.putGraph h { g with replace := none }).complete r.q 0x31 6 []

def execReplaceTimeout (h : Fin 1024) (tick : Nat) (s : State) := s.run (replaceTimeout h.val tick)

/-- The new plan comes into force before a run (R284): loaded, event 0x3202; the old plan is freed; the run number restarts. -/
def Dev.switchPlan (h : Nat) (g : Graph) (r : Replace) (b : Nat) (d : Dev) : Dev :=
  let d := (d.clearTiles g.plan.allTiles).freePlanObjs g.plan
  let d := d.loadPlan h g.slot r.plan
  let q := max 1 r.plan.q
  let d := d.putGraph h { g with plan := r.plan, replace := none, runNo := 0, nextEpoch := ceilDiv b q * q + q, past := [], held := [], ckpts := []
                                 ran := [], log := [], standby := none, ckptIn := [], ckptEpoch := b, ckptDoneNs := some 0 }
  (d.event .tta 5 0x3202 [g.slot, h]).complete r.q 0x31 0 [(24, 2, h), (28, 4, r.plan.planNs)]

/-! ## ROLE messages about graphs -/

def Dev.roleCommit (allot gid : Nat) (shadow : Bool) (d : Dev) : Dev :=
  match (d.slotHolding allot).bind fun n => d.graphOf n gid with
  | none => d
  | some h =>
    if shadow then (d.updGraph h fun g => { g with replace := g.replace.map fun r => { r with partner := true } }).agreeSwitch h
    else (d.updGraph h fun g => { g with partnerCommit := true }).agreeFirstRun h

def Dev.roleFirstRun (allot gid primary epoch : Nat) (treeNan : Bool) (d : Dev) : Dev :=
  match (d.slotHolding allot).bind fun n => d.graphOf n gid with
  | none => d
  | some h => d.setFirstRun h (primary == d.twinNo) epoch treeNan

def Dev.rolePlanSwitch (allot gid epoch : Nat) (d : Dev) : Dev :=
  match (d.slotHolding allot).bind fun n => d.graphOf n gid with
  | none => d
  | some h => d.updGraph h fun g => { g with replace := g.replace.map fun r => { r with at_ := some epoch } }

end Sys2Proof.Machine
end

