-- ==== Sys2Proof/Machine/Runs.lean ====
section
/-! DEFINITION. Runs of a graph (R270, R273, R278 to R283), checkpoints (R217), and pausing, saving, restoring and resuming a graph
(R287 to R289). -/
namespace Sys2Proof.Machine

/-! ## The decided index (R270, R397) -/

/-- The decided blocks of an ingest epoch that an allotment owns, by key. -/
def Dev.decidedOwn (allot n : Nat) (d : Dev) : List (Nat × Block) :=
  match assocGet n d.tta.ing.epochs with
  | none => []
  | some e => sortBy (fun a b => decide (a.1 ≤ b.1)) (e.blocks.filter fun (b : Nat × Block) => b.2.mark == 0 && b.2.allot == allot)

/-- The decided index of one ingest epoch: 16 maps of 6 words, then an address word a block. -/
def Dev.indexOf (allot n : Nat) (d : Dev) : List W64 :=
  let bs := d.decidedOwn allot n
  ((List.range 96).map fun i => BitVec.ofNat 64 (bs.foldl (fun (w : Nat) b =>
    if b.1 / 384 = i / 6 ∧ b.1 % 384 / 64 = i % 6 then w + 2 ^ (b.1 % 64) else w) 0)) ++
  bs.map fun b => BitVec.ofNat 64 (b.2.addr % 2 ^ 38 + (if b.2.poison then 2 ^ 63 else 0))

/-- The ingest epoch is decided on this TTA: it is in the watermark log. -/
def Dev.epochDecided (n : Nat) (d : Dev) : Bool := d.tta.ing.log.any fun e => e.epoch == n

/-! ## Starting a run -/

/-- Shadow tiles of k > 0 take over the whole state of the logical tile they duplicate in this run (R273). -/
def Dev.rotateShadows (h : Nat) (pl : Plan) (no : Nat) (d : Dev) : Dev :=
  if pl.k = 0 then d else
  let s := pl.shadows.length
  pl.shadows.zipIdx.foldl (fun d x =>
    let l := (no * s + x.2) % max 1 pl.p
    let src := d.tile (pl.phys.getD l 0)
    d.updTile x.1 fun o => { src with use := some ⟨h, l, true⟩, steps := o.steps, ce := o.ce, ue := o.ue, addrFault := o.addrFault
                                      codeUe := o.codeUe, wordErrs := o.wordErrs, strikes := o.strikes, xfers := [] }) d

/-- The run descriptor in words 8,184 to 8,191 (R270). -/
def runWords (h q : Nat) (r : Run) : List W64 :=
  [BitVec.ofNat 64 (r.epoch / 4000), BitVec.ofNat 64 (r.epoch % 4000 + q * 65536), BitVec.ofNat 64 r.no, BitVec.ofNat 64 (indexBase h)] ++
    (r.stampWords ++ List.replicate 4 0#64).take 4

/-- A tile at the start of a run: its list from the first entry, the run descriptor written. -/
def Tile.startRun (ws : List W64) (x : Tile) : Tile :=
  let x := { x with entry := 0, task := none, wait := none, fault := false, loops := [], issued := 0, early := [], stopped := false, sig := 0 }
  ws.zipIdx.foldl (fun x w => x.setWord (8184 + w.2) ⟨w.1, false⟩) x

/-- Tasks on duplicated logical tiles: EXPECT. -/
def Dev.expectOf (pl : Plan) (d : Dev) : Nat :=
  let dup := pl.shadows.filterMap fun t => (d.tile t).use.map (·.logical)
  ((List.range pl.tasks.length).filter fun t => dup.contains (pl.place.getD t 0)).length

/-- Reset the objects of a graph for a run (R276); RUN counts. -/
def Dev.resetObjs (pl : Plan) (d : Dev) : Dev :=
  let d := pl.allObjs.foldl (fun d o => if d.get (R.TTA_SYNC_TYPE.at o) = 1 then d.set (R.TTA_SYNC_VALUE.at o) 0 else d) d
  let ro := pl.runObj
  let d := d.set (R.TTA_SYNC_VALUE.at ro) (d.get (R.TTA_SYNC_VALUE.at ro) + 1)
  (d.set (R.TTA_SYNC_TARGET.at pl.commitObj) (d.expectOf pl)).setCommit pl.commitObj 0 0 0

/-- A tile that reached STRIKE_MAX is tested before the run (R394): the result is a free value; a failed test retires it. -/
def Dev.boundaryTests (h : Nat) (g : Graph) (d : Dev) : Dev :=
  let d := g.testTiles.foldl (fun d t =>
    let (v, d) := d.free
    let fail := v.getLsbD 0
    let d := d.event .tta 8 0x4023 [t, if fail then 1 else 0]
    if fail then d.retireTile t 2 else d) d
  d.updGraph h fun g => { g with testTiles := [] }

/-- Start a run (R279). -/
def Dev.beginRun (h : Nat) (g : Graph) (r : Run) (d : Dev) : Dev :=
  let d := d.boundaryTests h g
  let pl := g.plan
  let d := d.rotateShadows h pl r.no
  let a := d.slotAllot g.slot
  let r := { r with startNs := d.ttaNs, index := if pl.stamp then [] else (List.range pl.q).flatMap fun i => d.indexOf a (r.epoch + 1 + i - pl.q) }
  let d := d.resetObjs pl
  let ws := runWords h pl.q r
  let d := pl.allTiles.foldl (fun d t => d.updTile t (Tile.startRun ws)) d
  let d := d.updGraph h fun g => { g with run := some r, ran := if pl.stamp then [] else (g.ran.filter fun x => x.1 != r.no) ++ [(r.no, r.epoch, r.replay)] }
  let late := d.ttaNs - epochEnd r.epoch
  let d := if pl.stamp = false ∧ 1000000000 < late then d.event .tta 5 0x3206 [g.slot, h, late / 1000] else d
  pl.allTiles.foldl (fun d t => d.advanceList t (d.listLen t)) d

/-- A run of the graph epoch is held by a PREPARED job (R336). -/
def Dev.jobHolds (g : Graph) (epoch : Nat) (d : Dev) : Bool :=
  d.tta.wrn.jobs.any fun j => j.state == 0 && j.slot == g.slot && (j.position g.gid).isSome && decide (j.goNs ≤ epochEnd (epoch - g.plan.q))

/-- The job of which the run of a graph epoch is a run. -/
def Dev.jobIdOf (g : Graph) (epoch : Nat) (d : Dev) : Option Nat := (d.jobFor g.slot g.gid epoch g.plan.q).map (·.id)

/-- RUN_START: the next run starts when the conditions of R279 hold; runs of a replay come first (R387). No new run starts while the
slot drains for a re-bind or release (R53). -/
def runStart (h : Nat) (tick : Nat) (d : Dev) : Dev :=
  let d := d.advance .tta tick
  match d.graph h with
  | none => d
  | some g =>
    if g.state ≠ 2 ∨ g.run.isSome = true then d else
    match g.redo with
    | (no, ep, rep, re) :: rest =>
      let d := d.setGraph h { g with redo := rest }
      d.beginRun h g { no := no, epoch := ep, replay := rep, reexec := re, job := d.jobIdOf g ep }
    | [] =>
    if 3 ≤ d.slotState g.slot then d else
    if g.plan.stamp then
      match g.stamps with
      | [] => d
      | ws :: rest =>
        let ns := ((ws.getD 1 0).toNat % 2 ^ 48) * 1000000000 + (ws.getD 2 0).toNat % 2 ^ 32
        (d.setGraph h { g with stamps := rest, runNo := g.runNo + 1 }).beginRun h g { no := g.runNo, epoch := epochAt ns, stampWords := ws }
    else
      let n := g.nextEpoch
      if (g.primary || g.isRadio d) = false ∨ d.epochDecided n = false ∨ d.jobHolds g n = true then d
      else if 2 ^ 28 < d.logBytes then
        if g.logHeld then d else (d.bump R.TTA_CHK_LOG_HOLDS 1).setGraph h { g with logHeld := true }
      else match g.replace.bind fun r => r.at_.map fun b => (r, b) with
      | some (r, b) =>
        if b + g.plan.q ≤ n then d.switchPlan h g r (n - g.plan.q)
        else (d.setGraph h { g with nextEpoch := n + g.plan.q, runNo := g.runNo + 1, logHeld := false }).beginRun h g
          { no := g.runNo, epoch := n, job := d.jobIdOf g n }
      | none => (d.setGraph h { g with nextEpoch := n + g.plan.q, runNo := g.runNo + 1, logHeld := false }).beginRun h g
          { no := g.runNo, epoch := n, job := d.jobIdOf g n }

def execRunStart (h : Fin 1024) (tick : Nat) (s : State) := s.run (runStart h.val tick)

/-- EDGE_COPY (R262, R269): the words go to the consumer's window, and to its shadow's; the edge object counts; the list goes on. -/
def edgeCopy (t : Nat) (d : Dev) : Dev :=
  match d.listEntry t, d.tileGraph t with
  | some (.copy e), some (_, g) =>
    let x := d.tile t
    if x.task.isSome ∨ x.stopped = true ∨ d.isShadow t = true then d else
    match g.plan.edges[e]? with
    | none => d
    | some ed =>
      let ws := (List.range ed.words).map fun i => x.word (g.plan.winAt.getD ed.src 0 + ed.srcOff + i)
      let dst := g.plan.phys.getD (g.plan.place.getD ed.dst 0) 0
      let put (y : Tile) : Tile := ws.zipIdx.foldl (fun y w => y.setWord (g.plan.winAt.getD ed.dst 0 + ed.dstOff + w.2) w.1) y
      let d := d.updTile dst put
      let d := match d.shadowOf dst with
        | some s => d.updTile s put
        | none => d
      let d := (d.signalObj ((assocGet ed.dst g.plan.edgeObjs).getD 0) 1).getD d
      (d.updTile t fun y => { y with entry := y.entry + 1 }).advanceList t (d.listLen t)
  | _, _ => d

def execEdgeCopy (t : Fin 10240) (s : State) := s.run (edgeCopy t.val)

/-! ## Checkpoints (R217) -/

/-- A checkpoint is due at the end of a run of a graph epoch. -/
def Graph.ckptDue (g : Graph) (epoch : Nat) : Bool :=
  match g.ckptDoneNs with
  | none => false
  | some t => decide ((epochEnd g.ckptEpoch / 100000000 + 1) * 100000000 ≤ epochEnd epoch ∧ t ≤ epochEnd epoch)

/-- Take a checkpoint at a run boundary; the primary sends it to the standby. A job with COMMIT_FLEET sends CKPT_DONE once it is clean (R386).
A twin without a standby, and a graph of the RADIO allotment, keep their own (log 37). -/
def Dev.takeCkpt (h : Nat) (no epoch : Nat) (fleet : Bool) (d : Dev) : Dev :=
  match d.graph h with
  | none => d
  | some g =>
    if g.plan.stamp ∨ g.state ≠ 2 ∨ g.ckptDue epoch = false then d else
    let s := d.saveOf { g with run := none } (no + 1) (epoch + g.plan.q) true
    let send : Bool := g.primary && !g.isRadio d && (d.twinState == 0 || d.twinState == 3) && !d.withdrawn
    let now := d.ttaNs
    let d := d.setGraph h { g with ckptEpoch := epoch, ckptDoneNs := if send then none else some now, ckpts := g.ckpts ++ [{ s with sent := !send }] }
    if send = false then d else
    let d := d.sendCkpt g s
    if fleet then d else d.ckptClose h s

/-! ## The end of a run -/

/-- Every tile of the plan has reached END_LIST with no transfer in flight (R280). -/
def Dev.runOver (pl : Plan) (d : Dev) : Bool :=
  pl.allTiles.all fun t => (d.listEntry t == some .endList) && (d.tile t).task.isNone && (d.tile t).xfers.isEmpty

/-- The poison consequences of a run (R396). -/
def Dev.runPoison (h : Nat) (g : Graph) (r : Run) (d : Dev) : Dev :=
  if r.poisoned = false ∨ r.reexec = true then d else
  let d := d.bump R.TTA_CHK_POISON_RUNS 1
  if g.plan.stamp then d
  else ((d.bump R.TTA_CHK_POISON_STOPPED 1).event .tta 8 0x4040 [g.slot, h, r.no]).forcePause h

/-- The run's vote (R327): sent or compared; a RESULT that is known already decides. -/
def Dev.runVote (j : Job) (g : Graph) (r : Run) (void : Bool) (d : Dev) : Dev :=
  let k := d.roundKey g r 0 ((j.position g.gid).getD 0)
  let d := d.giveRound j k 0 (d.contributes (g.isRadio d) g.primary) [{ v := if void then 1 else 0 }]
  match (d.roundSeen k).result with
  | some ws => d.voteResult j k (((ws.getD 0 {}).v).getLsbD 0)
  | none => d

/-- RUN_END (R280): the outcome (R383), the vote, checkpoint, verdicts, poison; then a held REMOVE. -/
def runEnd (h : Nat) (tick : Nat) (d : Dev) : Dev :=
  let d := d.advance .tta tick
  match d.graph h with
  | none => d
  | some g =>
    match g.run with
    | none => d
    | some r =>
      if d.runOver g.plan = false then d else
      let void := decide (0 < d.commitMismatch g.plan.commitObj)
      let d := d.updGraph h fun g => { g with run := none }
      let d :=
        if r.reexec then d.updGraph h fun g => { g with redoDone := g.redoDone + 1 }
        else if g.plan.stamp then
          let d := d.closeCommit g (!void)
          d.runPoison h g r
        else
          let d := if void then d.event .tta 8 0x4021 [g.slot, h, r.no, r.replay] else d
          let d := match g.redoRun with
            | some (no, t0) =>
              if no = r.no then
                ((d.bump R.TTA_CHK_STAT_REPLAYS 1).event .tta 8 0x4022 [g.slot, h, g.redoDone, (d.ttaNs - t0) / 1000]).updGraph h fun g =>
                  { g with redoRun := none }
              else d
            | none => d
          let fleet := (d.runJob g r).filter fun j => jobFleet j.desc
          let d := d.updGraph h fun g => { g with past := g.past ++ [{ run := r, passed := if fleet.isSome then none else some (!void) }] }
          let d := if fleet.isSome then d else d.closeCommit g (!void)
          let d := if void then d else d.takeCkpt h r.no r.epoch fleet.isSome
          let d := d.runPoison h g r
          match fleet with
          | some j => (d.runVote j g r void).settle h
          | none => d.settle h
      match d.graph h with
      | some g => if g.removeQ.isSome ∧ (g.state = 2 ∨ g.state = 4) then d.removeGraph h else d
      | none => d

def execRunEnd (h : Fin 1024) (tick : Nat) (s : State) := s.run (runEnd h.val tick)

/-! ## Pause, save, resume (R287 to R289) -/

/-- Stop a graph's tiles at their instruction boundaries. -/
def Dev.stopTiles (h : Nat) (st : Nat) (q : Option (Nat × Desc)) (d : Dev) : Dev :=
  match d.graph h with
  | none => d
  | some g =>
    let d := g.plan.allTiles.foldl (fun d t => d.updTile t fun x => { x with stopped := true }) d
    d.putGraph h { g with state := st, pauseQ := q }

/-- Write the save image and complete a SAVE (R288). -/
def Dev.writeSave (h : Nat) (q : Desc) (d : Dev) : Dev :=
  match d.graph h with
  | none => d
  | some g =>
    let s := match g.run with
      | some r => d.saveOf g r.no r.epoch false
      | none => d.saveOf g g.runNo g.nextEpoch true
    (d.setGraph h { g with saved := some s }).complete q 0x35 0 [(24, 8, 256 + 8 * s.objs.length + 67584 * s.tiles.length)]

/-- GRAPH_PAUSE and GRAPH_SAVE: an ACTIVE graph pauses; a PAUSED one is saved at once, and a PAUSE of it changes nothing. In another state the
spec gives the descriptor no effect: DENIED (log 38). -/
def Dev.pauseDesc (op : Nat) (q : Desc) (gid : Nat) (d : Dev) : Dev :=
  d.graphDesc op q gid (fun h g d =>
    if g.state = 2 then
      (d.stopTiles h 3 (some (op, q))).sendRole (.pause (d.slotAllot g.slot) gid)
    else if g.state = 4 then (if op = 0x35 then d.writeSave h q else d.complete q op 0 [])
    else if g.state = 3 ∧ g.pauseQ.isNone = true then d.setGraph h { g with pauseQ := some (op, q) }
    else d.complete q op 4 [])

def execGraphPause (q : Desc) (gid : BitVec 16) (s : State) := s.run (Dev.pauseDesc 0x33 q gid.toNat)

def execGraphSave (q : Desc) (gid : BitVec 16) (s : State) := s.run (Dev.pauseDesc 0x35 q gid.toNat)

/-- The partner relays a PAUSE. -/
def Dev.rolePause (allot gid : Nat) (d : Dev) : Dev :=
  match (d.slotHolding allot).bind fun n => d.graphOf n gid with
  | none => d
  | some h =>
    match d.graph h with
    | some g => if g.state = 2 then d.stopTiles h 3 none else d
    | none => d

/-- PAUSE_DONE: every tile has stopped and every transfer is complete: PAUSED, event 0x3204; a SAVE writes the image; a held REMOVE frees. -/
def pauseDone (h : Nat) (d : Dev) : Dev :=
  match d.graph h with
  | none => d
  | some g =>
    if g.state ≠ 3 ∨ (g.plan.phys.any fun t => !(d.tile t).xfers.isEmpty) = true then d else
    let d := (d.putGraph h { g with state := 4, pauseQ := none }).event .tta 5 0x3204 [g.slot, h]
    let d := match g.pauseQ with
      | some (0x35, q) => d.writeSave h q
      | some (op, q) => d.complete q op 0 []
      | none => d
    if g.removeQ.isSome then d.removeGraph h else d

def execPauseDone (h : Fin 1024) (s : State) := s.run (pauseDone h.val)

/-- Every graph epoch since the pause can still run: its ingest epochs are in the watermark log, and its table banks are retained (R289,
R306). -/
def Dev.logHolds (g : Graph) (d : Dev) : Bool :=
  let first := g.nextEpoch + 1 - g.plan.q
  (match d.tta.ing.log.head? with
    | some e => decide (e.epoch ≤ first)
    | none => true) &&
  d.tta.tables.all fun t => t.slot != g.slot || decide (t.since ≤ g.nextEpoch) || t.retained.isSome

/-- GRAPH_RESUME (R289). -/
def graphResume (q : Desc) (gid : Nat) (skip : Bool) (d : Dev) : Dev :=
  d.graphDesc 0x34 q gid (fun h g d =>
    if g.state ≠ 4 ∨ g.cutOff = true then d.complete q 0x34 4 []
    else if skip = false ∧ g.plan.stamp = false ∧ d.logHolds g = false then d.complete q 0x34 6 []
    else
      let next := if skip ∧ g.plan.stamp = false then max g.nextEpoch (epochAfter (d.ttaNs + 1) g.plan.q) else g.nextEpoch
      let skipped := (next - g.nextEpoch) / max 1 g.plan.q
      let d := g.plan.allTiles.foldl (fun d t => d.updTile t fun x => { x with stopped := false }) d
      let d := d.putGraph h { g with state := 2, nextEpoch := next }
      (d.event .tta 5 0x3205 [g.slot, h, skipped]).complete q 0x34 0 [])

def execGraphResume (q : Desc) (gid : BitVec 16) (skip : Bool) (s : State) := s.run (graphResume q gid.toNat skip)

/-- A save image goes back into a PAUSED graph (R288): tiles, objects, the run in progress and the next epoch. -/
def Dev.putBack (h : Nat) (g : Graph) (sv : GraphSave) (d : Dev) : Dev :=
  let d := d.loadSave g sv
  let d := g.plan.allTiles.foldl (fun d t => d.updTile t fun x => { x with stopped := true }) d
  d.putGraph h { g with run := sv.cur, runNo := if sv.boundary then sv.run else sv.run + 1
                        nextEpoch := if sv.boundary then sv.epoch else sv.epoch + g.plan.q }

/-- GRAPH_RESTORE (R288): STALE_KEY after a rotation of the STORE key; BAD_GRAPH when the image differs, or no image was saved. -/
def graphRestore (q : Desc) (gid : Nat) (d : Dev) : Dev :=
  d.graphDesc 0x36 q gid (fun h g d =>
    if g.state ≠ 4 then d.complete q 0x36 4 [] else
    match g.saved with
    | none => d.complete q 0x36 0xA []
    | some sv =>
      if sv.storeGen ≠ d.storeGen g.slot then d.complete q 0x36 0xC []
      else if sv.image ≠ g.plan.image then d.complete q 0x36 0xA []
      else (d.putBack h g sv).complete q 0x36 0 [])

def execGraphRestore (q : Desc) (gid : BitVec 16) (s : State) := s.run (graphRestore q gid.toNat)

end Sys2Proof.Machine
end

