-- ==== Sys2Proof/Machine/Warren.lean ====
section
/-! DEFINITION. The Warren packets and the delivery of packets (R310 to R316, R322 to R328). -/
namespace Sys2Proof.Machine

/-- The segment is in these parts already: some true when it is the same. -/
def Parts.repeated (p : Parts) (ix : Nat) (seg : List Byte) : Option Bool := (assocGet ix p.segs).map fun s => s == seg

/-- What the header of a packet says of its payload. -/
def WrnHdr.parts (h : WrnHdr) : Parts :=
  { from_ := h.sender.toNat, cnt := h.segCnt.toNat, length := h.length.toNat, kind := h.kind.toNat }

/-- A repeated segment: counted, or a mismatch (R312). -/
def Dev.repeatSeg (j : Job) (k : RoundKey) (h : WrnHdr) (same : Bool) (d : Dev) : Dev :=
  if same then d.bump R.TTA_WRN_DUP_DUP 1
  else ((d.event .tta 4 0x3402 [k.job, trayOf h.sender.toNat, k.group, h.level.toNat]).bump R.TTA_WRN_ERR_MISMATCH 1).selfCheck 3 j.slot (d.roundGraph j k)

/-- A CONTRIB that this tray merges: its segment, and its payload once it is whole. -/
def Dev.takeContrib (j : Job) (k : RoundKey) (h : WrnHdr) (seg : List Byte) (d : Dev) : Dev :=
  let level := h.level.toNat
  let tray := trayOf h.sender.toNat
  if parentTray j.trays level tray ≠ d.ownTray ∨ treeLevels j.trays < level ∨ level = 0 then d else
  let m := d.mergeOf k level
  let p := (assocGet h.sender.toNat m.parts).getD h.parts
  match p.repeated h.segIdx.toNat seg with
  | some same => d.repeatSeg j k h same
  | none =>
    let (p, whole) := p.add h.segIdx.toNat seg
    match whole with
    | none => d.putMerge { m with parts := assocSet h.sender.toNat p m.parts }
    | some ws =>
      let d := if m.parts = [] then d else d.putMerge { m with parts := assocDel h.sender.toNat m.parts }
      let d := if level = 1 ∧ tray = d.ownTray then d.noteLeaf j k false ws else d
      let (res, d) := d.mergeInput j k p.kind 4 level tray ws
      d.rootResult j k p.kind res

/-- CONTRIB (R323, R324): acknowledged; BUSY with no free state; one whose RESULT is known is obsolete. -/
def contrib (h : WrnHdr) (a : PktAuth) (seg : List Byte) (tick : Nat) (d : Dev) : Dev :=
  let d := d.advance .tta tick
  let (ok, d) := d.acceptPacket h.allot.toNat h.sender.toNat h.version.toNat a
  if ok = false then d else
  let k := h.key
  let (cur, d) := d.freeOlder k
  let fresh : Bool := !(d.tta.wrn.merges.any fun m => m.key == k && m.level == h.level.toNat)
  match d.jobOf k.allot k.job with
  | none => d.ackPacket h.allot.toNat 0 h.sender.toNat 4 (h.bytes 1) false
  | some j =>
    if cur = false ∨ (d.roundSeen k).result.isSome = true then d.ackPacket h.allot.toNat 0 h.sender.toNat 4 (h.bytes 1) false
    else if fresh ∧ 16384 ≤ d.openStates then d.ackPacket h.allot.toNat 0 h.sender.toNat 4 (h.bytes 1) true
    else (d.ackPacket h.allot.toNat 0 h.sender.toNat 4 (h.bytes 1) false).takeContrib j k h seg

def execContrib (h : WrnHdr) (a : PktAuth) (seg : List Byte) (tick : Nat) (s : State) := s.run (contrib h a seg tick)

/-- RESULT (R324): passed on down the tree, written, and what it completes is completed. -/
def result (h : WrnHdr) (a : PktAuth) (seg : List Byte) (tick : Nat) (d : Dev) : Dev :=
  let d := d.advance .tta tick
  let (ok, d) := d.acceptPacket h.allot.toNat h.sender.toNat h.version.toNat a
  if ok = false then d else
  let k := h.key
  let (cur, d) := d.freeOlder k
  let d := d.ackPacket h.allot.toNat 0 h.sender.toNat 4 (h.bytes 2) false
  match d.jobOf k.allot k.job with
  | none => d
  | some j =>
    if cur = false then d else
    let r := d.roundSeen k
    if r.result.isSome then d.bump R.TTA_WRN_DUP_DUP 1 else
    let p := r.parts.getD h.parts
    match p.repeated h.segIdx.toNat seg with
    | some _ => d.bump R.TTA_WRN_DUP_DUP 1
    | none =>
      let (p, whole) := p.add h.segIdx.toNat seg
      let d := d.putRound { r with parts := some p }
      match whole with
      | none => d
      | some ws => (d.sendDown j k p.kind ws).roundResult j k p.kind ws

def execResult (h : WrnHdr) (a : PktAuth) (seg : List Byte) (tick : Nat) (s : State) := s.run (result h a seg tick)

/-- COPY (R322): compared with this twin's own payload. -/
def copy (h : WrnHdr) (a : PktAuth) (seg : List Byte) (d : Dev) : Dev :=
  let (ok, d) := d.acceptPacket h.allot.toNat h.sender.toNat h.version.toNat a
  if ok = false then d else
  let k := h.key
  let (cur, d) := d.freeOlder k
  let d := d.ackPacket h.allot.toNat 0 h.sender.toNat 4 (h.bytes 3) false
  match d.jobOf k.allot k.job with
  | none => d
  | some j =>
    if cur = false then d else
    let r := d.roundSeen k
    let p := r.copyParts.getD h.parts
    if r.copy.isSome ∨ (p.repeated h.segIdx.toNat seg).isSome = true then d.bump R.TTA_WRN_DUP_DUP 1 else
    let (p, whole) := p.add h.segIdx.toNat seg
    let d := d.putRound { r with copyParts := some p }
    match whole with
    | none => d
    | some ws => d.noteLeaf j k false ws

def execCopy (h : WrnHdr) (a : PktAuth) (seg : List Byte) (s : State) := s.run (copy h a seg)

/-! ## Acknowledgements and resends (R316) -/

def Dev.packet (no : Nat) (d : Dev) : Option Packet := d.tta.wrn.outbox.find? fun (p : Packet) => p.no == no

/-- The destination's first ACK clears its suspect mark. -/
def Dev.clearSuspect (p : Packet) (d : Dev) : Dev :=
  d.updWrn fun w => { w with suspects := w.suspects.filter fun s => !(s.1 == suspectKey p.allot p.job && s.2 == p.dst) }

/-- WARREN_ACK: the packet is delivered; a BUSY answer has it sent again without counting as a try. -/
def warrenAck (no : Nat) (sender : BitVec 16) (a : PktAuth) (version : BitVec 8) (busy : Bool) (d : Dev) : Dev :=
  match d.packet no with
  | none => d
  | some p =>
    let (ok, d) := d.acceptPacket p.allot sender.toNat version.toNat a
    if ok = false ∨ sender.toNat ≠ p.dst then d else
    let d := d.clearSuspect p
    if busy then d.updWrn fun w => { w with outbox := w.outbox.map fun (x : Packet) => if x.no = no then { x with sends := x.sends - 1 } else x }
    else d.dropPackets fun x => x.no == no

def execWarrenAck (no : Nat) (sender : BitVec 16) (a : PktAuth) (version : BitVec 8) (busy : Bool) (s : State) :=
  s.run (warrenAck no sender a version busy)

/-- Send a packet of the outbox once more, with RETX. -/
def Dev.resend (p : Packet) (d : Dev) : Dev :=
  let h := p.hdr.take 2 ++ [(p.hdr.getD 2 0#8) ||| 1#8] ++ p.hdr.drop 3
  let d := d.updWrn fun w => { w with outbox := w.outbox.map fun (x : Packet) => if x.no = p.no then { x with sends := x.sends + 1 } else x }
  if d.fleetReady then d.emit (.packet p.no p.proto p.dst p.inst p.ctr h p.body) else d

/-- RETX_US since the last send: after TRIES sends the destination is suspect, event 0x3401; else the packet is sent again. The answer says
whether the destination became suspect. -/
def Dev.tryResend (p : Packet) (d : Dev) : Bool × Dev :=
  if d.isSuspect p.allot p.job p.dst then (false, d)
  else if max 1 (d.get R.TTA_WRN_CFG_TRIES) ≤ p.sends then
    (true, ((d.updWrn fun w => { w with suspects := (suspectKey p.allot p.job, p.dst) :: w.suspects }).bump R.TTA_WRN_ERR_SUSPECT 1).event .tta 4 0x3401
      [p.job, p.dst, leAt p.hdr 1 1])
  else (false, d.resend p)

/-- SUSPECT_RESEND: SLOW_US since the last send to a suspect destination. -/
def suspectResend (no : Nat) (tick : Nat) (d : Dev) : Dev :=
  let d := d.advance .tta tick
  match d.packet no with
  | none => d
  | some p => if d.isSuspect p.allot p.job p.dst then d.resend p else d

def execSuspectResend (no : Nat) (tick : Nat) (s : State) := s.run (suspectResend no tick)

end Sys2Proof.Machine
end

