-- ==== Sys2Proof/Machine/Bandstand.lean ====
section
/-! DEFINITION. Bandstand (R330 to R339): job descriptions, the member, the decider, and the end of a job. -/
namespace Sys2Proof.Machine

/-! ## Packets -/

/-- A Bandstand header (R314). -/
def bstBytes (type flags level allot job attempt status failTta timeNs sender length reqTag : Nat) : List Byte :=
  [1#8] ++ leBytes 1 type ++ leBytes 1 flags ++ leBytes 1 level ++ leBytes 2 allot ++ leBytes 2 job ++ leBytes 1 attempt ++ leBytes 1 status ++
    leBytes 2 failTta ++ leBytes 6 (timeNs / 1000000000) ++ leBytes 4 (timeNs % 1000000000) ++ leBytes 2 sender ++ leBytes 4 length ++ leBytes 4 reqTag

/-- The time of a Bandstand header in presented ns. -/
def BstHdr.ns (h : BstHdr) : Nat := h.timeSec.toNat * 1000000000 + h.timeNs.toNat

/-- The header bytes of an arriving packet. -/
def BstHdr.bytes (h : BstHdr) (type : Nat) : List Byte :=
  leBytes 1 h.version.toNat ++ (bstBytes type h.flags.toNat h.level.toNat h.allot.toNat h.job.toNat h.attempt.toNat h.status.toNat h.failTta.toNat h.ns
    h.sender.toNat h.length.toNat h.reqTag.toNat).drop 1

/-- What a Bandstand packet says. -/
structure BstMsg where
  type : Nat
  flags : Nat := 0
  level : Nat := 0
  allot : Nat
  job : Nat
  attempt : Nat := 0
  status : Nat := 0
  failTta : Nat := 0xFFFF
  timeNs : Nat := 0
  reqTag : Nat := 0
  body : List Byte := []
  deriving DecidableEq, Repr

/-- Send a Bandstand packet to a TTA. -/
def Dev.sendBst (m : BstMsg) (dst : Nat) (d : Dev) : Dev :=
  d.sendPacket { no := 0, proto := 1, dst := dst, body := m.body, allot := m.allot, job := m.job, attempt := m.attempt
                 hdr := bstBytes m.type m.flags m.level m.allot m.job m.attempt m.status m.failTta m.timeNs d.ttaId m.body.length m.reqTag }

/-- Send a packet down the tree from this tray (R311). -/
def Dev.bstDown (trays : List Nat) (m : BstMsg) (d : Dev) : Dev :=
  ((downTrays trays d.ownTray).flatMap twinsOf).foldl (fun d t => d.sendBst m t) d

/-- The other twin of this tray. -/
def Dev.partnerId (d : Dev) : Nat := if d.ttaId % 2 = 0 then d.ttaId + 1 else d.ttaId - 1

/-- Accept and acknowledge an arriving packet. -/
def Dev.acceptBst (h : BstHdr) (a : PktAuth) (type : Nat) (d : Dev) : Bool × Dev :=
  let (ok, d) := d.acceptPacket h.allot.toNat h.sender.toNat h.version.toNat a
  if ok then (true, d.ackPacket h.allot.toNat 1 h.sender.toNat 0x18 (h.bytes type) false) else (false, d)

/-! ## The job description (R330) -/

def jobLen (bs : List Byte) : Nat := 1088 + 56 * leAt bs 2 1 + 8 * leAt bs 3 1

/-- KIND and LENGTH of a group (R323). -/
def groupOk (g : Nat × Nat × Nat) : Bool :=
  let len := g.2.2
  decide (1 ≤ g.1 ∧ g.1 ≤ 4095) &&
    (if g.2.1 = 1 then decide (0 < len ∧ len % 48 = 0 ∧ len ≤ 65520) else decide (2 ≤ g.2.1 ∧ g.2.1 ≤ 5 ∧ 8 ≤ len ∧ len % 8 = 0 ∧ len ≤ 65536))

/-- Check 5 of R332. -/
def jobDescOk (bs : List Byte) (len allot tray : Nat) : Bool :=
  let ng := leAt bs 2 1
  let gs := jobGroups bs
  let o := 1088 + 56 * ng
  leAt bs 0 1 == 1 && decide (leAt bs 1 1 < 2 ∧ 1 ≤ ng ∧ ng ≤ 16 ∧ leAt bs 3 1 ≤ 63) && len == jobLen bs && bs.length == len &&
    leAt bs 4 2 == allot && zeroRange bs 6 10 && zeroRange bs 26 38 && decide (leAt bs 22 4 < 1000000000) &&
    ((List.range ng).all fun i => zeroRange bs (1088 + 56 * i + 2) 6) && ((List.range gs.length).all fun i => leAt bs (o + 8 * i + 3) 1 == 0) &&
    (jobTrays bs).contains tray && gs.all groupOk && (gs.map (·.1)).Nodup

/-- Write `n` bytes of a value into a description. -/
def putBytes (bs : List Byte) (i n v : Nat) : List Byte := bs.take i ++ leBytes n v ++ bs.drop (i + n)

/-! ## Member jobs -/

/-- Jobs that are not in NONE on this TTA. State 4 marks a job that this member refused and only serves as a parent of. -/
def Dev.heldJobs (d : Dev) : List Job := d.tta.wrn.jobs.filter fun j => j.state < 3

/-- Show a job in its TTA_BST_JOB entry, and the groups reserved. -/
def Dev.showJob (j : Job) (d : Dev) : Dev :=
  let f (x : Fld) (v : Nat) (d : Dev) : Dev := d.set (x.at j.entry) v
  let d := d |> f R.TTA_BST_JOB_VALID 1 |> f R.TTA_BST_JOB_STATE j.state |> f R.TTA_BST_JOB_SLOT j.slot |> f R.TTA_BST_JOB_JOB_ID j.id |>
    f R.TTA_BST_JOB_ATTEMPT j.attempt |> f R.TTA_BST_JOB_ROOT (if rootTray j.trays = d.ownTray then 1 else 0) |>
    f R.TTA_BST_JOB_LEVELS (treeLevels j.trays) |> f R.TTA_BST_JOB_TRAYS j.trays.length
  d.set R.TTA_WRN_STAT_GROUPS ((d.heldJobs.map fun j => (jobGroups j.desc).length).sum)

/-- Change a job and show it. -/
def Dev.putJob (j : Job) (d : Dev) : Dev :=
  let d := d.updWrn fun w => { w with jobs := (w.jobs.filter fun x => !(x.allot == j.allot && x.id == j.id)) ++ [j] }
  if j.state < 3 then d.showJob j else d

/-- A job leaves this member: entry, groups, merges, rounds and packets go. -/
def Dev.dropJob (j : Job) (d : Dev) : Dev :=
  let d := d.updWrn fun w => { w with
    jobs := w.jobs.filter fun x => !(x.allot == j.allot && x.id == j.id)
    merges := w.merges.filter fun m => !(m.key.allot == j.allot && m.key.job == j.id)
    rounds := w.rounds.filter fun r => !(r.key.allot == j.allot && r.key.job == j.id)
    suspects := w.suspects.filter fun s => s.1 != suspectKey j.allot j.id }
  let d := if j.state < 3 then d.setWord .tta (R.TTA_BST_JOB.base + 8 * j.entry) 0 else d
  (d.set R.TTA_WRN_STAT_GROUPS ((d.heldJobs.map fun j => (jobGroups j.desc).length).sum)).showOpen

/-- Packets of a job's attempts below `attempt` are obsolete (R335). -/
def Dev.dropAttempts (allot job attempt : Nat) (d : Dev) : Dev :=
  d.dropPackets fun p => p.proto == 1 && p.allot == allot && p.job == job && decide (p.attempt < attempt) && leAt p.hdr 1 1 != 0x16

/-- The originator's descriptor of a job start or end, taken out. -/
def Dev.takeOrigin (allot tag : Nat) (isEnd : Bool) (d : Dev) : Option Desc × Dev :=
  match d.tta.wrn.origins.find? fun (o : Nat × Nat × Bool × Desc) => o.1 == allot && o.2.1 == tag && o.2.2.1 == isEnd with
  | none => (none, d)
  | some o => (some o.2.2.2, d.updWrn fun w => { w with origins := w.origins.erase o })

/-- GO on this member (R336). -/
def Dev.memberGo (m : BstMsg) (d : Dev) : Dev :=
  match d.jobOf m.allot m.job with
  | none => d.bump R.TTA_WRN_DUP_DUP 1
  | some j =>
    if j.attempt ≠ m.attempt ∨ j.state ≠ 0 then d.bump R.TTA_WRN_DUP_DUP 1 else
    let d := d.bstDown j.trays m
    let d := (d.putJob { j with state := 1, goNs := m.timeNs, readies := [] }).event .tta 4 0x3483 [j.id, j.attempt, (stampOf m.timeNs).toNat]
    let d := d.showOpen
    match d.takeOrigin m.allot m.reqTag false with
    | (some q, d) =>
      if leAt j.desc 10 2 = d.ttaId then
        d.complete q 0x40 0 [(24, 2, m.job), (26, 1, m.attempt), (28, 6, m.timeNs / 1000000000), (34, 4, m.timeNs % 1000000000), (38, 2, 0xFFFF)]
      else d.updWrn fun w => { w with origins := w.origins ++ [(m.allot, m.reqTag, false, q)] }
    | (none, d) => d

/-- ABORT on this member (R335, R336): a held attempt is released; a final one ends the originator's descriptor, which a held description of
another ORIGIN does not name. -/
def Dev.memberAbort (m : BstMsg) (d : Dev) : Dev :=
  let mine : Bool := match d.jobOf m.allot m.job with
    | some j => leAt j.desc 10 2 == d.ttaId
    | none => true
  let d := match d.jobOf m.allot m.job with
    | none => d.bump R.TTA_WRN_DUP_DUP 1
    | some j =>
      if j.attempt ≠ m.attempt ∨ (j.state ≠ 0 ∧ j.state ≠ 4) then d.bump R.TTA_WRN_DUP_DUP 1
      else (d.bstDown j.trays m).dropJob j
  if m.flags / 4 % 2 = 0 ∨ mine = false then d else
  match d.takeOrigin m.allot m.reqTag false with
  | (some q, d) => d.complete q 0x40 m.status [(24, 2, m.job), (26, 1, m.attempt), (38, 2, m.failTta)]
  | (none, d) => match d.takeOrigin m.allot m.job true with
    | (some q, d) => d.complete q 0x41 m.status []
    | (none, d) => d

/-- END on this member (R339). -/
def Dev.memberEnd (m : BstMsg) (d : Dev) : Dev :=
  let d := match d.jobOf m.allot m.job with
    | none => d.bump R.TTA_WRN_DUP_DUP 1
    | some j =>
      if j.state ≠ 1 then d.bump R.TTA_WRN_DUP_DUP 1 else (d.bstDown j.trays m).putJob { j with state := 2, endNs := m.timeNs }
  match d.takeOrigin m.allot m.job true with
  | (some q, d) => d.complete q 0x41 0 [(20, 6, m.timeNs / 1000000000), (26, 4, m.timeNs % 1000000000)]
  | (none, d) => d

/-! ## The decider (R333, R335, R338) -/

def Dev.decidedJob (allot id : Nat) (d : Dev) : Option Decided := d.tta.wrn.deciding.find? fun (x : Decided) => x.allot == allot && x.id == id

def Dev.putDecided (x : Decided) (d : Dev) : Dev :=
  d.updWrn fun w => { w with deciding := (w.deciding.filter fun (y : Decided) => !(y.allot == x.allot && y.id == x.id)) ++ [x] }

/-- The packet that carries the outcome of a job. -/
def Decided.outcomeMsg (x : Decided) : BstMsg :=
  match x.outcome with
  | 1 => { type := 0x13, allot := x.allot, job := x.id, attempt := x.attempt, timeNs := x.goNs, reqTag := x.reqTag }
  | 2 => { type := 0x14, flags := 4, allot := x.allot, job := x.id, attempt := x.attempt, status := x.status, failTta := x.failTta, timeNs := x.goNs
           reqTag := x.reqTag }
  | _ => { type := 0x15, allot := x.allot, job := x.id, attempt := x.attempt, timeNs := x.endNs }

/-- Send a packet down from the decider: to the partner twin and, through the member's own relay, down the tree. -/
def Dev.announce (m : BstMsg) (member : BstMsg → Dev → Dev) (d : Dev) : Dev := member m (d.sendBst m d.partnerId)

/-- The originator that holds no copy of the job, and the originator's twin, hear the outcome as members; a final ABORT reaches them so too. -/
def Dev.sendGo (x : Decided) (d : Dev) : Dev :=
  let x := { x with outcome := 1 }
  (d.putDecided x).announce x.outcomeMsg Dev.memberGo

/-- A final ABORT (R335): event 0x3482, with cause 0 when no complete merge came in time, and 1 for a status. -/
def Dev.sendFinal (x : Decided) (status failTta cause : Nat) (d : Dev) : Dev :=
  let x := { x with outcome := 2, status := status, failTta := failTta, noneAt := some d.ttaNs }
  let d := (d.putDecided x).event .tta 4 0x3482 [x.id, x.attempt, cause]
  d.announce x.outcomeMsg Dev.memberAbort

/-! ## READY (R334, R335) -/

/-- GO_LEAD in ns. -/
def goLead (trays : List Nat) : Nat := 2000 * treeLevels trays + 4000

/-- Inputs of a READY merge: at level 1 both twins of the group's trays, above it the trays (R312). -/
def readyKeys (trays : List Nat) (level tray : Nat) : List Nat :=
  let ts := groupInputs trays level (groupOf trays level tray)
  if level = 1 then ts.flatMap twinsOf else ts

/-- The merge of a level has what it needs: every tray has answered, and a twin that has not is suspect or this tray's lost twin (log 39). -/
def Dev.readyComplete (j : Job) (level : Nat) (d : Dev) : Bool :=
  let has (k : Nat) : Bool := j.readies.any fun r => r.1 == level && r.2.1 == k
  let lost (k : Nat) : Bool := d.isSuspect j.allot j.id k || (k == d.partnerId && d.twinState == 2)
  (readyKeys j.trays level d.ownTray).all fun k => has k || (level == 1 && lost k && has (if k % 2 = 0 then k + 1 else k - 1))

/-- STATUS and FAIL_TTA of the merge: those of the lowest TTA ID that reported a failure. -/
def Job.readyMerge (j : Job) (level : Nat) : Nat × Nat :=
  (j.readies.filter fun r => r.1 == level && r.2.2.1 != 0).foldl (fun (b : Nat × Nat) r =>
    if b.1 = 0 ∨ r.2.2.2 < b.2 then (r.2.2.1, r.2.2.2) else b) (0, 0xFFFF)

/-- Look at the merge of a level, and pass it on when it is complete; at the root the decider acts. `n` bounds the levels. -/
def Dev.readyStep (allot id : Nat) : Nat → Nat → Dev → Dev
  | 0, _, d => d
  | n + 1, level, d =>
    match d.jobOf allot id with
    | none => d
    | some j =>
      if j.readyDone.contains level then d else
      let (st, fail) := j.readyMerge level
      let whole := d.readyComplete j level
      if treeLevels j.trays ≤ level then
        match (if d.leads then d.decidedJob allot id else none) with
        | some x =>
          if x.outcome ≠ 0 ∨ x.attempt ≠ j.attempt then d
          else if st ≠ 0 then d.sendFinal x st fail 1
          else if whole ∧ d.ttaNs < x.goNs - goLead j.trays then (d.updJob allot id fun j => { j with readyDone := level :: j.readyDone }).sendGo x
          else d
        | none => d
      else if whole = false then d
      else
        let d := d.updJob allot id fun j => { j with readyDone := level :: j.readyDone }
        let up := parentTray j.trays (level + 1) d.ownTray
        let m : BstMsg := { type := 0x12, level := level + 1, allot := allot, job := id, attempt := j.attempt, status := st, failTta := fail, timeNs := j.goNs }
        if up = d.ownTray then
          (d.updJob allot id fun j => { j with readies := j.readies ++ [(level + 1, d.ownTray, st, fail)] }).readyStep allot id n (level + 1)
        else (twinsOf up).foldl (fun d t => d.sendBst m t) d

/-- A READY input: the first copy counts, a later one is compared (R312). -/
def Dev.readyInput (j : Job) (level key status fail sender : Nat) (d : Dev) : Dev :=
  match j.readies.find? fun r => r.1 == level && r.2.1 == key with
  | some r =>
    if r.2.2 = (status, fail) then d.bump R.TTA_WRN_DUP_DUP 1
    else ((d.event .tta 4 0x3402 [j.id, trayOf sender, 0, level]).bump R.TTA_WRN_ERR_MISMATCH 1).selfCheck 3 j.slot 1024
  | none =>
    let d := (d.updJob j.allot j.id fun j => { j with readies := j.readies ++ [(level, key, status, fail)] }).showOpen
    d.readyStep j.allot j.id 4 level

/-- This member's own READY (R334): to both twins of its level-1 parent tray. -/
def Dev.sendReady (j : Job) (status : Nat) (d : Dev) : Dev :=
  let fail := if status = 0 then 0xFFFF else d.ttaId
  let m : BstMsg := { type := 0x12, level := 1, allot := j.allot, job := j.id, attempt := j.attempt, status := status, failTta := fail, timeNs := j.goNs }
  let up := parentTray j.trays 1 d.ownTray
  let d := (twinsOf up).foldl (fun d t => d.sendBst m t) d
  if up = d.ownTray then
    match d.jobOf j.allot j.id with
    | some j => d.readyInput j 1 d.ttaId status fail d.ttaId
    | none => d
  else d

/-! ## PREPARE (R334) -/

/-- The checks of R334: the first failing status. -/
def Dev.prepareCheck (allot : Nat) (bs : List Byte) (goNs : Nat) (d : Dev) : Nat :=
  match d.slotHolding allot with
  | none => 4
  | some slot =>
    if d.slotActive slot = false then 4 else
    let gs := jobGraphs bs
    let bad := gs.any fun g => match (d.graphOf slot g.1).bind fun h => d.graph h with
      | some x => x.plan.stamp || sha384 x.plan.image != g.2
      | none => true
    let taken := gs.any fun g => d.heldJobs.any fun j => j.slot == slot && (j.position g.1).isSome
    if bad then 0xA else if taken then 4
    else if 64 ≤ d.heldJobs.length ∨ 4 ≤ (d.heldJobs.filter fun j => j.allot = allot).length ∨
      4096 < (d.heldJobs.map fun j => (jobGroups j.desc).length).sum + (jobGroups bs).length then 9
    else if goNs < d.ttaNs + 20000 then 6 else 0

/-- A PREPARE on this member: a lower attempt is released, the packet goes down, and READY goes up. -/
def Dev.memberPrepare (m : BstMsg) (d : Dev) : Dev :=
  let held := d.jobOf m.allot m.job
  if (match held with | some j => decide (m.attempt ≤ j.attempt ∨ j.state = 1 ∨ j.state = 2) | none => false) = true then d.bump R.TTA_WRN_DUP_DUP 1 else
  let d := match held with
    | some j => d.dropJob j
    | none => d
  let d := d.dropAttempts m.allot m.job m.attempt
  let trays := jobTrays m.body
  let d := d.bstDown trays m
  let st := d.prepareCheck m.allot m.body m.timeNs
  let entry := ((List.range 64).find? fun i => !(d.heldJobs.any fun j => j.entry == i)).getD 0
  let j : Job := { allot := m.allot, id := m.job, slot := (d.slotHolding m.allot).getD 256, state := if st = 0 then 0 else 4, desc := m.body, trays := trays
                   attempt := m.attempt, goNs := m.timeNs, entry := entry }
  let d := d.putJob j
  let d := if st = 0 then d else d.event .tta 4 0x3481 [m.job, m.attempt, st]
  d.sendReady j st

/-- Issue an attempt: event 0x3480. -/
def Dev.issueAttempt (x : Decided) (d : Dev) : Dev :=
  let bs := putBytes (putBytes (putBytes x.desc 6 2 x.id) 8 1 x.attempt) 26 6 (x.goNs / 1000000000)
  let bs := putBytes bs 32 4 (x.goNs % 1000000000)
  let x := { x with desc := bs }
  let d := (d.putDecided x).event .tta 4 0x3480 [x.id, x.attempt, (stampOf x.goNs).toNat]
  d.announce { type := 0x11, allot := x.allot, job := x.id, attempt := x.attempt, timeNs := x.goNs, reqTag := x.reqTag, body := bs } Dev.memberPrepare

/-- JOB_ID of a new job: the next value that no job of the allotment holds. -/
def Dev.nextJobId (allot : Nat) (d : Dev) : Nat :=
  let last := (assocGet allot d.tta.wrn.lastJob).getD 0
  let held (i : Nat) : Bool := (d.heldJobs.any fun j => j.allot == allot && j.id == i) ||
    d.tta.wrn.deciding.any fun (x : Decided) => x.allot == allot && x.id == i && x.noneAt.isNone
  (((List.range 65535).map fun i => (last + i) % 65535 + 1).find? fun i => !held i).getD 1

/-- The first 250 µs boundary at or after two instants. -/
def boundaryAfter (a b : Nat) : Nat := ceilDiv (max a b) 250000 * 250000

/-- A REQUEST reaches a twin of the root tray (R333, R339): only the decider acts. -/
def Dev.takeRequest (m : BstMsg) (sender : Nat) (d : Dev) : Dev :=
  if d.leads = false then d else
  if m.flags / 8 % 2 = 1 then
    match d.decidedJob m.allot m.job with
    | some x =>
      if x.outcome ≠ 1 then (if x.outcome = 0 then d else d.sendBst x.outcomeMsg sender) else
      let x := { x with outcome := 3, endNs := boundaryAfter 0 (d.ttaNs + 100000) }
      (d.putDecided x).announce x.outcomeMsg Dev.memberEnd
    | none =>
      let r : BstMsg := { type := 0x14, flags := 4, allot := m.allot, job := m.job, status := 6 }
      if sender = d.ttaId then d.memberAbort r else d.sendBst r sender
  else if d.tta.wrn.deciding.any fun (x : Decided) => x.allot == m.allot && x.reqTag == m.reqTag && x.origin == sender && x.noneAt.isNone then d.bump R.TTA_WRN_DUP_DUP 1
  else
    let id := d.nextJobId m.allot
    let earliest := leAt m.body 16 6 * 1000000000 + leAt m.body 22 4
    let x : Decided := { allot := m.allot, id := id, desc := m.body, trays := jobTrays m.body, attempt := 1, goNs := boundaryAfter earliest (d.ttaNs + 100000)
                         reqTag := m.reqTag, origin := sender }
    (d.updWrn fun w => { w with lastJob := assocSet m.allot id w.lastJob }).issueAttempt x

/-- Send a REQUEST to both twins of a root tray; this TTA may be one of them. -/
def Dev.sendRequest (root : Nat) (m : BstMsg) (d : Dev) : Dev :=
  (twinsOf root).foldl (fun d t => if t = d.ttaId then d.takeRequest m t else d.sendBst m t) d

/-! ## The descriptors (R331, R332) -/

/-- JOB_START. -/
def jobStart (q : Desc) (addr : W64) (desc : Fetch) (d : Dev) : Dev :=
  d.runDesc 0x40 q (fun d =>
    let slot := descSlot q
    if addr.toNat % 64 ≠ 0 then d.complete q 0x40 3 []
    else if d.slotActive slot = false then d.complete q 0x40 4 []
    else match desc with
    | .data bs =>
      let a := d.slotAllot slot
      if jobDescOk bs q.length.toNat a d.ownTray = false then d.complete q 0x40 0xA []
      else if 4 ≤ (d.heldJobs.filter fun j => j.allot = a).length then d.complete q 0x40 9 []
      else
        let bs := putBytes (putBytes bs 10 2 d.ttaId) 12 4 q.tag.toNat
        let d := d.updWrn fun w => { w with origins := w.origins ++ [(a, q.tag.toNat, false, q)] }
        d.sendRequest (rootTray (jobTrays bs)) { type := 0x16, allot := a, job := 0, reqTag := q.tag.toNat, body := bs }
    | f => d.complete q 0x40 f.status [])

def execJobStart (q : Desc) (addr : W64) (desc : Fetch) (s : State) := s.run (jobStart q addr desc)

/-- JOB_END (R339). A job that this TTA does not hold is refused: DENIED (log 40). -/
def jobEnd (q : Desc) (job : Nat) (d : Dev) : Dev :=
  d.runDesc 0x41 q (fun d =>
    let a := d.slotAllot (descSlot q)
    match d.jobOf a job with
    | none => d.complete q 0x41 4 []
    | some j =>
      if j.state = 2 then d.complete q 0x41 0 [(20, 6, j.endNs / 1000000000), (26, 4, j.endNs % 1000000000)]
      else (d.updWrn fun w => { w with origins := w.origins ++ [(a, job, true, q)] }).sendRequest (rootTray j.trays) { type := 0x16, flags := 8, allot := a, job := job })

def execJobEnd (q : Desc) (job : BitVec 16) (s : State) := s.run (jobEnd q job.toNat)

/-! ## Arrivals -/

/-- The message of an arriving header. -/
def BstHdr.msg (h : BstHdr) (type : Nat) (body : List Byte) : BstMsg :=
  { type := type, flags := h.flags.toNat / 4 * 4, level := h.level.toNat, allot := h.allot.toNat, job := h.job.toNat, attempt := h.attempt.toNat
    status := h.status.toNat, failTta := h.failTta.toNat, timeNs := h.ns, reqTag := h.reqTag.toNat, body := body }

/-- An arriving packet, once accepted, does `f`. -/
def Dev.onBst (h : BstHdr) (a : PktAuth) (type tick : Nat) (f : Dev → Dev) (d : Dev) : Dev :=
  let (ok, d) := (d.advance .tta tick).acceptBst h a type
  if ok then f d else d

def execBandstandRequest (h : BstHdr) (a : PktAuth) (desc : List Byte) (tick : Nat) (s : State) :=
  s.run (Dev.onBst h a 0x16 tick (Dev.takeRequest (h.msg 0x16 desc) h.sender.toNat))

def execPrepare (h : BstHdr) (a : PktAuth) (desc : List Byte) (tick : Nat) (s : State) :=
  s.run (Dev.onBst h a 0x11 tick (Dev.memberPrepare (h.msg 0x11 desc)))

/-- READY: an input of a merge that this tray is parent of, for the attempt held. -/
def Dev.takeReady (h : BstHdr) (d : Dev) : Dev :=
  match d.jobOf h.allot.toNat h.job.toNat with
  | none => d
  | some j =>
    let level := h.level.toNat
    let tray := trayOf h.sender.toNat
    if j.attempt ≠ h.attempt.toNat ∨ level = 0 ∨ treeLevels j.trays < level ∨ parentTray j.trays level tray ≠ d.ownTray then d
    else d.readyInput j level (if level = 1 then h.sender.toNat else tray) h.status.toNat h.failTta.toNat h.sender.toNat

def execReady (h : BstHdr) (a : PktAuth) (tick : Nat) (s : State) := s.run (Dev.onBst h a 0x12 tick (Dev.takeReady h))

def execGo (h : BstHdr) (a : PktAuth) (tick : Nat) (s : State) := s.run (Dev.onBst h a 0x13 tick (Dev.memberGo (h.msg 0x13 [])))

def execAbort (h : BstHdr) (a : PktAuth) (tick : Nat) (s : State) := s.run (Dev.onBst h a 0x14 tick (Dev.memberAbort (h.msg 0x14 [])))

def execBandstandEnd (h : BstHdr) (a : PktAuth) (tick : Nat) (s : State) := s.run (Dev.onBst h a 0x15 tick (Dev.memberEnd (h.msg 0x15 [])))

/-- QUERY (R338): the decider resends the outcome to the querier. -/
def Dev.takeQuery (h : BstHdr) (d : Dev) : Dev :=
  if d.leads = false then d else
  let a := h.allot.toNat
  let x := if h.job = 0 then d.tta.wrn.deciding.find? fun (x : Decided) => x.allot == a && x.reqTag == h.reqTag.toNat && x.origin == h.sender.toNat
    else d.decidedJob a h.job.toNat
  match x with
  | some x => if x.outcome = 0 then d else d.sendBst x.outcomeMsg h.sender.toNat
  | none => d.sendBst { type := 0x14, flags := 4, allot := a, job := h.job.toNat, attempt := h.attempt.toNat, status := 6, reqTag := h.reqTag.toNat } h.sender.toNat

def execQuery (h : BstHdr) (a : PktAuth) (tick : Nat) (s : State) := s.run (Dev.onBst h a 0x17 tick (Dev.takeQuery h))

/-! ## Timers -/

/-- PREPARE_DEADLINE (R335): no complete merge at GO_TIME − GO_LEAD. -/
def prepareDeadline (allot job tick : Nat) (d : Dev) : Dev :=
  let d := d.advance .tta tick
  match d.decidedJob allot job with
  | none => d
  | some x =>
    if x.outcome ≠ 0 ∨ d.ttaNs < x.goNs - goLead x.trays then d else
    let maxA := max 1 (min 16 (d.get R.TTA_WRN_CFG_ATTEMPTS))
    if x.attempt < maxA then
      let d := d.event .tta 4 0x3482 [x.id, x.attempt, 0]
      let d := d.announce { type := 0x14, allot := allot, job := job, attempt := x.attempt, status := 6, timeNs := x.goNs, reqTag := x.reqTag } Dev.memberAbort
      d.issueAttempt { x with attempt := x.attempt + 1, goNs := boundaryAfter (x.goNs + 1000000) (d.ttaNs + 100000) }
    else
      let l := treeLevels x.trays
      let rs := ((d.jobOf allot job).map (·.readies)).getD []
      let missing := (groupInputs x.trays l 0).find? fun t =>
        if l = 1 then !(rs.any fun r => r.1 == 1 && trayOf r.2.1 == t) else !(rs.any fun r => r.1 == l && r.2.1 == t)
      d.sendFinal x 6 (2 * missing.getD (rootTray x.trays)) 0

def execPrepareDeadline (allot job : BitVec 16) (tick : Nat) (s : State) := s.run (prepareDeadline allot.toNat job.toNat tick)

/-- QUERY_TIMER (R336, R338): a PREPARED member without an outcome asks; for job 0 the originator asks about its pending starts. -/
def queryTimer (allot job tick : Nat) (d : Dev) : Dev :=
  let d := d.advance .tta tick
  let ask (root tag : Nat) (att : Nat) (d : Dev) : Dev :=
    (twinsOf root).foldl (fun d t => d.sendBst { type := 0x17, allot := allot, job := job, attempt := att, reqTag := tag } t) d
  if job = 0 then
    (d.tta.wrn.origins.filter fun (o : Nat × Nat × Bool × Desc) => o.1 == allot && !o.2.2.1).foldl (fun d o =>
      match d.tta.wrn.outbox.find? fun (p : Packet) => p.proto == 1 && leAt p.hdr 1 1 == 0x16 && leAt p.hdr 28 4 == o.2.1 with
      | some p => ask (trayOf p.dst) o.2.1 0 d
      | none => match d.tta.wrn.jobs.find? fun (j : Job) => j.allot == allot && leAt j.desc 12 4 == o.2.1 with
        | some j => ask (rootTray j.trays) o.2.1 0 d
        | none => d) d
  else
    match d.jobOf allot job with
    | none => d
    | some j =>
      if j.state ≠ 0 ∨ d.ttaNs < j.goNs + max 1 (d.get R.TTA_WRN_CFG_QUERY_MS) * 1000000 then d
      else ask (rootTray j.trays) (leAt j.desc 12 4) j.attempt d

def execQueryTimer (allot job : BitVec 16) (tick : Nat) (s : State) := s.run (queryTimer allot.toNat job.toNat tick)

/-- WARREN_RESEND (R316); a new suspect may complete a READY merge. -/
def warrenResend (no : Nat) (tick : Nat) (d : Dev) : Dev :=
  let d := d.advance .tta tick
  match d.packet no with
  | none => d
  | some p =>
    let (new, d) := d.tryResend p
    if new then d.readyStep p.allot p.job 4 1 else d

def execWarrenResend (no : Nat) (tick : Nat) (s : State) := s.run (warrenResend no tick)

/-! ## The end of a job (R339) -/

/-- The site of a decision between a RESULT and the close (R201). -/
def roundSite (group sub : Nat) : Nat := group * 256 + sub

/-- Close a pending Warren transfer with TIMEOUT: the round log keeps the outcome; the partner of a duplicated graph is told first. -/
def Dev.closeTransfer (j : Job) (h : Nat) (g : Graph) (r : Run) (t : Nat) (f : Xfer) (d : Dev) : Dev :=
  match f.round with
  | none => d
  | some (group, sub) =>
    let d := d.event .tta 4 0x3406 [j.id, group, r.epoch / 4000 % 2 ^ 32, r.epoch % 4000, 1]
    let d := (d.event .tta 5 0x3150 [roundSite group sub, 1]).sendTwin 0 (.decision g.slot g.gid r.no r.replay (roundSite group sub) 1)
    let d := d.logRound h { epoch := r.epoch, group := group, sub := sub, replay := r.replay, words := [], status := 6 }
    d.completeXfer t f 6 []

/-- Close what a graph still has pending in a job. For a graph that runs on both twins the follower waits for the lead's DECISION. -/
def Dev.closeGraph (j : Job) (h : Nat) (d : Dev) : Dev :=
  match d.graph h with
  | none => d
  | some g =>
    let wait : Bool := g.isRadio d && d.follows
    let d := match g.run with
      | some r =>
        if wait ∨ r.job ≠ some j.id then d else
        g.plan.phys.foldl (fun d t => ((d.tile t).xfers.filter fun (f : Xfer) => f.round.isSome).foldl (fun d f => d.closeTransfer j h g r t f) d) d
      | none => d
    let open_ (p : PastRun) : Bool := p.passed.isNone && p.run.job == some j.id
    (g.past.filter open_).foldl (fun d p =>
      let d := d.event .tta 4 0x3406 [j.id, 0, p.run.epoch / 4000 % 2 ^ 32, p.run.epoch % 4000, 1]
      let d := if g.run.isNone ∧ g.past.getLast? = some p then d.closeCommit g false else d
      ((d.discardHeld h fun v => v.run == p.run.no).updGraph h fun g => { g with past := g.past.filter fun (x : PastRun) => x.run.no != p.run.no }).settle h) d

/-- JOB_CLOSE: END_TIME + 1 ms. -/
def jobClose (allot job tick : Nat) (d : Dev) : Dev :=
  let d := d.advance .tta tick
  match d.jobOf allot job with
  | none => d
  | some j =>
    if j.state ≠ 2 ∨ d.ttaNs < j.endNs + 1000000 then d else
    let d := (jobGraphs j.desc).foldl (fun d g => match d.graphOf j.slot g.1 with
      | some h => d.closeGraph j h
      | none => d) d
    let d := (d.tta.chk.votes.filter fun v => v.1 == j.slot && v.2.1 == j.id).foldl (fun d v =>
      (d.event .tta 4 0x3406 [j.id, 0, v.2.2.1 / 4000 % 2 ^ 32, v.2.2.1 % 4000, 1]).stepResult j v.2.2.1 true) d
    let d := (d.dropJob j).event .tta 4 0x3484 [j.id, (stampOf j.endNs).toNat]
    match d.decidedJob allot job with
    | some x => d.putDecided { x with noneAt := some d.ttaNs }
    | none => d

def execJobClose (allot job : BitVec 16) (tick : Nat) (s : State) := s.run (jobClose allot.toNat job.toNat tick)

/-- OUTCOME_EXPIRY (R338): the decider forgets a job 10 s after it reached NONE. -/
def outcomeExpiry (allot job tick : Nat) (d : Dev) : Dev :=
  let d := d.advance .tta tick
  d.updWrn fun w => { w with deciding := w.deciding.filter fun (x : Decided) =>
    !(x.allot == allot && x.id == job && (match x.noneAt with | some t => decide (t + 10000000000 ≤ d.ttaNs) | none => false)) }

def execOutcomeExpiry (allot job : BitVec 16) (tick : Nat) (s : State) := s.run (outcomeExpiry allot.toNat job.toNat tick)

/-- A DECISION of the partner (R201): the pending copy of the transfer completes with the outcome, which is kept. -/
def Dev.takeDecision (slot gid run replay site winner : Nat) (d : Dev) : Dev :=
  match d.graphOf slot gid with
  | none => d
  | some h =>
    let d := d.updGraph h fun g => { g with decisions := g.decisions ++ [(run, replay, site, winner)] }
    match d.graph h with
    | none => d
    | some g =>
      match g.run with
      | none => d
      | some r =>
        if r.no ≠ run ∨ r.replay ≠ replay ∨ winner ≠ 1 then d else
        g.plan.phys.foldl (fun d t =>
          ((d.tile t).xfers.filter fun (f : Xfer) => f.round.map (fun x => roundSite x.1 x.2) == some site).foldl (fun d f =>
            match f.round with
            | some (group, sub) =>
              (d.logRound h { epoch := r.epoch, group := group, sub := sub, replay := replay, words := [], status := 6 }).completeXfer t f 6 []
            | none => d) d) d

end Sys2Proof.Machine
end

