-- ==== Sys2Proof/Machine/Detect.lean ====
section
/-! DEFINITION. Die states and the expulsion budget (R357 to R363): the commands. -/
namespace Sys2Proof.Machine

/-- DIE_STATE_CLEAR: the partner is told in ROLE. -/
def dieStateClear (die : Nat) (d : Dev) : Dev := (d.clearDie die).sendRole (.dieClear die)

def execDieStateClear (die : Fin 16) (s : State) := s.run (dieStateClear die.val)

/-- Accept and acknowledge a budget message (R362): the platform allotment's WARREN key. -/
def Dev.acceptBudget (m : BudgetMsg) (a : PktAuth) (type : Nat) (d : Dev) : Bool × Dev :=
  let (ok, d) := d.acceptPacket 0 m.sender.toNat m.version.toNat a
  if ok then (true, d.ackPacket 0 2 m.sender.toNat 0x24 (m.bytes type) false) else (false, d)

/-- BUDGET_REQUEST (R361): the keeper decides; a resent copy of the request taken last is only acknowledged. -/
def budgetRequest (m : BudgetMsg) (a : PktAuth) (tick : Nat) (d : Dev) : Dev :=
  let (ok, d) := (d.advance .tta tick).acceptBudget m a 0x21
  if ok = false ∨ d.isKeeper = false then d
  else if m.flags.getLsbD 0 && assocGet m.sender.toNat d.tta.det.lastReq == some m.serial.toNat then d
  else ((d.updDet fun x => { x with lastReq := assocSet m.sender.toNat m.serial.toNat x.lastReq }).keeperRequest m).showKeeper

def execBudgetRequest (m : BudgetMsg) (a : PktAuth) (tick : Nat) (s : State) := s.run (budgetRequest m a tick)

/-- ANSWER (R357). -/
def answer (m : BudgetMsg) (a : PktAuth) (tick : Nat) (d : Dev) : Dev :=
  let (ok, d) := (d.advance .tta tick).acceptBudget m a 0x22
  if ok = true ∧ m.tray.toNat = d.ownTray ∧ m.die.toNat < 16 then d.takeAnswer m else d

def execAnswer (m : BudgetMsg) (a : PktAuth) (tick : Nat) (s : State) := s.run (answer m a tick)

/-- LOG (R361): the keeper's partner keeps the grant. -/
def log (m : BudgetMsg) (a : PktAuth) (tick : Nat) (d : Dev) : Dev :=
  let (ok, d) := (d.advance .tta tick).acceptBudget m a 0x23
  if ok = false then d else
  let g := (m.tray.toNat, m.die.toNat, m.grantSec.toNat)
  if d.tta.det.budget.contains g then d
  else d.updDet fun x => { x with budget := d.liveGrants ++ [g], haveLog := true }

def execLog (m : BudgetMsg) (a : PktAuth) (tick : Nat) (s : State) := s.run (log m a tick)

/-- BUDGET_ACK: the packet is delivered; an acknowledged LOG lets the keeper answer GRANTED. -/
def budgetAck (no : Nat) (m : BudgetMsg) (a : PktAuth) (tick : Nat) (d : Dev) : Dev :=
  let d := d.advance .tta tick
  match d.packet no with
  | none => d
  | some p =>
    let (ok, d) := d.acceptPacket 0 m.sender.toNat m.version.toNat a
    if ok = false ∨ m.sender.toNat ≠ p.dst then d else
    let d := (d.clearSuspect p).dropPackets fun x => x.no == no
    match assocGet no d.tta.det.pendingGrants with
    | none => d
    | some r => (d.updDet fun x => { x with pendingGrants := assocDel no x.pendingGrants }).sendAnswer r 0

def execBudgetAck (no : Nat) (m : BudgetMsg) (a : PktAuth) (tick : Nat) (s : State) := s.run (budgetAck no m a tick)

/-- EXPEL_ANSWER_TIMEOUT (R357): event 0x5013; a die in service becomes SUSPECT with cause 3. -/
def expelAnswerTimeout (die : Nat) (tick : Nat) (d : Dev) : Dev :=
  let d := d.advance .tta tick
  match assocGet die d.tta.det.asked with
  | none => d
  | some n =>
    let d := (d.updDet fun x => { x with asked := assocDel die x.asked }).event .tta 8 0x5013 [die, n]
    if d.dieState die = 0 then d.enterDie die 1 3 else d

def execExpelAnswerTimeout (die : Fin 16) (tick : Nat) (s : State) := s.run (expelAnswerTimeout die.val tick)

/-- LOG_LOST_EXPIRY (R363). -/
def logLostExpiry (tick : Nat) (d : Dev) : Dev := ((d.advance .tta tick).set R.TTA_EXPEL_STAT_LOG_LOST 0).showKeeper

def execLogLostExpiry (tick : Nat) (s : State) := s.run (logLostExpiry tick)

/-- The pair parts: grants that waited for the partner are answered at once (R361). -/
def Dev.grantsParted (d : Dev) : Dev :=
  let l := d.tta.det.pendingGrants
  l.foldl (fun d g => d.sendAnswer g.2 0) (d.updDet fun x => { x with pendingGrants := [] })

/-- A keeper without a log, and without a partner that has one, has lost it (R363): event 0x5014. -/
def Dev.keeperCheck (d : Dev) : Dev :=
  let d := d.showKeeper
  if d.isKeeper = false ∨ d.tta.det.haveLog = true then d else
  (((d.updDet fun x => { x with haveLog := true }).set R.TTA_EXPEL_STAT_LOG_LOST 1).event .tta 8 0x5014 [d.ownTray / 32, d.get R.TTA_DET_CFG_BUDGET]).showKeeper

end Sys2Proof.Machine
end

