-- ==== Sys2Proof/Machine/Ingest.lean ====
section
/-! DEFINITION. Ingest of blocks (R210, R434), the watermark agreement (R211 to R214), the full-fidelity ring and the summary tiers
(R208, R209), forwarding (R15, R186), cluster windows (R223 to R225) and memory channels (R207). -/
namespace Sys2Proof.Machine

/-! ## Forwarded frames (R15, R186) -/

/-- The ORIGIN of an up frame of a die that this twin forwards. -/
def Dev.originOf (die : Nat) (d : Dev) : Origin :=
  { down := false, port := if d.pins.twinSel then 1 else 0, die := Fin.ofNat 16 die, ttaId := BitVec.ofNat 14 d.ttaId }

/-- The other port of a die is down: its traffic goes to the partner too (log 28). -/
def Dev.forwardUp (p : Fin 17) (h : RxHdr) (payload : Payload) (d : Dev) : Dev :=
  if p.val < 16 ∧ d.tta.ing.otherDown.contains p.val = true then
    d.toTwin { payload := payload, cls := h.cls, prot := h.prot, fwd := some (d.originOf p.val), allotIdx := h.allotIdx, len := h.len.toNat, seq := 0, sentAt := 0 }
  else d

/-- The die that an up frame comes from: the port's, or the one that ORIGIN names. -/
def upDie (p : Fin 17) (h : RxHdr) : Nat :=
  match h.fwd with
  | some o => o.die.val
  | none => p.val

/-! ## Epochs -/

def Dev.epoch? (n : Nat) (d : Dev) : Option Epoch := assocGet n d.tta.ing.epochs

/-- Put an epoch in number order. -/
def insEpoch (n : Nat) (e : Epoch) : List (Nat × Epoch) → List (Nat × Epoch)
  | [] => [(n, e)]
  | (m, x) :: t => if n < m then (n, e) :: (m, x) :: t else if n = m then (n, e) :: t else (m, x) :: insEpoch n e t

def Dev.putEpoch (n : Nat) (e : Epoch) (d : Dev) : Dev := d.updIng fun i => { i with epochs := insEpoch n e i.epochs }

/-- The epoch number was closed, decided or dropped before on this TTA. -/
def Dev.epochPast (n : Nat) (d : Dev) : Bool :=
  match d.epoch? n with
  | some e => e.closed
  | none => (d.tta.ing.epochs.any fun (e : Nat × Epoch) => e.2.closed && decide (n < e.1)) || d.tta.ing.log.any fun e => decide (n ≤ e.epoch)

/-! ## The presence maps (R211) -/

/-- The bit of a block by its stream header and its frame's allotment index. -/
def blockBit (hdr : List Byte) (ix : Nat) : Nat :=
  if leAt hdr 0 1 = 2 then 320 + ix
  else
    let first := leAt hdr 8 2
    if 256 ≤ first then first / 256 else if first < 64 then 0 else 256 + (first - 64) / 2

/-- The maps of the blocks that are in. -/
def Epoch.maps (e : Epoch) : List DieMap :=
  (List.range 16).filterMap fun die =>
    let bits := e.blocks.foldl (fun (m : BitVec 384) (b : Nat × Block) =>
      if b.1 / 384 = die ∧ b.2.mark = 0 then m ||| (BitVec.ofNat 384 (2 ^ (b.1 % 384))) else m) 0
    if bits = 0 then none else some { die := Fin.ofNat 16 die, bits := bits }

def mapBits (ms : List DieMap) (die : Nat) : BitVec 384 :=
  match ms.find? fun m => m.die.val = die with
  | some m => m.bits
  | none => 0

def mapHas (ms : List DieMap) (key : Nat) : Bool := (mapBits ms (key / 384)).getLsbD (key % 384)

/-- Every bit of `a` is in `b`. -/
def mapsIn (a b : List DieMap) : Bool := a.all fun m => m.bits &&& ~~~(mapBits b m.die.val) == 0

def mapsMeet (a b : List DieMap) : List DieMap :=
  (a.map fun m => { m with bits := m.bits &&& mapBits b m.die.val }).filter fun m => m.bits != 0

/-! ## The ring (R207 to R209) -/

/-- Bytes of the ring: 4 GiB fewer for each retired channel. -/
def Dev.ringBytes (d : Dev) : Nat := regionSize 0 - d.channelsOut * 2 ^ 32

/-- A block's extent meets [a, a + n). -/
def Block.meets (a n : Nat) (b : Block) : Bool := decide (b.addr < a + n ∧ a < b.addr + b.span)

/-- Give up the oldest decided epochs until no stored block lies in [a, a + n). `fuel` bounds them. -/
def dropOld (a n keep : Nat) : Nat → List (Nat × Epoch) → List (Nat × Epoch)
  | 0, l => l
  | fuel + 1, l =>
    match l with
    | [] => []
    | x :: t =>
      if x.1 ≠ keep ∧ x.2.decided = true ∧ ((x :: t).any fun (e : Nat × Epoch) => e.1 != keep && e.2.decided && e.2.blocks.any fun b => b.2.meets a n) = true then
        dropOld a n keep fuel t
      else x :: t

/-- The current STORE generation of an allotment. -/
def Dev.genOf (allot : Nat) (d : Dev) : Nat :=
  match d.slotHolding allot with
  | some s => d.storeGen s
  | none => 0

/-- Store blocks at the next place of the ring: consecutive, each on a granule, the oldest epochs overwritten first. -/
def Dev.ringPlace (n : Nat) (bs : List (Nat × Block)) (d : Dev) : List (Nat × Block) × Dev :=
  let need := (bs.map fun (b : Nat × Block) => b.2.span).sum
  let a := if d.ringBytes < d.tta.ing.ringNext + need then 0 else d.tta.ing.ringNext
  let d := d.updIng fun i => { i with epochs := dropOld a need n i.epochs.length i.epochs, ringNext := a + need }
  let r := bs.foldl (fun (acc : List (Nat × Block) × Nat) b =>
    (acc.1 ++ [(b.1, { b.2 with addr := acc.2, gen := d.genOf b.2.allot, chunks := [] })], acc.2 + b.2.span)) ([], a)
  (r.1, d)

/-! ## The summary tiers (R209) -/

/-- Seconds of an interval of a tier, and the intervals that it holds. -/
def tierSecs (t : Nat) : Nat := if t = 1 then 1 else 60
def tierLen (t : Nat) : Nat := if t = 1 then 1280 else 256

/-- The 32-byte entry. -/
def SumRun.bytes (r : SumRun) : List Byte := leBytes 8 r.first ++ leBytes 8 r.last ++ leBytes 8 r.maxStep ++ leBytes 4 r.n ++ leBytes 4 r.flags

/-- Close the runs of a tier whose interval is over, and forget the intervals that the tier no longer holds. -/
def Dev.closeSums (t interval : Nat) (d : Dev) : Dev :=
  d.updIng fun i =>
    let ended (x : Nat × SumRun) : Bool := x.1 / 2 ^ 20 == t && decide (x.2.interval < interval)
    let done := (i.sums.filter ended).map fun x =>
      ({ tier := t, stream := x.1 % 2 ^ 20, interval := x.2.interval, allot := x.2.allot, gen := d.genOf x.2.allot, bytes := x.2.bytes } : TierEntry)
    { i with sums := i.sums.filter fun x => !ended x
             tiers := (i.tiers ++ done).filter fun e => e.tier != t || decide (interval ≤ e.interval + tierLen t) }

/-- The distance between two samples modulo 2^64. -/
def sampleStep (a b : Nat) : Nat := (b + 2 ^ 64 - a) % 2 ^ 64

/-- A decided sample of a stream, or an excluded one (`v` absent), enters a tier. -/
def Dev.sumSample (t stream interval allot : Nat) (v : Option Nat) (flags seq : Nat) (d : Dev) : Dev :=
  d.updIng fun i =>
    let key := t * 2 ^ 20 + stream
    let r := match assocGet key i.sums, v with
      | some r, some v =>
        if r.n = 0 then { r with first := v, last := v, n := 1, flags := r.flags ||| flags, seq := seq }
        else { r with last := v, n := r.n + 1, flags := r.flags ||| flags, seq := seq
                      maxStep := if flags.testBit 0 then r.maxStep else max r.maxStep (sampleStep r.last v) }
      | some r, none => { r with flags := r.flags ||| flags }
      | none, some v => { interval := interval, seq := seq, first := v, last := v, maxStep := 0, n := 1, flags := flags }
      | none, none => { interval := interval, first := 0, last := 0, maxStep := 0, n := 0, flags := flags }
    { i with sums := assocSet key { r with allot := allot } i.sums }

/-- SEQ of a stream jumps by more than 2^DECIM since its last decided block of the interval. -/
def Dev.seqGap (key fl seq : Nat) (d : Dev) : Bool :=
  match assocGet key d.tta.ing.sums with
  | some r => r.n != 0 && !fl.testBit 2 && decide (2 ^ (fl % 4) < (seq + 256 - r.seq) % 256)
  | none => false

/-- The figure of the coarse view that a local stream feeds (R48, R99): 0 host NoC, 1 memory controllers, 2 die-to-die links. -/
def coarseKind (stream : Nat) : Option Nat :=
  match stream % 65536 with
  | 8 => some 0
  | 7 => some 1
  | 9 => some 2
  | _ => none

/-- A decided sample of a counter of the coarse view adds its step to the bytes of the window; a RESTART gives no step (R48). -/
def Dev.coarseSample (stream v : Nat) (restart : Bool) (d : Dev) : Dev :=
  match coarseKind stream with
  | none => d
  | some k => d.updIng fun i =>
    let key := 16 + 4 * (stream / 65536) + k
    let moved := match assocGet key i.coarse with
      | some old => if restart then 0 else sampleStep old v
      | none => 0
    { i with coarse := assocSet key v (assocSet (2 + k) ((assocGet (2 + k) i.coarse).getD 0 + moved) i.coarse) }

/-- A counter block enters the tiers: FLAGS from its header, a missing epoch where SEQ jumps by more than 2^DECIM, and the epoch's EXCLUDED or
SOLO. -/
def Dev.sumBlock (n : Nat) (solo : Bool) (key : Nat) (b : Block) (d : Dev) : Dev :=
  if leAt b.hdr 0 1 ≠ 1 then d else
  let die := key / 384
  let fl := leAt b.hdr 1 1
  let first := leAt b.hdr 8 2
  let seq := leAt b.hdr 15 1
  [1, 2].foldl (fun d t =>
    (List.range b.words.length).foldl (fun d i =>
      let stream := die * 65536 + (first + i) % 65536
      let gap := d.seqGap (t * 2 ^ 20 + stream) fl seq
      let flags := (if fl.testBit 2 then 1 else 0) + (if fl % 4 = 0 then 0 else 2) + (if gap then 4 else 0) + (if solo ∨ b.mark ≠ 0 then 8 else 0)
      let d := if t = 1 ∧ b.mark = 0 then d.coarseSample stream (b.words.getD i 0) (fl.testBit 2) else d
      d.sumSample t stream (n / 4000 / tierSecs t) b.allot (if b.mark = 0 then some (b.words.getD i 0) else none) flags seq) d) d

/-! ## What a decided epoch brings (R209, R378, R380) -/

/-- The step entries of a block of precise samples. -/
def Dev.stepEntries (n : Nat) (key : Nat) (b : Block) (d : Dev) : List StepWait :=
  if leAt b.hdr 0 1 ≠ 2 ∨ b.mark ≠ 0 then [] else
  match d.slotHolding b.allot with
  | none => []
  | some slot =>
    (List.range (b.words.length / 4)).filterMap fun i =>
      if b.words.getD (4 * i + 3) 0 / 2 ^ 24 % 4 = 3 then
        some { epoch := n, die := key / 384, slot := slot, w0 := BitVec.ofNat 64 (b.words.getD (4 * i) 0), w1 := BitVec.ofNat 64 (b.words.getD (4 * i + 1) 0) }
      else none

/-- Summaries and step commit of a decided epoch. -/
def Dev.takeEpoch (n : Nat) (e : Epoch) (d : Dev) : Dev :=
  let fl := ((d.tta.ing.log.find? fun l => l.epoch = n).map (·.flags)).getD 0
  let d := d.putEpoch n { e with taken := true }
  let d := (d.closeSums 1 (n / 4000)).closeSums 2 (n / 4000 / 60)
  let d := e.blocks.foldl (fun d b => d.sumBlock n (fl.testBit 2) b.1 b.2) d
  if fl.testBit 3 then d else
  let es := e.blocks.flatMap fun b => d.stepEntries n b.1 b.2
  let slots := ((es.map (·.slot)) ++ d.tta.wrn.jobs.map (·.slot)).eraseDups
  slots.foldl (fun d s => d.stepsDecided s n (es.filter fun x => x.slot = s)) d

/-- Epochs are taken in order, up to the first that is not decided. -/
def Dev.takeEpochs (d : Dev) : Dev :=
  ((d.tta.ing.epochs.takeWhile fun (e : Nat × Epoch) => e.2.decided).filter fun e => !e.2.taken).foldl (fun d e => d.takeEpoch e.1 e.2) d

/-- The decided set of an epoch is fixed (R211, R213, R214): marks, the ring, the log, events. -/
def Dev.fixEpoch (n : Nat) (maps : List DieMap) (solo adopted : Bool) (d : Dev) : Dev :=
  let e := (d.epoch? n).getD {}
  if e.decided then d else
  let out (b : Nat × Block) : Bool := b.2.mark == 0 && !mapHas maps b.1
  let excl := (e.blocks.filter out).length
  let bs := sortBy (fun a b => decide (a.1 ≤ b.1)) (e.blocks.map fun b => (b.1, { b.2 with mark := if out b then 2 else b.2.mark }))
  let (bs, d) := d.ringPlace n bs
  let flags := (if e.filled = 0 then 0 else 1) + (if excl = 0 then 0 else 2) + (if solo then 4 else 0) + (if adopted then 8 else 0)
  let d := d.putEpoch n { e with blocks := bs, closed := true, decided := true }
  let d := d.updIng fun i => { i with log := (i.log ++ [({ epoch := n, maps := maps, flags := flags } : LogEntry)]).drop (i.log.length + 1 - 40000) }
  let d := d.bump R.TTA_WM_CNT_EXCLUDED excl
  let d := if adopted = false ∧ (e.filled ≠ 0 ∨ excl ≠ 0) then d.event .tta 6 0x3120 [n / 4000 % 2 ^ 32, n % 4000, e.filled, excl] else d
  let d := if solo then (d.bump R.TTA_WM_CNT_SOLO 1).event .tta 6 0x3121 [n / 4000 % 2 ^ 32, n % 4000, d.twinState] else d
  d.takeEpochs

/-! ## Agreement (R211, R212) -/

/-- Every block that the partner proposed is here, or the own fill bound has passed. -/
def Epoch.fillsDone (e : Epoch) : Bool :=
  e.fillDue || (match e.propose with
    | some p => mapsIn p e.maps
    | none => false)

/-- Look whether an epoch goes on: the follower's HAVE, the decider's DECIDE, or the decision of a lead without its partner. A lead in JOINING
that was alone decides alone and tells its partner (log 41). -/
def Dev.tryEpoch (n : Nat) (d : Dev) : Dev :=
  match d.epoch? n with
  | none => d
  | some e =>
    if e.closed = false ∨ e.decided = true then d else
    if d.paired then
      if d.leads then
        match e.have_ with
        | some h =>
          if e.fillsDone then
            let m := mapsMeet e.maps h
            (d.sendTwin n (.decide m)).fixEpoch n m false false
          else d
        | none => d
      else if e.haveSent = false ∧ e.fillsDone = true then (d.putEpoch n { e with haveSent := true }).sendTwin n (.have_ e.maps)
      else d
    else if d.leads ∧ (d.twinState ≠ 3 ∨ d.tta.twin.logDone = true) then
      let m := e.maps
      let d := if d.twinState = 3 then d.sendTwin n (.decide m) else d
      d.fixEpoch n m true false
    else d

/-- Every undecided epoch, looked at again after a change of the twin state. -/
def Dev.tryEpochs (d : Dev) : Dev := (d.tta.ing.epochs.map (·.1)).foldl (fun d n => d.tryEpoch n) d

/-- Bytes of data a frame of the twin link may hold (R170). -/
def Dev.twinFrameLimit (d : Dev) : Nat := 1040 * max 1 (min 4 (popMask (d.get (tlActive (.tta 16)))))

/-- Send a block as forwarded DATA frames. -/
def Dev.sendFill (key : Nat) (b : Block) (d : Dev) : Dev :=
  (chunkFrames d.twinFrameLimit b.chunks).foldl (fun d cs =>
    d.toTwin { payload := .data cs, cls := b.cls, prot := true, fwd := some (d.originOf (key / 384)), allotIdx := b.allotIdx, len := payloadLen (.data cs), seq := 0, sentAt := 0 }) d

/-- The fills that the partner's PROPOSE calls for. -/
def Dev.sendFills (n : Nat) (d : Dev) : Dev :=
  match d.epoch? n with
  | none => d
  | some e =>
    match e.propose with
    | none => d
    | some p => (e.blocks.filter fun b => b.2.mark == 0 && !mapHas p b.1).foldl (fun d b => d.sendFill b.1 b.2) d

/-- WATERMARK_CLOSE: the maps are frozen, PROPOSE goes to the partner, a PROPOSE held until now is answered. -/
def watermarkClose (n tick : Nat) (d : Dev) : Dev :=
  let d := d.advance .tta tick
  let e := (d.epoch? n).getD {}
  if d.timeValid .tta = false ∨ d.ttaNs < epochEnd n + d.tta.ing.hold * 1000 ∨ e.closed = true ∨ ((d.epoch? n).isNone && d.epochPast n) = true then d else
  let d := d.putEpoch n { e with closed := true }
  let d := if d.paired then (d.sendTwin n (.propose e.maps)).sendFills n else d
  d.tryEpoch n

def execWatermarkClose (epoch : Nat) (tick : Nat) (s : State) := s.run (watermarkClose epoch tick)

/-- FILL_BOUND. -/
def fillBound (n tick : Nat) (d : Dev) : Dev :=
  let d := d.advance .tta tick
  match d.epoch? n with
  | none => d
  | some e =>
    if e.closed = false ∨ e.decided = true ∨ d.ttaNs < epochEnd n + (d.tta.ing.hold + d.tta.ing.fill) * 1000 then d
    else (d.putEpoch n { e with fillDue := true }).tryEpoch n

def execFillBound (epoch : Nat) (tick : Nat) (s : State) := s.run (fillBound epoch tick)

/-! ## Blocks in (R210, R213) -/

/-- The full presented time of a short stamp, nearest to now (R152, R210). -/
def extendStamp (now stamp : Nat) : Int :=
  let delta : Nat := (stamp + 2 ^ 32 - now % 2 ^ 32) % 2 ^ 32
  (now : Int) + (if 2 ^ 31 ≤ delta then (delta : Int) - 2 ^ 32 else (delta : Int))

def Dev.ingestDrop (d : Dev) : Dev := d.bump R.TTA_ING_DROP_DROP 1

/-- A block that finds its place taken: counted as a duplicate of a fill, or of a forwarded or direct block. -/
def Dev.ingestDup (die : Nat) (byFill : Bool) (d : Dev) : Dev :=
  if byFill then d.bump R.TTA_ING_DROP_DUP 1 else d.bump (R.TTA_TL_FWD_DUP.at die) 1

/-- A LATE block: counted; stored with its mark, in the ring at once when its epoch is decided, while its epoch is held. -/
def Dev.ingestLate (n key : Nat) (b : Block) (d : Dev) : Dev :=
  let d := d.bump R.TTA_ING_DROP_LATE 1
  match d.epoch? n with
  | none => d
  | some e =>
    let b := { b with mark := 1 }
    if e.decided then
      let (bs, d) := d.ringPlace n [(key, b)]
      match d.epoch? n with
      | some e => d.putEpoch n { e with blocks := e.blocks ++ bs }
      | none => d
    else d.putEpoch n { e with blocks := e.blocks ++ [(key, b)] }

/-- A complete block is named, placed or dropped; a parked TTA drops it (R475). -/
def Dev.ingestBlock (die : Nat) (fwd : Bool) (b : Block) (d : Dev) : Dev :=
  if d.dieEnabled die = false ∨ d.get R.TTA_PWR_STAT_STATE ≠ 0 ∨ d.timeValid .tta = false then d.ingestDrop else
  let now := d.ttaNs
  let full := extendStamp now (leAt b.hdr 4 4)
  let n := ((full + 125000) / 250000).toNat
  if now + 1000000 < full ∨ 1000 < (full - 250000 * (n : Int)).natAbs then d.ingestDrop else
  let d := d.cnt 13 1
  let d := if fwd then (d.cnt 14 1).bump (R.TTA_TL_FWD_FWD_SAMPLES.at die) (leAt b.hdr 10 2) else d
  let key := die * 384 + blockBit b.hdr b.allotIdx.toNat
  let e := (d.epoch? n).getD {}
  match e.blocks.find? fun x => x.1 == key && x.2.mark != 1 with
  | some x => d.ingestDup die x.2.byFill
  | none =>
    let asked : Bool := match e.propose with
      | some p => mapHas p key
      | none => false
    if d.epochPast n = false then d.putEpoch n { e with blocks := e.blocks ++ [(key, b)] }
    else if fwd ∧ asked ∧ e.decided = false then
      let e := { e with blocks := (e.blocks.filter fun x => x.1 != key) ++ [(key, { b with byFill := true })], filled := e.filled + 1 }
      ((d.putEpoch n e).bump R.TTA_WM_CNT_FILLED 1).tryEpoch n
    else d.ingestLate n key b

/-! ## The unpacker (R434) -/

/-- Chunk boundaries of a frame's data: up to the first chunk that passes the end. `fuel` bounds them. -/
def splitChunks : Nat → List Byte → List (List Byte)
  | 0, _ => []
  | fuel + 1, bs =>
    if bs = [] then [] else
    match readChunk bs with
    | none => [bs]
    | some c => bs.take c.len :: splitChunks fuel (bs.drop (ceilDiv c.len 8 * 8))

/-- The unpacker of a port for a die and class. -/
def unpackKey (p die cls : Nat) : Nat := p * 128 + die * 8 + cls

def Dev.unpackOf (k : Nat) (d : Dev) : Unpack := Memory.read (fun _ => {}) d.tta.ing.unpack k
def Dev.setUnpack (k : Nat) (u : Unpack) (d : Dev) : Dev := d.updIng fun i => { i with unpack := Memory.write (fun _ => {}) i.unpack k u }

/-- A dropped block: counted and recorded once. -/
def Dev.unpackErr (p die cls check : Nat) (d : Dev) : Dev :=
  (d.bump (R.TTA_CMP_UNPACK_ERR.at p) 1).event .tta 9 0x7010 [p, die, cls, check]

/-- Words that a block's header announces, and the stride of its words. -/
def hdrWords (hdr : List Byte) : Nat := leAt hdr 10 2 * (if leAt hdr 0 1 = 2 then 4 else 1)
def hdrStride (hdr : List Byte) : Nat := if leAt hdr 0 1 = 2 then 4 else 1

/-- One chunk: checks 2 to 6, then the block when it is whole. -/
def Dev.unpackChunk (p : Nat) (die : Nat) (h : RxHdr) (raw : List Byte) (c : Chunk) (d : Dev) : Dev :=
  let k := unpackKey p die h.cls.val
  let fwd := p == 16
  let u := d.unpackOf k
  let d := if c.raw then d.bump (R.TTA_CMP_UNPACK_RAW.at p) 1 else d
  let fail (check : Nat) (d : Dev) : Dev := (d.unpackErr p die h.cls.val check).setUnpack k (if c.last then {} else { dropping := true })
  if c.hdr = false ∧ u.isOpen = false then
    if u.dropping then (if c.last then d.setUnpack k {} else d) else fail 2 d
  else
    let d := if c.hdr && u.isOpen then d.unpackErr p die h.cls.val 2 else d
    let u : Unpack := if c.hdr then { hdr := c.rest.take 16, isOpen := true } else u
    if c.hdr ∧ leAt u.hdr 0 1 ≠ 1 ∧ leAt u.hdr 0 1 ≠ 2 then fail 3 d
    else if c.nwords = 0 ∨ 64 < c.nwords ∨ c.off ≠ u.words.length ∨ c.nwords % hdrStride u.hdr ≠ 0 then fail 4 d
    else match c.words (hdrStride u.hdr) with
    | none => fail 5 d
    | some ws =>
      let all := u.words ++ ws
      let total := hdrWords u.hdr
      if total < all.length ∨ (c.last = true ∧ all.length ≠ total) then fail 6 d
      else if c.last then
        (d.setUnpack k {}).ingestBlock die fwd
          { hdr := u.hdr, words := all, chunks := u.chunks ++ [raw], allotIdx := h.allotIdx, cls := h.cls, allot := d.dieAllot die h.allotIdx.toNat }
      else d.setUnpack k { u with words := all, chunks := u.chunks ++ [raw] }

/-- The chunks of a frame's data. -/
def Dev.unpackFrame (p : Nat) (die : Nat) (h : RxHdr) (bs : List Byte) (d : Dev) : Dev :=
  (splitChunks bs.length bs).foldl (fun d raw =>
    match readChunk raw with
    | none => (d.unpackErr p die h.cls.val 1).setUnpack (unpackKey p die h.cls.val) { dropping := true }
    | some c => d.unpackChunk p die h raw c) d

/-- DATA_FRAME. -/
def dataFrame (p : Fin 17) (h : RxHdr) (bytes : List Byte) (tick : Nat) (d : Dev) : Dev :=
  let d := d.advance .tta tick
  let (ok, d) := d.acceptFrame (.tta p) true h
  if ok = false then d else
  (d.forwardUp p h (.data (splitChunks bytes.length bytes))).unpackFrame p.val (upDie p h) h bytes

def execDataFrame (p : Fin 17) (h : RxHdr) (bytes : List Byte) (tick : Nat) (s : State) := s.run (dataFrame p h bytes tick)

/-! ## Stage stamps (R171, R281, R364, R365) -/

/-- Words 4 to 7 of the run descriptor for a stamp (R364): its extended time and its fields. -/
def Dev.stampRecord (die : Nat) (x : StageStamp) (d : Dev) : List W64 :=
  let ns := (extendStamp d.ttaNs x.stamp.toNat).toNat
  [BitVec.ofNat 64 (die * 2 ^ 59 + x.pipe.val * 2 ^ 53 + (if x.last then 2 ^ 52 else 0) + x.stage.val * 2 ^ 48 + x.slotNum.toNat * 2 ^ 32 + x.stamp.toNat),
   BitVec.ofNat 64 (ns / 1000000000 % 2 ^ 48), BitVec.ofNat 64 (ns % 1000000000), 0]

/-- A stamp goes to the graph that its pipeline is routed to; a full queue loses its oldest stamp. -/
def Dev.takeStamp (die : Nat) (x : StageStamp) (d : Dev) : Dev :=
  match (assocGet (die * 64 + x.pipe.val) d.tta.det.routes).bind fun h => (d.graph h).map fun g => (h, g) with
  | none => d.bump R.TTA_HINT_STAT_UNROUTED 1
  | some (h, g) =>
    let w := d.stampRecord die x
    if g.stamps.length < 256 then d.setGraph h { g with stamps := g.stamps ++ [w] }
    else (d.setGraph h { g with stamps := g.stamps.drop 1 ++ [w], stampsLost := g.stampsLost + 1 }).event .tta 5 0x3208 [g.slot, h]

/-- STAMP_FRAME. -/
def stampFrame (p : Fin 17) (h : RxHdr) (l : List StageStamp) (tick : Nat) (d : Dev) : Dev :=
  let d := d.advance .tta tick
  let (ok, d) := d.acceptFrame (.tta p) true h
  if ok = false then d else l.foldl (fun d x => d.takeStamp (upDie p h) x) (d.forwardUp p h (.stamps l))

def execStampFrame (p : Fin 17) (h : RxHdr) (l : List StageStamp) (tick : Nat) (s : State) := s.run (stampFrame p h l tick)

/-! ## Trace segments (R135, R136) -/

/-- Store a segment: its capture by die, allotment and CAPTURE, its payload by OFFSET; FIRST starts the capture anew. -/
def storeSegment (die slot gen : Nat) (seg : List Byte) (l : List Capture) : List Capture :=
  let allot := leAt seg 2 2
  let no := leAt seg 4 4
  let fl := leAt seg 1 1
  let mine (c : Capture) : Bool := c.die == die && c.allot == allot && c.capture == no
  let old := if fl.testBit 0 then none else l.find? mine
  let c := old.getD { die := die, slot := slot, allot := allot, capture := no, bytes := [], last := false, gen := gen }
  let c := { c with bytes := assocSet (leAt seg 8 4) ((seg.drop 16).take (leAt seg 12 2)) c.bytes, last := c.last || fl.testBit 1 }
  (l.filter fun c => !mine c) ++ [c]

/-- TRACE_FRAME. -/
def traceFrame (p : Fin 17) (h : RxHdr) (seg : List Byte) (d : Dev) : Dev :=
  let (ok, d) := d.acceptFrame (.tta p) true h
  if ok = false then d else
  let d := d.forwardUp p h (.trace seg)
  let die := upDie p h
  let slot := (((d.dieTraceSlots die).find? fun e => e.2.2.2 = h.allotIdx.toNat).map (·.1)).getD 0
  { d with tta := { d.tta with captures := storeSegment die slot (d.genOf (leAt seg 2 2)) seg d.tta.captures } }

def execTraceFrame (p : Fin 17) (h : RxHdr) (seg : List Byte) (s : State) := s.run (traceFrame p h seg)

/-! ## Cluster windows (R203, R223, R225) -/

def Dev.windowMs (d : Dev) : Nat := max 1 (min 10000 (d.get R.TTA_FAB_CFG_WINDOW_MS))

/-- Steps of each active tile of a cluster in the window. -/
def Dev.cluSteps (c : Nat) (d : Dev) : List Nat :=
  (d.tta.tiles.filter fun t => t.1 / 16 == c && decide (0 < t.2.steps)).map fun t => t.2.steps

/-- RATE_M: 0 for a cluster without an active tile. -/
def Dev.rateM (c : Nat) (d : Dev) : Nat :=
  let l := d.cluSteps c
  if l = [] then 0 else min 4095 (l.sum / (l.length * d.windowMs * 1000))

/-- The median: the mean of the two middle values of an even count, rounded down (log 42). -/
def median (l : List Nat) : Nat :=
  let s := sortBy (fun a b => decide (a ≤ b)) l
  (s.getD ((s.length - 1) / 2) 0 + s.getD (s.length / 2) 0) / 2

/-- The rated minimum step rate at a rail, in M steps/s (R202); a rail outside the table takes its nearest row (log 42). -/
def ratedMin (mv : Nat) : Nat :=
  if mv ≤ 550 then 800 else if mv ≤ 650 then 800 + 250 * (mv - 550) / 100
  else if mv ≤ 750 then 1050 + 230 * (mv - 650) / 100 else if mv ≤ 850 then 1280 + 180 * (mv - 750) / 100 else 1460

/-- A cluster and its figures of a window: number, RATE_M, temperature. -/
structure CluFig where
  c : Nat
  rate : Nat
  temp : Int
  deriving DecidableEq, Repr

/-- The medians' clusters: active, not retired, of the quadrant. -/
def quadFigs (q : Nat) (l : List CluFig) : List CluFig := l.filter fun f => f.c / 160 == q && f.rate != 0

/-- The decision of a window on a cluster (R223), and its rate against the rated minimum (R225). -/
def Dev.judgeCluster (figs : List CluFig) (mv : Nat) (f : CluFig) (d : Dev) : Dev :=
  let near := (quadFigs (f.c / 160) figs).filter fun g => decide ((g.temp - f.temp).natAbs ≤ 5)
  if f.rate = 0 ∨ near.length < 16 then d else
  let med := median (near.map (·.rate))
  let slowPct := max 1 (d.get R.TTA_FAB_CFG_SLOW_PCT)
  let clearPct := min (d.get R.TTA_FAB_CFG_CLEAR_PCT) (slowPct - 1)
  let slow := d.get (R.TTA_FAB_CLU_STATE.at f.c) = 1
  let toward : Bool := if slow then decide (((f.rate : Int) - med).natAbs * 100 ≤ med * clearPct) else decide (f.rate * 100 < med * (100 - slowPct))
  let run := if toward then Memory.read (fun _ => 0) d.tta.ing.runs f.c + 1 else 0
  let need := max 1 (if slow then d.get R.TTA_FAB_CFG_CLEAR_WIN else d.get R.TTA_FAB_CFG_SLOW_WIN)
  let low := if f.rate < ratedMin mv then Memory.read (fun _ => 0) d.tta.ing.low f.c + 1 else 0
  let turn := decide (need ≤ run)
  let run := if turn then 0 else run
  let d := d.updIng fun i => { i with runs := Memory.write (fun _ => 0) i.runs f.c run, low := Memory.write (fun _ => 0) i.low f.c low }
  let d := d.set (R.TTA_FAB_CLU_RUN.at f.c) (min 63 run)
  let d := if turn then
      (d.set (R.TTA_FAB_CLU_STATE.at f.c) (if slow then 0 else 1)).event .tta 5 (if slow then 0x3102 else 0x3101) [f.c, f.rate, med]
    else d
  if 4 ≤ low then { d.retireCluster f.c 2 with tta := { (d.retireCluster f.c 2).tta with retireDue := f.c :: d.tta.retireDue } } else d

/-- CLUSTER_WINDOW_END. -/
def clusterWindowEnd (tick : Nat) (temps : List Int) (railMv : List Nat) (d : Dev) : Dev :=
  let d := d.advance .tta tick
  let figs : List CluFig := (List.range 640).map fun c => ⟨c, d.rateM c, temps.getD c 0⟩
  let d := figs.foldl (fun d f =>
    ((d.set (R.TTA_FAB_CLU_RATE_M.at f.c) f.rate).set (R.TTA_FAB_CLU_TEMP_C.at f.c) (f.temp % 256).toNat).set (R.TTA_FAB_CLU_RAIL_MV.at f.c)
      (railMv.getD (f.c / 160) 0)) d
  let live := figs.filter fun f => d.get (R.TTA_FAB_CLU_STATE.at f.c) != 2
  let d := (List.range 4).foldl (fun d q =>
    (d.set (R.TTA_FAB_QUAD_MEDIAN_M.at q) (median ((quadFigs q live).map (·.rate)))).set (R.TTA_FAB_QUAD_RAIL_MV.at q) (railMv.getD q 0)) d
  let d := { d with tta := { d.tta with tiles := (d.tta.tiles.map fun t => (t.1, { t.2 with steps := 0 })).filter fun t => decide (t.2 ≠ {}) } }
  let d := live.foldl (fun d f => d.judgeCluster live (railMv.getD (f.c / 160) 0) f) d
  (List.range 4).foldl (fun d q => d.quadCount q) d

def execClusterWindowEnd (tick : Nat) (temps : List Int) (railMv : List Nat) (s : State) := s.run (clusterWindowEnd tick temps railMv)

/-! ## Memory channels (R207) -/

/-- The channel of a logical page: pages rotate over the channels; a retirement moves those of its channel. -/
def Dev.pageChannel (pg : Nat) (d : Dev) : Nat := (assocGet pg d.tta.ing.moved).getD (pg % 64)

/-- Ring contents that a retirement takes: blocks on the pages given up go, blocks on moved pages lose them. -/
def losePages (top : Nat) (pages : List Nat) (l : List (Nat × Epoch)) : List (Nat × Epoch) :=
  l.map fun e => if e.2.decided = false then e else
    (e.1, { e.2 with blocks := (e.2.blocks.filter fun b => decide (b.2.addr + b.2.span ≤ top)).map fun b =>
      (b.1, { b.2 with lostPages := b.2.lostPages ++ pages.filter fun p => b.2.meets (p * 4194304) 4194304 }) })

/-- Ask the twin for a page. -/
def Dev.askPage (pg : Nat) (d : Dev) : Dev := d.sendTwin 0 (.page pg none)

/-- Retire a channel: the ring gives up its highest 4 GiB, the pages of the channel move there in order, the ring's own moved pages are lost
and the others come again from the twin. Causes (log 21): 0 training, 1 corrected errors, 2 uncorrectable errors. -/
def Dev.retireChannel (ch cause : Nat) (d : Dev) : Dev :=
  if d.bit (R.TTA_MEM_CH_RETIRED.at ch) then d else
  let d := d.set (R.TTA_MEM_CH_RETIRED.at ch) 1
  let top := d.ringBytes / 4194304
  let freed := (List.range 1024).map (top + ·)
  let room := (freed.map fun p => d.pageChannel p).filter (· != ch)
  let pages := (List.range 65536).filter fun p => d.pageChannel p == ch && !(decide (top ≤ p ∧ p < 40960))
  let ring := pages.filter fun p => decide (p < top)
  let other := pages.filter fun p => decide (top ≤ p)
  let d := d.updIng fun i => { i with
    moved := (i.moved.filter fun e => !pages.contains e.1) ++ List.zip pages room
    epochs := losePages (top * 4194304) ring i.epochs
    awaited := if cause = 0 then i.awaited else i.awaited ++ other.map fun p => (p, ch) }
  let left := 160 - 4 * d.channelsOut
  let d := if 16 < d.channelsOut then d.eventPerm .tta 6 0x3110 [ch, cause, left] else d.event .tta 6 0x3110 [ch, cause, left]
  if cause = 0 ∨ other = [] then d else other.foldl (fun d p => d.askPage p) (d.event .tta 6 0x3111 [ch, other.length])

/-- MEM_CHANNEL_ERROR: more than 64 corrected errors in any 1 s, or 4 uncorrectable ones within 24 h, retire the channel. -/
def memChannelError (ch : Nat) (ue : Bool) (tick : Nat) (d : Dev) : Dev :=
  let d := d.advance .tta tick
  let now := d.tta.time.base.tick
  let d := d.bump (if ue then R.TTA_MEM_CH_UE.at ch else R.TTA_MEM_CH_CE.at ch) 1
  let age : Nat := if ue then 86400000000000 else 1000000000
  let d := d.updIng fun i => { i with chErrs := (i.chErrs.filter fun e => e.1 != ch || e.2.2 != ue || decide (now < e.2.1 + age)) ++ [(ch, now, ue)] }
  let n := (d.tta.ing.chErrs.filter fun e => e.1 == ch && e.2.2 == ue).length
  if (ue = true ∧ 4 ≤ n) ∨ (ue = false ∧ 64 < n) then d.retireChannel ch (if ue then 2 else 1) else d

def execMemChannelError (ch : Fin 64) (ue : Bool) (tick : Nat) (s : State) := s.run (memChannelError ch.val ue tick)

end Sys2Proof.Machine
end

