-- ==== Sys2Proof/Machine/Allot.lean ====
section
/-! DEFINITION. The allotment life cycle (R30 to R34, R417, R418): OPEN, CLOSE, REBIND, ROTATE_STORE, FN_RESET; the re-bind and release
sequences (R53 to R56), re-admission (R290), the scale table (R25 to R27), and what happens at an ingest epoch boundary. -/
namespace Sys2Proof.Machine

/-! ## Slots and clusters -/

def Dev.setSlotState (n st : Nat) (d : Dev) : Dev := d.set (R.TTA_ALT_ENTRY_STATE.at n) st
def Dev.workGen (n : Nat) (d : Dev) : Nat := d.get (R.TTA_ALT_ENTRY_WORK_GEN.at n)

/-- A cluster that no slot holds, or is to hold, and that is not retired. -/
def Dev.clusterFree (c : Nat) (d : Dev) : Bool :=
  d.get (R.TTA_FAB_CLU_STATE.at c) != 2 && !(d.tta.slotsX.any fun s => s.2.clusters.contains c || s.2.newSet.contains c)

/-- The slot's set becomes `cs`. -/
def Dev.bindClusters (n : Nat) (cs : List Nat) (d : Dev) : Dev :=
  (d.updSlotX n fun s => { s with clusters := cs, newSet := [] }).set (R.TTA_ALT_ENTRY_CLUSTERS.at n) cs.length

/-- A cluster list of a fetched buffer. -/
def clusterList (bs : List Byte) (n : Nat) : List Nat := (List.range n).map fun i => leAt bs (2 * i) 2

/-- Every index lies below 640, is not repeated, and may be taken. -/
def listOk (ok : Nat → Bool) : List Nat → Bool
  | [] => true
  | c :: t => decide (c < 640) && !t.contains c && ok c && listOk ok t

/-- A die carries 64 allotments already (R31). -/
def Dev.diesFull (d : Dev) : Bool := (List.range 16).any fun p => d.dieEnabled p && decide (64 ≤ d.indicesUsed p)

/-- ALLOT_OPEN. A parked TTA has no room (R476). -/
def allotOpen (q : Desc) (slot cls : Nat) (addr : W64) (list : Fetch) (d : Dev) : Dev :=
  d.runDesc 0x08 q (fun d =>
    let len := q.length.toNat
    let a := q.allot.toNat
    if d.parked then d.complete q 0x08 9 []
    else if addr.toNat % 64 ≠ 0 ∨ len < 50 ∨ 48 + 1280 < len ∨ len % 2 ≠ 0 then d.complete q 0x08 3 []
    else if (cls ≠ 1 ∧ cls ≠ 2) ∨ a = 0 ∨ a = 0xFFFF ∨ d.slotState slot ≠ 0 ∨ (d.slotHolding a).isSome = true ∨
        (cls = 1 ∧ ((List.range 256).any fun n => d.slotState n != 0 && d.slotClass n == 1) = true) then d.complete q 0x08 4 []
    else match list with
    | .data bs =>
      let cs := clusterList (bs.drop 48) ((len - 48) / 2)
      if listOk (fun c => d.clusterFree c) cs = false ∨ d.diesFull = true then d.complete q 0x08 9 []
      else
        let d := (((d.set (R.TTA_ALT_ENTRY_ALLOT_ID.at slot) a).set (R.TTA_ALT_ENTRY_CLASS.at slot) cls).set (R.TTA_ALT_ENTRY_WORK_GEN.at slot) 0).set
          (R.TTA_ALT_ENTRY_STORE_GEN.at slot) 0
        (((d.setSlotX slot { digest := bs.take 48 }).setSlotState slot 1).bindClusters slot cs).complete q 0x08 0 []
    | f => d.complete q 0x08 f.status [])

def execAllotOpen (q : Desc) (slot cls : BitVec 8) (addr : W64) (list : Fetch) (s : State) := s.run (allotOpen q slot.toNat cls.toNat addr list)

/-- A slot enters RELEASING; the sequence starts at the next ingest boundary, and at once from KEYING, where nothing is to be erased. -/
def Dev.startClose (n : Nat) (seq : Option (Nat × Desc)) (d : Dev) : Dev :=
  let keying : Bool := d.slotState n == 1
  ((d.cmpCut (d.slotAllot n) true).updSlotX n fun s =>
    { s with seq := seq, heldClose := none, due := !keying, startNs := if keying then d.ttaNs else 0 }).setSlotState n 4

/-- ALLOT_CLOSE: of a slot that is REBINDING it is held; of one that is RELEASING, of slot 0 and of an allotment without a slot DENIED
(log 45). -/
def allotClose (q : Desc) (d : Dev) : Dev :=
  d.runDesc 0x09 q (fun d =>
    match d.slotHolding q.allot.toNat with
    | none => d.complete q 0x09 4 []
    | some 0 => d.complete q 0x09 4 []
    | some n =>
      let st := d.fnState (.vf (Fin.ofNat 256 n))
      if q.fn = .pf ∧ st ≠ 2 ∧ st ≠ 3 then d.complete q 0x09 8 []
      else match d.slotState n with
      | 1 | 2 => d.startClose n (some (0x09, q))
      | 3 => if (d.slotX n).heldClose.isSome then d.complete q 0x09 4 [] else d.updSlotX n fun s => { s with heldClose := some q }
      | _ => d.complete q 0x09 4 [])

def execAllotClose (q : Desc) (s : State) := s.run (allotClose q)

/-- A slot enters REBINDING toward a cluster set. -/
def Dev.startRebind (n : Nat) (cs : List Nat) (seq : Option (Nat × Desc)) (d : Dev) : Dev :=
  (d.updSlotX n fun s => { s with seq := seq, newSet := cs, due := true }).setSlotState n 3

/-- ALLOT_REBIND. -/
def allotRebind (q : Desc) (addr : W64) (list : Fetch) (d : Dev) : Dev :=
  d.runDesc 0x0A q (fun d =>
    let len := q.length.toNat
    if addr.toNat % 64 ≠ 0 ∨ len % 2 ≠ 0 ∨ 1280 < len then d.complete q 0x0A 3 []
    else match d.slotHolding q.allot.toNat with
    | none => d.complete q 0x0A 4 []
    | some n =>
      if d.slotActive n = false then d.complete q 0x0A 4 []
      else match list with
      | .data bs =>
        let cs := clusterList bs (len / 2)
        if listOk (fun c => d.clusterFree c || (d.slotX n).clusters.contains c) cs = false ∨ d.workGen n = 0xFFFF then d.complete q 0x0A 9 []
        else d.startRebind n cs (some (0x0A, q))
      | f => d.complete q 0x0A f.status [])

def execAllotRebind (q : Desc) (addr : W64) (list : Fetch) (s : State) := s.run (allotRebind q addr list)

/-- ROTATE_STORE: takes effect at an ingest boundary that the lead fixes, the next one that both twins can still reach (log 46). -/
def rotateStore (q : Desc) (d : Dev) : Dev :=
  d.runDesc 0x0B q (fun d =>
    let n := descSlot q
    if d.slotActive n = false then d.complete q 0x0B 4 []
    else if d.storeGen n = 0xFF ∨ (d.slotX n).rotate.isSome = true then d.complete q 0x0B 9 []
    else if d.follows then (d.updSlotX n fun s => { s with rotate := some (0, some q) }).sendRole (.rotate (d.slotAllot n) 0)
    else
      let b := if d.paired then epochAt d.ttaNs + 2 else epochAt d.ttaNs + 1
      (d.updSlotX n fun s => { s with rotate := some (b, some q) }).sendRole (.rotate (d.slotAllot n) b))

def execRotateStore (q : Desc) (s : State) := s.run (rotateStore q)

/-- ROLE about a rotation: asked of the lead with epoch 0, or fixed by it. -/
def Dev.roleRotate (allot epoch : Nat) (d : Dev) : Dev :=
  match d.slotHolding allot with
  | none => d
  | some n =>
    let q := ((d.slotX n).rotate).bind (·.2)
    if epoch ≠ 0 then d.updSlotX n fun s => { s with rotate := some (epoch, q) }
    else if d.follows ∨ d.storeGen n = 0xFF then d
    else
      let b := epochAt d.ttaNs + 2
      (d.updSlotX n fun s => { s with rotate := some (b, q) }).sendRole (.rotate allot b)

/-- Rotations due at boundary n. Shadow banks are writable at once (R308). -/
def Dev.rotatesDue (n : Nat) (d : Dev) : Dev :=
  (d.tta.slotsX.map (·.1)).foldl (fun d slot =>
    match (d.slotX slot).rotate with
    | some (b, q) =>
      if b = 0 ∨ n < b then d else
      let g := d.storeGen slot + 1
      let d := ((d.cmpCut (d.slotAllot slot) false).updSlotX slot fun s => { s with rotate := none }).set (R.TTA_ALT_ENTRY_STORE_GEN.at slot) g
      let d := d.setTables (d.tta.tables.map fun t => if t.slot = slot then { t with retained := none } else t)
      match q with
      | some q => d.complete q 0x0B 0 [(16, 1, g)]
      | none => d
    | none => d) d

/-! ## The sequences of R53 and R56 -/

/-- Handles of a slot's resident graphs, lowest first. -/
def Dev.handlesOf (slot : Nat) (d : Dev) : List Nat :=
  sortBy (fun a b => decide (a ≤ b)) ((d.tta.graphs.filter fun (e : Nat × Graph) => e.2.slot == slot).map (·.1))

/-- The drain is over: no run of an ACTIVE graph is under way or awaits its outcome, nothing is PAUSING (log 47). -/
def Dev.drained (slot : Nat) (d : Dev) : Bool :=
  d.tta.graphs.all fun (e : Nat × Graph) => e.2.slot != slot ||
    (e.2.state != 3 && (e.2.state != 2 || (e.2.run.isNone && e.2.past.isEmpty && e.2.redo.isEmpty)))

/-- Clear every tile of a set of clusters: registers, SRAM and poison bits. -/
def Dev.clearClusters (cs : List Nat) (d : Dev) : Dev :=
  ((d.tta.tiles.map (·.1)).filter fun t => cs.contains (t / 16)).foldl (fun d t => d.clearTile t) d

/-- A paused graph is saved before its tiles are sealed (R290). -/
def Dev.savePaused (h : Nat) (d : Dev) : Dev :=
  match d.graph h with
  | none => d
  | some g =>
    if g.state ≠ 4 ∨ g.cutOff = true then d else
    d.setGraph h { g with saved := some (match g.run with
      | some r => d.saveOf g r.no r.epoch false
      | none => d.saveOf g g.runNo g.nextEpoch true) }

/-- The objects of a graph's plans are freed with its tiles. -/
def Dev.unplace (h : Nat) (d : Dev) : Dev :=
  match d.graph h with
  | none => d
  | some g =>
    let d := if g.plan.objs = [] then d else d.freePlanObjs g.plan
    let d := match g.replace with
      | some r => if r.own then d.freePlanObjs r.plan else d
      | none => d
    d.setGraph h { g with plan := { g.plan with objs := [], edgeObjs := [], phys := [], shadows := [] }
                          replace := g.replace.map fun r => { r with own := false, at_ := none } }

/-- Steps 1 to 5 of a re-bind at boundary n. -/
def Dev.rebindStart (slot : Nat) (d : Dev) : Dev :=
  let x := d.slotX slot
  let hs := (d.handlesOf slot).filter fun h => ((d.graph h).map (·.state)) != some 0
  let d := d.event .tta 7 0x6010 [d.slotAllot slot, d.workGen slot, x.clusters.length]
  let now := d.ttaNs
  let d := hs.foldl (fun d h => d.savePaused h) d
  let d := d.updSlotX slot fun s => { s with sealed := true, due := false, startNs := now, readmit := hs }
  let d := hs.foldl (fun d h => d.unplace h) d
  let d := d.clearClusters x.clusters
  let d := d.set (R.TTA_ALT_ENTRY_WORK_GEN.at slot) (d.workGen slot + 1)
  d.bindClusters slot x.newSet

/-- A graph's plan on the new set: placed, loaded; its runs restart at 0 with the first graph epoch that has not run. Its state at this boundary
is its checkpoint (R55). -/
def Dev.readmitGraph (h : Nat) (d : Dev) : Bool × Dev :=
  match d.graph h with
  | none => (true, d)
  | some g =>
    match d.placePlan g.slot { g.plan with objs := [], edgeObjs := [] } with
    | none => (false, ((d.freeGraph h).bump R.TTA_SCHED_STAT_REFUSED 1).event .tta 5 0x3201 [g.slot, 9, 9])
    | some (pl, d) =>
      let g := { g with plan := pl, runNo := 0, ran := [], ckpts := [], standby := none, ckptIn := [], ckptLen := none, log := []
                        ckptEpoch := g.nextEpoch - pl.q, ckptDoneNs := some 0, state := if g.cutOff then 2 else g.state, cutOff := false }
      let d := (d.loadPlan h g.slot pl).putGraph h g
      let d := d.setGraph h { g with ckpts := if pl.stamp then [] else [{ d.saveOf { g with run := none } 0 g.nextEpoch true with clean := true, sent := true }] }
      let d := match g.state, g.saved with
        | 4, some sv => match d.graph h with
          | some g => d.putBack h g sv
          | none => d
        | _, _ => d
      match g.replace with
      | none => (true, d)
      | some r =>
        match d.placePlan g.slot r.plan with
        | none => (true, (d.updGraph h fun g => { g with replace := none }).admitFail 0x31 r.q 9 9)
        | some (rp, d) => (true, ((d.reservePlan h rp).updGraph h fun g => { g with replace := some { r with plan := rp, own := true } }).agreeSwitch h)

/-- The sequence's descriptor completes. -/
def Dev.seqDone (seq : Option (Nat × Desc)) (st : Nat) (wb : List (Nat × Nat × Nat)) (d : Dev) : Dev :=
  match seq with
  | some (op, q) => d.complete q op st wb
  | none => d

/-- Steps 6 and 7. -/
def Dev.rebindEnd (slot : Nat) (d : Dev) : Dev :=
  let x := d.slotX slot
  let (failed, d) := x.readmit.foldl (fun (acc : Nat × Dev) h =>
    let (ok, d) := acc.2.readmitGraph h
    (if ok then acc.1 else acc.1 + 1, d)) (0, d)
  let d := (d.updSlotX slot fun s => { s with sealed := false, seq := none, readmit := [] }).setSlotState slot 2
  let d := d.event .tta 7 0x6011 [d.slotAllot slot, d.workGen slot, d.ttaNs - x.startNs]
  let d := d.seqDone x.seq 0 (match x.seq with
    | some (0x0A, _) => [(32, 2, failed)]
    | _ => [])
  match x.heldClose with
  | some q => d.startClose slot (some (0x09, q))
  | none => d

/-- REBIND_COMPLETE. -/
def rebindComplete (slot tick : Nat) (d : Dev) : Dev :=
  let d := d.advance .tta tick
  if d.slotState slot = 3 ∧ (d.slotX slot).sealed = true then d.rebindEnd slot else d

def execRebindComplete (slot : Fin 256) (tick : Nat) (s : State) := s.run (rebindComplete slot.val tick)

/-- A resident graph of a released slot goes; what waits for it completes with VOID. -/
def Dev.dropGraph (h : Nat) (d : Dev) : Dev :=
  match d.graph h with
  | none => d
  | some g =>
    let d := match g.admitQ with
      | some q => d.complete q 0x30 7 []
      | none => d
    let d := match g.removeQ with
      | some q => d.complete q 0x32 7 []
      | none => d
    d.freeGraph h

/-- Everything that the store and the tables hold of a slot's allotment is reclaimed. -/
def Dev.reclaim (slot : Nat) (d : Dev) : Dev :=
  let a := d.slotAllot slot
  let inArea (w : Nat) : Bool := [1, 3, 4, 5].any fun r => decide (areaBase r slot ≤ 8 * w ∧ 8 * w < areaBase r slot + areaSize r)
  let d := { d with tta := { d.tta with
    hist := d.tta.hist.filter fun e => !inArea e.1
    tables := d.tta.tables.filter fun t => t.slot != slot
    captures := d.tta.captures.filter fun c => c.allot != a } }
  (d.updIng fun i => { i with epochs := i.epochs.map fun e => (e.1, { e.2 with blocks := e.2.blocks.filter fun b => b.2.allot != a || !e.2.decided }) }).showTables

/-- Before step 1 of a release the Sett ends the allotment's grants, and each TDU discards its trace packets (R56). -/
def Dev.releaseGrants (slot : Nat) (d : Dev) : Dev :=
  let a := d.slotAllot slot
  let dies := (List.range 16).filter fun p => (d.indexOn p a).isSome
  let d := dies.foldl (fun d p => d.sendSett p (.release a)) d
  let ixs := dies.map fun p => (p, (d.indexOn p a).getD 0)
  d.updSett fun s => { s with grants := s.grants.filter fun g => g.grant.allot != a
                              traceSlots := s.traceSlots.filter fun e => !ixs.contains (e.1, R.TDU_TRC_SLOT_CFG_ALLOT_IDX.read e.2.2) }

/-- Steps 1 to 5 of a release. -/
def Dev.releaseStart (slot : Nat) (d : Dev) : Dev :=
  let x := d.slotX slot
  let now := d.ttaNs
  let d := d.releaseGrants slot
  let d := d.updSlotX slot fun s => { s with sealed := true, due := false, startNs := now }
  let d := (d.handlesOf slot).foldl (fun d h => d.dropGraph h) d
  let d := (d.tta.wrn.jobs.filter fun j => j.slot == slot).foldl (fun d j => d.dropJob j) d
  let d := d.clearClusters x.clusters
  let d := d.updSett fun s => { s with arks := assocDel slot s.arks }
  d.bindClusters slot []

/-- The keys of an allotment leave the TDU Setts and its indices become free. -/
def Dev.dropIndices (slot : Nat) (d : Dev) : Dev :=
  let a := d.slotAllot slot
  (List.range 16).foldl (fun d p =>
    match d.indexOn p a with
    | none => d
    | some ix => ((d.sendSett p (.dropKey ix)).writeMap p ix 0).updSett fun s => { s with dieMap := assocDel (p * 64 + ix) s.dieMap }) d

/-- RELEASE_COMPLETE: the slot is FREE; an FN_RESET that met the WORK_GEN limit completes with NO_RESOURCE (R34). -/
def releaseComplete (slot tick : Nat) (d : Dev) : Dev :=
  let d := d.advance .tta tick
  let x := d.slotX slot
  if slot = 0 ∨ d.slotState slot ≠ 4 ∨ x.due = true then d else
  let a := d.slotAllot slot
  let d := ((d.dropIndices slot).reclaim slot).bindClusters slot []
  let d := d.updSett fun s => { s with arks := assocDel slot s.arks }
  let d := d.event .tta 7 0x6012 [a, d.ttaNs - x.startNs]
  let d := [R.TTA_ALT_ENTRY.base + 8 * slot, R.TTA_CHK_GATE.base + 8 * slot].foldl (fun d r => d.setWord .tta r (Regs.resetOf .tta r)) d
  let d := match x.rotate with
    | some (_, some q) => d.complete q 0x0B 7 []
    | _ => d
  let d := d.setSlotX slot {}
  d.seqDone x.seq (match x.seq with
    | some (0x15, _) => 9
    | _ => 0) []

def execReleaseComplete (slot : Fin 256) (tick : Nat) (s : State) := s.run (releaseComplete slot.val tick)

/-! ## What forces a re-bind (R32, R34, R225) -/

/-- A forced re-bind, or at the WORK_GEN limit a release. `cause` 0 is an L3 reset, 1 a retirement. -/
def Dev.forceRebind (slot cause : Nat) (cs : List Nat) (seq : Option (Nat × Desc)) (d : Dev) : Dev :=
  if d.slotActive slot = false then d else
  let d := if cause = 0 then d.rstCause .tta 8 3 else d
  if d.workGen slot = 0xFFFF then (d.event .tta 7 0x6013 [d.slotAllot slot, cause]).startClose slot seq
  else d.startRebind slot cs seq

/-- FN_RESET (R421): the function's rings; with ALLOT an L3 reset of the slot. -/
def fnResetCmd (q : Desc) (vf : BitVec 8) (allot : Bool) (d : Dev) : Dev :=
  d.fnOp 0x15 q vf [2, 3] (fun n fn d =>
    let lost := (d.fnq fn).backlog.filter fun e => e.1 ≥ 5
    let d := d.updFnq fn fun x => { x with
      backlog := []
      lost := [5, 6].foldl (fun l r => let k := (lost.filter fun e => e.1 = r).length
                                       if k = 0 then l else assocSet r ((assocGet r l).getD 0 + k) l) x.lost }
    let d := d.fnReset fn
    if allot ∧ d.slotActive n = true then d.forceRebind n 0 (d.slotX n).clusters (some (0x15, q)) else d.complete q 0x15 0 [])

def execFnReset (q : Desc) (vf : BitVec 8) (allot : Bool) (s : State) := s.run (fnResetCmd q vf allot)

/-- A graph of the RADIO allotment that a retirement met stops on this twin until the allotment's next re-bind (R225). -/
def Dev.cutRadio (slot c : Nat) (d : Dev) : Dev :=
  (d.handlesOf slot).foldl (fun d h =>
    match d.graph h with
    | none => d
    | some g =>
      if g.state = 2 ∧ (g.plan.allTiles.any fun t => t / 16 == c && d.tileRetired t) = true then
        let d := g.plan.allTiles.foldl (fun d t => d.updTile t fun x => { x with stopped := true }) d
        d.putGraph h { g with state := 4, cutOff := true, run := none }
      else d) d

/-- Retirements take effect at boundary n; the partner re-binds too. -/
def Dev.retireBoundary (n : Nat) (d : Dev) : Dev :=
  let cs := d.tta.retireDue.eraseDups
  let d := { d with tta := { d.tta with retireDue := [] } }
  cs.foldl (fun d c =>
    match d.tta.slotsX.find? fun s => s.2.clusters.contains c with
    | none => d
    | some (slot, x) =>
      if d.slotRadio slot then d.cutRadio slot c
      else if d.slotActive slot then
        (d.forceRebind slot 1 (x.clusters.filter fun c => d.get (R.TTA_FAB_CLU_STATE.at c) != 2) none).sendRole (.rebind (d.slotAllot slot) (n + 1))
      else d) d

/-- The partner re-binds an allotment: this twin does too, onto its own set. -/
def Dev.roleRebind (allot : Nat) (d : Dev) : Dev :=
  match d.slotHolding allot with
  | none => d
  | some n => d.forceRebind n 1 (d.slotX n).clusters none

/-- Sequences that are due and whose drain is over start. -/
def Dev.sequencesDue (d : Dev) : Dev :=
  (d.tta.slotsX.filter fun s => s.2.due).foldl (fun d s =>
    if d.drained s.1 = false then d
    else match d.slotState s.1 with
    | 3 => d.rebindStart s.1
    | 4 => d.releaseStart s.1
    | _ => d) d

/-! ## The scale table (R25 to R27) -/

def treeLevelsFor (n : Nat) : Nat := if n ≤ 32 then 1 else if n ≤ 1024 then 2 else 3

/-- Counter streams of an allotment's decided blocks in the ring (log 43). -/
def Dev.streamsOf (allot : Nat) (d : Dev) : Nat :=
  ((d.tta.ing.epochs.foldl (fun (m : List (Nat × Nat)) e =>
    e.2.blocks.foldl (fun m b => if b.2.allot = allot ∧ b.2.mark = 0 ∧ leAt b.2.hdr 0 1 = 1 then assocSet b.1 (leAt b.2.hdr 10 2) m else m) m) []).map (·.2)).sum

/-- The table of a slot with a GENERATION. -/
def Dev.scaleWords (slot gen : Nat) (d : Dev) : List W64 :=
  let lv := treeLevelsFor (Config.participants (d.slotAllot slot))
  let f (i : Nat) : Nat := (Config.fleetSize i).toNat
  let cl := d.get (R.TTA_ALT_ENTRY_CLUSTERS.at slot)
  let dies := ((List.range 16).filter fun p => d.dieEnabled p).length
  let share := ([1, 2, 3, 4, 5].map areaSize).sum
  [BitVec.ofNat 64 (1 + lv * 2 ^ 8 + 32 * 2 ^ 16 + dies * 2 ^ 24 + f 0 % 2 ^ 16 * 2 ^ 32 + f 1 % 2 ^ 16 * 2 ^ 48),
   BitVec.ofNat 64 (f 2 + f 3 * 2 ^ 32), BitVec.ofNat 64 (f 4 + cl * 2 ^ 32 + 16 * cl * 2 ^ 48),
   BitVec.ofNat 64 (4000 * lv + (4000 + 12000 * lv) * 2 ^ 32), BitVec.ofNat 64 (1000000 + d.streamsOf (d.slotAllot slot) * 2 ^ 32),
   BitVec.ofNat 64 share, BitVec.ofNat 64 gen, 0]

/-- At an epoch boundary a table whose other fields changed is replaced as one unit, GENERATION one higher. -/
def Dev.scaleBoundary (d : Dev) : Dev :=
  ((List.range 256).filter fun n => 2 ≤ d.slotState n && d.slotState n ≤ 3).foldl (fun d n =>
    let old := (d.slotX n).scale
    let g := (old.getD 6 0).toNat
    if d.scaleWords n g = old then d
    else
      let ws := d.scaleWords n (if old = [] then 0 else (g + 1) % 2 ^ 32)
      ws.zipIdx.foldl (fun d w => d.setWord .vf ((R.TTA_VF_SCALE_SCALE.at w.2).ofVf n).addr w.1) (d.updSlotX n fun s => { s with scale := ws })) d

/-! ## INGEST_EPOCH_BOUNDARY (R210) -/

/-- What takes effect at ingest boundary n. -/
def Dev.ingestBoundary (n : Nat) (d : Dev) : Dev :=
  let d := d.updIng fun i => { i with boundary := n }
  let d := ((d.tablesBoundary n).rotatesDue n).openGates n
  let d := (d.sequencesDue).retireBoundary n
  (d.activateGraphs n).scaleBoundary

/-- INGEST_EPOCH_BOUNDARY. -/
def ingestEpochBoundary (tick : Nat) (d : Dev) : Dev :=
  let d := d.advance .tta tick
  let n := epochAt d.ttaNs
  if d.timeValid .tta = false ∨ n ≤ d.tta.ing.boundary then d else d.ingestBoundary n

def execIngestEpochBoundary (tick : Nat) (s : State) := s.run (ingestEpochBoundary tick)

end Sys2Proof.Machine
end

