-- ==== Sys2Proof/Machine/Inflate.lean ====
section
/-! DEFINITION. The decompressor (R435, R440): raw RFC 1951 streams, with the errors of R440 in the order of its table. -/
namespace Sys2Proof.Machine

/-- Decompressor errors, as completion statuses: ILLEGAL_CODE 0x10, DIST_BEYOND_HISTORY 0x11, LEN_OVERRUN 0x12, BAD_BLOCK_TYPE
0x13, TRUNCATED 0x15. -/
inductive InfErr where
  | truncated | badType | illegal | dist | overrun
  deriving DecidableEq, Repr

def InfErr.status : InfErr → Nat
  | .illegal => 0x10
  | .dist => 0x11
  | .overrun => 0x12
  | .badType => 0x13
  | .truncated => 0x15

/-- The input as a number, bit 0 first, and its length in bits. -/
structure BitSrc where
  v : Nat
  len : Nat

def BitSrc.ofBytes (bs : List Byte) : BitSrc := ⟨leVal bs, 8 * bs.length⟩

/-- `n` bits at a position, least significant first; none when the input ends before them. -/
def BitSrc.bits (s : BitSrc) (pos n : Nat) : Option Nat :=
  if s.len < pos + n then none else some (s.v / 2 ^ pos % 2 ^ n)

/-- How far the decompressor has come: the next bit, the output newest byte first and its length; and the error that stopped it. -/
structure Inf where
  pos : Nat
  out : List Byte := []
  outLen : Nat := 0
  err : Option InfErr := none
  deriving DecidableEq, Repr

def Inf.fail (e : InfErr) (pos : Nat) (x : Inf) : Inf := { x with err := some e, pos := pos }

/-! ## Huffman codes -/

/-- Symbol number `k` among those of length `l`. -/
def nthSym (l : Nat) : List Nat → Nat → Nat → Nat
  | [], sym, _ => sym
  | x :: t, sym, k => if x = l then (match k with
      | 0 => sym
      | k + 1 => nthSym l t (sym + 1) k) else nthSym l t (sym + 1) k

/-- Read one code bit by bit: the lengths seen so far are `l`; `left` bounds what remains. -/
def codeBits (s : BitSrc) (lens : List Nat) (pos : Nat) : Nat → Nat → Nat → Nat → Except InfErr (Nat × Nat)
  | 0, _, _, _ => .error .illegal
  | left + 1, l, code, first =>
    match s.bits (pos + l - 1) 1 with
    | none => .error .truncated
    | some b =>
      let code := code + b
      let n := lens.count l
      if code < first + n then .ok (nthSym l lens 0 (code - first), pos + l)
      else codeBits s lens pos left (l + 1) (2 * code) (2 * (first + n))

/-- The symbol of the code at a position, and the position after it. -/
def huff (s : BitSrc) (lens : List Nat) (pos : Nat) : Except InfErr (Nat × Nat) := codeBits s lens pos (lens.foldl max 0) 1 0 0

/-- What the lengths leave of the code space, in units of 2^-15: 0 for a complete set, negative when over-subscribed. -/
def codeRoom (lens : List Nat) : Int := (32768 : Int) - ((lens.map fun l => if l = 0 then 0 else 2 ^ (15 - l)).sum : Nat)

/-- A code-length set that may not stand (R440, order 3): over-subscribed, or incomplete. -/
def badSet (lens : List Nat) : Bool := codeRoom lens != 0

/-- A distance set may also hold a single code, or none (RFC 1951). -/
def badDist (lens : List Nat) : Bool := badSet lens && (codeRoom lens < 0 || 1 < (lens.filter fun l => l != 0).length)

/-- The static tables. -/
def fixedLit : List Nat := List.replicate 144 8 ++ List.replicate 112 9 ++ List.replicate 24 7 ++ List.replicate 8 8
def fixedDist : List Nat := List.replicate 32 5

/-- Base and extra bits of a length symbol, 257 to 285, and of a distance symbol, 0 to 29. -/
def lenSym (s : Nat) : Nat × Nat :=
  if s < 265 then (s - 254, 0) else if s = 285 then (258, 0) else
  let e := (s - 261) / 4
  ((4 + (s - 261) % 4) * 2 ^ e + 3, e)
def distSym (s : Nat) : Nat × Nat :=
  if s < 4 then (s + 1, 0) else
  let e := s / 2 - 1
  ((2 + s % 2) * 2 ^ e + 1, e)

/-- Copy `n` bytes from `dist` back. -/
def copyBack (dist : Nat) : Nat → List Byte → List Byte
  | 0, out => out
  | n + 1, out => copyBack dist n (out.getD (dist - 1) 0 :: out)

/-! ## Blocks -/

/-- The symbols of a block up to its end; every symbol takes a bit, so the input's length bounds them. -/
def infSyms (s : BitSrc) (lit dist : List Nat) (cap : Nat) : Nat → Inf → Inf
  | 0, x => x.fail .truncated x.pos
  | fuel + 1, x =>
    match huff s lit x.pos with
    | .error e => x.fail e x.pos
    | .ok (sym, p) =>
      if sym = 256 then { x with pos := p }
      else if sym < 256 then
        if cap ≤ x.outLen then x.fail .overrun x.pos
        else infSyms s lit dist cap fuel { x with pos := p, out := BitVec.ofNat 8 sym :: x.out, outLen := x.outLen + 1 }
      else if 286 ≤ sym then x.fail .illegal x.pos
      else
        let (lb, le) := lenSym sym
        match s.bits p le with
        | none => x.fail .truncated x.pos
        | some ex =>
          let n := lb + ex
          let p := p + le
          match huff s dist p with
          | .error e => x.fail e p
          | .ok (ds, q) =>
            if 30 ≤ ds then x.fail .illegal p else
            let (db, de) := distSym ds
            match s.bits q de with
            | none => x.fail .truncated p
            | some dx =>
              if x.outLen < db + dx then x.fail .dist p
              else if cap < x.outLen + n then x.fail .overrun x.pos
              else infSyms s lit dist cap fuel { x with pos := q + de, out := copyBack (db + dx) n x.out, outLen := x.outLen + n }

/-- The bytes of a stored block. -/
def infStored (s : BitSrc) (cap : Nat) : Nat → Inf → Inf
  | 0, x => x
  | n + 1, x =>
    match s.bits x.pos 8 with
    | none => x.fail .truncated x.pos
    | some b =>
      if cap ≤ x.outLen then x.fail .overrun x.pos
      else infStored s cap n { x with pos := x.pos + 8, out := BitVec.ofNat 8 b :: x.out, outLen := x.outLen + 1 }

/-- The lengths of a dynamic block's two codes, newest first, with the repeats 16, 17 and 18; `n` lengths in all. -/
def codeLens (s : BitSrc) (cl : List Nat) (n : Nat) : Nat → Nat → List Nat → Except (InfErr × Nat) (List Nat × Nat)
  | 0, pos, _ => .error (.truncated, pos)
  | fuel + 1, pos, acc =>
    if n ≤ acc.length then .ok (acc.reverse, pos) else
    match huff s cl pos with
    | .error e => .error (e, pos)
    | .ok (sym, p) =>
      if sym < 16 then codeLens s cl n fuel p (sym :: acc) else
      let xb := if sym = 16 then 2 else if sym = 17 then 3 else 7
      match s.bits p xb with
      | none => .error (.truncated, pos)
      | some ex =>
        let r := (if sym = 18 then 11 else 3) + ex
        if sym = 16 ∧ acc.isEmpty then .error (.illegal, pos)
        else if n < acc.length + r then .error (.illegal, pos)
        else codeLens s cl n fuel (p + xb) (List.replicate r (if sym = 16 then acc.headD 0 else 0) ++ acc)

/-- The order in which the lengths of the code-length code are sent. -/
def clOrder : List Nat := [16, 17, 18, 0, 8, 7, 9, 6, 10, 5, 11, 4, 12, 3, 13, 2, 14, 1, 15]

/-- The two codes of a dynamic block whose header begins at a position. -/
def dynTables (s : BitSrc) (pos : Nat) : Except (InfErr × Nat) (List Nat × List Nat × Nat) :=
  match s.bits pos 5, s.bits (pos + 5) 5, s.bits (pos + 10) 4 with
  | some hl, some hd, some hc =>
    let k := hc + 4
    match s.bits (pos + 14) (3 * k) with
    | none => .error (.truncated, pos + 14)
    | some w =>
      let cl := (List.range 19).map fun sym => match clOrder.findIdx? (· == sym) with
        | some i => if i < k then w / 2 ^ (3 * i) % 8 else 0
        | none => 0
      let p := pos + 14 + 3 * k
      if badSet cl then .error (.illegal, p) else
      match codeLens s cl (hl + 257 + hd + 1) (hl + hd + 259) p [] with
      | .error e => .error e
      | .ok (lens, q) =>
        let lit := lens.take (hl + 257)
        let dist := lens.drop (hl + 257)
        if badSet lit || badDist dist then .error (.illegal, q) else .ok (lit, dist, q)
  | _, _, _ => .error (.truncated, pos)

/-- One block, after its header's first three bits. -/
def infBlock (s : BitSrc) (cap type : Nat) (x : Inf) : Inf :=
  match type with
  | 0 =>
    let p := (x.pos + 7) / 8 * 8
    match s.bits p 16, s.bits (p + 16) 16 with
    | some n, some m => if n + m ≠ 65535 then x.fail .illegal p else infStored s cap n { x with pos := p + 32 }
    | _, _ => x.fail .truncated p
  | 1 => infSyms s fixedLit fixedDist cap (s.len + 1) x
  | 2 =>
    match dynTables s x.pos with
    | .error e => x.fail e.1 e.2
    | .ok (lit, dist, p) => infSyms s lit dist cap (s.len + 1) { x with pos := p }
  | _ => x.fail .badType x.pos

/-- The blocks up to the one that carries BFINAL; each takes three bits at least. -/
def infBlocks (s : BitSrc) (cap : Nat) : Nat → Inf → Inf
  | 0, x => x.fail .truncated x.pos
  | fuel + 1, x =>
    match s.bits x.pos 1, s.bits (x.pos + 1) 2 with
    | some fin, some type =>
      if type = 3 then x.fail .badType x.pos else
      let y := infBlock s cap type { x with pos := x.pos + 3 }
      if y.err.isSome ∨ fin = 1 then y else infBlocks s cap fuel y
    | _, _ => x.fail .truncated x.pos

/-- Decompress: the output, the input bytes used, and the error. -/
def inflate (bs : List Byte) (cap : Nat) : Inf :=
  let s := BitSrc.ofBytes bs
  infBlocks s cap (s.len + 1) { pos := 0 }

def Inf.bytes (x : Inf) : List Byte := x.out.reverse

/-- Input consumed, rounded up to whole bytes. -/
def Inf.used (x : Inf) : Nat := (x.pos + 7) / 8

end Sys2Proof.Machine
end

