-- ==== Sys2Proof/Machine/Sett.lean ====
section
/-! DEFINITION. The Sett (R37 to R42): SPDM requests, allotment root keys, the platform ARK, SETT frames, and what the TTA installs in a die
whose link comes up; HIST_READ (R417, R419). -/
namespace Sys2Proof.Machine

/-! ## SPDM (R37). Response and error codes are those of SPDM 1.2 (log 48). -/

/-- The connection a request belongs to: one a DOE mailbox, one for the other transports. -/
def spdmConn (r : SpdmReq) : Nat :=
  match r.doe with
  | none => 0
  | some (.vf n) => n.val + 2
  | some _ => 1

def Dev.spdmLevel (r : SpdmReq) (d : Dev) : Nat := (assocGet (spdmConn r) d.tta.sett.conn).getD 0
def Dev.setSpdm (r : SpdmReq) (n : Nat) (d : Dev) : Dev := d.updSett fun s => { s with conn := assocSet (spdmConn r) n s.conn }

def Dev.spdmRsp (r : SpdmReq) (code : Nat) (body : List Byte) (d : Dev) : Dev := d.emit (.spdm code r.session body)

/-- ERROR with an error code: 1 InvalidRequest, 2 InvalidSession, 3 Busy, 4 UnexpectedRequest, 6 DecryptError. -/
def Dev.spdmErr (r : SpdmReq) (e : Nat) (d : Dev) : Dev := d.spdmRsp r 0x7F [BitVec.ofNat 8 e]

/-- The session a request runs in. -/
def Dev.sessionOf (r : SpdmReq) (d : Dev) : Option Session := r.session.bind fun id => d.tta.sett.sessions.find? fun s => s.id == id

/-- A request after NEGOTIATE_ALGORITHMS; one that names a session needs a secured one. -/
def Dev.spdmReady (r : SpdmReq) (body : Dev → Dev) (d : Dev) : Dev :=
  match r.session with
  | none => if d.spdmLevel r = 3 then body d else d.spdmErr r 4
  | some _ => match d.sessionOf r with
    | some s => if s.secured then body d else d.spdmErr r 4
    | none => d.spdmErr r 2

/-- A request that runs in a session only. -/
def Dev.spdmInside (r : SpdmReq) (body : Session → Dev → Dev) (d : Dev) : Dev :=
  match d.sessionOf r with
  | some s => if s.secured then body s d else d.spdmErr r 4
  | none => d.spdmErr r 2

def execGetVersion (r : SpdmReq) (s : State) := s.run fun d => (d.setSpdm r 1).spdmRsp r 0x04 [0x12#8]

def execGetCapabilities (r : SpdmReq) (s : State) := s.run fun d =>
  if 1 ≤ d.spdmLevel r then (d.setSpdm r 2).spdmRsp r 0x61 [] else d.spdmErr r 4

def execNegotiateAlgorithms (r : SpdmReq) (common : Bool) (s : State) := s.run fun d =>
  if d.spdmLevel r < 2 then d.spdmErr r 4 else if common then (d.setSpdm r 3).spdmRsp r 0x63 [] else d.spdmErr r 1

def execGetDigests (r : SpdmReq) (s : State) := s.run fun d => d.spdmReady r fun d => d.spdmRsp r 0x01 []

/-- The certificate chain is the part's own: free bytes. -/
def execGetCertificate (r : SpdmReq) (off len : BitVec 16) (s : State) := s.run fun d => d.spdmReady r fun d =>
  { d with freeIx := d.freeIx + 1 }.spdmRsp r 0x02 ((List.range len.toNat).map fun i => Config.freeByte d.freeIx (off.toNat + i))

def execChallenge (r : SpdmReq) (s : State) := s.run fun d => d.spdmReady r fun d => d.spdmRsp r 0x03 []

/-- The measurement blocks (R38): one for each occupied slot, one for each attached TDU. -/
def Dev.measurements (d : Dev) : List Byte :=
  (((List.range 256).filter fun n => d.slotState n != 0).flatMap fun n =>
    leBytes 2 (d.slotAllot n) ++ leBytes 1 (d.slotClass n) ++ leBytes 2 (d.get (R.TTA_ALT_ENTRY_CLUSTERS.at n)) ++ (d.slotX n).digest) ++
  d.tta.sett.evidence.flatMap fun e => leBytes 1 e.1 ++ e.2

def execGetMeasurements (r : SpdmReq) (s : State) := s.run fun d => d.spdmReady r fun d => d.spdmRsp r 0x60 d.measurements

/-- KEY_EXCHANGE: a 257th session receives Busy. -/
def execKeyExchange (r : SpdmReq) (session : BitVec 32) (s : State) := s.run fun d => d.spdmReady r fun d =>
  if 256 ≤ d.tta.sett.sessions.length then d.spdmErr r 3
  else
    (d.updSett fun x => { x with sessions := (x.sessions.filter fun e => e.id != session) ++
      [{ id := session, doe := r.doe, secured := false, mutualAuth := r.mutualAuth, keyDigest := r.keyDigest }] }).spdmRsp r 0x64 []

/-- FINISH: the session becomes a secured one; a wrong signature or MAC ends it. -/
def execFinish (r : SpdmReq) (session : BitVec 32) (verified : Bool) (s : State) := s.run fun d =>
  match d.tta.sett.sessions.find? fun e => e.id == session with
  | none => d.spdmErr r 2
  | some e =>
    if verified then
      (d.updSett fun x => { x with sessions := x.sessions.map fun y => if y.id = session then { e with secured := true } else y }).spdmRsp r 0x65 []
    else (d.updSett fun x => { x with sessions := x.sessions.filter fun y => y.id != session }).spdmErr r 6

def execSpdmHeartbeat (r : SpdmReq) (s : State) := s.run fun d => d.spdmInside r fun _ d => d.spdmRsp r 0x68 []

def execKeyUpdate (r : SpdmReq) (s : State) := s.run fun d => d.spdmInside r fun _ d => d.spdmRsp r 0x69 []

def execEndSession (r : SpdmReq) (s : State) := s.run fun d => d.spdmInside r fun e d =>
  (d.updSett fun x => { x with sessions := x.sessions.filter fun y => y.id != e.id }).spdmRsp r 0x6C []

/-! ## Keys (R39 to R41) -/

/-- A slot's Sett holds its ARK: ACTIVE, a new WARREN instance, LINK keys in every die. -/
def Dev.keySlot (slot : Nat) (ark : BitVec 256) (d : Dev) : Dev :=
  let (inst, d) := d.free
  let d := d.updSett fun s => { s with arks := assocSet slot ark s.arks }
  let d := d.updSlotX slot fun s => { s with wrnInst := inst, wrnCtr := 0 }
  (d.setSlotState slot 2).installLinks slot

/-- DENIED as a vendor-defined response. -/
def Dev.spdmDenied (r : SpdmReq) (d : Dev) : Dev := d.spdmRsp r 0x7E [4#8]

/-- SET_ALLOTMENT_KEY (R39). -/
def setAllotmentKey (r : SpdmReq) (allot : Nat) (ark : BitVec 256) (d : Dev) : Dev :=
  match d.slotHolding allot, d.sessionOf r with
  | some n, some e =>
    if n ≠ 0 ∧ d.slotState n = 1 ∧ e.secured = true ∧ e.mutualAuth = true ∧ e.keyDigest = (d.slotX n).digest ∧
        (e.doe = none ∨ e.doe = some (.vf (Fin.ofNat 256 n))) then
      (d.keySlot n ark).spdmRsp r 0x7E [0#8]
    else d.spdmDenied r
  | _, _ => d.spdmDenied r

def execSetAllotmentKey (r : SpdmReq) (allot : BitVec 16) (ark : BitVec 256) (s : State) := s.run (setAllotmentKey r allot.toNat ark)

/-- The Sett holds the platform ARK: slot 0 becomes ACTIVE, event 0x6014. -/
def Dev.takePlatform (ark : BitVec 256) (source gen : Nat) (d : Dev) : Dev :=
  let d := d.updSett fun s => { s with platform := some ark }
  let d := (d.set R.TTA_SETT_PKEY_HELD 1).set R.TTA_SETT_PKEY_SOURCE source
  (d.keySlot 0 ark).event .tta 7 0x6014 [source, gen]

/-- PLATFORM_KEY_ROUND (R40): the first of TTA 0x0000, TTA 0x0001 and the own twin that holds the ARK gives it. -/
def platformKeyRound (served : BitVec 3) (ark : BitVec 256) (tick : Nat) (d : Dev) : Dev :=
  let d := d.advance .tta tick
  let me := d.ttaId
  let src := [(0, 0), (1, 1), (2, if me % 2 = 0 then me + 1 else me - 1)].find? fun x => served.getLsbD x.1 && x.2 != me
  if d.tta.sett.platform.isSome ∨ d.slotState 0 ≠ 1 then d else
  match src with
  | some x => d.takePlatform ark x.2 0
  | none => d

def execPlatformKeyRound (served : BitVec 3) (ark : BitVec 256) (tick : Nat) (s : State) := s.run (platformKeyRound served ark tick)

/-- PKEY_GENERATE (R40). -/
def pkeyGenerate (key : BitVec 16) (peerHeld : Bool) (d : Dev) : Dev :=
  if key ≠ 0x6E7A ∨ d.ttaId ≠ 0 ∨ d.tta.sett.platform.isSome = true ∨ peerHeld = true then d else
  let (a, d) := d.free
  let (b, d) := d.free
  let (c, d) := d.free
  let (e, d) := d.free
  d.takePlatform (BitVec.ofNat 256 (a.toNat + b.toNat * 2 ^ 64 + c.toNat * 2 ^ 128 + e.toNat * 2 ^ 192)) 0 1

def execPkeyGenerate (key : BitVec 16) (peerHeld : Bool) (s : State) := s.run (pkeyGenerate key peerHeld)

/-- GET_PLATFORM_KEY (R40): another Sett's request, in a secured session with mutual authentication over fabric Ethernet; the ARK travels inside
the session. -/
def getPlatformKey (r : SpdmReq) (d : Dev) : Dev :=
  match d.sessionOf r, d.tta.sett.platform with
  | some e, some ark => if e.secured ∧ e.mutualAuth = true ∧ e.doe = none then d.spdmRsp r 0x7E (0#8 :: leBytes 32 ark.toNat) else d.spdmDenied r
  | _, _ => d.spdmDenied r

def execGetPlatformKey (r : SpdmReq) (s : State) := s.run (getPlatformKey r)

/-! ## SETT frames -/

/-- What a TDU's Sett does with a message (R41, R50, R52, R56, R138). -/
def Dev.tduSett (p : Fin 2) (m : SettMsg) (d : Dev) : Dev :=
  let key (ix : Nat) : Nat := p.val * 64 + ix
  let upd (f : List (Nat × Nat × W64) → List (Nat × Nat × W64)) (d : Dev) : Dev := { d with tdu := { d.tdu with linkKeys := f d.tdu.linkKeys } }
  match m with
  | .linkKey ix allot inst =>
    (upd (fun l => (l.filter fun e => e.1 != key ix) ++ [(key ix, allot, inst)]) d).updPort (.tdu p) fun l => { l with ivs := Memory.erase l.ivs ix }
  | .dropKey ix => upd (fun l => l.filter fun e => e.1 != key ix) d
  | .grant allot flags sources nb na serial =>
    if 8 ≤ d.tdu.trc.grants.length then d else
    d.updTrc fun t => { t with grants := t.grants ++
      [{ allot := allot, flags := flags, dieMask := 2 ^ d.get R.TDU_DIE_DIE, sources := sources, notBefore := nb, notAfter := na, serial := serial }] }
  | .minSerial allot m => (d.tdu.trc.grants.filter fun g => g.allot == allot && decide (g.serial < m)).foldl (fun d g => d.endGrant 1 g) d
  | .release allot =>
    let d := (List.range 8).foldl (fun d s => if d.tvalid s && d.mapValid (d.tallot s) && d.mapId (d.tallot s) == allot then d.releaseSlot s else d) d
    (d.tdu.trc.grants.filter fun g => g.allot == allot).foldl (fun d g => d.endGrant 2 g) d
  | .evidence _ => d

/-- SETT_FRAME: keys and grants at a TDU; a TDU's measurement at the TTA (R38). -/
def settFrame (e : LinkEnd) (h : RxHdr) (m : SettMsg) (d : Dev) : Dev :=
  let (ok, d) := d.acceptFrame e false h
  if ok = false then d else
  match e, m with
  | .tdu p, m => d.tduSett p m
  | .tta p, .evidence bs => if p.val < 16 then d.updSett fun s => { s with evidence := assocSet p.val bs s.evidence } else d
  | .tta _, _ => d

def execSettFrame (e : LinkEnd) (h : RxHdr) (m : SettMsg) (s : State) := s.run (settFrame e h m)

/-- A die's link is up (R41): its keys, grants, trace slots and cap on k go to it again. -/
def Dev.equipDie (p : Nat) (d : Dev) : Dev :=
  let d := d.keyedSlots.foldl (fun d n => (d.chooseIndex n p).installLink n p) d
  let d := (d.tta.sett.grants.filter fun g => g.die = p).foldl (fun d g =>
    d.sendSett p (.grant g.grant.allot g.grant.flags g.grant.sources g.grant.notBefore g.grant.notAfter g.grant.serial)) d
  let d := (d.tta.sett.traceSlots.filter fun e => e.1 = p).foldl (fun d e =>
    d.controlDie p none (.regWrite (BitVec.ofNat 16 (0x6840 + 8 * e.2.1)) (BitVec.allOnes 64) e.2.2)) d
  d.sendKCap p

/-- ECHO_FRAME (R154): the exchange; a tray port that comes up with it has its die equipped. -/
def execEchoFrame (p : Fin 17) (h : RxHdr) (t2 t3 : BitVec 64) (tick : Nat) (s : State) := s.run fun d =>
  let up := d.isUp (.tta p)
  let d := echoFrame p h t2 t3 tick d
  if up = false ∧ d.isUp (.tta p) = true ∧ p.val < 16 then d.equipDie p.val else d

/-! ## HIST_READ (R417, R419) -/

/-- Units of a SOURCE: the resume point of each, its bytes, whether its generation is older. -/
structure HistUnit where
  at_ : Nat
  bytes : List Byte
  stale : Bool
  deriving DecidableEq, Repr

/-- What a read found: the groups of units that are written together, in order, the epochs skipped and the blocks left out, and where the range ends. -/
structure HistPlan where
  groups : List (List HistUnit)
  skipped : Nat
  poisoned : Nat
  stop : Nat
  deriving DecidableEq, Repr

/-- The blocks of a die that an allotment owns and that hold a stream of the range, of one epoch. -/
def histBlocks (allot die first count : Nat) (e : Epoch) : List (Nat × Block) :=
  e.blocks.filter fun b => b.2.allot == allot && b.2.mark == 0 && b.1 / 384 == die && leAt b.2.hdr 0 1 == 1 &&
    decide (leAt b.2.hdr 8 2 < first + count ∧ first < leAt b.2.hdr 8 2 + leAt b.2.hdr 10 2)

/-- SOURCE 0: decided epochs of [from, to). -/
def Dev.histRing (slot die first count from_ to_ : Nat) (d : Dev) : HistPlan :=
  let held := d.tta.ing.epochs.filter fun (e : Nat × Epoch) => e.2.taken && decide (from_ ≤ e.1 ∧ e.1 < to_)
  let all := d.tta.ing.epochs.filter fun (e : Nat × Epoch) => e.2.taken
  let oldest := (all.head?.map (·.1)).getD from_
  let newest := (all.getLast?.map (·.1 + 1)).getD from_
  let bs := held.map fun e => (e.1, histBlocks (d.slotAllot slot) die first count e.2)
  let bad (b : Nat × Block) : Bool := b.2.poison || !b.2.lostPages.isEmpty
  { groups := bs.map fun e => (e.2.filter fun b => !bad b).map fun b =>
      { at_ := e.1, bytes := b.2.hdr ++ b.2.words.flatMap (leBytes 8), stale := decide (b.2.gen < d.storeGen slot) }
    skipped := min oldest to_ - from_
    poisoned := (bs.map fun e => (e.2.filter bad).length).sum
    stop := max from_ (min newest to_) }

/-- SOURCE 1 and 2: whole intervals; an entry that the allotment may not read, or that no sample made, is zeros. -/
def Dev.histTier (slot t die first count from_ to_ : Nat) (d : Dev) : HistPlan :=
  let secs := tierSecs t
  let lo := ceilDiv from_ secs
  let now := ((d.tta.ing.log.getLast?.map (·.epoch)).getD 0) / 4000 / secs
  let hi := max lo (min (ceilDiv to_ secs) now)
  let keep := max lo (now - tierLen t)
  let mine := d.tta.ing.tiers.filter fun e => e.tier == t && e.stream / 65536 == die && e.allot == d.slotAllot slot
  { groups := (List.range (hi - keep)).map fun k =>
      (List.range (min count (65536 - first))).map fun i =>
        match mine.find? fun e => e.interval == keep + k && e.stream % 65536 == first + i with
        | some e => { at_ := (keep + k) * secs, bytes := e.bytes, stale := decide (e.gen < d.storeGen slot) }
        | none => { at_ := (keep + k) * secs, bytes := List.replicate 32 0#8, stale := false }
    skipped := min keep hi - lo
    poisoned := 0
    stop := max from_ (hi * secs) }

/-- The bytes of a capture from its start. -/
def Capture.content (c : Capture) : List Byte := ((sortBy (fun a b => decide (a.1 ≤ b.1)) c.bytes).map (·.2)).flatten

/-- The groups that fit, their bytes, and where the read stopped. -/
def takeGroups (room : Nat) : List (List HistUnit) → List Byte × Option Nat
  | [] => ([], none)
  | g :: t =>
    let n := (g.map fun u => u.bytes.length).sum
    match g with
    | [] => takeGroups room t
    | u :: _ =>
      if (g.any (·.stale)) = true ∨ room < n then ([], some u.at_)
      else
        let r := takeGroups (room - n) t
        (g.flatMap (·.bytes) ++ r.1, r.2)

/-- Write a read's output and complete it. -/
def Dev.histDone (q : Desc) (addr : W64) (bytes : List Byte) (next skipped poisoned : Nat) (d : Dev) : Dev :=
  (d.emit (.bufWrite q.fn addr.toNat bytes)).complete q 0x20 0
    [(48, 6, next / 65536), (54, 2, next % 65536), (56, 4, bytes.length), (60, 2, min 65535 skipped), (62, 2, min 65535 poisoned)]

/-- A planned read: STALE_KEY and NO_RESOURCE are about its first unit. `enc` gives NEXT as NEXT_SEC × 65,536 + NEXT_IDX. -/
def Dev.histPlan (q : Desc) (addr : W64) (p : HistPlan) (enc : Nat → Nat) (d : Dev) : Dev :=
  match p.groups.flatten with
  | [] => d.histDone q addr [] (enc p.stop) p.skipped p.poisoned
  | u :: _ =>
    if u.stale then d.complete q 0x20 0xC []
    else if q.length.toNat < u.bytes.length then d.complete q 0x20 9 []
    else
      let r := takeGroups q.length.toNat p.groups
      d.histDone q addr r.1 (enc (r.2.getD p.stop)) p.skipped p.poisoned

/-- HIST_READ. A read of pages that are still to come from the twin waits (R207). -/
def histRead (q : Desc) (source die first count : Nat) (addr : W64) (fromSec fromIdx toSec toIdx : Nat) (d : Dev) : Dev :=
  d.runDesc 0x20 q (fun d =>
    let slot := descSlot q
    let a := d.slotAllot slot
    let cap := d.tta.captures.find? fun c => c.die == die && c.allot == a && c.capture == count && c.last
    if addr.toNat % 64 ≠ 0 then d.complete q 0x20 3 []
    else if 3 < source ∨ d.dieEnabled die = false ∨ d.slotActive slot = false then d.complete q 0x20 4 []
    else if source < 3 ∧ (if source = 0 then epochOf toSec toIdx < epochOf fromSec fromIdx else toSec < fromSec) then d.complete q 0x20 4 []
    else match source with
    | 0 => d.histPlan q addr (d.histRing slot die first count (epochOf fromSec fromIdx) (epochOf toSec toIdx)) fun n => n / 4000 * 65536 + n % 4000
    | 3 =>
      match cap with
      | none => d.complete q 0x20 4 []
      | some c =>
        let off := fromSec % 2 ^ 32
        let bs := c.content.drop off
        let n := min bs.length q.length.toNat / 8 * 8
        if c.gen < d.storeGen slot then d.complete q 0x20 0xC []
        else if bs ≠ [] ∧ n = 0 then d.complete q 0x20 9 []
        else d.histDone q addr (bs.take n) ((off + n) * 65536) 0 0
    | t => if d.pageAwaited (regionBase 1) (regionSize 1) then d else
      d.histPlan q addr (d.histTier slot t die first count fromSec toSec) fun n => n * 65536)

def execHistRead (q : Desc) (source die : BitVec 8) (first : BitVec 16) (count : BitVec 32) (addr : W64) (fromSec : BitVec 48) (fromIdx : BitVec 16)
    (toSec : BitVec 48) (toIdx : BitVec 16) (s : State) :=
  s.run (histRead q source.toNat die.toNat first.toNat count.toNat addr fromSec.toNat fromIdx.toNat toSec.toNat toIdx.toNat)

end Sys2Proof.Machine
end

