-- ==== Sys2Proof/Machine/TtaCheck.lean ====
section
/-! DEFINITION. Checking on the aggregator: the descriptors CHECK_SET, STEP_REOPEN and FIELD_TEST (R374, R381, R393), the CHECK frames
from the dies (R173), acknowledgements of CONTROL messages (R172), the free-tile sweep (R394). -/
namespace Sys2Proof.Machine

/-! ## Acknowledgements (R172) -/

/-- An acknowledgement of a CONTROL message arrives: a descriptor whose last message it answers completes. -/
def controlAck (p : Nat) (h : RxHdr) (tag : Nat) (d : Dev) : Dev :=
  let (ok, d) := d.acceptFrame (ttaEnd p) true h
  if ok = false then d else
  match d.tta.chk.ctl.find? fun c => c.port == p && c.tag == tag with
  | none => d
  | some c =>
    let d := d.updTchk fun k => { k with ctl := k.ctl.erase c }
    match c.q with
    | none => d
    | some (op, q) => if d.tta.chk.ctl.any fun x => x.q == some (op, q) then d else d.complete q op 0 []

def execControlAck (p : Fin 17) (h : RxHdr) (tag : BitVec 32) (_status : BitVec 8) (s : State) := s.run (controlAck p.val h tag.toNat)

/-! ## CHECK_SET -/

/-- Write K_REQ of an allotment on every die whose TDU_ALLOT_MAP holds it. -/
def Dev.sendKReq (allot k : Nat) (q : Option (Nat × Desc)) (d : Dev) : Dev :=
  d.diesUp.foldl (fun d die => match d.indexOn die allot with
    | some a => d.controlDie die q (.regWrite (BitVec.ofNat 16 (0x4000 + 8 * a)) 0x1F (BitVec.ofNat 64 k))
    | none => d) d

/-- CHECK_SET (R374); a value above 16 acts as 16. With no die to write it completes at once. -/
def checkSet (q : Desc) (k : Nat) (d : Dev) : Dev :=
  d.runDesc 0x50 q (fun d =>
    let slot := descSlot q
    if d.slotActive slot = false then d.complete q 0x50 4 [] else
    let a := d.slotAllot slot
    let d := (d.sendKReq a (min k 16) (some (0x50, q))).sendRole (.kReq a (min k 16))
    if d.tta.chk.ctl.any fun x => x.q == some (0x50, q) then d else d.complete q 0x50 0 [])

def execCheckSet (q : Desc) (k : BitVec 8) (s : State) := s.run (checkSet q k.toNat)

/-! ## STEP_REOPEN -/

/-- STEP_REOPEN (R381): the first boundary at or after the requested one that is at least 100 µs away; a second one takes the place of one
that waits (log 50). -/
def stepReopen (q : Desc) (job sec idx : Nat) (d : Dev) : Dev :=
  d.runDesc 0x51 q (fun d =>
    let slot := descSlot q
    let b := max (epochOf sec idx) (ceilDiv (d.ttaNs + 100000) 250000)
    let d := (d.updSlotX slot fun s => { s with reopen := some (job, b) }).set (R.TTA_CHK_GATE_PENDING.at slot) 1
    d.complete q 0x51 0 [(20, 6, b / 4000), (26, 2, b % 4000)])

def execStepReopen (q : Desc) (job : BitVec 16) (sec : BitVec 48) (idx : BitVec 16) (s : State) := s.run (stepReopen q job.toNat sec.toNat idx.toNat)

/-! ## FIELD_TEST -/

/-- The end of a test wait: every die has answered. -/
def Dev.testsOver (d : Dev) : Dev :=
  let ended := d.tta.chk.tests.filter fun t => t.dies.isEmpty
  ended.foldl (fun d t => d.complete t.q 0x52 0 [(24, 2, min 65535 t.failures)])
    (d.updTchk fun c => { c with tests := c.tests.filter fun t => !t.dies.isEmpty })

/-- FIELD_TEST (R393): an order to every named die whose port is UP (log 51). -/
def fieldTest (q : Desc) (dieMask classMask : Nat) (d : Dev) : Dev :=
  d.runDesc 0x52 q (fun d =>
    let dies := (List.range 16).filter dieMask.testBit
    let a := q.allot.toNat
    let holder : Bool := match q.fn with | .vf _ => true | _ => false
    if holder && dies.any fun die => (d.indexOn die a).isNone then d.complete q 0x52 4 []
    else if d.tta.chk.tests.any fun t => t.dies.any dies.contains then d.complete q 0x52 9 []
    else
      let dies := dies.filter fun die => d.isUp (ttaEnd die)
      let tag := d.tta.chk.nextTag
      let d := d.updTchk fun c => { c with nextTag := tag % (2 ^ 32 - 1) + 1, tests := c.tests ++ [{ q := q, tag := tag, dies := dies, failures := 0 }] }
      (dies.foldl (fun d die => d.sendFrame (ttaEnd die) 2 0 (.check (BitVec.ofNat 32 tag) (.testOrder (BitVec.ofNat 16 classMask)))) d).testsOver)

def execFieldTest (q : Desc) (dieMask classMask : BitVec 16) (s : State) := s.run (fieldTest q dieMask.toNat classMask.toNat)

/-! ## CHECK frames (R173) -/

/-- TEST_DONE: a die's orders of this tag have ended. -/
def testDone (p : Nat) (h : RxHdr) (tag failures : Nat) (d : Dev) : Dev :=
  let (ok, d) := d.acceptFrame (ttaEnd p) true h
  if ok = false then d else
  (d.updTchk fun c => { c with tests := c.tests.map fun t =>
    if t.tag = tag ∧ t.dies.contains p = true then { t with dies := t.dies.erase p, failures := t.failures + failures } else t }).testsOver

def execTestDone (p : Fin 17) (h : RxHdr) (tag : BitVec 32) (failures : BitVec 16) (s : State) := s.run (testDone p.val h tag.toNat failures.toNat)

/-- Cut a byte string into records of 48 bytes. -/
def records48 : Nat → List Byte → List (List Byte)
  | 0, _ => []
  | _, [] => []
  | n + 1, bs => bs.take 48 :: records48 n (bs.drop 48)

/-- BINS (R391): the platform receives them on the Lodge's queue, the body's bytes as check records (log 52). -/
def bins (p : Nat) (h : RxHdr) (stamp : BitVec 32) (values : List W64) (d : Dev) : Dev :=
  let (ok, d) := d.acceptFrame (ttaEnd p) true h
  if ok = false then d else
  (records48 9 (leBytes 4 stamp.toNat ++ List.replicate 4 0#8 ++ values.flatMap fun v => leBytes 8 v.toNat)).foldl (fun d r => d.postCheck 0 r) d

def execBins (p : Fin 17) (h : RxHdr) (stamp : BitVec 32) (values : List W64) (s : State) := s.run (bins p.val h stamp values)

/-- UNIT_STATE (R173): what the TTA knows of a die's withdrawn units. -/
def unitState (p : Nat) (h : RxHdr) (unit : Nat) (withdrawn : Bool) (d : Dev) : Dev :=
  let (ok, d) := d.acceptFrame (ttaEnd p) true h
  if ok = false then d else
  d.updSett fun s =>
    let l := s.units.filter fun u => !(u.1 == p && u.2 == unit)
    { s with units := if withdrawn then l ++ [(p, unit)] else l }

def execUnitState (p : Fin 17) (h : RxHdr) (unit : BitVec 16) (withdrawn : Bool) (s : State) := s.run (unitState p.val h unit.toNat withdrawn)

/-! ## The sweep (R394) -/

/-- TILE_TEST_SWEEP: the next free tile after the last one tested; a failed test retires it. Event 0x4023 is for
tests of bound tiles. -/
def tileTestSweep (pass : Bool) (d : Dev) : Dev :=
  let from_ := d.tta.chk.sweep
  match (List.range 10240).find? fun i => d.tileFree ((from_ + i) % 10240) with
  | none => d
  | some i =>
    let t := (from_ + i) % 10240
    let d := d.updTchk fun c => { c with sweep := (t + 1) % 10240 }
    if pass then d else d.retireTile t 2

def execTileTestSweep (pass : Bool) (s : State) := s.run (tileTestSweep pass)

end Sys2Proof.Machine
end

