-- ==== Sys2Proof/Machine/Twin.lean ====
section
/-! DEFINITION. The twin protocol (R214 to R222, R282, R304 to R307, R363, R469): messages, loss and partition, failover, rejoin. -/
namespace Sys2Proof.Machine

/-- The twin state; PAIRED at order 11 of the start-up reaches order 12 (R465). -/
def Dev.setTwinState (st : Nat) (d : Dev) : Dev :=
  let d := d.set R.TTA_TWIN_STAT_STATE st
  if st = 0 ∧ d.get R.TTA_BOOT_STAT_ORDER = 11 then d.set R.TTA_BOOT_STAT_ORDER 12 else d

/-- A tenant or platform graph that runs epoch by epoch: it has a primary and a standby. -/
def Graph.hasStandby (g : Graph) (d : Dev) : Bool := !g.isRadio d && !g.plan.stamp

/-! ## Checkpoints at the standby (R217) -/

/-- The parts of a checkpoint put together. -/
def ckptBytes (l : List (Nat × List Byte)) : List Byte := ((sortBy (fun a b => decide (a.1 ≤ b.1)) l).map (·.2)).flatten

/-- A checkpoint whose CKPT_DONE and bytes have come becomes usable; its predecessor is freed, with the decisions that it makes obsolete
(R201). -/
def Dev.ckptArrived (h : Nat) (d : Dev) : Dev :=
  match d.graph h with
  | none => d
  | some g =>
    let bs := ckptBytes g.ckptIn
    if g.ckptLen ≠ some bs.length then d else
    let s := { saveOfBytes g.plan.image bs with storeGen := d.storeGen g.slot, clean := true, sent := true }
    d.setGraph h { g with standby := some s, ckptIn := [], ckptLen := none, decisions := g.decisions.filter fun x => decide (s.run ≤ x.1) }

/-! ## Roles of graphs -/

/-- This twin is no longer primary of a graph, or returns as its standby: nothing of it runs here. What it held as primary serves as its
own last checkpoint until the lead sends one. -/
def Dev.demote (h : Nat) (keep : Bool) (d : Dev) : Dev :=
  match d.graph h with
  | none => d
  | some g =>
    if g.hasStandby d = false then d else
    let d := g.plan.allTiles.foldl (fun d t => d.updTile t fun x => { x with xfers := [], task := none, wait := none }) d
    let own := if g.primary then (g.ckpts.filter (·.clean)).getLast? else g.standby
    d.putGraph h { g with primary := false, run := none, held := [], past := [], redo := [], redoRun := none, ckpts := [], ran := [], catchUp := none
                          standby := if keep then own else none, ckptIn := [], ckptLen := none, partnerPosted := max g.partnerPosted g.posted }

/-- This twin becomes primary of a graph (R220, R221): it loads the last complete checkpoint, or the state of the admission, and replays the
decided epochs since. Gives the runs to replay. -/
def Dev.takeOver (h : Nat) (d : Dev) : Nat × Dev :=
  match d.graph h with
  | none => (0, d)
  | some g =>
    if g.hasStandby d = false ∨ g.primary = true ∨ g.state = 0 then (0, d)
    else if g.state = 1 then (0, if g.firstRun.isSome then d.putGraph h { g with primary := true } else d)
    else
      let q := max 1 g.plan.q
      let last := (d.tta.ing.log.getLast?.map (·.epoch)).getD 0
      let (no, next, cks, d) : Nat × Nat × List GraphSave × Dev := match g.standby with
        | some s => (s.run, s.epoch, [s], d.loadSave g s)
        | none => (0, g.firstRun.getD g.nextEpoch, [], d.freshState h g)
      let now := d.ttaNs
      let d := d.putGraph h { g with primary := true, run := none, runNo := no, nextEpoch := next, ran := [], past := [], held := [], redo := [], log := []
                                     ckpts := cks, standby := none, ckptIn := [], ckptLen := none, ckptEpoch := next - q, ckptDoneNs := some now
                                     catchUp := some last }
      ((last + q - next) / q, d)

/-- The lead, alone or partitioned, becomes primary of every graph. -/
def Dev.takeOverAll (d : Dev) : Dev :=
  let now := d.tta.time.base.tick
  let (n, r, d) := (d.tta.graphs.map (·.1)).foldl (fun (acc : Nat × Nat × Dev) h =>
    let moved : Bool := match acc.2.2.graph h with
      | some g => g.hasStandby acc.2.2 && !g.primary && decide (2 ≤ g.state)
      | none => false
    let (r, d) := acc.2.2.takeOver h
    (if moved then acc.1 + 1 else acc.1, acc.2.1 + r, d)) (0, 0, d)
  d.updTwin fun w => { w with failFrom := some now, failGraphs := n, failRuns := r }

/-! ## Loss and partition (R219, R220, R222) -/

/-- What waited for the partner goes on without it: ordered operations, budget grants, agreements about graphs, undecided epochs. -/
def Dev.goOnAlone (d : Dev) : Dev :=
  let d := (d.updTwin fun w => { w with logDone := false }).ordersParted.grantsParted
  let hs := d.tta.graphs.map (·.1)
  let d := if d.cutFollower then hs.foldl (fun d h => d.demote h true) d
    else (hs.foldl (fun d h => (d.agreeFirstRun h).agreeSwitch h) d).takeOverAll
  d.keeperCheck.tryEpochs

/-- The partner is lost: ALONE, lead, primary of every graph. -/
def Dev.twinLost (d : Dev) : Dev :=
  let d := d.event .tta 3 0x3130 [d.partnerId, d.tta.twin.lastBeat.toNat]
  ((d.set R.TTA_TIME_STAT_LEAD 1).setTwinState 2).goOnAlone

/-- The twins are partitioned: event 0x3131 with the first epoch that the lead posts, as its EPOCH_IDX (log 54). -/
def Dev.twinParted (d : Dev) : Dev :=
  let first := (d.tta.ing.log.getLast?.map (·.epoch + 1)).getD (epochAt d.ttaNs)
  ((d.event .tta 3 0x3131 [d.partnerId, first % 4000]).setTwinState 1).goOnAlone

/-- PARTNER_SILENT: LOSS_US without a twin message; every TDU is asked. A silent partner in JOINING is treated as in PAIRED (log 41). -/
def partnerSilent (tick : Nat) (d : Dev) : Dev :=
  let d := d.advance .tta tick
  if d.tta.time.base.tick < d.tta.twin.lastMsg + d.lossTicks ∨ d.twinState = 2 ∨ d.tta.twin.querying = true ∨ d.withdrawn = true then d
  else (d.updTwin fun w => { w with querying := true, seen := false }).controlAll .partnerQuery

def execPartnerSilent (tick : Nat) (s : State) := s.run (partnerSilent tick)

/-- PARTNER_QUERY_DONE: any answer with a frame within LOSS_US shows the partner alive. -/
def partnerQueryDone (tick : Nat) (d : Dev) : Dev :=
  let d := d.advance .tta tick
  if d.tta.twin.querying = false then d else
  let d := d.updTwin fun w => { w with querying := false }
  if d.tta.twin.seen = false then d.twinLost else if d.twinState = 1 then d else d.twinParted

def execPartnerQueryDone (tick : Nat) (s : State) := s.run (partnerQueryDone tick)

/-- FAILOVER_REPLAY_DONE: every graph has run the epochs decided when the failover began. -/
def failoverReplayDone (tick : Nat) (d : Dev) : Dev :=
  let d := d.advance .tta tick
  match d.tta.twin.failFrom with
  | none => d
  | some t0 =>
    let behind (e : Nat × Graph) : Bool := match e.2.catchUp with
      | some c => e.2.run.isSome || (e.2.state == 2 && decide (e.2.nextEpoch ≤ c))
      | none => false
    if d.tta.graphs.any behind then d else
    let w := d.tta.twin
    let d := { d with tta := { d.tta with graphs := d.tta.graphs.map fun (e : Nat × Graph) => (e.1, { e.2 with catchUp := none }) } }
    (d.updTwin fun w => { w with failFrom := none }).event .tta 3 0x3132 [w.failGraphs, w.failRuns, d.tta.time.base.tick - t0]

def execFailoverReplayDone (tick : Nat) (s : State) := s.run (failoverReplayDone tick)

/-! ## Rejoin (R220, R307, R363, R469) -/

/-- The words of a bank's rows, in order. -/
def Table.bankWords (t : Table) (b : Bank) : List W64 := (List.range (t.rows * t.rowWords)).map fun i => t.word b (i + 8)

/-- What goes with the words of both banks: the shape, retention, a boundary that is fixed, and of each bank the generations of its header and
rows. -/
def Table.shape (t : Table) : List Nat :=
  let gens (b : Bank) : List Nat := b.rowGens.flatMap fun r => [r.1, r.2]
  let due : Nat × Nat := match t.due with
    | some (b, del) => (b + 1, if del then 1 else 0)
    | none => (0, 0)
  [t.offset, t.rows, t.rowWords, t.kind, t.entity, t.since, t.active.storeGen, t.shadow.storeGen, t.active.hdrGen, t.shadow.hdrGen,
    t.shadow.gen, t.shadow.act, (t.retained.map (· + 1)).getD 0, due.1, due.2, t.active.rowGens.length] ++ gens t.active ++ gens t.shadow

/-- Send both banks of a table. -/
def Dev.sendBanks (t : Table) (d : Dev) : Dev :=
  d.sendRole (.tableBanks (d.slotAllot t.slot) t.tid t.shape (t.bankWords t.active) (t.bankWords t.shadow) t.active.gen t.active.act)

/-- Send tables, slot by slot: event 0x3304. -/
def Dev.sendTables (ts : List Table) (d : Dev) : Dev :=
  let d := ts.foldl (fun d t => d.sendBanks t) d
  ((ts.map (·.slot)).eraseDups).foldl (fun d n => d.event .tta 5 0x3304 [n, (ts.filter fun t => t.slot == n).length]) d

/-- Send a checkpoint of a graph to the partner as its standby: the newest clean one, or the state between two runs. -/
def Dev.sendStandby (h : Nat) (d : Dev) : Dev :=
  match d.graph h with
  | none => d
  | some g =>
    if g.hasStandby d = false ∨ g.state < 2 ∨ g.primary = false then d else
    match (g.ckpts.filter (·.clean)).getLast? with
    | some s => (d.sendCkpt g s).ckptClose h s
    | none => if g.run.isSome then d else let s := d.saveOf g g.runNo g.nextEpoch true; (d.sendCkpt g s).ckptClose h s

/-- What the lead sends to a partner that returns: its watermark log, changed tables, the budget log of a keeper tray, a checkpoint of every
graph. -/
def Dev.joinSend (d : Dev) : Dev :=
  let d := d.sendTwin 0 (.logSync d.tta.ing.log)
  let d := d.sendTables (d.tta.tables.filter fun t => t.gone.isNone && d.tta.twin.changed.contains (t.slot, t.tid))
  let d := if d.isKeeper then d.sendRole (.budgetLog d.liveGrants) else d
  (d.tta.graphs.map (·.1)).foldl (fun d h => d.sendStandby h) d

/-- Take the follower's role, and standby for every graph. -/
def Dev.beFollower (d : Dev) : Dev :=
  let d := ((d.set R.TTA_TIME_STAT_LEAD 0).updTwin fun w => { w with logDone := false, failFrom := none }).showKeeper
  (d.tta.graphs.map (·.1)).foldl (fun d h => d.demote h false) d

/-- A twin that was ALONE or PARTITIONED hears its partner: JOINING. -/
def Dev.rejoin (d : Dev) : Dev :=
  let d := d.setTwinState 3
  if d.leads then (d.updTwin fun w => { w with logDone := true, adopted := d.tta.ing.log.length }).joinSend else d.beFollower

/-- PAIRED: event 0x3133; pages still awaited are asked for again. -/
def Dev.pairUp (d : Dev) : Dev :=
  let n := d.tta.twin.adopted
  let d := (d.setTwinState 0).updTwin fun w => { w with changed := [], logDone := false, adopted := 0 }
  let d := d.event .tta 3 0x3133 [d.partnerId, n]
  (d.tta.ing.awaited.foldl (fun d p => d.askPage p.1) d).tryEpochs

/-- The follower has adopted the log and holds one complete checkpoint of every graph of an allotment ACTIVE here. -/
def Dev.joinReady (d : Dev) : Bool :=
  d.twinState == 3 && !d.leads && d.tta.twin.logDone &&
    d.tta.graphs.all fun e => !e.2.hasStandby d || e.2.state == 0 || !d.slotActive e.2.slot || e.2.standby.isSome

def Dev.joinCheck (d : Dev) : Dev := if d.joinReady then d.pairUp else d

/-! ## Every twin message (R215, R216) -/

/-- A message of the partner was heard. A lead that is JOINING since its reset sends its log when it first hears its partner. -/
def Dev.heard (t : TwinHdr) (d : Dev) : Dev :=
  let now := d.tta.time.base.tick
  let first := !d.tta.twin.everHeard
  let d := d.updTwin fun w => { w with
    peerVersion := t.version.toNat, lastMsg := now, everHeard := true, querying := false
    lastLink := match t.path with | .link _ => some now | .eth => w.lastLink
    lastEth := match t.path with | .link _ => w.lastEth | .eth => some now }
  let d := d.set R.TTA_TWIN_STAT_PARTNER_ID t.sender.toNat
  if d.twinState = 1 ∨ d.twinState = 2 then d.rejoin
  else if d.twinState = 3 ∧ d.leads = true ∧ first = true then d.joinSend
  else d

/-- A twin message: its frame is accepted, its version is the own one or the one before; another is discarded and counted, and recorded when the
partner's version is new (R215, R468). A TTA that has withdrawn takes part no more (R207). -/
def Dev.twinRx (t : TwinHdr) (tick : Nat) (body : Dev → Dev) (d : Dev) : Dev :=
  let d := d.advance .tta tick
  let (ok, d) := match t.path with
    | .link h => d.acceptFrame (.tta 16) false h
    | .eth => (true, d)
  if ok = false ∨ d.withdrawn = true then d else
  let own := d.get R.TTA_CAPS_TWIN_VER
  let v := t.version.toNat
  if v = own ∨ v + 1 = own then body (d.heard t)
  else
    let d := if d.tta.twin.peerVersion = v then d else d.event .tta 0 0x0023 [own, v]
    d.updTwin fun w => { w with peerVersion := v, discarded := w.discarded + 1 }

/-- The epoch of the message. -/
def TwinHdr.epoch (t : TwinHdr) : Nat := epochOf t.epochSec.toNat t.epochIdx.toNat

/-! ## HEARTBEAT -/

/-- HEARTBEAT_SEND: the last epoch posted of each graph this twin is primary of. -/
def heartbeatSend (tick : Nat) (d : Dev) : Dev :=
  let d := d.advance .tta tick
  let l := (d.tta.graphs.filter fun (e : Nat × Graph) => e.2.primary && e.2.hasStandby d).map fun (e : Nat × Graph) => (d.slotAllot e.2.slot, e.2.gid, e.2.posted)
  d.sendTwin 0 (.heartbeat l)

def execHeartbeatSend (tick : Nat) (s : State) := s.run (heartbeatSend tick)

/-- The graph that an allotment and a GRAPH_ID name here. -/
def Dev.graphNamed (allot gid : Nat) (d : Dev) : Option Nat := (d.slotHolding allot).bind fun n => d.graphOf n gid

def heartbeat (t : TwinHdr) (posted : List (Nat × Nat × Nat)) (tick : Nat) (d : Dev) : Dev :=
  Dev.twinRx t tick (fun d =>
    let b := d.stamp .tta
    let d := d.updTwin fun w => { w with lastBeat := b }
    posted.foldl (fun d p => match d.graphNamed p.1 p.2.1 with
      | some h => d.updGraph h fun g => { g with partnerPosted := max g.partnerPosted p.2.2 }
      | none => d) d) d

def execHeartbeat (t : TwinHdr) (posted : List (Nat × Nat × Nat)) (tick : Nat) (s : State) := s.run (heartbeat t posted tick)

/-! ## The watermark (R211, R212) -/

/-- PROPOSE: held until the own CLOSE; then the fills leave. A partner that proposes is PAIRED, and so is a lead that waited for it (log 53). -/
def propose (t : TwinHdr) (maps : List DieMap) (tick : Nat) (d : Dev) : Dev :=
  Dev.twinRx t tick (fun d =>
    let d := if d.twinState = 3 ∧ d.leads = true then d.pairUp else d
    let n := t.epoch
    match d.epoch? n with
    | some e =>
      let d := d.putEpoch n { e with propose := some maps }
      if e.closed then (d.sendFills n).tryEpoch n else d
    | none => if d.epochPast n then d else d.putEpoch n { ({} : Epoch) with propose := some maps }) d

def execPropose (t : TwinHdr) (maps : List DieMap) (tick : Nat) (s : State) := s.run (propose t maps tick)

/-- HAVE. -/
def haveIn (t : TwinHdr) (maps : List DieMap) (tick : Nat) (d : Dev) : Dev :=
  Dev.twinRx t tick (fun d =>
    let n := t.epoch
    match d.epoch? n with
    | some e => (d.putEpoch n { e with have_ := some maps }).tryEpoch n
    | none => d) d

def execHaveMsg (t : TwinHdr) (maps : List DieMap) (tick : Nat) (s : State) := s.run (haveIn t maps tick)

/-- DECIDE: the follower adopts the decided set; in JOINING the epoch is marked ADOPTED. -/
def decideIn (t : TwinHdr) (maps : List DieMap) (tick : Nat) (d : Dev) : Dev :=
  Dev.twinRx t tick (fun d => if d.leads then d else d.fixEpoch t.epoch maps false (d.twinState == 3)) d

def execDecide (t : TwinHdr) (maps : List DieMap) (tick : Nat) (s : State) := s.run (decideIn t maps tick)

/-! ## LOG_SYNC, CKPT_DONE, CHECKPOINT -/

/-- The last epoch of a watermark log, plus 1. -/
def logEnd (l : List LogEntry) : Nat := l.foldl (fun m e => max m (e.epoch + 1)) 0

/-- A lead in JOINING that receives a log keeps the lead: its own log goes further than the sender's, or both end alike and this is twin 0
(log 53). -/
def Dev.keepsLead (entries : List LogEntry) (d : Dev) : Bool :=
  let own := logEnd d.tta.ing.log
  decide (logEnd entries < own) || (logEnd entries == own && d.twinNo == 0)

/-- LOG_SYNC: the follower adopts the lead's log. -/
def logSync (t : TwinHdr) (entries : List LogEntry) (tick : Nat) (d : Dev) : Dev :=
  Dev.twinRx t tick (fun d =>
    if d.twinState ≠ 3 ∨ (d.leads && d.keepsLead entries) = true then d else
    let d := if d.leads then d.beFollower else d
    let new := entries.filter fun e => !d.epochDecided e.epoch
    let d := new.foldl (fun d e => d.fixEpoch e.epoch e.maps false true) d
    (d.updTwin fun w => { w with logDone := true, adopted := new.length }).joinCheck) d

def execLogSync (t : TwinHdr) (entries : List LogEntry) (tick : Nat) (s : State) := s.run (logSync t entries tick)

/-- CHECKPOINT_FRAME: bytes of the checkpoint in progress; offset 0 begins one. -/
def checkpointFrame (path : TwinPath) (allot gid off : Nat) (part : List Byte) (d : Dev) : Dev :=
  let (ok, d) := match path with
    | .link h => d.acceptFrame (.tta 16) false h
    | .eth => (true, d)
  if ok = false then d else
  match d.graphNamed allot gid with
  | none => d
  | some h => (((d.updGraph h fun g => { g with ckptIn := if off = 0 then [(0, part)] else assocSet off part g.ckptIn }).ckptArrived h)).joinCheck

def execCheckpointFrame (path : TwinPath) (allot gid : BitVec 16) (off : Nat) (part : List Byte) (s : State) :=
  s.run (checkpointFrame path allot.toNat gid.toNat off part)

/-- CKPT_DONE. -/
def ckptDone (t : TwinHdr) (allot gid n tick : Nat) (d : Dev) : Dev :=
  Dev.twinRx t tick (fun d => match d.graphNamed allot gid with
    | some h => ((d.updGraph h fun g => { g with ckptLen := some n }).ckptArrived h).joinCheck
    | none => d) d

def execCkptDone (t : TwinHdr) (allot gid : BitVec 16) (n : Nat) (tick : Nat) (s : State) := s.run (ckptDone t allot.toNat gid.toNat n tick)

/-! ## PAGE (R207) -/

/-- The words of a page of the history store that this twin holds. -/
def Dev.pageWords (pg : Nat) (d : Dev) : List (Nat × W64) :=
  d.tta.hist.filterMap fun e => match e.2 with
    | some w => if e.1 / 524288 = pg ∧ w.w.p = false then some (e.1 % 524288, w.w.v) else none
    | none => none

/-- PAGE: a request is answered with the page; content goes to its place under the generation of its area, and its readers go on. -/
def page (t : TwinHdr) (pg : Nat) (content : Option (List (Nat × W64))) (tick : Nat) (d : Dev) : Dev :=
  Dev.twinRx t tick (fun d =>
    match content with
    | none => d.sendTwin 0 (.page pg (some (d.pageWords pg)))
    | some ws =>
      if (d.tta.ing.awaited.any fun a => a.1 == pg) = false then d else
      let d := ws.foldl (fun d w =>
        let a := pg * 4194304 + 8 * w.1
        let gen := match d.histAt a with
          | some x => x.gen
          | none => 0
        d.histWrite gen a ⟨w.2, false⟩) d
      d.updIng fun i => { i with awaited := i.awaited.filter fun a => a.1 != pg }) d

def execPage (t : TwinHdr) (pg : BitVec 16) (content : Option (List (Nat × W64))) (tick : Nat) (s : State) := s.run (page t pg.toNat content tick)

/-! ## DECISION, LINK_INST -/

def execDecision (t : TwinHdr) (slot : Fin 256) (gid : BitVec 16) (run replay site winner : Nat) (tick : Nat) (s : State) :=
  s.run fun d => Dev.twinRx t tick (fun d => d.takeDecision slot.val gid.toNat run replay site winner) d

/-- An allotment has become ACTIVE on the partner (R469): its graph images, both banks of its tables, a checkpoint of each graph. -/
def Dev.sendAllotment (slot : Nat) (d : Dev) : Dev :=
  let gs := d.tta.graphs.filter fun (e : Nat × Graph) => e.2.slot == slot && decide (1 ≤ e.2.state)
  let d := gs.foldl (fun d (e : Nat × Graph) => d.sendRole (.graphImage (d.slotAllot slot) e.2.nextEpoch e.2.plan.image)) d
  let d := d.sendTables (d.tta.tables.filter fun t => t.slot == slot && t.gone.isNone)
  gs.foldl (fun d (e : Nat × Graph) => d.sendStandby e.1) d

/-- LINK_INST: the partner installed a LINK key for an allotment on a die's other port (R42); the first one of an allotment shows that it is
ACTIVE there. -/
def linkInst (t : TwinHdr) (allot port : Nat) (inst : W64) (tick : Nat) (d : Dev) : Dev :=
  Dev.twinRx t tick (fun d =>
    let new := !(d.tta.twin.links.any fun l => l.1 == allot)
    let d := d.updTwin fun w => { w with links := (w.links.filter fun l => !(l.1 == allot && l.2.1 == port)) ++ [(allot, port, inst)] }
    match d.slotHolding allot with
    | some slot => if new ∧ d.leads = true ∧ d.slotActive slot = true then d.sendAllotment slot else d
    | none => d) d

def execLinkInst (t : TwinHdr) (allot : BitVec 16) (port : Fin 16) (inst : W64) (tick : Nat) (s : State) :=
  s.run (linkInst t allot.toNat port.val inst tick)

/-! ## ROLE -/

/-- The lead chose an allotment's index on a die (R98). -/
def Dev.roleIndex (die allot ix : Nat) (d : Dev) : Dev :=
  let d := d.updSett fun s => { s with dieMap := assocSet (die * 64 + ix) allot s.dieMap }
  match d.slotHolding allot with
  | some slot => if d.keyedSlots.contains slot then d.installLink slot die else d
  | none => d

/-- A bank from its row words. -/
def Table.bankOf (t : Table) (ws : List W64) (gen act storeGen hdrGen : Nat) (rowGens : List (Nat × Nat)) : Bank :=
  { words := ws.zipIdx.foldl (fun m w => Memory.write (fun _ => t.fill) m w.2 w.1) [], gen := gen, act := act, storeGen := storeGen,
    hdrGen := hdrGen, rowGens := rowGens }

/-- The row generations in a list of numbers. -/
def pairsOf : List Nat → List (Nat × Nat)
  | a :: b :: t => (a, b) :: pairsOf t
  | _ => []

/-- Both banks of a table arrive (R307). -/
def Dev.roleBanks (allot tid : Nat) (shape : List Nat) (active shadow : List W64) (gen act : Nat) (d : Dev) : Dev :=
  match d.slotHolding allot with
  | none => d
  | some slot =>
    let f (i : Nat) : Nat := shape.getD i 0
    let t : Table := { slot := slot, tid := tid, offset := f 0, rows := f 1, rowWords := f 2, kind := f 3, entity := f 4, since := f 5
                       retained := if f 12 = 0 then none else some (f 12 - 1), due := if f 13 = 0 then none else some (f 13 - 1, f 14 == 1) }
    let gs := pairsOf (shape.drop 16)
    let t := { t with active := t.bankOf active gen act (f 6) (f 8) (gs.take (f 15)), shadow := t.bankOf shadow (f 10) (f 11) (f 7) (f 9) (gs.drop (f 15)) }
    (d.setTables ((d.tta.tables.filter fun x => !(x.slot == slot && x.tid == tid)) ++ [t])).showTables

/-- A graph's image arrives from the lead (R469): the graph is admitted here as standby, or as the second copy of a RADIO graph. -/
def Dev.roleImage (allot epoch : Nat) (image : List Byte) (d : Dev) : Dev :=
  match d.slotHolding allot with
  | none => d
  | some slot =>
    let gid := leAt image 6 2
    if d.slotActive slot = false ∨ (d.graphOf slot gid).isSome = true then d else
    match logicalPlan image (d.slotRadio slot) (d.bit R.TTA_COMPAT_TREE_NAN), (List.range 1024).find? fun i => (assocGet i d.tta.graphs).isNone with
    | .ok pl, some h =>
      match d.placePlan slot pl with
      | none => (d.bump R.TTA_SCHED_STAT_REFUSED 1).event .tta 5 0x3201 [slot, 9, 9]
      | some (pl, d) =>
        let g : Graph := { slot := slot, gid := gid, state := 1, plan := pl, ownCommit := true, partnerCommit := true, nextEpoch := epoch }
        let d := (d.bump R.TTA_SCHED_STAT_ADMITTED 1).loadPlan h slot pl
        let radio := g.isRadio d
        let d := d.putGraph h { g with firstRun := if radio then none else some epoch }
        (if radio then d.agreeFirstRun h else d).showResident
    | _, _ => d

/-- The budget log, to a keeper twin that returns (R363). -/
def Dev.roleBudget (gs : List (Nat × Nat × Nat)) (d : Dev) : Dev := (d.updDet fun x => { x with budget := gs, haveLog := true }).showKeeper

/-- What a ROLE message asks. -/
def Dev.takeRole (m : RoleMsg) (d : Dev) : Dev :=
  match m with
  | .commit a g sh => d.roleCommit a g sh
  | .firstRun a g p e tn => d.roleFirstRun a g p e tn
  | .planSwitch a g e => d.rolePlanSwitch a g e
  | .pause a g => d.rolePause a g
  | .kReq a k => d.sendKReq a k none
  | .dieClear die => d.clearDie die
  | .wmCfg v => d.updIng fun i => { i with nextWm := some v }
  | .index die a ix => d.roleIndex die a ix
  | .forward ref a op => d.roleForward ref a op
  | .apply num a op ref => d.roleApply num a op ref
  | .applied num => d.roleApplied num
  | .boundary a tid e del => match d.slotHolding a with
    | some slot => d.boundaryFixed slot tid e del
    | none => d
  | .rotate a e => d.roleRotate a e
  | .tableBanks a tid sh ac sd gen act => d.roleBanks a tid sh ac sd gen act
  | .budgetLog gs => d.roleBudget gs
  | .rebind a _ => d.roleRebind a
  | .graphImage a e im => d.roleImage a e im

def execRole (t : TwinHdr) (m : RoleMsg) (tick : Nat) (s : State) := s.run fun d => Dev.twinRx t tick (fun d => (d.takeRole m).joinCheck) d

end Sys2Proof.Machine
end

