-- ==== Sys2Proof/Machine/Report.lean ====
section
/-! DEFINITION. Storing event records (R445, R446), error reports on the management port (R399 to R402), RECORD and RING frames at the
aggregator (R174, R427, R448). -/
namespace Sys2Proof.Machine

/-! ## Error reports (R399 to R401) -/

/-- The 64 bytes of a report; a resend sets RETX. -/
def Report.bytes (ttaId : Nat) (retx : Bool) (r : Report) : List Byte :=
  [1#8, 0x31#8, if retx then 1#8 else 0#8] ++ leBytes 1 r.source ++ leBytes 2 ttaId ++ leBytes 2 r.coalesced ++ leBytes 4 (r.num % 2 ^ 32) ++
    leBytes 6 r.stampSec ++ leBytes 4 r.stampNs ++ List.replicate 2 0#8 ++ leBytes 4 (r.num / 2 ^ 32) ++ List.replicate 4 0#8 ++ r.evt.bytes

/-- Event 0x4050 in the permanent area (R402): the source and code of the event (log 56), its short stamp, and the junction temperature and core
voltage, which are free values. -/
def Dev.undelivered (p : Part) (r : Rec) (d : Dev) : Dev :=
  let (t, d) := d.free
  let (v, d) := d.free
  d.eventPerm p 8 0x4050 [r.source.toNat, r.code.toNat, r.stamp.toNat, t.toNat % 2 ^ 32, v.toNat % 2 ^ 32]

/-- A report reached R402. -/
def Dev.reportLost (r : Rec) (d : Dev) : Dev := (d.bump R.TTA_RPT_STAT_UNDELIVERED 1).undelivered .tta r

/-- An event that a report tells of: reports are on and its range bit is set. Event 0x4050 itself is not reported (log 56). -/
def Dev.reportable (r : Rec) (d : Dev) : Bool :=
  d.bit R.TTA_RPT_CFG_ENABLE && (d.get R.TTA_RPT_CFG_RANGE_MASK).testBit (r.code.toNat / 4096) && r.code != 0x4050

/-- The record that a report carries (R399): as stored, or as it would be for one that a full queue dropped. A relayed record is unchanged. -/
def Dev.reportForm (q : QueuedRec) (d : Dev) : Rec :=
  if 0x80 ≤ q.evt.source.toNat then q.evt
  else ({ q.evt with flags := q.evt.flags ||| (if d.qualifies .tta q then 1#8 else 0#8) } : Rec).sealed

/-- Form and send the report of an event; above 1,024 in a second it is only counted (R400). The long stamp is the event's short stamp extended
against the time now; while the time is not valid the long stamp is a free value. -/
def Dev.sendReport (mgmtUp : Bool) (r : Rec) (d : Dev) : Dev :=
  if d.reportable r = false then d else
  let sec := d.tta.time.base.tick / 1000000000
  let sent := if d.tta.rpt.second = sec then d.tta.rpt.inSecond else 0
  if 1024 ≤ sent then
    (d.bump R.TTA_RPT_STAT_COALESCED 1).updRpt fun x => { x with coalesced := min 65535 (x.coalesced + 1), second := sec, inSecond := sent }
  else
    let (full, d) : Nat × Dev :=
      if r.flags.getLsbD 2 then let (w, d) := d.free; (w.toNat, d) else ((extendStamp d.ttaNs r.stamp.toNat).toNat, d)
    let x := d.tta.rpt
    let rp : Report := { num := x.num, source := if r.source.toNat < 0x80 then 0xFF else r.source.toNat % 16, coalesced := x.coalesced, evt := r
                         stampSec := full / 1000000000, stampNs := full % 1000000000, sends := 1 }
    let d := d.updRpt fun x => { x with num := x.num + 1, coalesced := 0, second := sec, inSecond := sent + 1 }
    if mgmtUp then (d.emit (.report (rp.bytes d.ttaId false))).updRpt fun x => { x with out := x.out ++ [rp] }
    else d.reportLost r

/-- The reports that are due leave. -/
def Dev.sendReports (mgmtUp : Bool) (d : Dev) : Dev :=
  let l := d.tta.rpt.due
  l.foldl (fun d q => d.sendReport mgmtUp (d.reportForm q)) (d.updRpt fun x => { x with due := [] })

/-- REPORT_ACK (R400): a report's one ACK, with its tag right. -/
def reportAck (num : Nat) (tagOk : Bool) (d : Dev) : Dev :=
  if tagOk = false ∨ (d.tta.rpt.out.any fun r => r.num == num) = false then d
  else (d.bump R.TTA_RPT_STAT_SENT 1).updRpt fun x => { x with out := x.out.filter fun r => r.num != num }

def execReportAck (num : W64) (tagOk : Bool) (s : State) := s.run (reportAck num.toNat tagOk)

/-- REPORT_RESEND (R400, R402): 1 ms after a send; after the eighth the report is undelivered. A resend that finds the port down counts as a send
(log 57). -/
def reportResend (num : Nat) (mgmtUp : Bool) (d : Dev) : Dev :=
  match d.tta.rpt.out.find? fun r => r.num = num with
  | none => d
  | some r =>
    if 8 ≤ r.sends then (d.updRpt fun x => { x with out := x.out.filter fun r => r.num != num }).reportLost r.evt
    else
      let d := d.updRpt fun x => { x with out := x.out.map fun r => if r.num = num then { r with sends := r.sends + 1 } else r }
      if mgmtUp then d.emit (.report (r.bytes d.ttaId true)) else d

def execReportResend (num : W64) (mgmtUp : Bool) (s : State) := s.run (reportResend num.toNat mgmtUp)

/-- RPT_KEY_WRITE (R401): written once after each L0 reset. -/
def rptKeyWrite (i : Nat) (v : W64) (d : Dev) : Dev :=
  if (assocGet i d.tta.rpt.key).isSome then d else d.updRpt fun x => { x with key := assocSet i v x.key }

def execRptKeyWrite (i : Fin 4) (v : W64) (s : State) := s.run (rptKeyWrite i.val v)

/-! ## EVENT_RECORD (R445, R446) -/

/-- A record that the TDU could not relay, with both ports down (R402): 0x4050, but for 0x4050 itself and for anchors (log 56). -/
def Dev.unrelayed (r : Rec) (d : Dev) : Dev :=
  if d.isUp (.tdu 0) ∨ d.isUp (.tdu 1) ∨ r.code = 0x4050 ∨ r.code = 0xF001 then d else d.undelivered .tdu r

/-- EVENT_RECORD: the next accepted record is stored; on a TDU the notice ring gets its copy (R426); on the TTA its report leaves. -/
def eventRecord (p : Part) (mgmtUp : Bool) (d : Dev) : Dev :=
  let d := match nextRec (d.recd p).queue with
    | none => d
    | some q =>
      let d := d.setRecd p { d.recd p with queue := (d.recd p).queue.erase q }
      let r := d.storedForm p q
      let d := d.takeRec p q
      match p with
      | .tta => d.reportDue { q with evt := r }
      | .tdu => (d.noticeCopy r).unrelayed r
  if p = .tta then d.sendReports mgmtUp else d

def execEventRecord (p : Part) (mgmtUp : Bool) (s : State) := s.run (eventRecord p mgmtUp)

/-! ## RECORD_FRAME (R448) -/

/-- What the TTA learns from a relayed record: a TDU that goes to D2 or D3, whose port sleeps then (R474); an answer to its partner query (R219), a die's other port up or down (log 28), a failed field test
or an item that three units dispute (R357, R376, R392, log 49), a hint difference (R385). -/
def Dev.heedRecord (die : Nat) (r : Rec) (d : Dev) : Dev :=
  let other := r.p0.toNat ≠ d.twinNo
  let down (x : Bool) (d : Dev) : Dev := d.updIng fun i =>
    { i with otherDown := if x then (if i.otherDown.contains die then i.otherDown else i.otherDown ++ [die]) else i.otherDown.erase die }
  match r.code.toNat with
  | 0x3135 => if d.tta.twin.querying ∧ r.p1.toNat < d.lossTicks then d.updTwin fun w => { w with seen := true } else d
  | 0x2001 => if other then down false d else d
  | 0x2002 | 0x2003 | 0x2010 => if other then down true d else d
  | 0x4010 => d.suspectDie die
  | 0x0101 =>
    if r.p1.toNat < 2 ∨ 16 ≤ die then d else
    ((d.set R.TTA_PWR_STAT_SLEEPING (d.get R.TTA_PWR_STAT_SLEEPING ||| 2 ^ die)).goDown (ttaEnd die) (some 2) false).mirrorsDown
  | 0x4002 => if r.p1 = 2 then d.suspectDie die else d
  | 0x4030 =>
    let d := d.bump R.TTA_CHK_STAT_SELF_FAIL 1
    match (assocGet (die * 64 + r.p1.toNat % 64) d.tta.det.routes).bind fun h => d.graph h with
    | some g => (g.plan.phys ++ g.plan.shadows).foldl (fun d t => d.strike t) d
    | none => d
  | _ => d

/-- RECORD_FRAME: each record with a right CRC enters its source's queue; anchors are discarded under NO_ANCHOR (R152). -/
def recordFrame (p : Fin 17) (h : RxHdr) (recs : List Rec) (d : Dev) : Dev :=
  let (ok, d) := d.acceptFrame (.tta p) true h
  if ok = false then d else
  recs.foldl (fun d r =>
    if r.crc ≠ r.sealed.crc then d.bump R.TTA_REC_STAT_LOST 1
    else if r.code = 0xF001 ∧ d.tta.time.noAnchor = true then d
    else (d.queueRec .tta false r).heedRecord (upDie p h) r) (d.forwardUp p h (.record recs))

def execRecordFrame (p : Fin 17) (h : RxHdr) (recs : List Rec) (s : State) := s.run (recordFrame p h recs)

/-! ## RING frames from a mirrored die (R174, R427) -/

/-- A RING message about a mirrored descriptor. -/
def Dev.ringMsg (p : Nat) (h : RxHdr) (index : BitVec 16) (body : Mirrored → Dev → Dev) (d : Dev) : Dev :=
  let (ok, d) := d.acceptFrame (ttaEnd p) true h
  if ok = false then d else
  match d.tta.mirrored.find? fun m => m.port = p ∧ m.q.index = index with
  | some m => body m d
  | none => d

/-- RING_OUTPUT: to BUF_ADDR + OFFSET in PF memory. -/
def execRingOutput (p : Fin 17) (h : RxHdr) (index : BitVec 16) (off : BitVec 32) (content : List Byte) (s : State) := s.run fun d =>
  d.ringMsg p.val h index fun m d => d.emit (.bufWrite .pf (m.addr.toNat + off.toNat) content)

/-- RING_WRITEBACK: the bytes wait for the completion. -/
def execRingWriteback (p : Fin 17) (h : RxHdr) (index : BitVec 16) (content : List Byte) (s : State) := s.run fun d =>
  d.ringMsg p.val h index fun m d =>
    { d with tta := { d.tta with mirrored := d.tta.mirrored.map fun x => if x = m then { x with wb := some content } else x } }

/-- RING_COMPLETION: the write-back and the completion entry on the PF ring. -/
def execRingCompletion (p : Fin 17) (h : RxHdr) (index : BitVec 16) (content : List Byte) (s : State) := s.run fun d =>
  d.ringMsg p.val h index fun m d =>
    ({ d with tta := { d.tta with mirrored := d.tta.mirrored.erase m } } : Dev).complete m.q m.opcode (leAt content 4 1)
      (((m.wb.getD []).zipIdx).map fun b => (b.2, 1, b.1.toNat))

/-- RING_NOTICE: to ring 18 + 3p of the PF. -/
def ringNotice (p : Nat) (h : RxHdr) (content : List Byte) (d : Dev) : Dev :=
  let (ok, d) := d.acceptFrame (ttaEnd p) true h
  if ok = false ∨ 16 ≤ p then d else d.notify .pf (18 + 3 * p) content

def execRingNotice (p : Fin 17) (h : RxHdr) (content : List Byte) (s : State) := s.run (ringNotice p.val h content)

end Sys2Proof.Machine
end

