-- ==== Sys2Proof/Machine/Second.lean ====
section
/-! DEFINITION. Whole seconds of presented time (R151, R197, R215, R391, R496) and the coarse view (R47, R48). -/
namespace Sys2Proof.Machine

/-! ## Whole seconds -/

/-- A field of TTA_WM_CFG as it acts: below 50 acts as 50, above 10,000 as 10,000. -/
def wmClamp (v : Nat) : Nat := max 50 (min 10000 v)

/-- TTA_WM_CFG from this whole second on (R211). -/
def Dev.takeWmCfg (d : Dev) : Dev :=
  match d.tta.ing.nextWm with
  | none => d
  | some v => d.updIng fun i => { i with nextWm := none
                                         hold := wmClamp (R.TTA_WM_CFG_HOLD_US.read v), fill := wmClamp (R.TTA_WM_CFG_FILL_US.read v) }

/-- The per-second work of a part: NO_ANCHOR takes effect (R496) before the anchor (R151); then the TTA's deadline mode (R197) and watermark
settings, and the TDU's BINS (R391). -/
def wholeSecond (p : Part) (tick : Nat) (d : Dev) : Dev :=
  let d := d.advance p tick
  if d.timeValid p = false then d else
  match p with
  | .tdu => (d.anchor .tdu 0).sendBins
  | .tta =>
    let d := d.updTime fun t => { t with noAnchor := d.bit R.TTA_COMPAT_NO_ANCHOR }
    ((d.anchor .tta 0).arbDeadlineMode).takeWmCfg

def execWholeSecond (p : Part) (tick : Nat) (s : State) := s.run (wholeSecond p tick)

/-! ## The coarse view -/

/-- A utilisation (R47); `c` is the capacity in bytes per second. -/
def coarseQ (b c w : Nat) : Nat := min 16 (16 * b / (c * w))

/-- The value of an exact accumulator. -/
def Accum.value (c : Accum) : FVal :=
  if c.nan || (c.pinf && c.ninf) then .nan
  else if c.pinf then .inf false
  else if c.ninf then .inf true
  else .fin (decide (c.n.toInt < 0)) c.n.toInt.natAbs (-149)

/-- min(16, ⌊16 · h⌋) of an FP32 score; a negative score and a NaN give 0. -/
def healthQ (x : Nat) : Nat :=
  match (fmtOf 12).dec x with
  | .nan => 0
  | .inf s => if s then 0 else 16
  | .fin s m e => if s then 0 else min 16 ((toExp false (16 * m) e (-149)).toNat / 2 ^ 149)

/-- The health figure of a die: the sum of its scores of the window divided by their count, rounded once to FP32 (R47, R355). -/
def Dev.coarseHealth (die : Nat) (d : Dev) : Nat :=
  match assocGet die d.tta.det.scores with
  | none => 0
  | some (acc, n) => healthQ ((fmtOf 12).div acc.value (.fin false n 0))

/-- Active allotments: the slots that are ACTIVE. -/
def Dev.activeAllots (d : Dev) : Nat := ((List.range 256).filter fun n => d.slotActive n).length

/-- The 48-byte record of a window. -/
def Dev.coarseRecord (d : Dev) : List Byte :=
  let w := d.tta.ing.coarseW
  let at_ (k : Nat) : Nat := (assocGet k d.tta.ing.coarse).getD 0
  let link (i : Nat) : Nat := (d.get (R.TTA_CNT_VALUE.at i) + 2 ^ 64 - at_ i) % 2 ^ 64
  let secA := ((d.tta.time.base.domA.timeAt d.tta.time.base.tick) / (2 ^ 40 * 1000000000)).toNat
  let suspects := ((List.range 16).map fun i => if d.dieState i = 1 then 2 ^ i else 0).sum
  leBytes 1 1 ++ leBytes 1 0 ++ leBytes 2 w ++ leBytes 6 secA ++
  leBytes 1 (coarseQ (link 0) 240000000000 w) ++ leBytes 1 (coarseQ (link 1) 240000000000 w) ++
  leBytes 1 (coarseQ (at_ 2) (Config.capacity 0) w) ++ leBytes 1 (coarseQ (at_ 3) (Config.capacity 1) w) ++
  leBytes 1 (coarseQ (at_ 4) (Config.capacity 2) w) ++ leBytes 1 0 ++
  ((List.range 16).flatMap fun i => leBytes 1 (d.coarseHealth i)) ++
  leBytes 2 suspects ++ leBytes 2 d.activeAllots ++ leBytes 4 d.tta.det.hintsSent ++ leBytes 4 d.tta.det.stepsVoided ++ leBytes 4 0

/-- WINDOW_S as it acts. -/
def Dev.coarseWindow (d : Dev) : Nat := max 1 (min 3600 (d.get R.TTA_COARSE_CTL_WINDOW_S))

/-- The next window begins. -/
def Dev.coarseRestart (d : Dev) : Dev :=
  let c0 := d.get (R.TTA_CNT_VALUE.at 0)
  let c1 := d.get (R.TTA_CNT_VALUE.at 1)
  let w := d.coarseWindow
  (d.updIng fun i => { i with coarse := assocSet 0 c0 (assocSet 1 c1 (i.coarse.filter fun e => decide (16 ≤ e.1))), coarseW := w }).updDet
    fun x => { x with scores := [], hintsSent := 0, stepsVoided := 0 }

/-- The window ends: one record to PF ring 9, none while domain A is UNSET (R149), and the next window begins with the WINDOW_S of now (R48). -/
def coarseWindowEnd (tick : Nat) (d : Dev) : Dev :=
  let d := d.advance .tta tick
  (if d.tta.time.base.domA.state = .unset then d else d.notify .pf 9 d.coarseRecord).coarseRestart

def execCoarseWindowEnd (tick : Nat) (s : State) := s.run (coarseWindowEnd tick)

end Sys2Proof.Machine
end

