-- ==== Sys2Proof/Machine/Compress.lean ====
section
/-! DEFINITION. The DEFLATE engine of the aggregator (R436 to R441): its job ring and its jobs. -/
namespace Sys2Proof.Machine

/-! ## The job ring -/

def Dev.updCmp (f : Deflate → Deflate) (d : Dev) : Dev := { d with tta := { d.tta with cmp := f d.tta.cmp } }

/-- Entries of the ring: SIZE_LOG2 below 4 acts as 4, above 8 as 8. -/
def Dev.cmpEntries (d : Dev) : Nat := 2 ^ max 4 (min 8 (d.get R.TTA_CMP_RING_CFG_SIZE_LOG2))

/-- The engine takes jobs while the ring runs, up to 4 in flight; IDLE follows. -/
def Dev.cmpTake (d : Dev) : Dev :=
  let d := if d.bit R.TTA_CMP_RING_CFG_ENABLE then d.updCmp fun c => { c with taken := min 4 c.posted.length } else d
  d.setBit R.TTA_CMP_RING_CFG_IDLE (d.tta.cmp.taken == 0)

/-- A write of TTA_CMP_DB: a value that would pass CI + 2^SIZE_LOG2 is refused. -/
def cmpDoorbell (pi : Nat) (d : Dev) : Dev :=
  let used := (pi + 65536 - d.get R.TTA_CMP_RING_CFG_CI) % 65536
  if d.cmpEntries < used then d else
  ((d.set R.TTA_CMP_RING_CFG_PI pi).updCmp fun c =>
    { c with posted := (c.posted ++ List.replicate (used - c.posted.length) []).take (max used c.taken) }).cmpTake

def execCmpDoorbell (pi : BitVec 16) (s : State) := s.run (cmpDoorbell pi.toNat)

/-- A write of ENABLE: 1 starts the ring with PI and CI at 0; 0 stops fetching, and jobs in flight complete. -/
def cmpEnable (on : Bool) (d : Dev) : Dev :=
  if on && !d.bit R.TTA_CMP_RING_CFG_ENABLE then
    ((((d.setBit R.TTA_CMP_RING_CFG_ENABLE true).set R.TTA_CMP_RING_CFG_PI 0).set R.TTA_CMP_RING_CFG_CI 0).updCmp fun _ => {}).cmpTake
  else d.setBit R.TTA_CMP_RING_CFG_ENABLE on

def execCmpEnable (on : Bool) (s : State) := s.run (cmpEnable on)

/-! ## Reading and writing bytes of the history store -/

def bytesOf (ws : List TWord) : List Byte := ws.flatMap fun w => leBytes 8 w.v.toNat

/-- Bytes of the store at any byte address, and whether one of their words is poisoned. -/
def Dev.histBytes (addr n : Nat) (d : Dev) : (List Byte × Bool) × Dev :=
  let lo := addr / 8 * 8
  let (ws, d) := d.histReads lo (ceilDiv (addr + n - lo) 8)
  ((((bytesOf ws).drop (addr - lo)).take n, ws.any (·.p)), d)

/-- Write bytes; the other bytes of the first and last word stay. -/
def Dev.histPut (gen addr : Nat) (bs : List Byte) (d : Dev) : Dev :=
  if bs.isEmpty then d else
  let lo := addr / 8 * 8
  let k := ceilDiv (addr + bs.length - lo) 8
  let (first, d) := d.histRead lo
  let (last, d) := if k = 1 then (first, d) else d.histRead (lo + 8 * (k - 1))
  let head := (leBytes 8 first.v.toNat).take (addr - lo)
  let tail := (leBytes 8 last.v.toNat).drop (addr + bs.length - lo - 8 * (k - 1))
  let all := head ++ bs ++ tail
  d.histWrites gen lo ((List.range k).map fun i => { v := BitVec.ofNat 64 (leAt all (8 * i) 8) })

/-- The words of a range hold what nothing states any more (R439): a free value each. -/
def Dev.histForget (addr n : Nat) (d : Dev) : Dev :=
  let lo := addr / 8
  let hi := (addr + n + 7) / 8
  { d with tta := { d.tta with hist := d.tta.hist.filter fun e => e.1 < lo || decide (hi ≤ e.1) } }

/-! ## Jobs -/

/-- A job completes (R441): STATUS and the WB fields are written, CI advances, the counts of TTA_CMP_STAT, the next job is taken. -/
def Dev.cmpDone (status : Nat) (fields : List (Nat × Nat × Nat)) (d : Dev) : Dev :=
  let ci := d.get R.TTA_CMP_RING_CFG_CI
  let d := (d.emit (.cmpDone (ci % d.cmpEntries) ((4, 1, status) :: fields))).set R.TTA_CMP_RING_CFG_CI (ci + 1)
  let d := if status = 0 then d.bump R.TTA_CMP_STAT_JOBS_OK 1 else d.bump R.TTA_CMP_STAT_JOBS_ERR 1
  let d := if status = 0x14 then d.bump R.TTA_CMP_STAT_MISMATCH 1 else d
  (d.updCmp fun c => { posted := c.posted.drop 1, taken := c.taken - 1 }).cmpTake

/-- WB fields OUT_LEN, IN_USED and CRC. -/
def wbJob (out used crc : Nat) : List (Nat × Nat × Nat) := [(36, 4, out), (40, 4, used), (44, 4, crc)]

/-- A range of the system region. -/
def inSystem (addr n : Nat) : Bool := decide (regionBase 5 ≤ addr ∧ addr + n ≤ regionBase 5 + regionSize 5)

/-- The checks of R437 in order, after the races of R441; 0 when the job may run. -/
def Dev.cmpChecks (j : CmpJob) (d : Dev) : Nat :=
  let allot := j.allot.toNat
  let src := j.src.toNat
  let n := j.srcLen.toNat
  let cut : Bool := (d.tta.cmp.posted.headD []).contains allot
  let releasing : Bool := match d.slotHolding allot with
    | some k => d.slotState k == 4
    | none => false
  if cut || releasing then 0xC
  else if (j.op ≠ 1 ∧ j.op ≠ 2) ∨ j.flags.toNat / 4 ≠ 0 ∨ j.reserved = true then 4
  else if n = 0 ∨ j.dstCap = 0 then 1
  else if j.op = 1 ∧ src % 32 ≠ 0 then 3
  else if inSystem j.dst.toNat j.dstCap.toNat = false then 4
  else if allot ≠ 0 ∧ j.flags.getLsbD 1 = false then 4
  else if j.op = 2 then
    if allot ≠ 0 ∨ inSystem src n = false then 4
    else if d.histStale (d.storeGen 0) (src / 8 * 8) (ceilDiv (src + n - src / 8 * 8) 8) then 0xC else 0
  else match d.slotHolding allot with
    | none => 4
    | some k =>
      if (k ≠ 0 ∨ inSystem src n = false) ∧ d.denied k 0xFFFF src (ceilDiv n 8) false = true then 4
      else if k = 0 ∧ inSystem src n = true then (if d.histStale (d.storeGen 0) src (ceilDiv n 8) then 0xC else 0)
      else
        let st := (d.gather k 0xFFFF src (ceilDiv n 8)).1.1
        if st = 4 ∨ st = 0xC then st else 0

/-- What a COMPRESS job reads: its bytes and whether a word is poisoned. -/
def Dev.cmpSource (j : CmpJob) (d : Dev) : (List Byte × Bool) × Dev :=
  let src := j.src.toNat
  let n := j.srcLen.toNat
  if j.allot = 0 ∧ inSystem src n = true then d.histBytes src n
  else
    let (r, d) := d.gather ((d.slotHolding j.allot.toNat).getD 0) 0xFFFF src (ceilDiv n 8)
    (((bytesOf r.2).take n, r.1 == 5 || r.2.any (·.p)), d)

/-- The 32-byte header of an archive unit (R438). -/
def Dev.archiveHdr (j : CmpJob) (ctr raw packed : Nat) (crc : BitVec 32) (d : Dev) : List Byte :=
  leBytes 1 1 ++ leBytes 1 (j.flags.toNat % 2) ++ leBytes 2 j.allot.toNat ++ leBytes 1 (d.storeGen ((d.slotHolding j.allot.toNat).getD 0)) ++
  leBytes 1 0 ++ leBytes 2 d.ttaId ++ leBytes 8 ctr ++ leBytes 4 raw ++ leBytes 4 packed ++ leBytes 4 crc.toNat ++ leBytes 4 0

/-- `n` free bytes: ciphertext and tag under a key that the model does not hold (log 3). -/
def Dev.freeBytes (n : Nat) (d : Dev) : List Byte × Dev :=
  ((List.range n).map fun i => Config.freeByte d.freeIx i, { d with freeIx := d.freeIx + 1 })

/-- The output of a COMPRESS job: the stream, or the archive unit. -/
def Dev.cmpOutput (j : CmpJob) (stream : List Byte) (raw : Nat) (crc : BitVec 32) (d : Dev) : List Byte × Dev :=
  if j.flags.getLsbD 1 then
    let (ctr, d) := d.free
    let (body, d) := d.freeBytes (stream.length + 16)
    (d.archiveHdr j ctr.toNat raw stream.length crc ++ body, d)
  else (stream, d)

/-- Where two byte strings first differ. -/
def firstDiff : List Byte → List Byte → Nat
  | a :: s, b :: t => if a = b then firstDiff s t + 1 else 0
  | _, _ => 0

/-- A COMPRESS job (R439): the source is read, the stream is checked by the independent decompressor, sealed and written at DST. -/
def compressRun (j : CmpJob) (stream : List Byte) (d : Dev) : Dev :=
  let ((bs, p), d) := d.cmpSource j
  let dst := j.dst.toNat
  let cap := j.dstCap.toNat
  let gen := d.storeGen 0
  if p then (d.histForget dst cap).cmpDone 5 [(36, 4, 0)] else
  let x := inflate stream bs.length
  let crc := crc32c bs
  if cap < stream.length + (if j.flags.getLsbD 1 then 48 else 0) then (d.histForget dst cap).cmpDone 9 [(36, 4, 0)]
  else if x.err.isSome ∨ x.bytes ≠ bs then
    ((d.event .tta 9 0x7002 [d.get R.TTA_CMP_RING_CFG_CI % d.cmpEntries, firstDiff x.bytes bs]).histForget dst cap).cmpDone 0x14 [(36, 4, 0)]
  else
    let (out, d) := d.cmpOutput j stream bs.length crc
    (d.histPut gen dst out).cmpDone 0 (wbJob out.length bs.length crc.toNat)

/-- A DECOMPRESS job (R440): what it produced before an error stays at DST. -/
def decompressRun (j : CmpJob) (d : Dev) : Dev :=
  let ((bs, p), d) := d.histBytes j.src.toNat j.srcLen.toNat
  if p then d.cmpDone 5 [(36, 4, 0)] else
  let x := inflate bs j.dstCap.toNat
  let d := d.histPut (d.storeGen 0) j.dst.toNat x.bytes
  match x.err with
  | none => d.cmpDone 0 (wbJob x.outLen x.used (crc32c x.bytes).toNat)
  | some e =>
    (d.event .tta 9 0x7001 [d.get R.TTA_CMP_RING_CFG_CI % d.cmpEntries, 2, e.status, x.used]).cmpDone e.status [(36, 4, x.outLen), (40, 4, x.used)]

/-- The oldest job that the engine took runs and completes; a job whose source page is still to come from the twin waits (R207). `op` is the
command's operation: an entry of the other operation is the other command's. -/
def Dev.cmpJob (op : BitVec 8) (j : CmpJob) (run : Dev → Dev) (d : Dev) : Dev :=
  if d.tta.cmp.taken = 0 ∨ j.op = 3 - op ∨ d.pageAwaited j.src.toNat j.srcLen.toNat = true then d else
  let st := d.cmpChecks j
  if st = 0 then run d else d.cmpDone st (if st = 0xC then [(36, 4, 0)] else [])

def execCompress (j : CmpJob) (stream : List (BitVec 8)) (s : State) := s.run fun d => d.cmpJob 1 j (compressRun j stream)

def execDecompress (j : CmpJob) (s : State) := s.run fun d => d.cmpJob 2 j (decompressRun j)

end Sys2Proof.Machine
end

