-- ==== Sys2Proof/Machine/Snap.lean ====
section
/-! DEFINITION. Snapshots after their trigger (R452 to R454), and the sync object select of a virtual function (R498). -/
namespace Sys2Proof.Machine

/-- T arrives (R452): the part latches. -/
def snapLatch (p : Part) (tick : Nat) (d : Dev) : Dev :=
  let d := d.advance p tick
  match d.snapOf p with
  | none => d
  | some s => if s.wave = true ∨ d.nowNs p < s.tNs then d else d.latchNow p

def execSnapLatch (p : Part) (tick : Nat) (s : State) := s.run (snapLatch p tick)

/-- The LTILE under which a holder finds a tile: the logical tile, or P + j for shadow tile j. -/
def captureTile (g : Graph) (t : Nat) (u : TileUse) : Nat :=
  if u.shadow then g.plan.p + (g.plan.shadows.findIdx? (· == t)).getD 0 else u.logical

/-- A bound tile captures its control block at an instruction boundary with no transfer in flight (R453); one that is sealed gives SEALED
with no content (R54). The capture lies under the allotment's WORK key. -/
def tileCapture (t : Nat) (d : Dev) : Dev :=
  match d.tta.snap, (d.tile t).use with
  | some s, some u =>
    if s.wave = false ∨ s.cut.contains t = true ∨ (d.tile t).xfers.isEmpty = false ∨ d.tileRetired t = true then d else
    match d.graph u.handle with
    | none => d
    | some g =>
      let sealed := (d.slotX g.slot).sealed
      let c : TileCapture := { bytes := if sealed then [] else (d.tile t).control, stamp := BitVec.ofNat 32 (d.get R.TTA_SNAP_STAT_STAMP)
                               workGen := d.get (R.TTA_ALT_ENTRY_WORK_GEN.at g.slot), sealed := sealed }
      (d.updSlotX g.slot fun x => { x with snaps := assocSet (g.gid * 2 ^ 14 + captureTile g t u) c x.snaps }).setSnap .tta
        (some { s with cut := t :: s.cut })
  | _, _ => d

def execTileCapture (t : Fin 10240) (s : State) := s.run (tileCapture t.val)

/-- Tiles that a snapshot captures: bound and not retired (R454). -/
def Dev.captureSet (d : Dev) : List Nat :=
  (d.tta.tiles.map (·.1)).filter fun t => (d.tile t).use.isSome && !d.tileRetired t

/-- All captures are written: order 6 of the snapshot sequence. -/
def snapComplete (d : Dev) : Dev :=
  match d.tta.snap with
  | some s =>
    if s.wave = false ∨ (d.captureSet.all fun t => s.cut.contains t) = false then d else
    (((d.setSnap .tta none).setBit (snapBusy .tta) false).setBit (snapValid .tta) true).event .tta 0xC 0xF010
      [d.get R.TTA_SNAP_STAT_STAMP, s.source, s.cut.length, s.tdus]
  | none => d

def execSnapComplete (s : State) := s.run snapComplete

/-- A write of TTA_VF_SYNC_SEL (R498). -/
def vfSyncSel (n : Nat) (v : W64) (d : Dev) : Dev := if n = 0 then d else d.set (R.TTA_VF_SYNC_SEL_OBJ.ofVf n) v.toNat

def execVfSyncSel (n : Fin 256) (v : W64) (s : State) := s.run (vfSyncSel n.val v)

end Sys2Proof.Machine
end

