-- ==== Sys2Proof/Machine/Power.lean ====
section
/-! DEFINITION. Power states and supplies (R470 to R487): the TDU's D states, the TTA's T states, wakes, the Lodge clock, AVSBus,
throttling. -/
namespace Sys2Proof.Machine

def Dev.updTduPwr (f : TduPwr → TduPwr) (d : Dev) : Dev := { d with tdu := { d.tdu with pwr := f d.tdu.pwr } }
def Dev.updTtaPwr (f : TtaPwr → TtaPwr) (d : Dev) : Dev := { d with tta := { d.tta with pwr := f d.tta.pwr } }
def Dev.updPins (f : Pins → Pins) (d : Dev) : Dev := { d with pins := f d.pins }

/-- Every TDU port and every TTA port. -/
def tduEnds : List LinkEnd := [.tdu 0, .tdu 1]
def ttaEnds : List LinkEnd := (List.range 17).map ttaEnd

/-! ## The TDU (R470 to R473) -/

/-- The TDU's state, and what PM_REQ asks for: while WOKE is 1 a request for D2 or D3 acts as one for D1 (R471). -/
def Dev.dState (d : Dev) : Nat := d.get R.TDU_PWR_STAT_STATE
def Dev.pmEff (d : Dev) : Nat :=
  let r := d.pins.pmReq.toNat
  if d.bit R.TDU_PWR_STAT_WOKE = true ∧ 2 ≤ r then 1 else r

/-- PM_ACK (R471); low in reset (R460). -/
def Dev.showAck (d : Dev) : Dev :=
  d.updPins fun p => { p with pmAck := d.tdu.pwr.trans == 0 && d.dState == p.pmReq.toNat && d.tdu.boot.seq.isNone }

/-- A transition of the TDU begins. -/
def Dev.pmStart (trans target : Nat) (d : Dev) : Dev :=
  ((d.updTduPwr fun p => { p with trans := trans, target := target }).setBit R.TDU_PWR_STAT_IN_TRANS true).showAck

/-- No transition of the TDU runs. -/
def Dev.pmEnd (d : Dev) : Dev :=
  (d.updTduPwr fun p => { p with trans := 0, wakes := 0 }).setBit R.TDU_PWR_STAT_IN_TRANS false

/-- Event 0x0101 at a change of state. -/
def Dev.pmChanged (old new : Nat) (d : Dev) : Dev := d.event .tdu 1 0x0101 [old, new, d.get R.TDU_PWR_STAT_WAKE_SRC]

/-- EXITING begins (R473): the island switches the LDO to high-power mode first (R88). -/
def Dev.pmExit (src target : Nat) (d : Dev) : Dev :=
  (((d.set R.TDU_PWR_STAT_WAKE_SRC src).set R.TDU_AON_LDO_MODE 1).set R.TDU_AON_LDO_MODE_ACK 1).pmStart 3 target

/-- Act on PM_REQ when no transition runs (R471); D2 and D3 pass into each other without a sequence (log 62). -/
def Dev.pmAct (d : Dev) : Dev :=
  if d.tdu.pwr.trans ≠ 0 ∨ d.tdu.boot.seq.isSome = true then d.showAck else
  let st := d.dState
  let d := if st < 2 ∧ d.pins.pmReq.toNat < 2 then d.setBit R.TDU_PWR_STAT_WOKE false else d
  let r := d.pmEff
  if st = r then d.showAck
  else if st < 2 then
    if r < 2 then d.pmStart 1 r else (d.pmStart 2 r).traceD2
  else if r < 2 then d.pmExit 4 r
  else ((d.set R.TDU_PWR_STAT_STATE r).pmChanged st r).showAck

/-- PM_REQ_CHANGE. During a transition the change is acted on when it completes. -/
def pmReqChange (v : BitVec 2) (d : Dev) : Dev := (d.updPins fun p => { p with pmReq := v }).pmAct

def execPmReqChange (v : BitVec 2) (s : State) := s.run (pmReqChange v)

/-- D0_D1_TRANSITION_DONE. -/
def d0D1TransitionDone (d : Dev) : Dev :=
  if d.tdu.pwr.trans ≠ 1 then d else
  let old := d.dState
  let new := d.tdu.pwr.target
  (((d.pmEnd).set R.TDU_PWR_STAT_STATE new).pmChanged old new).pmAct

def execD0D1TransitionDone (s : State) := s.run d0D1TransitionDone

/-! ## Entry to D2 (R472) -/

/-- Blocks whose last chunk is still in frames. -/
def frameBlocks (fs : List Frame) : Nat :=
  (fs.map fun f => match f.payload with
    | .data cs => (cs.filter fun c => (c.getD 2 0).getLsbD 1).length
    | _ => 0).sum

/-- Frames of a port that have not left: those queued, and the one in progress unless it is a replay. -/
def LinkPort.unsent (l : LinkPort) : List Frame :=
  match l.current with
  | some (f, false) => f :: l.queue
  | _ => l.queue

/-- Order 4: what is left is discarded. Blocks count in LOST_BLOCKS, once though both ports carry them; check items in flight complete as
missing (R376); event 0x0104. -/
def Dev.d2Discard (d : Dev) : Dev :=
  let blocks := max (frameBlocks d.tdu.link0.unsent) (frameBlocks d.tdu.link1.unsent) + frameBlocks (d.tdu.smp.spill ++ d.tdu.smp.held)
  let items := d.tdu.chk.flight.length
  let d := tduEnds.foldl (fun d e => (d.abortCurrent e).updPort e fun l => { l with queue := [], tagged := [] }) d
  let d := (d.updSmp fun s => { s with spill := [], held := [], stampQueue := [] }).showFill
  let d := ((d.bump R.TDU_SMP_STAT_LOST_BLOCKS blocks).traceD2Discard).flightLost
  if blocks = 0 ∧ items = 0 then d else d.event .tdu 1 0x0104 [blocks, items]

/-- D2_DRAIN_DEADLINE. -/
def d2DrainDeadline (d : Dev) : Dev := if d.tdu.pwr.trans = 2 then d.d2Discard else d

def execD2DrainDeadline (s : State) := s.run d2DrainDeadline

/-- Every record that waits is stored, in order, with its copy in the notice ring. -/
def Dev.storeAllTdu (d : Dev) : Dev :=
  d.tdu.recorder.queue.foldl (fun d _ => match nextRec d.tdu.recorder.queue with
    | none => d
    | some q =>
      let d := d.setRecd .tdu { d.tdu.recorder with queue := d.tdu.recorder.queue.erase q }
      (d.takeRec .tdu q).noticeCopy (d.storedForm .tdu q)) d

/-- Frames that wait on a port leave in turn. -/
def Dev.sendWaiting (e : LinkEnd) (d : Dev) : Dev :=
  if d.isUp e then ((d.port e).queue.foldl (fun d f => d.emit (.frame e f false)) d).updPort e fun l => { l with queue := [], tagged := [] } else d

/-- Order 5: event 0x0101 leaves in a RECORD frame on both ports, and the ports go to DOWN. -/
def Dev.d2Links (d : Dev) : Dev :=
  let d := ((d.pmChanged d.dState d.tdu.pwr.target).storeAllTdu)
  let d := tduEnds.foldl (fun d e => d.sendWaiting e) d
  tduEnds.foldl (fun d e => d.goDown e (some 2) false) d

/-- The contents that D2 does not keep (R470): counter bank, precise sample buffer, circulating area of the recorder; sampling has stopped,
the time is UNSET (R158) and both host-side domains are in reset. -/
def Dev.d2Lose (d : Dev) : Dev :=
  let old := d.tdu.time.state
  let d := d.hostDomainReset
  let d := { d with tdu := { d.tdu with bank := [], trc := { d.tdu.trc with lane0 := none, lane1 := none, trigs := [] } } }
  let d := (d.updSmp fun s => { s with trcReset := true, psBuf := [], psLane0 := none, psLane1 := none }).set R.TDU_PS_STAT_FILL 0
  let d := d.setBit R.TDU_SMP_STAT_RUNNING false
  let d := ((d.setRecd .tdu { d.tdu.recorder with circ := [] }).set (recCircNext .tdu) 0).setBit (recWrapped .tdu) false
  let d := d.updTduTime fun t => { t with state := .unset, usable := 0, fromD2 := true }
  if old = .unset then d else d.event .tdu 2 0x1001 [2, old.code, 0]

/-- D2_ENTRY_DONE: the state is D2 or D3; a wake that came during the entry starts the exit at once (R480). -/
def d2EntryDone (d : Dev) : Dev :=
  if d.tdu.pwr.trans ≠ 2 then d else
  let tgt := d.tdu.pwr.target
  let d := ((d.d2Discard).d2Links).d2Lose
  let d := ((d.set R.TDU_AON_LDO_MODE 0).set R.TDU_AON_LDO_MODE_ACK 0).bump R.TDU_PWR_STAT_D2_ENTRIES 1
  let d := d.set R.TDU_PWR_STAT_STATE tgt
  let w := d.tdu.pwr.wakes
  if w = 0 then (d.pmEnd).pmAct
  else
    let d := ((d.setBit R.TDU_PWR_STAT_WOKE true).bump R.TDU_PWR_STAT_RACES 1).event .tdu 1 0x0103 [0, tgt, w]
    (d.pmEnd).pmExit w 1

def execD2EntryDone (s : State) := s.run d2EntryDone

/-- D2_EXIT_DONE: the tick resumes at its value plus 33 for each 32 MHz cycle (R158); the ports train (log 62); then PM_REQ is looked at. -/
def d2ExitDone (cycles : Nat) (d : Dev) : Dev :=
  if d.tdu.pwr.trans ≠ 3 then d else
  let old := d.dState
  let new := d.tdu.pwr.target
  let d := d.setTb .tdu { d.tb .tdu with tick := (d.tb .tdu).tick + 33 * cycles }
  let d := ((d.pmEnd).set R.TDU_PWR_STAT_STATE new).pmChanged old new
  (tduEnds.foldl (fun d e => d.startTraining e) d).pmAct

def execD2ExitDone (cycles : Nat) (s : State) := s.run (d2ExitDone cycles)

/-! ## The TTA (R475 to R477) -/

def Dev.tState (d : Dev) : Nat := d.get R.TTA_PWR_STAT_STATE

/-- A transition of the TTA begins. -/
def Dev.ttaTrans (trans target : Nat) (d : Dev) : Dev :=
  (d.updTtaPwr fun p => { p with trans := trans, target := target }).setBit R.TTA_PWR_STAT_IN_TRANS true

/-- No transition of the TTA runs. -/
def Dev.ttaTransEnd (d : Dev) : Dev :=
  (d.updTtaPwr fun p => { p with trans := 0, wakes := 0 }).setBit R.TTA_PWR_STAT_IN_TRANS false

/-- The sources that wake a TTA in a state (R478): bit s of WAKE_SRC for row s. -/
def wakes (st src : Nat) : Bool :=
  match src with
  | 0 | 1 => st == 2
  | 4 => st == 1
  | _ => st == 1 || st == 2

/-- A wake source is active (R478, R480): during an entry the wake waits for its end; during an exit T0 comes anyway. -/
def Dev.ttaWake (src : Nat) (d : Dev) : Dev :=
  if d.tta.pwr.trans = 0 then
    if wakes d.tState src then (d.set R.TTA_PWR_STAT_WAKE_SRC (2 ^ src)).ttaTrans 2 0 else d
  else if d.tta.pwr.trans = 1 ∧ wakes d.tta.pwr.target src = true then d.updTtaPwr fun p => { p with wakes := p.wakes ||| 2 ^ src }
  else d

/-- A request for a state (R476) when no transition runs: T1 or T2 needs every slot but slot 0 FREE and no resident graph. -/
def Dev.ttaRequest (t : Nat) (d : Dev) : Dev :=
  if t = 0 then d.ttaWake 5
  else if ((List.range 256).any fun n => n != 0 && d.slotState n != 0) = true then (d.set R.TTA_PWR_STAT_LAST_REQ 2).event .tta 1 0x0112 [2]
  else if d.tta.graphs.isEmpty = false then (d.set R.TTA_PWR_STAT_LAST_REQ 3).event .tta 1 0x0112 [3]
  else if d.tState = t then d.set R.TTA_PWR_STAT_LAST_REQ 1
  else
    let d := if t = 2 then d.controlAll (.park true) else d
    (d.updTwin fun w => { w with out := true }).ttaTrans 1 t

/-- PWR_GO: a request with GO; TARGET 3 has no effect. During a transition T0 is a wake source, and another request waits. -/
def pwrGo (v : W64) (d : Dev) : Dev :=
  let t := R.TTA_PWR_CTL_TARGET.read v
  if R.TTA_PWR_CTL_GO.read v = 0 ∨ t = 3 then d
  else if d.tta.pwr.trans = 0 then d.ttaRequest t
  else if t = 0 then d.ttaWake 5
  else d.updTtaPwr fun p => { p with request := some t }

def execPwrGo (v : W64) (s : State) := s.run (pwrGo v)

/-- A request that waited is acted on. -/
def Dev.ttaNextRequest (d : Dev) : Dev :=
  match d.tta.pwr.request with
  | none => d
  | some t => (d.updTtaPwr fun p => { p with request := none }).ttaRequest t

/-- In T2 the ports are DOWN and the Lodge runs on its oscillator (R475, R481). -/
def Dev.t2Links (d : Dev) : Dev :=
  let d := (ttaEnds.foldl (fun d e => d.goDown e (some 2) false) d).mirrorsDown
  (d.set R.TTA_PWR_CLK_LODGE_PLL 0).set R.TTA_PWR_CLK_ON_PLL 0

/-- TTA_ENTRY_DONE: event 0x0110; a wake during the entry starts the exit at once, with event 0x0103. -/
def ttaEntryDone (d : Dev) : Dev :=
  if d.tta.pwr.trans ≠ 1 then d else
  let old := d.tState
  let t := d.tta.pwr.target
  let d := (d.set R.TTA_PWR_STAT_STATE t).set R.TTA_PWR_STAT_LAST_REQ 1
  let d := d.event .tta 1 0x0110 [old, t, d.get R.TTA_PWR_STAT_WAKE_SRC]
  let d := if t = 2 then d.t2Links else d
  let w := d.tta.pwr.wakes
  if w = 0 then (d.ttaTransEnd).ttaNextRequest
  else (((d.event .tta 1 0x0103 [1, t, w]).ttaTransEnd).set R.TTA_PWR_STAT_WAKE_SRC w).ttaTrans 2 0

def execTtaEntryDone (s : State) := s.run ttaEntryDone

/-- The TTA takes part in the twin protocol again, in JOINING (R220), as lead or not. -/
def Dev.startJoining (lead : Bool) (d : Dev) : Dev :=
  ((d.updTwin fun w => { w with out := false, everHeard := false, logDone := false, querying := false }).setBit R.TTA_TIME_STAT_LEAD lead).setTwinState 3

/-- TTA_EXIT_DONE: T0 with event 0x0110; ports train and the ready sweep runs (R459); JOINING as at a start (R477, log 62). -/
def ttaExitDone (d : Dev) : Dev :=
  if d.tta.pwr.trans ≠ 2 then d else
  let old := d.tState
  let d := ((d.ttaTransEnd).set R.TTA_PWR_STAT_STATE 0).event .tta 1 0x0110 [old, 0, d.get R.TTA_PWR_STAT_WAKE_SRC]
  let d := ttaEnds.foldl (fun d e => d.startTraining e) d
  let d := { d with tta := { d.tta with boot := { d.tta.boot with sweep := true, sweepTest := false } } }
  (d.startJoining (d.twinNo == 0)).ttaNextRequest

def execTtaExitDone (s : State) := s.run ttaExitDone

/-! ## Wake sources (R474, R478, R479) -/

/-- A sleeping port wakes: its mark goes and it trains. -/
def Dev.wakePort (p : Nat) (d : Dev) : Dev :=
  let x := d.get R.TTA_PWR_STAT_SLEEPING
  (d.set R.TTA_PWR_STAT_SLEEPING (x - (x &&& 2 ^ p))).startTraining (ttaEnd p)

/-- WAKE_PATTERN_DETECTED: a port in DOWN trains (R180); a part that sleeps wakes. -/
def wakePatternDetected (e : LinkEnd) (d : Dev) : Dev :=
  match e with
  | .tta p => (d.ttaWake (if p.val = 16 then 1 else 0)).wakePort p.val
  | .tdu p =>
    if d.tdu.pwr.trans = 2 then d.updTduPwr fun x => { x with wakes := x.wakes ||| 2 ^ p.val }
    else if d.tdu.pwr.trans = 0 ∧ 2 ≤ d.dState then (d.setBit R.TDU_PWR_STAT_WOKE true).pmExit (2 ^ p.val) 1
    else (d.updPort e fun l => { l with parked := false }).startTraining e

def execWakePatternDetected (e : LinkEnd) (s : State) := s.run (wakePatternDetected e)

/-- PWR_WAKE_WRITE: the wake pattern leaves on each port named that is DOWN. -/
def pwrWakeWrite (ports : BitVec 17) (d : Dev) : Dev :=
  (List.range 17).foldl (fun d p => if ports.getLsbD p then d.wakePort p else d) d

def execPwrWakeWrite (ports : BitVec 17) (s : State) := s.run (pwrWakeWrite ports)

/-- WAKE_PACKET (R479). -/
def wakePacket (tagOk : Bool) (version type : BitVec 8) (id : BitVec 16) (seq : BitVec 64) (src : BitVec 32) (d : Dev) : Dev :=
  if tagOk = true ∧ d.tta.rpt.key.isEmpty = false ∧ version = 1 ∧ type = 0x41 ∧ id.toNat = d.ttaId ∧ d.get R.TTA_PWR_SEQ_SEQ < seq.toNat then
    (d.set R.TTA_PWR_SEQ_SEQ seq.toNat).ttaWake 2
  else (d.bump R.TTA_PWR_STAT_BAD_WAKE 1).event .tta 1 0x0111 [src.toNat]

def execWakePacket (tagOk : Bool) (version type : BitVec 8) (ttaId : BitVec 16) (seq : BitVec 64) (src : BitVec 32) (s : State) :=
  s.run (wakePacket tagOk version type ttaId seq src)

def execPcieWake (s : State) := s.run fun d => d.ttaWake 3

def execFabricWakeFrame (s : State) := s.run fun d => d.ttaWake 4

/-! ## The Lodge clock (R481) -/

def execLodgePllWrite (on : Bool) (s : State) := s.run fun d => d.setBit R.TTA_PWR_CLK_LODGE_PLL on

/-- LODGE_CLOCK_SWITCH: the Lodge runs from what LODGE_PLL names. -/
def execLodgeClockSwitch (s : State) := s.run fun d => d.setBit R.TTA_PWR_CLK_ON_PLL (d.bit R.TTA_PWR_CLK_LODGE_PLL)

/-! ## AVSBus (R482, R483) -/

/-- The outstanding request, with PENDING. -/
def Dev.setAvs (r : Option AvsReq) (d : Dev) : Dev := (d.updTtaPwr fun p => { p with avs := r }).setBit R.TTA_AVS_STAT_PENDING r.isSome

/-- Issue a rail request; none is issued while one is outstanding or AVS_FAIL is set. -/
def Dev.avsRequest (rail mv : Nat) (d : Dev) : Dev :=
  if d.tta.pwr.avs.isSome = true ∨ d.bit R.TTA_AVS_STAT_AVS_FAIL = true then d
  else (d.setAvs (some { rail := rail, target := mv })).emit (.avsWrite rail mv)

/-- AVS_RESPONSE: acknowledged by a good write response and a voltage within ±10 mV of the target. -/
def avsResponse (r : AvsResponse) (d : Dev) : Dev :=
  match d.tta.pwr.avs, r with
  | none, _ => d
  | some q, .busy => (d.bump R.TTA_AVS_STAT_BUSY_ACKS 1).setAvs (some { q with busy := true })
  | some q, .read ok mv => if ok = true ∧ mv ≤ q.target + 10 ∧ q.target ≤ mv + 10 then d.setAvs none else d

def execAvsResponse (r : AvsResponse) (s : State) := s.run (avsResponse r)

/-- AVS_BUSY_RETRY: a request answered busy is written again. -/
def avsBusyRetry (d : Dev) : Dev :=
  match d.tta.pwr.avs with
  | some q => if q.busy then (d.setAvs (some { q with busy := false })).emit (.avsWrite q.rail q.target) else d
  | none => d

def execAvsBusyRetry (s : State) := s.run avsBusyRetry

/-- AVS_TIMEOUT: the request is reissued once; the second timeout sets AVS_FAIL, with event 0x0130 in the permanent area. -/
def avsTimeout (d : Dev) : Dev :=
  match d.tta.pwr.avs with
  | none => d
  | some q =>
    let d := d.bump R.TTA_AVS_STAT_TIMEOUTS 1
    if q.again then ((d.setAvs none).setBit R.TTA_AVS_STAT_AVS_FAIL true).eventPerm .tta 1 0x0130 [q.rail, q.target, 2]
    else (d.setAvs (some { q with again := true, busy := false })).emit (.avsWrite q.rail q.target)

def execAvsTimeout (s : State) := s.run avsTimeout

/-- AVS_CLR. -/
def execAvsClr (s : State) := s.run fun d => d.setBit R.TTA_AVS_STAT_AVS_FAIL false

/-! ## Throttling (R484, R487, R506) -/

/-- The fabric rail target in force; before the first step it is 750 mV (log 62). -/
def Dev.railMv (d : Dev) : Nat :=
  let v := d.get R.TTA_AVS_STAT_RAIL_MV
  if v = 0 then 750 else v

/-- A temperature field as a signed value. -/
def signed8 (v : Nat) : Int := (BitVec.ofNat 8 v).toInt

/-- The hottest of the clusters' and the bridges' sensors. -/
def Dev.hottest (bridges : List (BitVec 8)) (d : Dev) : Int :=
  let temps : List Int := (List.range 640).map (fun c => signed8 (d.get (R.TTA_FAB_CLU_TEMP_C.at c))) ++ bridges.map (·.toInt)
  temps.foldl max (-128)

/-- The rail after a throttle step: 25 mV down to FLOOR_MV at or above HOT_C, 25 mV up to TARGET_MV below HOT_C − HYST_C; a rail above its
target goes down 25 mV toward it there. -/
def Dev.throttled (hot : Int) (d : Dev) : Nat :=
  let rail := d.railMv
  let hotC : Int := d.get R.TTA_THROT_CFG_HOT_C
  let hyst : Int := max 1 (d.get R.TTA_THROT_CFG_HYST_C)
  let floor := max 550 (d.get R.TTA_THROT_CFG_FLOOR_MV)
  let target := max 550 (min 850 (d.get R.TTA_AVS_CTL_TARGET_MV))
  if hotC ≤ hot then min rail (max floor (rail - 25))
  else if hot < hotC - hyst then (if rail < target then min target (rail + 25) else max target (rail - 25))
  else rail

/-- THROTTLE_TICK: a step asks for the rail and records event 0x0132; none while AVS_FAIL is set or a request is outstanding. -/
def throttleTick (bridges : List (BitVec 8)) (d : Dev) : Dev :=
  if d.bit R.TTA_AVS_STAT_AVS_FAIL = true ∨ d.tta.pwr.avs.isSome = true then d else
  let hot := d.hottest bridges
  let mv := d.throttled hot
  if mv = d.railMv then d else
  ((d.set R.TTA_AVS_STAT_RAIL_MV mv).avsRequest 0 mv).event .tta 1 0x0132 [mv, (BitVec.ofInt 32 hot).toNat]

def execThrottleTick (bridges : List (BitVec 8)) (s : State) := s.run (throttleTick bridges)

/-! ## The idle step -/

/-- One tick passes: both tick counters count (R139), the TDU's not while it is in D2 or D3, where its clock is off (R470; log 1). -/
def Dev.idle (d : Dev) : Dev :=
  let d := d.advance .tta ((d.tb .tta).tick + 1)
  if 2 ≤ d.dState then d else d.advance .tdu ((d.tb .tdu).tick + 1)

def State.idle (s : State) : State := { s with dev := s.dev.idle }

end Sys2Proof.Machine
end

