-- ==== Sys2Proof/Machine/Reset.lean ====
section
/-! DEFINITION. Reset and start-up (R455 to R467, R494): the sources and levels, what each level clears, fuses, calibration, firmware, the start
sequence of both parts, failed starts and recovery; TDISP requests (R425). -/
namespace Sys2Proof.Machine

def Dev.updBoot (f : Boot → Boot) (d : Dev) : Dev := { d with tta := { d.tta with boot := f d.tta.boot } }
def Dev.updTduBoot (f : Boot → Boot) (d : Dev) : Dev := { d with tdu := { d.tdu with boot := f d.tdu.boot } }

/-! ## What a level keeps (R456, R494) -/

/-- Bits that a reset of L1 leaves beside the RWS fields: the state that R456 keeps. -/
def keptAtL1 : List (Nat × Nat) :=
  [ (R.TTA_POS.base, 2 ^ 64 - 1), (R.TTA_BOOT_STAT.base, 0xB), (R.TTA_FUSE_STAT.base, 2 ^ 64 - 1), (R.TTA_CAL_STAT.base, 0x7F),
    (R.TTA_AVS_CTL.base, 0x3FF * 2 ^ 12), (R.TTA_FAB_CLU.base, 0xFFFF * 2 ^ 46), (R.TTA_DIE_STATE.base, 31 * 2 ^ 59), (R.TTA_MEM_CH.base, 2 ^ 63),
    (R.TTA_REC_STAT.base, 0x1FFF * 2 ^ 49), (R.TTA_FW_VER.base, 0xFF * 2 ^ 56) ]

/-- Bits that a reset of L0 leaves: FAILS, the calibration programs made. -/
def keptAtL0 : List (Nat × Nat) := [(R.TTA_BOOT_STAT.base, 3), (R.TTA_CAL_STAT.base, 0x7F)]

/-- The same for the TDU at L1. -/
def keptTduL1 : List (Nat × Nat) := [(R.TDU_FUSE_STAT.base, 2 ^ 64 - 1), (R.TDU_REC_STAT.base, 0x1FFF * 2 ^ 49)]

/-- The bits of a register that a reset keeps. -/
def keptMask (rows : List RegRow) (rws : Bool) (kept : List (Nat × Nat)) (a : Nat) : Nat :=
  match findRow rows a with
  | none => 0
  | some (r, _) => (if rws then accMask r fun c => c == .rws else 0) ||| (assocGet r.base kept).getD 0

/-- A register file after a reset. -/
def wipeRegs (sp : Space) (mask : Nat → Nat) (m : Memory W64) : Memory W64 :=
  (m.map fun e =>
    let k := BitVec.ofNat 64 (mask e.1)
    (e.1, (e.2 &&& k) ||| (Regs.resetOf sp e.1 &&& ~~~k))).filter fun e => decide (e.2 ≠ Regs.resetOf sp e.1)

/-! ## The TTA -/

/-- The state of L0. What lies outside the reset's reach stays: the fuse array and the MTP. A programming under way is cut off (R462). -/
def Tta.atL0 (t : Tta) : Tta :=
  { fuses := t.fuses, mtp := t.mtp, mtpCut := t.mtpCut
    regs := wipeRegs .tta (keptMask R.pfRows false keptAtL0) t.regs }

/-- The agreed part of ingest, and what lies in the memory stacks (R456). -/
def Ingest.atL1 (i : Ingest) : Ingest :=
  { epochs := (i.epochs.filter fun e => e.2.decided).map fun e => (e.1, { e.2 with blocks := e.2.blocks.filter fun b => b.2.allot == 0 })
    log := i.log, ringNext := i.ringNext, tiers := i.tiers.filter fun t => t.allot == 0, boundary := i.boundary
    moved := i.moved, awaited := i.awaited }

/-- The state of L1: time values, permanent area, report key and number, budget log, fuse shadow, calibration set, the memory stacks'
contents but for what tenants held. -/
def Tta.atL1 (t : Tta) : Tta :=
  { fuses := t.fuses, mtp := t.mtp, mtpCut := t.mtpCut, cal := t.cal, boot := { seq := some 1, loading := false }
    regs := wipeRegs .tta (keptMask R.pfRows true keptAtL1) t.regs
    time := { base := { t.time.base with plan := none }, synceLostA := t.time.synceLostA, synceLostB := t.time.synceLostB }
    recorder := { perm := t.recorder.perm }
    hist := t.hist, captures := t.captures.filter fun c => c.allot == 0, tables := t.tables.filter fun x => x.slot == 0
    ing := t.ing.atL1
    det := { budget := t.det.budget, haveLog := t.det.haveLog }
    rpt := { num := t.rpt.num, key := t.rpt.key } }

/-- Clusters retired, by the state field. -/
def Dev.retiredClusters (d : Dev) : List Nat := (List.range 640).filter fun c => d.get (R.TTA_FAB_CLU_STATE.at c) == 2

/-- TTA_CAL_DATA holds the loaded set again. -/
def Dev.showCal (d : Dev) : Dev := d.tta.cal.zipIdx.foldl (fun d x => d.setWord .tta (R.TTA_CAL_DATA.base + 8 * x.2) x.1) d

/-- The TTA at a level: 0 or 1. Each domain that was LOCKED is in HOLDOVER after L1 (R142); the twin state is JOINING (R220). -/
def Dev.wipeTta (lvl : Nat) (d : Dev) : Dev :=
  let cut := d.bit R.TTA_CAL_STAT_BUSY || d.tta.mtpCut
  let d := { d with tta := { d.tta with mtpCut := cut } }
  if lvl = 0 then { d with tta := d.tta.atL0, pins := { d.pins with ppsOut := false } } else
  let rc := d.retiredClusters
  let held := (List.range 255).map (· + 1) |>.filter fun n => d.slotState n != 0
  let d := held.foldl (fun d n => d.reclaim n) d
  let d := { d with tta := d.tta.atL1, pins := { d.pins with ppsOut := false } }
  let d := rc.foldl (fun d c => d.set (R.TTA_FAB_CLU_STATE.at c) 2) d
  let d := (((List.range 4).foldl (fun d q => d.quadCount q) d).showCal).showTables
  let down (m : Dom) (d : Dev) : Dev := if (d.tta.time.base.dom m).state = .locked then d.setDomState m .holdover else d
  (down .b (down .a d)).startJoining (d.twinNo == 0)

/-- A start failed (R466): FAILS, and event 0x0003 with the reason. -/
def Dev.startFailed (reason : Nat) (d : Dev) : Dev :=
  let d := (d.updBoot fun b => { b with starting := false, fetching := false }).bump R.TTA_BOOT_STAT_FAILS 1
  d.event .tta 0 0x0003 [reason, d.get R.TTA_BOOT_STAT_FAILS]

/-! ## The fabric and scheduler reset (R457) -/

/-- A resident graph anew from its plan: as standby, or as the second copy of a RADIO graph. -/
def Dev.reloadGraph (h : Nat) (d : Dev) : Dev :=
  match (d.demote h true).graph h with
  | none => d
  | some g =>
    if g.state = 0 then d else
    let d := (d.demote h true).freshState h g
    if g.hasStandby d then d else d.putGraph h { g with run := none, past := [], held := [], redo := [], redoRun := none }

/-- L2: withdrawal, tiles and objects cleared, jobs of the DEFLATE engine ended, status fields at reset, every resident graph loaded again; the ready
sweep begins. -/
def Dev.l2Reset (d : Dev) : Dev :=
  let d := (d.updBoot fun b => { b with seq := some 2, sweep := true, sweepTest := false }).updTwin fun w => { w with out := true }
  let d := { d with tta := { d.tta with tiles :=
    (d.tta.tiles.map fun (t : Nat × Tile) => (t.1, { t.2 with ce := 0, ue := 0, addrFault := 0, codeUe := 0 })).filter fun (t : Nat × Tile) => !(t.2 == ({} : Tile)) } }
  let d := (d.updCmp fun _ => {}).set R.TTA_CMP_RING_CFG_CI (d.get R.TTA_CMP_RING_CFG_PI)
  let free := d.get R.TTA_SYNC_STAT_FREE
  let d := ((d.setWord .tta R.TTA_SYNC_STAT.base 0).set R.TTA_SYNC_STAT_FREE free).setWord .tta R.TTA_TILE_ERR_SUM.base 0
  let d := ((d.setWord .tta R.TTA_SCHED_STAT.base 0).showResident).setBit R.TTA_SCHED_STAT_BUSY (d.tta.graphs.any fun (g : Nat × Graph) => g.2.state == 0)
  (d.tta.graphs.map (·.1)).foldl (fun d h => d.reloadGraph h) d

/-! ## Assertion (R455, R456) -/

/-- The level of a source in the fuse map. -/
def Fuses.level (f : Fuses) (src : Nat) : Nat := f.levels.toNat / 8 ^ src % 8

/-- A reset of any level restarts a fuse load under way (R461). -/
def Boot.loadRuns (b : Boot) : Bool := b.loading && decide (1 ≤ b.order)

/-- The TTA takes a reset of L0 or L1. SEEN gathers the sources of a sequence that is restarted; a start that had not reached BOOT_OK has failed. -/
def Dev.resetTta (src lvl : Nat) (d : Dev) : Dev :=
  let b := d.tta.boot
  let seen := if b.seq.isSome then d.get R.TTA_RST_CAUSE_SEEN else 0
  let warm := if lvl = 0 then 0 else min 255 (d.get R.TTA_RST_CAUSE_WARM_COUNT + 1)
  let restarts := if b.loadRuns then min 255 (d.get R.TTA_FUSE_STAT_RESTARTS + 1) else if lvl = 0 then 0 else d.get R.TTA_FUSE_STAT_RESTARTS
  let d := ((d.wipeTta lvl).set R.TTA_RST_CAUSE_SEEN seen).rstCause .tta src lvl
  let d := (d.set R.TTA_RST_CAUSE_WARM_COUNT warm).set R.TTA_FUSE_STAT_RESTARTS restarts
  if b.starting then d.startFailed 0 else d

/-- The state of the TDU's L0 and L1. L1 keeps time, the permanent area and the fuse shadow; LINK keys and grants are destroyed. -/
def Tdu.atL0 (t : Tdu) : Tdu := { fuses := t.fuses }
def Tdu.atL1 (t : Tdu) : Tdu :=
  { fuses := t.fuses, boot := { seq := some 1, loading := false, order := 1 }, time := t.time, recorder := { perm := t.recorder.perm }
    regs := wipeRegs .tdu (keptMask R.tduRows true keptTduL1) t.regs }

/-- The TDU takes a reset; PM_ACK is low (R460). -/
def Dev.resetTdu (src lvl : Nat) (d : Dev) : Dev :=
  let b := d.tdu.boot
  let seen := if b.seq.isSome then d.get R.TDU_RST_CAUSE_SEEN else 0
  let warm := if lvl = 0 then 0 else min 255 (d.get R.TDU_RST_CAUSE_WARM_COUNT + 1)
  let restarts := if b.loadRuns then min 255 (d.get R.TDU_FUSE_STAT_RESTARTS + 1) else if lvl = 0 then 0 else d.get R.TDU_FUSE_STAT_RESTARTS
  let d := { d with tdu := if lvl = 0 then d.tdu.atL0 else d.tdu.atL1, pins := { d.pins with pmAck := false } }
  let d := (d.set R.TDU_RST_CAUSE_SEEN seen).rstCause .tdu src lvl
  (d.set R.TDU_RST_CAUSE_WARM_COUNT warm).set R.TDU_FUSE_STAT_RESTARTS restarts

/-- A source asserts at a level: absorbed when a deeper reset is under way, which it only joins in SEEN (and a fuse load under way restarts). -/
def Dev.assertReset (p : Part) (src lvl : Nat) (d : Dev) : Dev :=
  match p with
  | .tta =>
    let absorbed : Bool := match d.tta.boot.seq with
      | some c => decide (c < lvl)
      | none => false
    if absorbed then
      let d := d.rstSeenSrc .tta src
      if d.tta.boot.loadRuns then d.bump R.TTA_FUSE_STAT_RESTARTS 1 else d
    else if lvl = 2 then (d.rstCause .tta src 2).l2Reset
    else if lvl ≤ 1 then d.resetTta src lvl
    else d
  | .tdu =>
    let absorbed : Bool := match d.tdu.boot.seq with
      | some c => decide (c < lvl)
      | none => false
    if absorbed then
      let d := d.rstSeenSrc .tdu src
      if d.tdu.boot.loadRuns then d.bump R.TDU_FUSE_STAT_RESTARTS 1 else d
    else if lvl ≤ 1 then d.resetTdu src lvl
    else d

/-- A source asserts at its fused level. -/
def Dev.assertSource (p : Part) (src : Nat) (d : Dev) : Dev :=
  d.assertReset p src ((match p with | .tta => d.tta.fuses | .tdu => d.tdu.fuses).level src)

/-! ## The sources -/

/-- POR. Loss of the TTA's always-on supply clears the failed-start count too (R466). -/
def por (p : Part) (aon : Bool) (d : Dev) : Dev :=
  let d := if p = .tta ∧ aon = true then d.updBoot fun b => { b with starting := false } else d
  let d := d.assertReset p 0 0
  if p = .tta ∧ aon = true then d.set R.TTA_BOOT_STAT_FAILS 0 else d

def execPor (p : Part) (aon : Bool) (s : State) := s.run (por p aon)

def execPinReset (p : Part) (s : State) := s.run fun d => d.assertSource p 1

/-- WATCHDOG_EXPIRY: a Lodge core's, or the always-on watchdog's for a PLL that lost lock; both are source 2. -/
def execWatchdogExpiry (_src : Fin 5) (s : State) := s.run fun d => d.assertSource .tta 2

/-- RST_REQ: with KEY and REQ, the level written, 1 or 2. -/
def rstReq (v : W64) (d : Dev) : Dev :=
  let l := R.TTA_RST_CTL_LEVEL.read v
  if R.TTA_RST_CTL_KEY.read v = 0xA5C3 ∧ R.TTA_RST_CTL_REQ.read v = 1 ∧ (l = 1 ∨ l = 2) then d.assertReset .tta 3 l else d

def execRstReq (v : W64) (s : State) := s.run (rstReq v)

/-- THERMAL_TRIP: THERMTRIP_N is pulled low and holds the reset (R456, R460). -/
def thermalTrip (d : Dev) : Dev := (d.assertSource .tta 4).updPins fun p => { p with thermTripLow := true }

def execThermalTrip (s : State) := s.run thermalTrip

def execThermalTripClear (s : State) := s.run fun d => d.updPins fun p => { p with thermTripLow := false }

/-- BROWN_OUT; the TDU counts the LDO's in BOR_COUNT, since the last cold reset (R89). -/
def brownOut (p : Part) (d : Dev) : Dev :=
  let d := d.assertSource p 5
  match p with
  | .tta => d
  | .tdu => if d.get R.TDU_RST_CAUSE_LAST_LEVEL = 0 then d else d.bump R.TDU_AON_LDO_BOR_COUNT 1

def execBrownOut (p : Part) (s : State) := s.run (brownOut p)

/-- DEBUG_RESET: at the level instructed, L0 to L2 on the TTA and L0 or L1 on the TDU, unless the fuse disables it. -/
def debugReset (p : Part) (level : Nat) (d : Dev) : Dev :=
  match p with
  | .tta => if d.tta.fuses.debugEnable then d.assertReset .tta 6 level else d
  | .tdu => if d.tdu.fuses.debugEnable = true ∧ level ≤ 1 then d.assertReset .tdu 6 level else d

def execDebugReset (p : Part) (level : Fin 3) (s : State) := s.run (debugReset p level.val)

/-- The RESET message: L1 of the TDU, or L4 of one of its ports (R172, R455). -/
def resetMsg (level port : Nat) (d : Dev) : Nat × Dev :=
  if level = 1 then (0, d.assertReset .tdu 7 1)
  else if level = 4 ∧ port ≤ 1 then (0, (portReset (.tdu (Fin.ofNat 2 port)) d).rstCause .tdu 7 4)
  else (4, d)

/-- CONTROL_RESET. The acknowledgement of an L1 request is lost with the link. -/
def execControlReset (p : Fin 2) (h : Option RxHdr) (tag : BitVec 32) (ackReq : Bool) (level port : BitVec 8) (s : State) :=
  s.run fun d => d.control p h tag (ackReq && level != 1) (resetMsg level.toNat port.toNat)

/-! ## Release (R458, R465) -/

/-- The order that the TTA has reached. -/
def Dev.order (d : Dev) : Nat := d.get R.TTA_BOOT_STAT_ORDER

def Dev.setOrder (n : Nat) (d : Dev) : Dev := (d.updBoot fun b => { b with order := n }).set R.TTA_BOOT_STAT_ORDER n

/-- Order 3: a start begins (R466), in recovery mode when FAILS is 3 (R467). -/
def Dev.beginStart (d : Dev) : Dev :=
  let now := d.tta.time.base.tick
  let d := (d.updBoot fun b => { b with seq := none, starting := true, startTick := now, attempt := 0, fetching := false }).setOrder 3
  if d.get R.TTA_BOOT_STAT_FAILS = 3 then (d.setBit R.TTA_BOOT_STAT_RECOVERY true).event .tta 0 0x0004 [] else d

/-- A fetch attempt begins (R464). -/
def Dev.beginFetch (n : Nat) (d : Dev) : Dev := (d.updBoot fun b => { b with attempt := n, fetching := true }).emit .fetch

/-- The domains of an order of the TTA's start-up release, each after the one before. A thermal trip holds the reset. -/
def releaseTta (order : Nat) (twinSel : Bool) (d : Dev) : Dev :=
  let b := d.tta.boot
  if d.pins.thermTripLow then d else
  match order with
  | 1 =>
    if b.seq = some 0 ∧ d.order = 0 then
      (((d.updPins fun p => { p with twinSel := twinSel }).setBit R.TTA_POS_TWIN twinSel).setBit R.TTA_TIME_STAT_LEAD (!twinSel)).setOrder 1
    else d
  | 3 => if (b.seq = some 0 ∧ d.order = 2) ∨ (b.seq = some 1 ∧ d.order = 0) then d.beginStart else d
  | 4 =>
    if d.order = 3 then
      (d.setOrder 4).event .tta 0 0x0001 [d.get R.TTA_RST_CAUSE_LAST_LEVEL, d.get R.TTA_RST_CAUSE_LAST_SRC, d.get R.TTA_RST_CAUSE_SEEN,
        d.get R.TTA_BOOT_STAT_FAILS]
    else d
  | 5 => if d.order = 4 then (d.setOrder 5).beginFetch 1 else d
  | 7 => if d.order = 6 then (d.setOrder 7).avsRequest 1 (d.get R.TTA_AVS_CTL_BOUNDARY_MV) else d
  | 8 => if d.order = 7 then (d.setOrder 8).updBoot fun b => { b with sweep := true, sweepTest := true } else d
  | 9 => if d.order = 8 ∧ d.bit R.TTA_POS_LOCKED = true then d.setOrder 9 else d
  | 10 =>
    if d.order = 9 ∧ d.bit R.TTA_BOOT_CTL_TRAY_GO = true then ttaEnds.foldl (fun d e => d.startTraining e) (d.setOrder 10) else d
  | 11 => if d.order = 10 then (d.setOrder (if d.twinState = 0 then 12 else 11)).keeperCheck else d
  | _ => d

/-- The domains of an order of the TDU's start-up release. At order 7 both clock-good pins are high (log 61). -/
def releaseTdu (order : Nat) (d : Dev) : Dev :=
  let b := d.tdu.boot
  let reached (n : Nat) (d : Dev) : Dev := d.updTduBoot fun b => { b with order := max b.order n }
  match order with
  | 1 => if b.seq = some 0 ∧ b.order = 0 then reached 1 d else d
  | 2 =>
    if b.seq.isSome = true ∧ b.order = 1 ∧ b.loading = false ∧ d.bit R.TDU_FUSE_STAT_DONE = true then
      ((reached 2 d).set R.TDU_AON_LDO_MODE 1).set R.TDU_AON_LDO_MODE_ACK 1
    else d
  | 3 =>
    if b.seq.isSome = true ∧ b.order = 2 then
      let d := (reached 3 d).updTduBoot fun b => { b with seq := none }
      (tduEnds.foldl (fun d e => d.startTraining e) d).pmAct
    else d
  | 7 =>
    if b.order < 2 ∨ 2 ≤ d.dState then d else d.updSmp fun s => { s with hostReset := false, trcReset := false }
  | _ => d

/-- RESET_RELEASE. -/
def resetRelease (p : Part) (order : Nat) (twinSel : Bool) (d : Dev) : Dev :=
  match p with
  | .tta => releaseTta order twinSel d
  | .tdu => releaseTdu order d

def execResetRelease (p : Part) (order : Fin 14) (twinSel : Bool) (s : State) := s.run (resetRelease p order.val twinSel)

/-! ## Fuses and calibration (R461, R462) -/

/-- Every section re-read is an event 0x0010. -/
def Dev.fuseRetries (p : Part) (l : List (Fin 4)) (d : Dev) : Dev :=
  l.zipIdx.foldl (fun d x => (List.range (min 2 x.1.val)).foldl (fun d k => d.event p 0 0x0010 [x.2, k + 2]) d) d

/-- The last bytes of a set hold its CRC-32C. -/
def calCrcs (ws : List W64) : BitVec 32 × BitVec 32 :=
  let bs := (ws.map fun w => leBytes 8 w.toNat).flatten
  (BitVec.ofNat 32 (leAt bs 2044 4), crc32c (bs.take 2044))

/-- The calibration set is loaded: what was programmed, or the factory's. A set whose CRC fails, or whose programming was cut off, gives the ROM
defaults and event 0x0011. -/
def Dev.loadCal (l : FuseLoad) (d : Dev) : Dev :=
  let ws := d.tta.mtp.getD ((List.range 256).map Config.factoryCal)
  let (stored, computed) := match d.tta.mtp with
    | some ws => calCrcs ws
    | none => (l.calStored, l.calComputed)
  let bad := d.tta.mtpCut || stored != computed
  let d := ({ d with tta := { d.tta with cal := ws } }).showCal
  let d := (d.set R.TTA_AVS_CTL_BOUNDARY_MV l.boundaryMv.toNat).setBit R.TTA_BOOT_STAT_CAL_BAD bad
  if bad then d.event .tta 0 0x0011 [stored.toNat, computed.toNat] else d

/-- FUSE_LOAD_DONE: the shadow commits as one unit, or a section that failed its three reads sets FAIL. A blown fuse bit stays blown. -/
def fuseLoadDone (p : Part) (l : FuseLoad) (d : Dev) : Dev :=
  let retries := (l.failedReads.map fun k => min 2 k.val).sum
  let fail := l.failedReads.any fun k => k.val == 3
  match p with
  | .tta =>
    if d.tta.boot.loadRuns = false then d else
    let d := ((d.updBoot fun b => { b with loading := false }).set R.TTA_FUSE_STAT_RETRIES (min 65535 retries)).fuseRetries .tta l.failedReads
    if fail then d.setBit R.TTA_FUSE_STAT_FAIL true else
    let sec := if d.tta.fuses.secFuse.toNat < l.contents.secFuse.toNat then l.contents.secFuse else d.tta.fuses.secFuse
    let d := { d with tta := { d.tta with fuses := { l.contents with secFuse := sec } } }
    (((d.setBit R.TTA_FUSE_STAT_DONE true).set R.TTA_FW_VER_SEC_FUSE sec.toNat).setOrder 2).loadCal l
  | .tdu =>
    if d.tdu.boot.loadRuns = false then d else
    let d := ((d.updTduBoot fun b => { b with loading := false }).set R.TDU_FUSE_STAT_RETRIES (min 65535 retries)).fuseRetries .tdu l.failedReads
    if fail then d.setBit R.TDU_FUSE_STAT_FAIL true
    else { d with tdu := { d.tdu with fuses := l.contents } }.setBit R.TDU_FUSE_STAT_DONE true

def execFuseLoadDone (p : Part) (l : FuseLoad) (s : State) := s.run (fuseLoadDone p l)

/-- CAL_PROGRAM: the factory's values are lost once programming starts; past the 100th it only sets WORN. -/
def calProgram (key : BitVec 16) (d : Dev) : Dev :=
  if key ≠ 0xCA1B ∨ d.bit R.TTA_CAL_STAT_BUSY = true then d
  else if 100 ≤ d.get R.TTA_CAL_STAT_PROGRAMS then d.setBit R.TTA_CAL_STAT_WORN true
  else
    let ws := (List.range 256).map fun i => d.word .tta (R.TTA_CAL_DATA.base + 8 * i)
    let d := { d with tta := { d.tta with mtp := some ws, mtpCut := true } }
    (d.setBit R.TTA_CAL_STAT_BUSY true).bump R.TTA_CAL_STAT_PROGRAMS 1

def execCalProgram (key : BitVec 16) (s : State) := s.run (calProgram key)

/-- CAL_PROGRAM_DONE: event 0x0012. -/
def calProgramDone (d : Dev) : Dev :=
  if d.bit R.TTA_CAL_STAT_BUSY = false then d else
  let d := { d with tta := { d.tta with mtpCut := false } }
  (d.setBit R.TTA_CAL_STAT_BUSY false).event .tta 0 0x0012 [d.get R.TTA_CAL_STAT_PROGRAMS]

def execCalProgramDone (s : State) := s.run calProgramDone

/-! ## Firmware (R463, R464) -/

/-- The first check that an image fails. -/
def FwImage.refusedBy (i : FwImage) (secFuse : Nat) : Option Nat :=
  if i.formOk = false ∨ i.bodyBytes < 1 ∨ 3145472 < i.bodyBytes then some 1
  else if i.keyOk = false then some 2
  else if i.sigOk = false then some 3
  else if i.hashOk = false then some 4
  else if i.secVersion.toNat < secFuse then some 5
  else none

/-- Records that wait are stored (before the TTA resets itself, R466). -/
def Dev.storeAllTta (d : Dev) : Dev :=
  d.tta.recorder.queue.foldl (fun d _ => match nextRec d.tta.recorder.queue with
    | none => d
    | some q => (d.setRecd .tta { d.tta.recorder with queue := d.tta.recorder.queue.erase q }).takeRec .tta q) d

/-- The TTA performs an L1 reset itself, with source code 3. -/
def Dev.selfReset (d : Dev) : Dev := ((d.storeAllTta).updBoot fun b => { b with starting := false }).assertReset .tta 3 1

/-- The fetch has failed or its image was refused: a failed start, or in recovery mode the wait for the next fetch. -/
def Dev.fetchOver (reason : Nat) (d : Dev) : Dev :=
  let d := d.updBoot fun b => { b with fetching := false, attempt := 0 }
  if d.bit R.TTA_BOOT_STAT_RECOVERY then d else (d.startFailed reason).selfReset

/-- An attempt failed: event 0x0020; the third ends the fetch. -/
def Dev.attemptFailed (why : Nat) (d : Dev) : Dev :=
  let n := d.tta.boot.attempt
  let d := (d.updBoot fun b => { b with fetching := false }).event .tta 0 0x0020 [n, why]
  if 3 ≤ n then d.fetchOver 2 else d

/-- An image that passed: firmware runs (order 6); in recovery mode FAILS becomes 2 and the TTA resets itself. -/
def Dev.imageAccepted (i : FwImage) (d : Dev) : Dev :=
  let d := (d.updBoot fun b => { b with fetching := false, attempt := 0 }).event .tta 0 0x0022 [i.fwVersion.toNat, i.secVersion.toNat]
  if d.bit R.TTA_BOOT_STAT_RECOVERY then (d.set R.TTA_BOOT_STAT_FAILS 2).selfReset else
  let d := (d.set R.TTA_FW_VER_FW_VERSION i.fwVersion.toNat).set R.TTA_FW_VER_SEC_VERSION i.secVersion.toNat
  (((d.set R.TTA_CAPS_LINK_VER i.linkVer.toNat).set R.TTA_CAPS_TWIN_VER i.twinVer.toNat).set R.TTA_CAPS_WRN_VER i.wrnVer.toNat).setOrder 6

/-- FETCH_ATTEMPT_DONE. -/
def fetchAttemptDone (r : FetchResult) (d : Dev) : Dev :=
  if d.tta.boot.fetching = false then d else
  match r with
  | .failed why => d.attemptFailed why.val
  | .image i =>
    match i.refusedBy d.tta.fuses.secFuse.toNat with
    | some n => (d.event .tta 0 0x0021 [n]).fetchOver 3
    | none => d.imageAccepted i

def execFetchAttemptDone (r : FetchResult) (s : State) := s.run (fetchAttemptDone r)

def execFetchAttemptTimeout (s : State) := s.run fun d => if d.tta.boot.fetching then d.attemptFailed 3 else d

/-- FETCH_RETRY: the next attempt. -/
def fetchRetry (d : Dev) : Dev :=
  let b := d.tta.boot
  if b.fetching = false ∧ 1 ≤ b.attempt ∧ b.attempt < 3 then d.beginFetch (b.attempt + 1) else d

def execFetchRetry (s : State) := s.run fetchRetry

/-- RECOVERY_FETCH: the fetch of R464 again (R467). -/
def recoveryFetch (d : Dev) : Dev :=
  if d.bit R.TTA_BOOT_STAT_RECOVERY = true ∧ d.tta.boot.fetching = false ∧ d.tta.boot.attempt = 0 ∧ d.order = 5 then d.beginFetch 1 else d

def execRecoveryFetch (s : State) := s.run recoveryFetch

/-- START_TIMER_EXPIRY; the timer does not run in recovery mode (R466). -/
def startTimerExpiry (d : Dev) : Dev :=
  if d.tta.boot.starting = true ∧ d.bit R.TTA_BOOT_STAT_RECOVERY = false then (d.startFailed 1).selfReset else d

def execStartTimerExpiry (s : State) := s.run startTimerExpiry

/-! ## What firmware writes -/

/-- BOOT_OK: the start is complete (R465). -/
def bootOk (d : Dev) : Dev :=
  if d.tta.boot.starting = false ∨ d.order < 6 then d else
  let ms := (d.tta.time.base.tick - d.tta.boot.startTick) / 1000000
  let d := d.updBoot fun b => { b with starting := false }
  let d := ((if 11 ≤ d.order then d.setOrder 13 else d).setBit R.TTA_BOOT_STAT_BOOTED true).set R.TTA_BOOT_STAT_FAILS 0
  d.event .tta 0 0x0002 [d.get R.TTA_FW_VER_FW_VERSION, ms]

def execBootOk (s : State) := s.run bootOk

/-- TRAY_GO: the domains release at order 10. -/
def execTrayGo (s : State) := s.run fun d => d.setBit R.TTA_BOOT_CTL_TRAY_GO true

/-- ROLL_FWD: after BOOT_OK, fuse bits are blown up to the image's SEC_VERSION. -/
def rollFwd (key : BitVec 16) (d : Dev) : Dev :=
  if key ≠ 0x5EC5 ∨ d.bit R.TTA_BOOT_STAT_BOOTED = false then d else
  let n := max d.tta.fuses.secFuse.toNat (d.get R.TTA_FW_VER_SEC_VERSION)
  ({ d with tta := { d.tta with fuses := { d.tta.fuses with secFuse := BitVec.ofNat 8 n } } }).set R.TTA_FW_VER_SEC_FUSE n

def execRollFwd (key : BitVec 16) (s : State) := s.run (rollFwd key)

/-! ## Training and the ready sweep (R207, R459) -/

/-- MEM_TRAINING_DONE: channels that fail are retired. -/
def memTrainingDone (failed : BitVec 64) (d : Dev) : Dev :=
  if d.order ≠ 7 then d else (List.range 64).foldl (fun d ch => if failed.getLsbD ch then d.retireChannel ch 0 else d) d

def execMemTrainingDone (failed : BitVec 64) (s : State) := s.run (memTrainingDone failed)

/-- READY_SWEEP_DONE: a cluster without its token is retired with the cause ring failure; after a start a tile that fails its test is retired; an L2
reset ends in JOINING. -/
def readySweepDone (missing failed : List Nat) (d : Dev) : Dev :=
  if d.tta.boot.sweep = false then d else
  let test := d.tta.boot.sweepTest
  let d := d.updBoot fun b => { b with sweep := false, sweepTest := false }
  let d := missing.foldl (fun d c => d.retireCluster c 0) d
  let d := if test then failed.foldl (fun d t => d.retireTile t 2) d else d
  if d.tta.boot.seq = some 2 then (d.updBoot fun b => { b with seq := none }).startJoining false else d

def execReadySweepDone (missing : List (Fin 640)) (failed : List (Fin 10240)) (s : State) :=
  s.run (readySweepDone (missing.map (·.val)) (failed.map (·.val)))

/-! ## TDISP (R425) -/

/-- TDISP_REQUEST (log 63): LOCK and START move CONFIG_UNLOCKED to CONFIG_LOCKED to RUN, STOP leads back, an error of a locked TDI to ERROR. -/
def tdispRequest (n : Nat) (r : TdispReq) (d : Dev) : Dev :=
  if n = 0 then d else
  let fn : Fn := .vf (Fin.ofNat 256 n)
  let st := (d.fnq fn).tdi
  let new := match r with
    | .lock => if st = 0 then 1 else st
    | .start => if st = 1 then 2 else st
    | .stop => 0
    | .error => if st = 1 ∨ st = 2 then 3 else st
  d.updFnq fn fun q => { q with tdi := new }

def execTdispRequest (n : Fin 256) (r : TdispReq) (s : State) := s.run (tdispRequest n.val r)

end Sys2Proof.Machine
end

