-- ==== Sys2Proof/Machine/RegWrite.lean ====
section
/-! DEFINITION. Register accesses (R84, R488 to R496): what a write by each requester changes, what a read returns, and the registers whose write is an
operation of its own. -/
namespace Sys2Proof.Machine

/-! ## Enabled fields (R489) -/

/-- Every byte that the field touches is enabled. -/
def fldOn (be : BitVec 8) (f : FldRow) : Bool := (List.range 8).all fun b => b < f.lo / 8 || f.hi / 8 < b || be.getLsbD b

/-- The bits of the enabled fields of a register whose access code meets a condition. -/
def onMask (r : RegRow) (be : BitVec 8) (p : Acc → Bool) : Nat := accMask { r with fields := r.fields.filter (fldOn be) } p

/-- The bytes of a word that the byte enables select. -/
def beMask (be : BitVec 8) : W64 :=
  BitVec.ofNat 64 ((List.range 8).map fun b => if be.getLsbD b then 255 * 256 ^ b else 0).sum

/-- Software writes the field. -/
def writable (c : Acc) : Bool := c == .rw || c == .rws || c == .wo

/-- The value of a field in a write, when the field is enabled. -/
def given (on : Nat) (v : W64) (f : Fld) : Option Nat := if on.testBit f.lo then some (f.read v) else none

/-- The field is written as 1. -/
def givenOne (on : Nat) (v : W64) (f : Fld) : Bool := given on v f == some 1

/-! ## Registers with an operation of their own -/

/-- TTA_POS (R495). -/
def Dev.posPut (on : Nat) (v : W64) (d : Dev) : Dev :=
  let pod := given on v R.TTA_POS_POD
  let tray := given on v R.TTA_POS_TRAY
  if d.bit R.TTA_POS_LOCKED then (if pod.isSome || tray.isSome then d.bump R.TTA_REG_ERR_LOCKED 1 else d) else
  let d := d.set R.TTA_POS_POD (pod.getD (d.get R.TTA_POS_POD))
  let d := d.set R.TTA_POS_TRAY (tray.getD (d.get R.TTA_POS_TRAY))
  if givenOne on v R.TTA_POS_COMMIT = false then d else
  let d := d.setBit R.TTA_POS_LOCKED true
  if d.order = 8 then d.setOrder 9 else d

/-- POS_WRITE, by the PF or the Lodge alike. -/
def execPosWrite (_pf : Bool) (v : W64) (s : State) := s.run fun d => d.posPut (2 ^ 64 - 1) v

/-- TTA_COMPAT was written (R496): every TDU whose link is UP gets the value. -/
def Dev.compatSent (d : Dev) : Dev := d.controlAll d.compatMsg

/-- COMPAT_WRITE. -/
def compatWrite (v : W64) (d : Dev) : Dev := (d.setWord .tta R.TTA_COMPAT.base (v &&& 7)).compatSent

def execCompatWrite (v : W64) (s : State) := s.run (compatWrite v)

/-- The bridge goes on from its value now at the new slew rate (R144). -/
def Dev.reSlew (d : Dev) : Dev :=
  let b := d.tta.time.base
  d.setTb .tta { b with bridge := { amt := b.bridge.left b.forceT, fromT := b.forceT, ppm := d.slewPpm }
                        own := { amt := b.ownLeft, fromT := b.forceT, ppm := d.slewPpm } }

/-- TL_CTL of a port. -/
def Dev.linkCtl (e : LinkEnd) (on : Nat) (v : W64) (d : Dev) : Dev :=
  let f (x : Fld) : Fld := { x with addr := 0 }
  let d := if givenOne on v (f R.TTA_TL_CTL_RETIRE_CLR) then d.updPort e fun l => { l with clrPending := true } else d
  let d := match given on v (f R.TTA_TL_CTL_ENABLE) with
    | some en => if (en == 1) == d.bit (tlEnable e) && en == 0 then d else linkEnable e (en == 1) d
    | none => d
  let d := if givenOne on v (f R.TTA_TL_CTL_RETRAIN) then d.enterRetrain e 0 else d
  match e with
  | .tta _ => d.mirrorsDown
  | .tdu _ => d

/-- TTA_WM_CFG (R214): from the next whole second on both twins; the lead sends the value, and a paired follower's own has no effect. -/
def Dev.wmWritten (d : Dev) : Dev :=
  let w := d.word .tta R.TTA_WM_CFG.base
  if d.paired = true ∧ d.leads = false then d
  else (d.updIng fun i => { i with nextWm := some w }).sendRole (.wmCfg w)

/-- TTA_TILE_ERR (R231): 1 clears bits of the selected tile's counts. -/
def Dev.tileErrClear (on : Nat) (v : W64) (d : Dev) : Dev :=
  let clr (f : Fld) (n : Nat) : Nat := match given on v f with
    | some x => n &&& (2 ^ 64 - 1 - x)
    | none => n
  d.updTile (min 10239 (d.get R.TTA_TILE_SEL_TILE)) fun t =>
    { t with ce := clr R.TTA_TILE_ERR_CE t.ce, ue := clr R.TTA_TILE_ERR_UE t.ue, addrFault := clr R.TTA_TILE_ERR_ADDR_FAULT t.addrFault
             codeUe := clr R.TTA_TILE_ERR_CODE_UE t.codeUe }

/-- REC_CTL and SNAP_CTL of a part. -/
def Dev.recCtl (p : Part) (on : Nat) (v : W64) (d : Dev) : Dev :=
  let d := if givenOne on v R.TTA_REC_CTL_PERM_CLR then permClr p d else d
  match given on v R.TTA_REC_CTL_FREEZE with
  | some x => if (x == 1) == d.bit (recFrozen p) then d else freeze p (x == 1) d
  | none => d

def Dev.snapCtl (p : Part) (on : Nat) (v : W64) (d : Dev) : Dev :=
  let d := if givenOne on v R.TTA_SNAP_CTL_TRIG then d.snapTrigger p 0 0 else d
  if p = .tta ∧ givenOne on v R.TTA_SNAP_CTL_ARM_AT = true then d.snapTrigger .tta 1 (d.get R.TTA_SNAP_AT_NS) else d

/-- BOOT_CTL beside TRAY_GO, which is a plain field. -/
def Dev.bootCtl (on : Nat) (v : W64) (d : Dev) : Dev :=
  let key := BitVec.ofNat 16 ((given on v R.TTA_BOOT_CTL_KEY).getD 0)
  let d := if givenOne on v R.TTA_BOOT_CTL_ROLL_FWD then rollFwd key d else d
  if givenOne on v R.TTA_BOOT_CTL_BOOT_OK then bootOk d else d

/-- A domain from its entry number. -/
def domOf (i : Nat) : Dom := if i = 0 then .a else .b

/-- A write to a ring block, after its plain fields. -/
def Dev.ringCfg (fn : Fn) (r : Nat) (on : Nat) (v : W64) (d : Dev) : Dev :=
  match given on v { qEn fn r with addr := 0 } with
  | some x => qEnable fn (Fin.ofNat 64 r) (x == 1) d
  | none => d

/-- What a write to a register of the PF map does beside its plain fields. -/
def Dev.ownPf (base i on : Nat) (v : W64) (d : Dev) : Dev :=
  let key (f : Fld) : BitVec 16 := BitVec.ofNat 16 ((given on v f).getD 0)
  if base = R.TTA_POS.base then d.posPut on v
  else if base = R.TTA_COMPAT.base then d.compatSent
  else if base = R.TTA_RST_CTL.base then rstReq (v &&& BitVec.ofNat 64 on) d
  else if base = R.TTA_BOOT_CTL.base then d.bootCtl on v
  else if base = R.TTA_CAL_CTL.base then (if givenOne on v R.TTA_CAL_CTL_PROGRAM then calProgram (key R.TTA_CAL_CTL_KEY) d else d)
  else if base = R.TTA_PWR_CTL.base then pwrGo (v &&& BitVec.ofNat 64 on) d
  else if base = R.TTA_PWR_WAKE.base then pwrWakeWrite (BitVec.ofNat 17 ((given on v R.TTA_PWR_WAKE_PORT).getD 0)) d
  else if base = R.TTA_AVS_CTL.base then (if givenOne on v R.TTA_AVS_CTL_AVS_CLR then d.setBit R.TTA_AVS_STAT_AVS_FAIL false else d)
  else if base = R.TTA_TIME_CTL.base then
    let d := if (given on v R.TTA_TIME_CTL_SLEW_PPM).isSome then d.reSlew else d
    if givenOne on v R.TTA_TIME_CTL_AUTO then d.autoSwitch else d
  else if base = R.TTA_TIME_SWITCH.base then
    (if givenOne on v R.TTA_TIME_SWITCH_GO then timeSwitchRequest (domOf ((given on v R.TTA_TIME_SWITCH_TARGET).getD 0)) d else d)
  else if base = R.TTA_TIME_DOM_CTL.base then
    (match given on v R.TTA_TIME_DOM_CTL_CMD with
     | some 1 => domCmdLocked (domOf i) d
     | some 2 => domCmdHoldover (domOf i) d
     | _ => d)
  else if base = R.TTA_TIME_RATE.base then
    (match given on v R.TTA_TIME_RATE_RATE with
     | some x => timeRateWrite (domOf i) (BitVec.ofNat 32 x) d
     | none => d)
  else if base = R.TTA_TIME_SET_FRAC.base then
    (match given on v R.TTA_TIME_SET_FRAC_FRAC with
     | some x => d.set (R.TTA_TIME_SET_FRAC_FRAC.at i) x
     | none => d)
  else if base = R.TTA_TIME_SET_NS.base then (if on.testBit 0 then timeSet (domOf i) v d else d)
  else if base = R.TTA_TIME_STEP.base then (if on.testBit 0 then timeStep (domOf i) v d else d)
  else if base = R.TTA_TL_CTL.base then d.linkCtl (ttaEnd i) on v
  else if base = R.TTA_TWL_CTL.base then d.linkCtl (ttaEnd 16) on v
  else if base = R.TTA_EGR_SLOT_CTL.base then (if givenOne on v R.TTA_EGR_SLOT_CTL_COMMIT then slotTableCommit d else d)
  else if base = R.TTA_WM_CFG.base then d.wmWritten
  else if base = R.TTA_TILE_ERR.base then d.tileErrClear on v
  else if base = R.TTA_DIE_STATE.base then (if givenOne on v R.TTA_DIE_STATE_CLEAR then dieStateClear i d else d)
  else if base = R.TTA_CHK_CFG.base then
    (if (given on v R.TTA_CHK_CFG_K_CAP).isSome then d.diesUp.foldl (fun d die => d.sendKCap die) d else d)
  else if base = R.TTA_RPT_KEY.base then (if on.testBit 0 then rptKeyWrite i v d else d)
  else if base = R.TTA_TDU_MIRROR.base then (if (given on v R.TTA_TDU_MIRROR_PORT).isSome then tduMirrorWrite v d else d)
  else if base = R.TTA_CMP_RING_CFG.base then
    (match given on v R.TTA_CMP_RING_CFG_ENABLE with
     | some x => cmpEnable (x == 1) d
     | none => d)
  else if base = R.TTA_CMP_DB.base then
    (match given on v R.TTA_CMP_DB_INDEX with
     | some x => cmpDoorbell x d
     | none => d)
  else if base = R.TTA_REC_CTL.base then d.recCtl .tta on v
  else if base = R.TTA_REC_SEL.base then recSel .tta (d.word .tta base) d
  else if base = R.TTA_SNAP_CTL.base then d.snapCtl .tta on v
  else if base = R.TTA_SETT_PKEY.base then
    (if givenOne on v R.TTA_SETT_PKEY_GENERATE then
       let (w, d) := d.free
       pkeyGenerate (key R.TTA_SETT_PKEY_KEY) (w.getLsbD 0) d
     else d)
  else if base = R.PF_Q_CFG.base then d.ringCfg .pf i on v
  else if base = R.LODGE_Q_CFG.base then d.ringCfg .lodge i on v
  else if base = R.PF_Q_DB.base then (if on.testBit 0 then doorbell .pf (Fin.ofNat 64 i) (BitVec.ofNat 16 v.toNat) d else d)
  else if base = R.LODGE_Q_DB.base then (if on.testBit 0 then doorbell .lodge (Fin.ofNat 64 i) (BitVec.ofNat 16 v.toNat) d else d)
  else d

/-- Bits of a PF map register whose write is left to `ownPf`. -/
def ownBitsPf (base : Nat) : Nat :=
  if base = R.TTA_POS.base ∨ base = R.TTA_TIME_RATE.base ∨ base = R.TTA_TILE_ERR.base ∨ base = R.TTA_TDU_MIRROR.base then 2 ^ 64 - 1
  else if base = R.TTA_TL_CTL.base ∨ base = R.TTA_TWL_CTL.base then 2 ^ R.TTA_TL_CTL_ENABLE.lo
  else if base = R.TTA_CMP_RING_CFG.base then 2 ^ R.TTA_CMP_RING_CFG_ENABLE.lo
  else if base = R.TTA_REC_CTL.base then 2 ^ R.TTA_REC_CTL_FREEZE.lo
  else if base = R.PF_Q_CFG.base ∨ base = R.LODGE_Q_CFG.base then 2 ^ 63
  else 0

/-- The registers of a ring that runs (R414). -/
def Dev.ringRuns (fn : Fn) (r : Nat) (d : Dev) : Bool := d.bit (qEn fn r)

/-- The BUF_BYTES bits, RO 0 on rings that hold no commands. -/
def noBuf (fn : Fn) (r : Nat) : Nat := if ringCmd fn r then 0 else 0xFFFFFF * 2 ^ 32

/-- RW bits of a PF map register that a write cannot change now: a ring that runs (R414), the compression ring base (R440), a slot table commit
that is pending (R194), a calibration set being programmed (R462). -/
def Dev.heldBitsPf (base i : Nat) (d : Dev) : Nat :=
  let all := 2 ^ 64 - 1
  let ring (fn : Fn) (cfg : Bool) : Nat := if d.ringRuns fn i then all else if cfg then noBuf fn i else 0
  if base = R.PF_Q_BASE.base then ring .pf false
  else if base = R.PF_Q_CFG.base then ring .pf true
  else if base = R.LODGE_Q_BASE.base then ring .lodge false
  else if base = R.LODGE_Q_CFG.base then ring .lodge true
  else if base = R.TTA_CMP_RING_BASE.base then (if d.bit R.TTA_CMP_RING_CFG_ENABLE then all else 0)
  else if base = R.TTA_EGR_SLOT.base then (if d.bit R.TTA_EGR_SLOT_CTL_PENDING then all else 0)
  else if base = R.TTA_CAL_DATA.base then (if d.bit R.TTA_CAL_STAT_BUSY then all else 0)
  else 0

/-- The offset holds a register of the PF map. -/
def pfRow (a : Nat) : Option (RegRow × Nat) :=
  match findRow R.pfRows a with
  | none => none
  | some (r, i) =>
    if (r.base = R.PF_Q_BASE.base ∨ r.base = R.PF_Q_CFG.base ∨ r.base = R.PF_Q_IDX.base ∨ r.base = R.PF_Q_STAT.base ∨ r.base = R.PF_Q_DB.base) ∧
        ringExists .pf i = false then none
    else some (r, i)

/-- Change the plain fields of a register at address `a` of a file: RW fields take the value, RW1C bits written as 1 are cleared. -/
def Dev.plainWrite (sp : Space) (a : Nat) (rw w1c : Nat) (v : W64) (d : Dev) : Dev :=
  let m := BitVec.ofNat 64 rw
  d.setWord sp a ((d.word sp a &&& ~~~m &&& ~~~(BitVec.ofNat 64 w1c &&& v)) ||| (v &&& m))

/-! ## The PF map (R489, R490, R493) -/

/-- The Lodge rings and doorbells. -/
def lodgeRegion (a : Nat) : Bool := decide (0x163000 ≤ a ∧ a < 0x164000)

/-- The registers whose RW and WO fields the PF may write (R493), with the MSI-X table that PCIe gives it (log 64). -/
def pfMayWrite (a : Nat) : Bool :=
  a == R.TTA_POS.base || decide (0x40000 ≤ a ∧ a < 0x50000) || decide (R.TTA_DIE_STATE.base ≤ a ∧ a < R.TTA_DIE_STATE.base + 128) ||
  a == R.TTA_COARSE_CTL.base || a == R.TTA_RPT_CFG.base || a == R.TTA_RPT_DEST_HI.base || a == R.TTA_RPT_DEST_LO.base ||
  decide (0x130000 ≤ a ∧ a < 0x150000) || (decide (0x160000 ≤ a ∧ a < 0x170000) && !lodgeRegion a) || decide (0x1F0000 ≤ a)

/-- A write to the PF map by the Lodge, or by the PF within its limits. -/
def Dev.writePf (pf : Bool) (a : Nat) (be : BitVec 8) (v : W64) (d : Dev) : Dev :=
  match pfRow a with
  | none => d.bump R.TTA_REG_ERR_ABSENT 1
  | some (r, i) =>
    let may := !pf || pfMayWrite a
    let wr := onMask r be writable
    let d := if may = false ∧ wr ≠ 0 then d.bump R.TTA_REG_ERR_PF_DENIED 1 else d
    let w1c := if pf && lodgeRegion a then 0 else onMask r be fun c => c == .rw1c
    let on := (if may then wr else 0) ||| w1c
    if on = 0 then d else
    let held := d.heldBitsPf r.base i
    let own := ownBitsPf r.base
    let refused : Bool := r.base = R.TTA_EGR_SLOT.base && held != 0
    let rw := if may then onMask r be fun c => c == .rw || c == .rws else 0
    let free (m k : Nat) : Nat := m - (m &&& k)
    let d := if refused then d.bump R.TTA_EGR_SLOT_CTL_SHADOW_REFUSED 1 else d
    let d := d.plainWrite .tta a (free (free rw own) held) (free w1c own) v
    d.ownPf r.base i on v

/-! ## The VF map -/

/-- The file address of a VF map offset. -/
def vfAddr (n a : Nat) : Nat := ((⟨.vf, a, 63, 0, 8⟩ : Fld).ofVf n).addr

/-- A write by the holder of VF n. -/
def Dev.writeVf (n : Nat) (a : Nat) (be : BitVec 8) (v : W64) (d : Dev) : Dev :=
  if n = 0 then d else
  match findRow R.vfRows a with
  | none => d.bump R.TTA_REG_ERR_ABSENT 1
  | some (r, i) =>
    let fn : Fn := .vf (Fin.ofNat 256 n)
    let on := onMask r be fun c => writable c || c == .rw1c
    let cfg := r.base = R.VF_Q_CFG.base
    let held := if (r.base = R.VF_Q_BASE.base ∨ cfg) ∧ d.ringRuns fn i = true then 2 ^ 64 - 1 else if cfg then noBuf fn i ||| 2 ^ 63 else 0
    let rw := onMask r be fun c => c == .rw || c == .rws
    let d := d.plainWrite .vf (vfAddr n a) (rw - (rw &&& held)) (onMask r be fun c => c == .rw1c) v
    if cfg then d.ringCfg fn i on v
    else if r.base = R.VF_Q_DB.base ∧ on.testBit 0 = true then doorbell fn (Fin.ofNat 64 i) (BitVec.ofNat 16 v.toNat) d
    else d

/-! ## The TDU window (R84) -/

/-- What a write to a register of the TDU window does beside its plain fields. -/
def Dev.ownTdu (base i on : Nat) (v : W64) (d : Dev) : Dev :=
  if base = R.TDU_TL_CTL.base then d.linkCtl (.tdu (Fin.ofNat 2 i)) on v
  else if base = R.TDU_CNT_GROUP.base then cntGroupWrite (Fin.ofNat 256 i) (maskPut (d.word .tdu (base + 8 * i)) (BitVec.ofNat 64 on) v) d
  else if base = R.TDU_TRC_TRIG.base then
    let mask := (given on v R.TDU_TRC_TRIG_SLOT_MASK).getD 0
    let go (start : Bool) (d : Dev) : Dev := d.raiseTrig { slots := mask, start := start, stop := !start, cause := 0, origin := none }
    let d := if givenOne on v R.TDU_TRC_TRIG_START then go true d else d
    if givenOne on v R.TDU_TRC_TRIG_STOP then go false d else d
  else if base = R.TDU_CHK_TEST.base then (if givenOne on v R.TDU_CHK_TEST_BIN_CLR then binClr d else d)
  else if base = R.TDU_CHK_UNIT.base then (if givenOne on v R.TDU_CHK_UNIT_CLEAR then unitClear d else d)
  else if base = R.TDU_REC_CTL.base then d.recCtl .tdu on v
  else if base = R.TDU_REC_SEL.base then recSel .tdu (d.word .tdu base) d
  else if base = R.TDU_SNAP_CTL.base then d.snapCtl .tdu on v
  else if base = R.TDU_Q_CFG.base then d.ringCfg .tdu i on v
  else if base = R.TDU_Q_DB.base then (if on.testBit 0 then doorbell .tdu (Fin.ofNat 64 i) (BitVec.ofNat 16 v.toNat) d else d)
  else d

/-- RW bits of the window that a write leaves to `ownTdu`, or cannot change now: a ring that runs (R414), the spill ring while sampling is enabled
(R115). -/
def Dev.heldBitsTdu (base i : Nat) (d : Dev) : Nat :=
  let all := 2 ^ 64 - 1
  if base = R.TDU_TL_CTL.base then 2 ^ R.TDU_TL_CTL_ENABLE.lo
  else if base = R.TDU_CNT_GROUP.base then all
  else if base = R.TDU_REC_CTL.base then 2 ^ R.TDU_REC_CTL_FREEZE.lo
  else if base = R.TDU_Q_BASE.base then (if d.ringRuns .tdu i then all else 0)
  else if base = R.TDU_Q_CFG.base then (if d.ringRuns .tdu i then all else noBuf .tdu i ||| 2 ^ 63)
  else if base = R.TDU_SPILL_BASE.base ∨ base = R.TDU_SPILL_CFG.base then (if d.bit R.TDU_SMP_CFG_ENABLE then all else 0)
  else 0

/-- A write to the TDU window. -/
def Dev.writeTdu (a : Nat) (be : BitVec 8) (v : W64) (d : Dev) : Dev :=
  match findRow R.tduRows a with
  | none => d.bump R.TDU_REG_ERR_ABSENT 1
  | some (r, i) =>
    let on := onMask r be fun c => writable c || c == .rw1c
    let rw := onMask r be fun c => c == .rw || c == .rws
    let held := d.heldBitsTdu r.base i
    let d := d.plainWrite .tdu a (rw - (rw &&& held)) (onMask r be fun c => c == .rw1c) v
    if on = 0 then d else d.ownTdu r.base i on v

/-! ## Reads (R275, R489, R490, R493) -/

/-- The bits that a read shows: no WO field, no reserved bit. -/
def readMask (r : RegRow) : W64 := BitVec.ofNat 64 (accMask r fun c => c != .wo)

/-- A sync object as the PF or the Lodge sees it. -/
def syncView (pf : Bool) (w : W64) : W64 :=
  let id := w &&& BitVec.ofNat 64 (0x3FF * 2 ^ 54)
  if pf then id
  else if R.TTA_SYNC_SLOT.read w = 0 then w
  else if R.TTA_SYNC_TYPE.read w = 3 then id ||| (w &&& 3#64)
  else id

/-- What the PF is not shown: the cross-allotment counters and the Lodge's rings, directly or in a snapshot. -/
def pfHidden (a : Nat) : Bool := decide (0x150000 ≤ a ∧ a < 0x160000) || lodgeRegion a

/-- What a read of the PF map returns; 0 where there is no register. -/
def Dev.readPf (pf : Bool) (a : Nat) (d : Dev) : W64 :=
  match pfRow a with
  | none => 0
  | some (r, _) =>
    if pf = true ∧ (pfHidden a = true ∨ (a = R.TTA_SNAP_DATA.base ∧ pfHidden (8 * d.get R.TTA_SNAP_SEL_OFFSET) = true)) then 0
    else if 0x80000 ≤ a ∧ a < 0x100000 then syncView pf (d.word .tta a)
    else d.viewPf a &&& readMask r

/-- What a read of the VF map of VF n returns to its holder. -/
def Dev.readVf (n a : Nat) (d : Dev) : W64 :=
  match findRow R.vfRows a with
  | none => 0
  | some (r, _) => d.viewVf n a &&& readMask r

/-- What a read of the TDU window returns. -/
def Dev.readTdu (a : Nat) (d : Dev) : W64 :=
  match findRow R.tduRows a with
  | none => 0
  | some (r, _) => d.viewTdu a &&& readMask r

/-! ## The commands -/

/-- REGISTER_WRITE: the enabled bytes of a register. -/
def registerWrite (space : RegSpace) (off : Nat) (be : BitVec 8) (v : W64) (d : Dev) : Dev :=
  let a := off / 8 * 8
  match space with
  | .pf => d.writePf true a be v
  | .lodge => d.writePf false a be v
  | .vf n => d.writeVf n.val (a % 0x10000) be v

def execRegisterWrite (space : RegSpace) (off : BitVec 21) (be : BitVec 8) (v : W64) (s : State) :=
  s.run (registerWrite space off.toNat be v)

/-- REG_PORT_REQUEST: refused and counted with REG_PRIV low; the port takes no request while the host-main domain is in reset or the TDU is in D2 or D3
(log 64). An absent offset reads 0 and counts. -/
def regPortRequest (write priv : Bool) (addr : Nat) (be : BitVec 8) (v : W64) (d : Dev) : Dev :=
  let a := addr / 8 * 8
  if d.tdu.smp.hostReset = true ∨ 2 ≤ d.dState then d
  else if priv = false then (d.own 30 1).emit (.regAnswer 0 true)
  else if write then (d.writeTdu a be v).emit (.regAnswer 0 false)
  else
    let d' := if (findRow R.tduRows a).isNone then d.bump R.TDU_REG_ERR_ABSENT 1 else d
    d'.emit (.regAnswer (d.readTdu a &&& beMask be) false)

def execRegPortRequest (write : Bool) (priv : Bool) (addr : BitVec 16) (be : BitVec 8) (v : W64) (s : State) :=
  s.run (regPortRequest write priv addr.toNat be v)

end Sys2Proof.Machine
end

