-- ==== Sys2Proof/Machine/Dispatch.lean ====
section
/-! DEFINITION. The dispatch of the commands: one arm per constructor of `Instr`, each one direct call of its meaning. -/
namespace Sys2Proof.Machine

/-- The effect of a command on everything but the queue. -/
def exec (i : Instr) (s : State) : Host.Outcome State Fault Refusal :=
  match i with
  | .nop t f x => Sys2Proof.Machine.execNop t f x s
  | .add t f x => Sys2Proof.Machine.execAdd t f x s
  | .sub t f x => Sys2Proof.Machine.execSub t f x s
  | .adds t f x => Sys2Proof.Machine.execAdds t f x s
  | .subs t f x => Sys2Proof.Machine.execSubs t f x s
  | .mul t f x => Sys2Proof.Machine.execMul t f x s
  | .mulh t f x => Sys2Proof.Machine.execMulh t f x s
  | .min t f x => Sys2Proof.Machine.execMin t f x s
  | .max t f x => Sys2Proof.Machine.execMax t f x s
  | .and t f x => Sys2Proof.Machine.execAnd t f x s
  | .or t f x => Sys2Proof.Machine.execOr t f x s
  | .xor t f x => Sys2Proof.Machine.execXor t f x s
  | .shl t f x => Sys2Proof.Machine.execShl t f x s
  | .shr t f x => Sys2Proof.Machine.execShr t f x s
  | .cmplt t f x => Sys2Proof.Machine.execCmplt t f x s
  | .cmpeq t f x => Sys2Proof.Machine.execCmpeq t f x s
  | .sel t f x => Sys2Proof.Machine.execSel t f x s
  | .addi t f x => Sys2Proof.Machine.execAddi t f x s
  | .liq t f x => Sys2Proof.Machine.execLiq t f x s
  | .clz t f x => Sys2Proof.Machine.execClz t f x s
  | .popc t f x => Sys2Proof.Machine.execPopc t f x s
  | .lidx t f x => Sys2Proof.Machine.execLidx t f x s
  | .fadd t f x => Sys2Proof.Machine.execFadd t f x s
  | .fsub t f x => Sys2Proof.Machine.execFsub t f x s
  | .fmul t f x => Sys2Proof.Machine.execFmul t f x s
  | .fma t f x => Sys2Proof.Machine.execFma t f x s
  | .fmin t f x => Sys2Proof.Machine.execFmin t f x s
  | .fmax t f x => Sys2Proof.Machine.execFmax t f x s
  | .fdiv t f x => Sys2Proof.Machine.execFdiv t f x s
  | .fsqrt t f x => Sys2Proof.Machine.execFsqrt t f x s
  | .fcmplt t f x => Sys2Proof.Machine.execFcmplt t f x s
  | .fcmpeq t f x => Sys2Proof.Machine.execFcmpeq t f x s
  | .fsgn t f x => Sys2Proof.Machine.execFsgn t f x s
  | .cvt t f x => Sys2Proof.Machine.execCvt t f x s
  | .dot t f x => Sys2Proof.Machine.execDot t f x s
  | .accClr t f x => Sys2Proof.Machine.execAccClr t f x s
  | .accAdd t f x => Sys2Proof.Machine.execAccAdd t f x s
  | .accRd t f x => Sys2Proof.Machine.execAccRd t f x s
  | .accMrg t f x => Sys2Proof.Machine.execAccMrg t f x s
  | .accLd t f x => Sys2Proof.Machine.execAccLd t f x s
  | .accSt t f x => Sys2Proof.Machine.execAccSt t f x s
  | .ld t f x => Sys2Proof.Machine.execLd t f x s
  | .st t f x => Sys2Proof.Machine.execSt t f x s
  | .gld t f x => Sys2Proof.Machine.execGld t f x s
  | .nput t f x => Sys2Proof.Machine.execNput t f x s
  | .inrd t f x => Sys2Proof.Machine.execInrd t f x s
  | .hbkt t f x => Sys2Proof.Machine.execHbkt t f x s
  | .hadd t f x => Sys2Proof.Machine.execHadd t f x s
  | .twalk t f x => Sys2Proof.Machine.execTwalk t f x s
  | .xfer t f x => Sys2Proof.Machine.execXfer t f x s
  | .swait t f x => Sys2Proof.Machine.execSwait t f x s
  | .ssig t f x => Sys2Proof.Machine.execSsig t f x s
  | .loop t f x => Sys2Proof.Machine.execLoop t f x s
  | .end_ t f x => Sys2Proof.Machine.execEnd_ t f x s
  | .por p aon => Sys2Proof.Machine.execPor p aon s
  | .pinReset p => Sys2Proof.Machine.execPinReset p s
  | .watchdogExpiry src => Sys2Proof.Machine.execWatchdogExpiry src s
  | .rstReq v => Sys2Proof.Machine.execRstReq v s
  | .thermalTrip => Sys2Proof.Machine.execThermalTrip s
  | .thermalTripClear => Sys2Proof.Machine.execThermalTripClear s
  | .brownOut p => Sys2Proof.Machine.execBrownOut p s
  | .debugReset p level => Sys2Proof.Machine.execDebugReset p level s
  | .resetRelease p order twinSel => Sys2Proof.Machine.execResetRelease p order twinSel s
  | .fuseLoadDone p l => Sys2Proof.Machine.execFuseLoadDone p l s
  | .readySweepDone missing failed => Sys2Proof.Machine.execReadySweepDone missing failed s
  | .memTrainingDone failed => Sys2Proof.Machine.execMemTrainingDone failed s
  | .fetchAttemptDone r => Sys2Proof.Machine.execFetchAttemptDone r s
  | .fetchAttemptTimeout => Sys2Proof.Machine.execFetchAttemptTimeout s
  | .fetchRetry => Sys2Proof.Machine.execFetchRetry s
  | .startTimerExpiry => Sys2Proof.Machine.execStartTimerExpiry s
  | .recoveryFetch => Sys2Proof.Machine.execRecoveryFetch s
  | .bootOk => Sys2Proof.Machine.execBootOk s
  | .trayGo => Sys2Proof.Machine.execTrayGo s
  | .rollFwd key => Sys2Proof.Machine.execRollFwd key s
  | .calProgram key => Sys2Proof.Machine.execCalProgram key s
  | .calProgramDone => Sys2Proof.Machine.execCalProgramDone s
  | .posWrite pf v => Sys2Proof.Machine.execPosWrite pf v s
  | .compatWrite v => Sys2Proof.Machine.execCompatWrite v s
  | .registerWrite space off be v => Sys2Proof.Machine.execRegisterWrite space off be v s
  | .pmReqChange v => Sys2Proof.Machine.execPmReqChange v s
  | .d2DrainDeadline => Sys2Proof.Machine.execD2DrainDeadline s
  | .d2EntryDone => Sys2Proof.Machine.execD2EntryDone s
  | .d2ExitDone cycles => Sys2Proof.Machine.execD2ExitDone cycles s
  | .wakePatternDetected e => Sys2Proof.Machine.execWakePatternDetected e s
  | .pwrGo v => Sys2Proof.Machine.execPwrGo v s
  | .ttaEntryDone => Sys2Proof.Machine.execTtaEntryDone s
  | .ttaExitDone => Sys2Proof.Machine.execTtaExitDone s
  | .pwrWakeWrite ports => Sys2Proof.Machine.execPwrWakeWrite ports s
  | .wakePacket tagOk version type ttaId seq src => Sys2Proof.Machine.execWakePacket tagOk version type ttaId seq src s
  | .pcieWake => Sys2Proof.Machine.execPcieWake s
  | .fabricWakeFrame => Sys2Proof.Machine.execFabricWakeFrame s
  | .lodgePllWrite on => Sys2Proof.Machine.execLodgePllWrite on s
  | .lodgeClockSwitch => Sys2Proof.Machine.execLodgeClockSwitch s
  | .avsResponse r => Sys2Proof.Machine.execAvsResponse r s
  | .avsBusyRetry => Sys2Proof.Machine.execAvsBusyRetry s
  | .avsTimeout => Sys2Proof.Machine.execAvsTimeout s
  | .avsClr => Sys2Proof.Machine.execAvsClr s
  | .throttleTick bridges => Sys2Proof.Machine.execThrottleTick bridges s
  | .hostClkGoodFall => Sys2Proof.Machine.execHostClkGoodFall s
  | .trcClkGoodFall => Sys2Proof.Machine.execTrcClkGoodFall s
  | .flushWord lanes => Sys2Proof.Machine.execFlushWord lanes s
  | .cmdStart a id => Sys2Proof.Machine.execCmdStart a id s
  | .stageStamp pipe slot stage last => Sys2Proof.Machine.execStageStamp pipe slot stage last s
  | .hintAccepted => Sys2Proof.Machine.execHintAccepted s
  | .chkItem item unit a step sig poison tempC railMv => Sys2Proof.Machine.execChkItem item unit a step sig poison tempC railMv s
  | .chkReqIssue => Sys2Proof.Machine.execChkReqIssue s
  | .chkRsp item a unit sig poison => Sys2Proof.Machine.execChkRsp item a unit sig poison s
  | .chkResponseTimeout item a unit => Sys2Proof.Machine.execChkResponseTimeout item a unit s
  | .chkStepEnd a step => Sys2Proof.Machine.execChkStepEnd a step s
  | .chkTestDone pass => Sys2Proof.Machine.execChkTestDone pass s
  | .fieldTestTimeout => Sys2Proof.Machine.execFieldTestTimeout s
  | .periodicTestTimer => Sys2Proof.Machine.execPeriodicTestTimer s
  | .traceWord w cycle => Sys2Proof.Machine.execTraceWord w cycle s
  | .triggerPoint => Sys2Proof.Machine.execTriggerPoint s
  | .trcTrigStart mask => Sys2Proof.Machine.execTrcTrigStart mask s
  | .trcTrigStop mask => Sys2Proof.Machine.execTrcTrigStop mask s
  | .traceSegment slot => Sys2Proof.Machine.execTraceSegment slot s
  | .regPortRequest write priv addr be v => Sys2Proof.Machine.execRegPortRequest write priv addr be v s
  | .memResponse tag stat => Sys2Proof.Machine.execMemResponse tag stat s
  | .memRequestTimeout tag => Sys2Proof.Machine.execMemRequestTimeout tag s
  | .epochBoundary tick => Sys2Proof.Machine.execEpochBoundary tick s
  | .cntGroupWrite g v => Sys2Proof.Machine.execCntGroupWrite g v s
  | .chkClassWrite c v => Sys2Proof.Machine.execChkClassWrite c v s
  | .unitClear => Sys2Proof.Machine.execUnitClear s
  | .binClr => Sys2Proof.Machine.execBinClr s
  | .wholeSecond p tick => Sys2Proof.Machine.execWholeSecond p tick s
  | .timeRateWrite d rate => Sys2Proof.Machine.execTimeRateWrite d rate s
  | .timeSet d ns => Sys2Proof.Machine.execTimeSet d ns s
  | .timeStep d k => Sys2Proof.Machine.execTimeStep d k s
  | .domCmdLocked d => Sys2Proof.Machine.execDomCmdLocked d s
  | .domCmdHoldover d => Sys2Proof.Machine.execDomCmdHoldover d s
  | .holdTimerExpiry d tick => Sys2Proof.Machine.execHoldTimerExpiry d tick s
  | .timeSwitchRequest target => Sys2Proof.Machine.execTimeSwitchRequest target s
  | .switchAt p tick => Sys2Proof.Machine.execSwitchAt p tick s
  | .bridgeSlewComplete p tick => Sys2Proof.Machine.execBridgeSlewComplete p tick s
  | .timeSend tick => Sys2Proof.Machine.execTimeSend tick s
  | .timeFrame e h m tick => Sys2Proof.Machine.execTimeFrame e h m tick s
  | .echoFrame p h t2 t3 tick => Sys2Proof.Machine.execEchoFrame p h t2 t3 tick s
  | .leadMessageTimeout tick => Sys2Proof.Machine.execLeadMessageTimeout tick s
  | .timeMessageTimeout tick => Sys2Proof.Machine.execTimeMessageTimeout tick s
  | .ptpEventMessage m tick => Sys2Proof.Machine.execPtpEventMessage m tick s
  | .synceRateUpdate d freq => Sys2Proof.Machine.execSynceRateUpdate d freq s
  | .synceClockLost d => Sys2Proof.Machine.execSynceClockLost d s
  | .synceClockRestored d => Sys2Proof.Machine.execSynceClockRestored d s
  | .ppsInEdge tick => Sys2Proof.Machine.execPpsInEdge tick s
  | .linkEnable e en => Sys2Proof.Machine.execLinkEnable e en s
  | .linkRetrain e => Sys2Proof.Machine.execLinkRetrain e s
  | .retireClr e => Sys2Proof.Machine.execRetireClr e s
  | .wakePatternDone e => Sys2Proof.Machine.execWakePatternDone e s
  | .lockAchieved e locked => Sys2Proof.Machine.execLockAchieved e locked s
  | .deskewDone e skewed => Sys2Proof.Machine.execDeskewDone e skewed s
  | .trainingStateTimeout e => Sys2Proof.Machine.execTrainingStateTimeout e s
  | .linkRetryTimer e => Sys2Proof.Machine.execLinkRetryTimer e s
  | .laneFault e f => Sys2Proof.Machine.execLaneFault e f s
  | .trainFrame e crcOk t => Sys2Proof.Machine.execTrainFrame e crcOk t s
  | .ackBlock e crcOk sq nakS wq nakW => Sys2Proof.Machine.execAckBlock e crcOk sq nakS wq nakW s
  | .credit e crcOk sc wc => Sys2Proof.Machine.execCredit e crcOk sc wc s
  | .lane e crcOk ln kind => Sys2Proof.Machine.execLane e crcOk ln kind s
  | .abortBlock e => Sys2Proof.Machine.execAbortBlock e s
  | .replayTimeout e strict tick => Sys2Proof.Machine.execReplayTimeout e strict tick s
  | .creditReturn e => Sys2Proof.Machine.execCreditReturn e s
  | .frameBoundary e tick => Sys2Proof.Machine.execFrameBoundary e tick s
  | .slotTableCommit => Sys2Proof.Machine.execSlotTableCommit s
  | .slotTableSwitch p tick => Sys2Proof.Machine.execSlotTableSwitch p tick s
  | .arbiterGrant a arrivals => Sys2Proof.Machine.execArbiterGrant a arrivals s
  | .dataFrame p h bytes tick => Sys2Proof.Machine.execDataFrame p h bytes tick s
  | .traceFrame p h seg => Sys2Proof.Machine.execTraceFrame p h seg s
  | .stampFrame p h l tick => Sys2Proof.Machine.execStampFrame p h l tick s
  | .hintFrame e h hints => Sys2Proof.Machine.execHintFrame e h hints s
  | .recordFrame p h recs => Sys2Proof.Machine.execRecordFrame p h recs s
  | .settFrame e h m => Sys2Proof.Machine.execSettFrame e h m s
  | .checkpointFrame path allot gid off part => Sys2Proof.Machine.execCheckpointFrame path allot gid off part s
  | .regWrite p h tag ackReq off mask value => Sys2Proof.Machine.execRegWrite p h tag ackReq off mask value s
  | .controlTrigger p h tag ackReq slots start stop cause origin => Sys2Proof.Machine.execControlTrigger p h tag ackReq slots start stop cause origin s
  | .partnerQuery p h tag ackReq => Sys2Proof.Machine.execPartnerQuery p h tag ackReq s
  | .park p h tag ackReq on => Sys2Proof.Machine.execPark p h tag ackReq on s
  | .slotTable p h tag ackReq boundaryNs entries => Sys2Proof.Machine.execSlotTable p h tag ackReq boundaryNs entries s
  | .snapshot p h tag ackReq tNs => Sys2Proof.Machine.execSnapshot p h tag ackReq tNs s
  | .controlReset p h tag ackReq level port => Sys2Proof.Machine.execControlReset p h tag ackReq level port s
  | .mirror p h tag ackReq on => Sys2Proof.Machine.execMirror p h tag ackReq on s
  | .controlAck p h tag status => Sys2Proof.Machine.execControlAck p h tag status s
  | .testOrder p h tag classMask => Sys2Proof.Machine.execTestOrder p h tag classMask s
  | .testDone p h tag failures => Sys2Proof.Machine.execTestDone p h tag failures s
  | .bins p h stamp values => Sys2Proof.Machine.execBins p h stamp values s
  | .unitState p h unit withdrawn => Sys2Proof.Machine.execUnitState p h unit withdrawn s
  | .ringDescriptor p h index bytes => Sys2Proof.Machine.execRingDescriptor p h index bytes s
  | .ringOutput p h index off content => Sys2Proof.Machine.execRingOutput p h index off content s
  | .ringWriteback p h index content => Sys2Proof.Machine.execRingWriteback p h index content s
  | .ringCompletion p h index content => Sys2Proof.Machine.execRingCompletion p h index content s
  | .ringNotice p h content => Sys2Proof.Machine.execRingNotice p h content s
  | .heartbeatSend tick => Sys2Proof.Machine.execHeartbeatSend tick s
  | .heartbeat t posted tick => Sys2Proof.Machine.execHeartbeat t posted tick s
  | .propose t maps tick => Sys2Proof.Machine.execPropose t maps tick s
  | .haveMsg t maps tick => Sys2Proof.Machine.execHaveMsg t maps tick s
  | .decide t maps tick => Sys2Proof.Machine.execDecide t maps tick s
  | .role t m tick => Sys2Proof.Machine.execRole t m tick s
  | .ckptDone t allot gid n tick => Sys2Proof.Machine.execCkptDone t allot gid n tick s
  | .logSync t entries tick => Sys2Proof.Machine.execLogSync t entries tick s
  | .page t pg content tick => Sys2Proof.Machine.execPage t pg content tick s
  | .decision t slot gid run replay site winner tick => Sys2Proof.Machine.execDecision t slot gid run replay site winner tick s
  | .linkInst t allot port inst tick => Sys2Proof.Machine.execLinkInst t allot port inst tick s
  | .ingestEpochBoundary tick => Sys2Proof.Machine.execIngestEpochBoundary tick s
  | .watermarkClose epoch tick => Sys2Proof.Machine.execWatermarkClose epoch tick s
  | .fillBound epoch tick => Sys2Proof.Machine.execFillBound epoch tick s
  | .partnerSilent tick => Sys2Proof.Machine.execPartnerSilent tick s
  | .partnerQueryDone tick => Sys2Proof.Machine.execPartnerQueryDone tick s
  | .failoverReplayDone tick => Sys2Proof.Machine.execFailoverReplayDone tick s
  | .clusterWindowEnd tick temps railMv => Sys2Proof.Machine.execClusterWindowEnd tick temps railMv s
  | .memChannelError ch ue tick => Sys2Proof.Machine.execMemChannelError ch ue tick s
  | .rebindComplete slot tick => Sys2Proof.Machine.execRebindComplete slot tick s
  | .releaseComplete slot tick => Sys2Proof.Machine.execReleaseComplete slot tick s
  | .platformKeyRound served ark tick => Sys2Proof.Machine.execPlatformKeyRound served ark tick s
  | .pkeyGenerate key peerHeld => Sys2Proof.Machine.execPkeyGenerate key peerHeld s
  | .getVersion r => Sys2Proof.Machine.execGetVersion r s
  | .getCapabilities r => Sys2Proof.Machine.execGetCapabilities r s
  | .negotiateAlgorithms r common => Sys2Proof.Machine.execNegotiateAlgorithms r common s
  | .getDigests r => Sys2Proof.Machine.execGetDigests r s
  | .getCertificate r off len => Sys2Proof.Machine.execGetCertificate r off len s
  | .challenge r => Sys2Proof.Machine.execChallenge r s
  | .getMeasurements r => Sys2Proof.Machine.execGetMeasurements r s
  | .keyExchange r session => Sys2Proof.Machine.execKeyExchange r session s
  | .finish r session verified => Sys2Proof.Machine.execFinish r session verified s
  | .spdmHeartbeat r => Sys2Proof.Machine.execSpdmHeartbeat r s
  | .keyUpdate r => Sys2Proof.Machine.execKeyUpdate r s
  | .endSession r => Sys2Proof.Machine.execEndSession r s
  | .setAllotmentKey r allot ark => Sys2Proof.Machine.execSetAllotmentKey r allot ark s
  | .getPlatformKey r => Sys2Proof.Machine.execGetPlatformKey r s
  | .coarseWindowEnd tick => Sys2Proof.Machine.execCoarseWindowEnd tick s
  | .grantExpiry tick => Sys2Proof.Machine.execGrantExpiry tick s
  | .doorbell fn ring v => Sys2Proof.Machine.execDoorbell fn ring v s
  | .descriptorFetch fn ring r => Sys2Proof.Machine.execDescriptorFetch fn ring r s
  | .qEnable fn ring en => Sys2Proof.Machine.execQEnable fn ring en s
  | .flr fn => Sys2Proof.Machine.execFlr fn s
  | .vfEnableClear => Sys2Proof.Machine.execVfEnableClear s
  | .mirrorTimeout p index => Sys2Proof.Machine.execMirrorTimeout p index s
  | .tduMirrorWrite v => Sys2Proof.Machine.execTduMirrorWrite v s
  | .allotOpen q slot cls addr list => Sys2Proof.Machine.execAllotOpen q slot cls addr list s
  | .allotClose q => Sys2Proof.Machine.execAllotClose q s
  | .allotRebind q addr list => Sys2Proof.Machine.execAllotRebind q addr list s
  | .rotateStore q => Sys2Proof.Machine.execRotateStore q s
  | .fnQuiesce q vf => Sys2Proof.Machine.execFnQuiesce q vf s
  | .fnResume q vf => Sys2Proof.Machine.execFnResume q vf s
  | .fnFreeze q vf => Sys2Proof.Machine.execFnFreeze q vf s
  | .fnSave q vf addr => Sys2Proof.Machine.execFnSave q vf addr s
  | .fnRestore q vf addr img tagOk body => Sys2Proof.Machine.execFnRestore q vf addr img tagOk body s
  | .fnReset q vf allot => Sys2Proof.Machine.execFnReset q vf allot s
  | .histRead q source die first count addr fromSec fromIdx toSec toIdx => Sys2Proof.Machine.execHistRead q source die first count addr fromSec fromIdx toSec toIdx s
  | .traceSlot q die free size64k rearm post4k startMask stopMask => Sys2Proof.Machine.execTraceSlot q die free size64k rearm post4k startMask stopMask s
  | .traceTrig q dieMask start stop => Sys2Proof.Machine.execTraceTrig q dieMask start stop s
  | .grantInstall q addr g => Sys2Proof.Machine.execGrantInstall q addr g s
  | .grantSerial q min => Sys2Proof.Machine.execGrantSerial q min s
  | .recCopy q area addr => Sys2Proof.Machine.execRecCopy q area addr s
  | .aonCopy q addr => Sys2Proof.Machine.execAonCopy q addr s
  | .chkCopy q addr => Sys2Proof.Machine.execChkCopy q addr s
  | .graphAdmit q addr img => Sys2Proof.Machine.execGraphAdmit q addr img s
  | .graphReplace q addr img actSec => Sys2Proof.Machine.execGraphReplace q addr img actSec s
  | .graphRemove q gid => Sys2Proof.Machine.execGraphRemove q gid s
  | .graphPause q gid => Sys2Proof.Machine.execGraphPause q gid s
  | .graphResume q gid skip => Sys2Proof.Machine.execGraphResume q gid skip s
  | .graphSave q gid => Sys2Proof.Machine.execGraphSave q gid s
  | .graphRestore q gid => Sys2Proof.Machine.execGraphRestore q gid s
  | .admissionDone h tick => Sys2Proof.Machine.execAdmissionDone h tick s
  | .runStart h tick => Sys2Proof.Machine.execRunStart h tick s
  | .edgeCopy t => Sys2Proof.Machine.execEdgeCopy t s
  | .runEnd h tick => Sys2Proof.Machine.execRunEnd h tick s
  | .pauseDone h => Sys2Proof.Machine.execPauseDone h s
  | .replaceTimeout h tick => Sys2Proof.Machine.execReplaceTimeout h tick s
  | .syncWaitEnd t => Sys2Proof.Machine.execSyncWaitEnd t s
  | .inboxWaitEnd t => Sys2Proof.Machine.execInboxWaitEnd t s
  | .xferComplete t id => Sys2Proof.Machine.execXferComplete t id s
  | .tableCreate q offset rows rowWords kind entity => Sys2Proof.Machine.execTableCreate q offset rows rowWords kind entity s
  | .tableWrite q tid first addr data => Sys2Proof.Machine.execTableWrite q tid first addr data s
  | .tableCommit q tid actSec actIdx => Sys2Proof.Machine.execTableCommit q tid actSec actIdx s
  | .tableDelete q tid actSec actIdx => Sys2Proof.Machine.execTableDelete q tid actSec actIdx s
  | .tableRetainExpire slot tid tick => Sys2Proof.Machine.execTableRetainExpire slot tid tick s
  | .tableWindowFree slot tid tick => Sys2Proof.Machine.execTableWindowFree slot tid tick s
  | .contrib h a seg tick => Sys2Proof.Machine.execContrib h a seg tick s
  | .result h a seg tick => Sys2Proof.Machine.execResult h a seg tick s
  | .copy h a seg => Sys2Proof.Machine.execCopy h a seg s
  | .warrenAck no sender a version busy => Sys2Proof.Machine.execWarrenAck no sender a version busy s
  | .warrenResend no tick => Sys2Proof.Machine.execWarrenResend no tick s
  | .suspectResend no tick => Sys2Proof.Machine.execSuspectResend no tick s
  | .jobStart q addr desc => Sys2Proof.Machine.execJobStart q addr desc s
  | .jobEnd q job => Sys2Proof.Machine.execJobEnd q job s
  | .bandstandRequest h a desc tick => Sys2Proof.Machine.execBandstandRequest h a desc tick s
  | .prepare h a desc tick => Sys2Proof.Machine.execPrepare h a desc tick s
  | .ready h a tick => Sys2Proof.Machine.execReady h a tick s
  | .go h a tick => Sys2Proof.Machine.execGo h a tick s
  | .abort h a tick => Sys2Proof.Machine.execAbort h a tick s
  | .bandstandEnd h a tick => Sys2Proof.Machine.execBandstandEnd h a tick s
  | .query h a tick => Sys2Proof.Machine.execQuery h a tick s
  | .prepareDeadline allot job tick => Sys2Proof.Machine.execPrepareDeadline allot job tick s
  | .queryTimer allot job tick => Sys2Proof.Machine.execQueryTimer allot job tick s
  | .jobClose allot job tick => Sys2Proof.Machine.execJobClose allot job tick s
  | .outcomeExpiry allot job tick => Sys2Proof.Machine.execOutcomeExpiry allot job tick s
  | .slotRoute q gid die mask => Sys2Proof.Machine.execSlotRoute q gid die mask s
  | .dieStateClear die => Sys2Proof.Machine.execDieStateClear die s
  | .budgetRequest m a tick => Sys2Proof.Machine.execBudgetRequest m a tick s
  | .answer m a tick => Sys2Proof.Machine.execAnswer m a tick s
  | .log m a tick => Sys2Proof.Machine.execLog m a tick s
  | .budgetAck no m a tick => Sys2Proof.Machine.execBudgetAck no m a tick s
  | .expelAnswerTimeout die tick => Sys2Proof.Machine.execExpelAnswerTimeout die tick s
  | .logLostExpiry tick => Sys2Proof.Machine.execLogLostExpiry tick s
  | .checkSet q k => Sys2Proof.Machine.execCheckSet q k s
  | .stepReopen q job sec idx => Sys2Proof.Machine.execStepReopen q job sec idx s
  | .fieldTest q dieMask classMask => Sys2Proof.Machine.execFieldTest q dieMask classMask s
  | .tileTestSweep pass => Sys2Proof.Machine.execTileTestSweep pass s
  | .reportAck num tagOk => Sys2Proof.Machine.execReportAck num tagOk s
  | .reportResend num mgmtUp => Sys2Proof.Machine.execReportResend num mgmtUp s
  | .rptKeyWrite k v => Sys2Proof.Machine.execRptKeyWrite k v s
  | .eventRecord p mgmtUp => Sys2Proof.Machine.execEventRecord p mgmtUp s
  | .freeze p on => Sys2Proof.Machine.execFreeze p on s
  | .freezeTimeout p => Sys2Proof.Machine.execFreezeTimeout p s
  | .permClr p => Sys2Proof.Machine.execPermClr p s
  | .recSel p v => Sys2Proof.Machine.execRecSel p v s
  | .vfSyncSel n v => Sys2Proof.Machine.execVfSyncSel n v s
  | .snapTrig p => Sys2Proof.Machine.execSnapTrig p s
  | .snapArmAt => Sys2Proof.Machine.execSnapArmAt s
  | .snapDebugTrigger p => Sys2Proof.Machine.execSnapDebugTrigger p s
  | .snapLatch p tick => Sys2Proof.Machine.execSnapLatch p tick s
  | .tileCapture t => Sys2Proof.Machine.execTileCapture t s
  | .snapComplete => Sys2Proof.Machine.execSnapComplete s
  | .cmpDoorbell pi => Sys2Proof.Machine.execCmpDoorbell pi s
  | .cmpEnable on => Sys2Proof.Machine.execCmpEnable on s
  | .compress j stream => Sys2Proof.Machine.execCompress j stream s
  | .decompress j => Sys2Proof.Machine.execDecompress j s
  | .d0D1TransitionDone => Sys2Proof.Machine.execD0D1TransitionDone s
  | .tduRailRemoval => Sys2Proof.Machine.execTduRailRemoval s
  | .ppsOutEdge rise tick => Sys2Proof.Machine.execPpsOutEdge rise tick s
  | .tdispRequest n r => Sys2Proof.Machine.execTdispRequest n r s

end Sys2Proof.Machine
end

