-- ==== Sys2Proof/Machine/Step.lean ====
section
/-! DEFINITION. One step of the block: it takes the command at the front of the queue. -/
namespace Sys2Proof.Machine

/-- Take the command at the front of the queue and run it with the rest; on an empty queue the block idles for one tick
(DESIGN CHOICE, log 1). -/
def step (s : State) : Host.Outcome State Fault Refusal :=
  match s.pending with
  | c :: rest => exec c { s with pending := rest }
  | [] => .next s.idle

/-- The table gives its rows no bits, so no word spells a command and the queue stays as it is. -/
def State.withFetchWord (s : State) (nbits w : Nat) : State :=
  match decodeTableWord nbits w with
  | some c => { s with pending := c :: s.pending }
  | none => s

end Sys2Proof.Machine
end

