-- ==== Sys2Proof/WellFormed.lean ====
section
/-! DEFINITION. Well-formed commands: operands whose shape the spec fixes and whose Lean type does not. The meanings are total all the
same; only a tile instruction in a reserved encoding is refused by its meaning. -/
namespace Sys2Proof
open Machine

/-- Maps of a twin message: at most one per die (R211). -/
def mapsDistinct (maps : List DieMap) : Bool := decide ((maps.map (·.die)).Nodup)

/-- A count between two bounds. -/
def countIn (lo hi n : Nat) : Bool := decide (lo ≤ n) && decide (n ≤ hi)

/-- The operands of the command have the shape that the spec gives: 48 bins of a BINS frame (R391), 32 windows of a slot table (R194), one map
per die of a twin message (R211), 160 bytes of a grant (R49), 1 to 4 hints of a HINT frame and 1 to 16 stamps of a STAMP frame (R169, R171),
and a legal tile encoding (R247). -/
def Instr.wellFormed : Instr → Bool
  | .bins _ _ _ values => values.length == 48
  | .slotTable _ _ _ _ _ entries => entries.length == 32
  | .propose _ maps _ => mapsDistinct maps
  | .haveMsg _ maps _ => mapsDistinct maps
  | .decide _ maps _ => mapsDistinct maps
  | .grantInstall _ _ (.grant g) => g.bytes.length == 160
  | .hintFrame _ _ hints => countIn 1 4 hints.length
  | .stampFrame _ _ l _ => countIn 1 16 l.length
  | i => tileLegal i

end Sys2Proof
end

