-- ==== Sys2Proof/Safety.lean ====
section
/-! DEFINITION. What the statements say about runs of the block, in the terms that they share: that a command completes, that the tables of the
state keep their canonical form, and what it means for a tile to execute an instruction. -/
namespace Sys2Proof.Machine

/-- The command completes: `exec` answers a next state with the same queue, and its devices have the property. -/
def Completes (c : Instr) (s : State) (post : Dev → Prop) : Prop := ∃ d : Dev, exec c s = .next { s with dev := d } ∧ post d

/-! ## The canonical form of the state -/

/-- The ingest epochs stand in the order of their numbers. -/
def Dev.epochsSorted (d : Dev) : Prop := (d.tta.ing.epochs.map (·.1)).Pairwise (· < ·)

/-- Every table of the state is in canonical form: keys strictly rising, nothing listed that an unlisted key reads as. These are the register
files, the counter bank, the history store (the block's memory), tiles, ports, slots, functions and arbiters; and the ingest epochs stand in order. -/
def Dev.canonical (d : Dev) : Prop :=
  Memory.wf (Regs.resetOf .tdu) d.tdu.regs = true ∧ Memory.wf (Regs.resetOf .tta) d.tta.regs = true ∧
  Memory.wf (fun _ => (0 : W64)) d.tdu.bank = true ∧ Memory.wf (fun _ => none) d.tta.hist = true ∧ Memory.wf (fun _ => ({} : Tile)) d.tta.tiles = true ∧
  Memory.wf (fun _ => ({} : LinkPort)) d.tta.links = true ∧ Memory.wf (fun _ => ({} : Slot)) d.tta.slotsX = true ∧
  Memory.wf (fun _ => ({} : FnQ)) d.tta.fns = true ∧ Memory.wf (fun _ => ({} : Arbiter)) d.tta.arbiters = true ∧ d.epochsSorted

/-- A queue that no step stops on: every waiting tile instruction has a legal encoding (R247). -/
def State.queueLegal (s : State) : Prop := ∀ i ∈ s.pending, tileLegal i = true

/-! ## Tiles -/

/-- The tile can execute the instruction now: it does not wait, is not stopped, no transfer in flight holds the instruction back (R256), and
inside a task the instruction is the one at its program counter (R229, R230). -/
def TileReady (t : Fin 10240) (i : Instr) (s : State) : Prop :=
  (s.dev.tile t.val).wait = none ∧ (s.dev.tile t.val).stopped = false ∧ (s.dev.tile t.val).held i = false ∧
  ((s.dev.tile t.val).task = none ∨ tileEncode i = some ((s.dev.tile t.val).insnAt (s.dev.tile t.val).pc))

/-- A tile instruction taken to tile `t`, with the word errors `x`; any other command stays as it is. -/
def retile (t : Fin 10240) (x : TileEcc) : Instr → Instr
  | .nop _ f _ => .nop t f x
  | .add _ f _ => .add t f x
  | .sub _ f _ => .sub t f x
  | .adds _ f _ => .adds t f x
  | .subs _ f _ => .subs t f x
  | .mul _ f _ => .mul t f x
  | .mulh _ f _ => .mulh t f x
  | .min _ f _ => .min t f x
  | .max _ f _ => .max t f x
  | .and _ f _ => .and t f x
  | .or _ f _ => .or t f x
  | .xor _ f _ => .xor t f x
  | .shl _ f _ => .shl t f x
  | .shr _ f _ => .shr t f x
  | .cmplt _ f _ => .cmplt t f x
  | .cmpeq _ f _ => .cmpeq t f x
  | .sel _ f _ => .sel t f x
  | .addi _ f _ => .addi t f x
  | .liq _ f _ => .liq t f x
  | .clz _ f _ => .clz t f x
  | .popc _ f _ => .popc t f x
  | .lidx _ f _ => .lidx t f x
  | .fadd _ f _ => .fadd t f x
  | .fsub _ f _ => .fsub t f x
  | .fmul _ f _ => .fmul t f x
  | .fma _ f _ => .fma t f x
  | .fmin _ f _ => .fmin t f x
  | .fmax _ f _ => .fmax t f x
  | .fdiv _ f _ => .fdiv t f x
  | .fsqrt _ f _ => .fsqrt t f x
  | .fcmplt _ f _ => .fcmplt t f x
  | .fcmpeq _ f _ => .fcmpeq t f x
  | .fsgn _ f _ => .fsgn t f x
  | .cvt _ f _ => .cvt t f x
  | .dot _ f _ => .dot t f x
  | .accClr _ f _ => .accClr t f x
  | .accAdd _ f _ => .accAdd t f x
  | .accRd _ f _ => .accRd t f x
  | .accMrg _ f _ => .accMrg t f x
  | .accLd _ f _ => .accLd t f x
  | .accSt _ f _ => .accSt t f x
  | .ld _ f _ => .ld t f x
  | .st _ f _ => .st t f x
  | .gld _ f _ => .gld t f x
  | .nput _ f _ => .nput t f x
  | .inrd _ f _ => .inrd t f x
  | .hbkt _ f _ => .hbkt t f x
  | .hadd _ f _ => .hadd t f x
  | .twalk _ f _ => .twalk t f x
  | .xfer _ f _ => .xfer t f x
  | .swait _ f _ => .swait t f x
  | .ssig _ f _ => .ssig t f x
  | .loop _ f _ => .loop t f x
  | .end_ _ f _ => .end_ t f x
  | i => i

/-- A tile whose instruction completed: its steps count (R249), and inside a task it goes on at the next instruction (R248). -/
def Tile.stepped (i : Instr) (x : Tile) : Tile :=
  let x := { x with steps := x.steps + tileSteps i, wait := none }
  if x.task.isSome then x.goto (x.pc + 1) else x

/-- The instruction changed nothing but its tile and the count of steps executed, TTA_CNT[12]. -/
def TileFrame (t : Fin 10240) (i : Instr) (s : State) (d : Dev) : Prop :=
  d.tdu = s.dev.tdu ∧ d.pins = s.dev.pins ∧ d.out = s.dev.out ∧ d.freeIx = s.dev.freeIx ∧
  { d.tta with tiles := [], regs := [] } = { s.dev.tta with tiles := [], regs := [] } ∧
  (∀ u, u ≠ t.val → d.tile u = s.dev.tile u) ∧
  (∀ a, a ≠ (R.TTA_CNT_VALUE.at 12).addr → d.word .tta a = s.dev.word .tta a) ∧
  d.get (R.TTA_CNT_VALUE.at 12) = (s.dev.get (R.TTA_CNT_VALUE.at 12) + tileSteps i) % 2 ^ 64

/-- The instruction completes on every tile that can execute it and meets the condition, and turns the tile `x` into `g x`. -/
def TileComputesWhen (mk : Fin 10240 → Instr) (cond : Tile → Prop) (g : Tile → Tile) : Prop :=
  ∀ t s, tileLegal (mk t) = true → TileReady t (mk t) s → cond (s.dev.tile t.val) →
    Completes (mk t) s fun d => d.tile t.val = (g (s.dev.tile t.val)).stepped (mk t) ∧ TileFrame t (mk t) s d

/-- The instruction completes on every tile that can execute it, and turns the tile `x` into `g x`. -/
def TileComputes (mk : Fin 10240 → Instr) (g : Tile → Tile) : Prop := TileComputesWhen mk (fun _ => True) g

/-- On a tile that meets the condition, the instruction completes and writes register `r` with a word that has the property, and poison as
said. -/
def TileWritesWhen (mk : Fin 10240 → Instr) (cond : Tile → Prop) (r : BitVec 5) (poison : Tile → Bool) (good : Tile → W64 → Prop) : Prop :=
  ∀ t s, tileLegal (mk t) = true → TileReady t (mk t) s → cond (s.dev.tile t.val) →
    Completes (mk t) s fun d => ∃ v : W64, good (s.dev.tile t.val) v ∧
      d.tile t.val = ((s.dev.tile t.val).setReg r { v := v, p := poison (s.dev.tile t.val) }).stepped (mk t) ∧ TileFrame t (mk t) s d

/-- The instruction completes and writes register `r` with a word that has the property, and poison as said. -/
def TileWrites (mk : Fin 10240 → Instr) (r : BitVec 5) (poison : Tile → Bool) (good : Tile → W64 → Prop) : Prop :=
  TileWritesWhen mk (fun _ => True) r poison good

/-- A two-source instruction of format R works lane by lane: lane `k` of D is `g ty` of lane `k` of A and of B (R250, R232). -/
def LaneOp2 (mk : Fin 10240 → RFmt → Instr) (g : Nat → Nat → Nat → Nat) : Prop :=
  ∀ f, TileWrites (fun t => mk t f) f.d (fun x => (x.reg f.a).p || (x.reg f.b).p) fun x v =>
    ∀ k, k < 64 / tyWidth f.ty.toNat → laneAt (tyWidth f.ty.toNat) k v =
      g f.ty.toNat (laneAt (tyWidth f.ty.toNat) k (x.reg f.a).v) (laneAt (tyWidth f.ty.toNat) k (x.reg f.b).v)

/-- A one-source instruction of format R works lane by lane. -/
def LaneOp1 (mk : Fin 10240 → RFmt → Instr) (g : Nat → Nat → Nat) : Prop :=
  ∀ f, TileWrites (fun t => mk t f) f.d (fun x => (x.reg f.a).p) fun x v =>
    ∀ k, k < 64 / tyWidth f.ty.toNat → laneAt (tyWidth f.ty.toNat) k v =
      g f.ty.toNat (laneAt (tyWidth f.ty.toNat) k (x.reg f.a).v)

/-- A three-source instruction of format R works lane by lane, with D as the third source. -/
def LaneOp3 (mk : Fin 10240 → RFmt → Instr) (g : Nat → Nat → Nat → Nat → Nat) : Prop :=
  ∀ f, TileWrites (fun t => mk t f) f.d (fun x => (x.reg f.a).p || (x.reg f.b).p || (x.reg f.d).p) fun x v =>
    ∀ k, k < 64 / tyWidth f.ty.toNat → laneAt (tyWidth f.ty.toNat) k v =
      g f.ty.toNat (laneAt (tyWidth f.ty.toNat) k (x.reg f.a).v) (laneAt (tyWidth f.ty.toNat) k (x.reg f.b).v)
        (laneAt (tyWidth f.ty.toNat) k (x.reg f.d).v)

/-- What an instruction that meets an address fault leaves besides its tile: the fault counts in TTA_TILE_ERR_SUM.ADDR_FAULT, event 0x3160 is
given to the recorder, and the steps count (R251). -/
def TileFaultFrame (t : Fin 10240) (i : Instr) (s : State) (d : Dev) : Prop :=
  d.tdu = s.dev.tdu ∧ d.pins = s.dev.pins ∧ d.out = s.dev.out ∧ d.freeIx = s.dev.freeIx ∧
  d.tta = { s.dev.tta with tiles := d.tta.tiles, regs := d.tta.regs, recorder := d.tta.recorder, rpt := d.tta.rpt } ∧
  (∀ u, u ≠ t.val → d.tile u = s.dev.tile u) ∧
  d.get R.TTA_TILE_ERR_SUM_ADDR_FAULT = min (s.dev.get R.TTA_TILE_ERR_SUM_ADDR_FAULT + 1) 0xFFFF ∧
  d.get (R.TTA_CNT_VALUE.at 12) = (s.dev.get (R.TTA_CNT_VALUE.at 12) + tileSteps i) % 2 ^ 64

/-- The instruction completes with an address fault: the tile `x` becomes `g x` with the fault counted, and a store sets FAULT (R251). -/
def TileFaultsWhen (mk : Fin 10240 → Instr) (store : Bool) (cond : Tile → Prop) (g : Tile → Tile) : Prop :=
  ∀ t s, tileLegal (mk t) = true → TileReady t (mk t) s → cond (s.dev.tile t.val) →
    Completes (mk t) s fun d =>
      d.tile t.val = ({ g (s.dev.tile t.val) with addrFault := min ((s.dev.tile t.val).addrFault + 1) 0xFFFF,
                                                  fault := (s.dev.tile t.val).fault || store } : Tile).stepped (mk t) ∧
      TileFaultFrame t (mk t) s d

/-- The value of a finite number. -/
def FVal.rat : FVal → ℚ
  | .fin s m e => (if s then -1 else 1) * m * 2 ^ e
  | _ => 0

/-- Is the encoding a finite number of the format? -/
def Fmt.finite (F : Fmt) (x : Nat) : Bool := match F.dec x with
  | .fin .. => true
  | _ => false

/-- The tile with an output of the running task folded into its signature (R274). -/
def Tile.folded (kind : Nat) (p : Bool) (target : Nat) (data : W64) (x : Tile) : Tile :=
  if x.task.isSome then { x with sig := foldSig x.sig kind p target data } else x

/-! ## Ports -/

/-- A command of one link end leaves the other ports, the other part and every other unit of its own part as they are; the recorder may take
an event. -/
def LinkFrame (e : LinkEnd) (s : State) (d : Dev) : Prop :=
  (∀ e', e' ≠ e → d.port e' = s.dev.port e' ∧ d.get (tlState e') = s.dev.get (tlState e') ∧ d.get (tlActive e') = s.dev.get (tlActive e') ∧
    d.get (tlRetired e') = s.dev.get (tlRetired e')) ∧
  d.pins = s.dev.pins ∧
  (match e with
   | .tdu _ => d.tta = s.dev.tta ∧ d.tdu = { s.dev.tdu with
       regs := d.tdu.regs, link0 := d.tdu.link0, link1 := d.tdu.link1, recorder := d.tdu.recorder, bank := d.tdu.bank }
   | .tta _ => d.tdu = s.dev.tdu ∧ d.tta = { s.dev.tta with
       regs := d.tta.regs, links := d.tta.links, recorder := d.tta.recorder, rpt := d.tta.rpt })

/-! ## Registers, counters and events -/

/-- Every register word but those listed is unchanged. -/
def RegsKept (sp : Space) (l : List Nat) (s : State) (d : Dev) : Prop := ∀ a, a ∉ l → d.word sp a = s.dev.word sp a

/-- Counter `i` of the die unit's counter bank (R93). -/
def Dev.counter (i : Nat) (d : Dev) : W64 := Memory.read (fun _ => 0) d.tdu.bank i

/-- Every counter of the bank but those listed is unchanged. -/
def CountersKept (l : List Nat) (s : State) (d : Dev) : Prop := ∀ i, i ∉ l → d.counter i = s.dev.counter i

/-- The queues of the part's recorder have room for one more event of any source (R445). -/
def RecorderRoom (p : Part) (s : State) : Prop := (s.dev.recd p).queue.length < queueDepth p

/-- The event with the given code and first parameters is given to the part's recorder, after what waits there (R442, R446). -/
def Recorded (p : Part) (code : Nat) (ps : List Nat) (s : State) (d : Dev) : Prop :=
  ∃ q : QueuedRec, (d.recd p).queue = (s.dev.recd p).queue ++ [q] ∧ q.evt.code = BitVec.ofNat 16 code ∧
    [q.evt.p0, q.evt.p1, q.evt.p2, q.evt.p3, q.evt.p4].take ps.length = ps.map (BitVec.ofNat 32)

/-- The event is given to the part's recorder, after what waits there, among those that the command raises. -/
def Records (p : Part) (code : Nat) (ps : List Nat) (s : State) (d : Dev) : Prop :=
  ∃ l : List QueuedRec, (d.recd p).queue = (s.dev.recd p).queue ++ l ∧ ∃ q ∈ l, q.evt.code = BitVec.ofNat 16 code ∧
    [q.evt.p0, q.evt.p1, q.evt.p2, q.evt.p3, q.evt.p4].take ps.length = ps.map (BitVec.ofNat 32)

/-- The queues of the part's recorder have room for `n` more events of any source (R445). -/
def RecorderRoomFor (n : Nat) (p : Part) (s : State) : Prop := (s.dev.recd p).queue.length + n ≤ queueDepth p

/-- The events with the given codes and first parameters are given to the part's recorder in this order, after what waits there. -/
def RecordedAll (p : Part) (l : List (Nat × List Nat)) (s d : Dev) : Prop :=
  ∃ qs : List QueuedRec, (d.recd p).queue = (s.recd p).queue ++ qs ∧
    List.Forall₂ (fun (q : QueuedRec) (x : Nat × List Nat) => q.evt.code = BitVec.ofNat 16 x.1 ∧
      [q.evt.p0, q.evt.p1, q.evt.p2, q.evt.p3, q.evt.p4].take x.2.length = x.2.map (BitVec.ofNat 32)) qs l

/-! ## Time -/

/-- The first four parameters of an anchor of the part with the given reason, at this instant (R151). -/
def anchorParams (p : Part) (reason : Nat) (d : Dev) : List Nat :=
  let ns := (d.tb p).presentNs.toNat
  let b := d.tb p
  [ns / 10 ^ 9 % 2 ^ 32, ns / 10 ^ 9 / 2 ^ 32 % 2 ^ 16 + b.inForce.code * 2 ^ 16 + b.domA.state.code * 2 ^ 17 + b.domB.state.code * 2 ^ 19 + reason * 2 ^ 21,
   ns % 10 ^ 9, (ns32 b.bridgeNow).toNat]

/-- The domain `y` is `x` after a SET at tick `t` to `v` (R141): it shows `v` then, and goes on at the rate of `x`. -/
def SetTo (x y : Domain) (t : Nat) (v : Int) : Prop :=
  y.ofs = v ∧ y.base = t ∧ y.timeAt t = v ∧ ∀ t', t ≤ t' → y.timeAt t' - v = x.timeAt t' - x.timeAt t

/-- The domain `y` is `x` after its alignment to a message value `v` at tick `t` (R156): an error below 1 µs leaves its time where it is and
corrects the rate for 10 µs by the error over 10 µs, by 50 ppm at most; a larger one is a SET. -/
def Aligned (x y : Domain) (t : Nat) (v : Int) : Prop :=
  let e := v - x.timeAt t
  (e.natAbs < 1000 * 2 ^ 40 → y.timeAt t = x.timeAt t ∧ y.ofs = x.timeAt t ∧ y.base = t ∧
    ∃ base : Int, y.corrEnd = some (t + 10000, base) ∧
      y.rate = base + max (-(50 * 2 ^ 40 / 1000000)) (min (50 * 2 ^ 40 / 1000000) (e / 10000)) ∧
      (x.hist = [] → x.corrEnd = none → base = x.rate)) ∧
  (1000 * 2 ^ 40 ≤ e.natAbs → SetTo x y t v)

/-- The rates of the domain in force are signed 32-bit values, and both bridge terms move at 1 to 50 ppm (R140, R144). -/
def TimeBase.paced (b : TimeBase) : Prop :=
  let ok (r : Int) : Prop := -2 ^ 31 ≤ r ∧ r < 2 ^ 31
  ok (b.dom b.inForce).rate ∧ (∀ e r, (b.dom b.inForce).corrEnd = some (e, r) → ok r) ∧
  1 ≤ b.bridge.ppm ∧ b.bridge.ppm ≤ 50 ∧ 1 ≤ b.own.ppm ∧ b.own.ppm ≤ 50

/-- The aggregator changed nothing but its time base, its recorder and register words. -/
def TimeFrame (d e : Dev) : Prop :=
  d.tdu = e.tdu ∧ d.pins = e.pins ∧ d.out = e.out ∧ d.freeIx = e.freeIx ∧
  d.tta = { e.tta with time := d.tta.time, recorder := d.tta.recorder, regs := d.tta.regs } ∧
  d.tta.time = { e.tta.time with base := d.tta.time.base }

/-! ## Frames that arrive -/

/-- A frame as it waits in a class queue, with the length and the protection of its type (R167, R169). -/
def queued (cls : Fin 8) (allotIdx : BitVec 6) (p : Payload) : Frame :=
  { payload := p, cls := cls, prot := payloadProt p, fwd := none, allotIdx := allotIdx, len := payloadLen p, seq := 0, sentAt := 0 }

/-- A frame of a protected type is accepted on the port (R175): the port is UP, CRC and tag are good, and SEQ is the one expected. -/
def Accepts (e : LinkEnd) (h : RxHdr) (d : Dev) : Prop :=
  d.isUp e = true ∧ h.crcOk = true ∧ h.prot = true ∧ h.tagOk = true ∧ h.seq.toNat = ((d.port e).space (decide (h.cls.val < 4))).expect

/-- A frame of an unprotected type, such as TIME and ECHO (R168), is accepted on a port that is UP. -/
def AcceptsPlain (e : LinkEnd) (h : RxHdr) (d : Dev) : Prop :=
  d.isUp e = true ∧ (d.port e).phase = 6 ∧ h.crcOk = true ∧ h.prot = false ∧ h.seq.toNat = ((d.port e).space (decide (h.cls.val < 4))).expect

/-- The receiver has consumed the frame (R175, R178, R179): its space expects the next SEQ and frees its credits, the other space is as
before. -/
def Received (e : LinkEnd) (h : RxHdr) (old d : Dev) : Prop :=
  let st := decide (h.cls.val < 4)
  ((d.port e).space st).expect = (((old.port e).space st).expect + 1) % 4096 ∧ ((d.port e).space st).tagFailed = none ∧
  ((d.port e).space st).credFreed = (((old.port e).space st).credFreed + ceilDiv (8 * h.words + 16) 64) % 65536 ∧
  (d.port e).space (!st) = (old.port e).space (!st) ∧ ((d.port e).space st).replay = ((old.port e).space st).replay

/-- A CONTROL message that a die unit takes: in a frame that it accepts, or after another message of the frame accepted last (R172). -/
def TakesControl (p : Fin 2) (h : Option RxHdr) (d : Dev) : Prop :=
  match h with
  | some h => Accepts (.tdu p) h d
  | none => d.isUp (.tdu p) = true

/-- The frame that the message came in, if it came first in one, was consumed, and an acknowledgement with the status waits on the port when
one was asked for; the other port, the aggregator and the pins are as before. -/
def Answered (p : Fin 2) (h : Option RxHdr) (tag : BitVec 32) (ackReq : Bool) (status : Nat) (s : State) (d : Dev) : Prop :=
  (∀ x, h = some x → Received (.tdu p) x s.dev d) ∧
  (d.port (.tdu p)).queue = (s.dev.port (.tdu p)).queue ++ (if ackReq then
    [queued 2 0 (.control tag false (.ack (BitVec.ofNat 8 status)))] else []) ∧
  (∀ q, q ≠ p → d.port (.tdu q) = s.dev.port (.tdu q)) ∧ d.tta = s.dev.tta ∧ d.pins = s.dev.pins ∧ d.freeIx = s.dev.freeIx

/-! ## Frames at the aggregator -/

/-- The aggregator has consumed a frame of the port, and the die unit, the pins and the other tray ports are as before. -/
def TookFrame (p : Fin 17) (h : RxHdr) (s : State) (d : Dev) : Prop :=
  Received (.tta p) h s.dev d ∧ d.tdu = s.dev.tdu ∧ d.pins = s.dev.pins

/-- A frame of a protected type is accepted, and is not forwarded to the partner (R15, R175). -/
def AcceptsHere (p : Fin 17) (h : RxHdr) (d : Dev) : Prop :=
  Accepts (.tta p) h d ∧ (p.val = 16 ∨ d.tta.ing.otherDown.contains p.val = false)

/-- A record is posted to a notification ring (R413): written at PI when the ring can take it and nothing waits for it, else it waits in the
backlog while that has room. -/
def Notifies (fn : Fn) (r : Nat) (content : List Byte) (e d : Dev) : Prop :=
  let waits := (e.fnq fn).backlog.any fun x => x.1 = r
  (waits = false → e.canNotify fn r = true → (∃ b, Out.ringEntry fn r (e.get (qPi fn r) % e.ringEntries fn r) b ∈ d.out ∧
    b.take (min 48 content.length) = content.take 48) ∧ d.get (qPi fn r) = (e.get (qPi fn r) + 1) % 65536) ∧
  ((waits = true ∨ e.canNotify fn r = false) → e.backlogRoom fn r = true → (d.fnq fn).backlog = (e.fnq fn).backlog ++ [(r, content)])

/-! ## The twin -/

/-- A twin message with this content leaves for the partner (R215, R216): on the twin link, or over fabric Ethernet while the link is not UP
and ETH_FALLBACK is 1. -/
def TwinSent (epoch : Nat) (m : TwinMsg) (e d : Dev) : Prop :=
  ∃ f : Frame, (∃ v, f.payload = .twin v epoch m) ∧ f.fwd = none ∧
    if e.isUp (.tta 16) = false ∧ e.bit R.TTA_TWIN_CFG_ETH_FALLBACK = true then Out.ethTwin f ∈ d.out else f ∈ (d.port (.tta 16)).queue

/-- The aggregator hears a message of its partner (R215): it came by either path, the aggregator takes part in the twin protocol, and the
version is its own or the one before. -/
def Hears (t : TwinHdr) (s : State) : Prop :=
  (t.path = .eth ∨ ∃ h, t.path = .link h ∧ AcceptsPlain (.tta 16) h s.dev) ∧ s.dev.withdrawn = false ∧
  (t.version.toNat = s.dev.get R.TTA_CAPS_TWIN_VER ∨ t.version.toNat + 1 = s.dev.get R.TTA_CAPS_TWIN_VER)

/-- What every message of a PAIRED partner leaves: it was heard now, and the die unit and the pins are as before. -/
def WasHeard (t : TwinHdr) (tick : Nat) (s : State) (d : Dev) : Prop :=
  d.tta.twin.lastMsg = max s.dev.tta.time.base.tick tick ∧ d.tta.twin.everHeard = true ∧ d.tta.twin.querying = false ∧
  d.get R.TTA_TWIN_STAT_PARTNER_ID = t.sender.toNat % 2 ^ 14 ∧ d.tdu = s.dev.tdu ∧ d.pins = s.dev.pins

/-- The epoch is decided with these maps (R211, R213, R214): blocks outside them are EXCLUDED, the others are in, and the log has it. The flags
are SOLO 4 and ADOPTED 8, beside those for fills and exclusions. -/
def DecidedWith (n : Nat) (maps : List DieMap) (flags : Nat) (e : Epoch) (d : Dev) : Prop :=
  (∃ e', d.epoch? n = some e' ∧ e'.decided = true ∧ e'.closed = true ∧ e'.blocks.length = e.blocks.length ∧
    (∀ b ∈ e'.blocks, b.2.mark = if mapHas maps b.1 then 0 else 2) ∧ (∀ k, (∃ b ∈ e'.blocks, b.1 = k) ↔ ∃ b ∈ e.blocks, b.1 = k)) ∧
  ∃ l ∈ d.tta.ing.log, l.epoch = n ∧ l.maps = maps ∧ l.flags / 4 = flags / 4

/-! ## The Sett -/

/-- The Sett answers an SPDM request (R37), and changes nothing outside its own state. -/
def SpdmAnswers (r : SpdmReq) (code : Nat) (body : List Byte) (s d : Dev) : Prop :=
  d.out = .spdm code r.session body :: s.out ∧ d.tdu = s.tdu ∧ d.pins = s.pins ∧ d.tta = { s.tta with sett := d.tta.sett }

/-! ## Descriptors -/

/-- A completion of the descriptor is written: no function reset has cut it off, and what waits for its function to drain is a descriptor of
the PF, as FN_QUIESCE always is (R415, R421, R422). -/
def Completable (q : Desc) (d : Dev) : Prop :=
  q.fn ≠ .tdu ∧ (d.fnq q.fn).orphans.contains (q.ring.val, q.index.toNat) = false ∧ ∀ w, (d.fnq q.fn).quiesce = some w → w.fn = .pf

/-- The descriptor starts: no fence holds it back, and its header passes the common checks (R406, R411). -/
def DescRuns (op : Nat) (q : Desc) (d : Dev) : Prop := d.fenceHolds q = false ∧ d.headerCheck op q = none ∧ Completable q d

/-- The descriptor has completed with a status and its WB fields, and is no longer in flight (R407, R411). -/
def Completed (q : Desc) (status : Nat) (wb : List (Nat × Nat × Nat)) (s : State) (d : Dev) : Prop :=
  Out.writeBack q status wb ∈ d.out ∧ (d.fnq q.fn).inflight = (s.dev.fnq q.fn).inflight.erase (q.ring.val, q.index.toNat)

/-- A twin without a partner, in the lead: it orders and applies operations alone (R304). -/
def Dev.ordersAlone (d : Dev) : Prop := d.leads = true ∧ (d.twinState = 1 ∨ d.twinState = 2)

/-- An operation of a slot's descriptor that is not applied here yet is ordered between the twins (R304): a follower forwards it to the lead, a
PAIRED lead that has applied it waits for the partner; the descriptor is still in flight. -/
def Ordered (q : Desc) (allot : Nat) (op : OrdOp) (s : State) (d : Dev) : Prop :=
  let w : OrdWait := ⟨s.dev.tta.twin.nextNum, allot, op, some q⟩
  d.out = s.dev.out ∧ (d.fnq q.fn).inflight = (s.dev.fnq q.fn).inflight ∧ d.tdu = s.dev.tdu ∧
  (s.dev.follows = true → d.tta.twin.forwarded = s.dev.tta.twin.forwarded ++ [w] ∧ d.tta.twin.waits = s.dev.tta.twin.waits ∧
    ∃ f ∈ (d.port (.tta 16)).queue, ∃ v, f.payload = .twin v 0 (.role (.forward w.num allot op))) ∧
  (s.dev.follows = false → d.tta.twin.waits = s.dev.tta.twin.waits ++ [w] ∧ d.tta.twin.forwarded = s.dev.tta.twin.forwarded ∧
    ∃ f ∈ (d.port (.tta 16)).queue, ∃ v, f.payload = .twin v 0 (.role (.apply w.num allot op none)))

/-- The twin link is UP and the aggregator takes part in the twin protocol. -/
def Dev.twinLinked (d : Dev) : Prop := d.isUp (.tta 16) = true ∧ d.withdrawn = false

/-! ## The fleet -/

/-- A fleet packet is accepted (R40, R315, R317): the TTA takes part in the fleet, the version is its own or the one before, the allotment's
ARK is held, and the tag is good. -/
def HearsPacket (allot version : Nat) (a : PktAuth) (d : Dev) : Prop :=
  d.fleetReady = true ∧ (version = d.get R.TTA_CAPS_WRN_VER ∨ version + 1 = d.get R.TTA_CAPS_WRN_VER) ∧ a.tagOk = true ∧
  ∃ n, d.slotHolding allot = some n ∧ if n = 0 then d.tta.sett.platform.isSome = true else (assocGet n d.tta.sett.arks).isSome = true

/-- A packet leaves for a TTA (R316, R317): it waits in the outbox for its ACK, in the version for the TTA's tray, and is on the fabric when the
TTA takes part in the fleet. -/
def PacketLeaves (proto dst : Nat) (hdr body : List Byte) (e d : Dev) : Prop :=
  ∃ p ∈ d.tta.wrn.outbox, p.proto = proto ∧ p.dst = dst ∧ p.hdr = leBytes 1 (d.sendVersion dst) ++ hdr.drop 1 ∧ p.body = body ∧ e.tta.wrn.nextNo ≤ p.no ∧
    (e.fleetReady = true → Out.packet p.no proto dst p.inst p.ctr p.hdr body ∈ d.out)

/-- A payload leaves for a TTA in segments of 8,192 bytes (R322). -/
def RoundLeaves (type level : Nat) (k : RoundKey) (kind : Nat) (ws : List TWord) (dst : Nat) (e d : Dev) : Prop :=
  let segs := segments (payloadBytes ws)
  ∀ i seg, segs[i]? = some seg → PacketLeaves 0 dst (warrenBytes type level k e.ttaId i segs.length (8 * ws.length) kind) seg e d

/-- A Bandstand packet leaves for a TTA (R314). -/
def BstLeaves (m : BstMsg) (dst : Nat) (e d : Dev) : Prop :=
  PacketLeaves 1 dst (bstBytes m.type m.flags m.level m.allot m.job m.attempt m.status m.failTta m.timeNs e.ttaId m.body.length m.reqTag) m.body e d

/-- A Bandstand packet leaves the decider: for its partner twin, and down the tree (R311). -/
def BstAnnounced (trays : List Nat) (m : BstMsg) (e d : Dev) : Prop :=
  ∀ t, (t = e.partnerId ∨ t ∈ (downTrays trays e.ownTray).flatMap twinsOf) → t ≠ e.ttaId → BstLeaves m t e d

/-- The ACK of a packet is on the fabric (R316): the received header with TYPE changed. -/
def PacketAcked (proto sender ackType : Nat) (hdr : List Byte) (busy : Bool) (d : Dev) : Prop :=
  ∃ inst ctr, Out.packetAck proto sender inst ctr (hdr.take 1 ++ leBytes 1 ackType ++ [if busy then 2#8 else 0#8] ++ hdr.drop 3) busy ∈ d.out

/-- Every transfer in flight names a synchronisation object of the table (R275). -/
def Dev.objsNumbered (d : Dev) : Prop := ∀ t, ∀ x ∈ (d.tile t).xfers, x.obj < 65536

/-- The rounds of the job, epoch and sub-round that the TTA has seen are of no higher REPLAY (R326). -/
def Dev.replayCurrent (k : RoundKey) (d : Dev) : Prop :=
  let same (x : RoundKey) : Prop := x.allot = k.allot ∧ x.job = k.job ∧ x.epoch = k.epoch ∧ x.sub = k.sub
  (∀ m ∈ d.tta.wrn.merges, same m.key → m.key.replay ≤ k.replay) ∧ ∀ r ∈ d.tta.wrn.rounds, same r.key → r.key.replay ≤ k.replay

end Sys2Proof.Machine
end

