-- ==== Sys2Proof/Certificates/Slice0/Obligations.lean ====
section
/-! DEFINITION. The statements for the provers. -/
open Sys2Proof Sys2Proof.Machine

/-- A step takes the command at the front of the queue: it is `exec` of that command with the queue's rest. -/
def Obligations.StepRunsFrontCommand : Prop :=
  ∀ (c : Instr) (d : Dev) (rest : List Instr), step { dev := d, pending := c :: rest } = exec c { dev := d, pending := rest }

/-- No command but a tile instruction in a reserved encoding stops the block (R247: a tile never meets an illegal encoding at run time).
R247: an encoding that admission refuses has no effect at run time. -/
def Obligations.CommandsCompleteOrAreRefused : Prop :=
  (
  ∀ (c : Instr) (s : State), tileLegal c = true → Completes c s fun _ => True) ∧
  (
  ∀ (c : Instr) (s : State), tileLegal c = false → exec c s = .refused .illegalEncoding)

/-- R246, R250: the word of a tile instruction and the instruction of a word agree, in both directions. -/
def Obligations.TileEncodeDecode : Prop :=
  (∀ (t : Fin 10240) (i : Instr) (w : BitVec 32), tileEncode i = some w → tileDecode t w = some (retile t {} i)) ∧
  (∀ (t : Fin 10240) (i : Instr) (w : BitVec 32), tileDecode t w = some i → tileEncode i = some w ∧ retile t {} i = i)

/-- R228: reads after writes in a tile, and g0.
R250, R232, R259: instructions on whole words. -/
def Obligations.TileStorageAndWordInstructions : Prop :=
  (
  (∀ (x : Tile) (r : BitVec 5) (w : TWord), r ≠ 0 → (x.setReg r w).reg r = w) ∧
  (∀ (x : Tile) (w : TWord), x.reg 0 = { v := 0, p := false } ∧ x.setReg 0 w = x) ∧
  (∀ (x : Tile) (r q : BitVec 5) (w : TWord), q ≠ r → (x.setReg r w).reg q = x.reg q) ∧
  (∀ (x : Tile) (r : BitVec 5) (w : TWord), x.setReg r w = { x with regs := (x.setReg r w).regs }) ∧
  (∀ (x : Tile) (a b : Nat) (w : TWord), (x.setWord a w).word b = if b = a then w else x.word b) ∧
  (∀ (x : Tile) (a : Nat) (w : TWord), x.setWord a w = { x with sram := (x.setWord a w).sram })) ∧
  (
  (∀ f, TileComputes (.nop · f {}) id) ∧
  (∀ f, TileWrites (.and · f {}) f.d (fun x => (x.reg f.a).p || (x.reg f.b).p) fun x v => v = (x.reg f.a).v &&& (x.reg f.b).v) ∧
  (∀ f, TileWrites (.or · f {}) f.d (fun x => (x.reg f.a).p || (x.reg f.b).p) fun x v => v = (x.reg f.a).v ||| (x.reg f.b).v) ∧
  (∀ f, TileWrites (.xor · f {}) f.d (fun x => (x.reg f.a).p || (x.reg f.b).p) fun x v => v = (x.reg f.a).v ^^^ (x.reg f.b).v) ∧
  (∀ f, TileWrites (.sel · f {}) f.d (fun x => (x.reg f.a).p || (x.reg f.b).p || (x.reg f.c).p) fun x v =>
    ∀ k, v.getLsbD k = if (x.reg f.c).v.getLsbD k then (x.reg f.a).v.getLsbD k else (x.reg f.b).v.getLsbD k) ∧
  (∀ f, TileWrites (.liq · f {}) f.d (fun x => (x.reg f.d).p) fun x v => ∀ k, k < 64 → v.getLsbD k =
    if k / 16 = f.qtr.toNat then f.imm.getLsbD (k % 16) else (x.reg f.d).v.getLsbD k) ∧
  (∀ f, TileWrites (.hbkt · f {}) f.d (fun x => (x.reg f.a).p) fun x v =>
    ((x.reg f.a).v.toNat = 0 → v.toNat = 0) ∧
    (1 ≤ (x.reg f.a).v.toNat ∧ (x.reg f.a).v.toNat < 2 ^ 32 →
      2 ^ v.toNat ≤ (x.reg f.a).v.toNat ^ 64 ∧ (x.reg f.a).v.toNat ^ 64 < 2 ^ (v.toNat + 1)) ∧
    (2 ^ 32 ≤ (x.reg f.a).v.toNat → v.toNat = 2047)))

/-- R240, R250, R232: the integer lane instructions. -/
def Obligations.TileIntegerLanes : Prop :=
  LaneOp2 (.add · · {}) (fun ty a b => (a + b) % 2 ^ tyWidth ty) ∧
  LaneOp2 (.sub · · {}) (fun ty a b => (a + 2 ^ tyWidth ty - b) % 2 ^ tyWidth ty) ∧
  LaneOp2 (.mul · · {}) (fun ty a b => a * b % 2 ^ tyWidth ty) ∧
  LaneOp2 (.adds · · {}) (fun ty a b => satTo ty (intOf ty a + intOf ty b)) ∧
  LaneOp2 (.subs · · {}) (fun ty a b => satTo ty (intOf ty a - intOf ty b)) ∧
  LaneOp2 (.mulh · · {}) (fun ty a b => wrapTo (tyWidth ty) (intOf ty a * intOf ty b / 2 ^ tyWidth ty)) ∧
  LaneOp2 (.min · · {}) (fun ty a b => if intOf ty a ≤ intOf ty b then a else b) ∧
  LaneOp2 (.max · · {}) (fun ty a b => if intOf ty a ≤ intOf ty b then b else a) ∧
  LaneOp2 (.shl · · {}) (fun ty a b => a * 2 ^ (b % tyWidth ty) % 2 ^ tyWidth ty) ∧
  LaneOp2 (.shr · · {}) (fun ty a b =>
    if 4 ≤ ty then a / 2 ^ (b % tyWidth ty) else wrapTo (tyWidth ty) (sInt (tyWidth ty) a / 2 ^ (b % tyWidth ty))) ∧
  LaneOp2 (.cmplt · · {}) (fun ty a b => if intOf ty a < intOf ty b then 2 ^ tyWidth ty - 1 else 0) ∧
  LaneOp2 (.cmpeq · · {}) (fun ty a b => if a = b then 2 ^ tyWidth ty - 1 else 0) ∧
  LaneOp1 (.clz · · {}) (fun ty a => if a = 0 then tyWidth ty else tyWidth ty - 1 - Nat.log2 a) ∧
  LaneOp1 (.popc · · {}) (fun ty a => ((List.range (tyWidth ty)).filter fun i => a.testBit i).length) ∧
  (∀ f : IFmt, TileWrites (fun t => .addi t f {}) f.d (fun x => (x.reg f.a).p) fun x v =>
    ∀ k, k < 64 / tyWidth f.ty.toNat → laneAt (tyWidth f.ty.toNat) k v =
      wrapTo (tyWidth f.ty.toNat) (laneAt (tyWidth f.ty.toNat) k (x.reg f.a).v + f.imm.toInt))

/-- R235 to R238, R250: the floating-point lane instructions. -/
def Obligations.TileFloatLanes : Prop :=
  LaneOp2 (.fadd · · {}) (fun ty a b => (fmtOf ty).enc false (((fmtOf ty).dec a).add ((fmtOf ty).dec b))) ∧
  LaneOp2 (.fsub · · {}) (fun ty a b => (fmtOf ty).enc false (((fmtOf ty).dec a).add ((fmtOf ty).dec b).neg)) ∧
  LaneOp2 (.fmul · · {}) (fun ty a b => (fmtOf ty).enc false (((fmtOf ty).dec a).mul ((fmtOf ty).dec b))) ∧
  LaneOp2 (.fmin · · {}) (fun ty a b => (fmtOf ty).pick false a b) ∧
  LaneOp2 (.fmax · · {}) (fun ty a b => (fmtOf ty).pick true a b) ∧
  LaneOp2 (.fdiv · · {}) (fun ty a b => (fmtOf ty).div ((fmtOf ty).dec a) ((fmtOf ty).dec b)) ∧
  LaneOp1 (.fsqrt · · {}) (fun ty a => (fmtOf ty).sqrt ((fmtOf ty).dec a)) ∧
  LaneOp2 (.fcmplt · · {}) (fun ty a b => if ((fmtOf ty).dec a).lt ((fmtOf ty).dec b) then 2 ^ tyWidth ty - 1 else 0) ∧
  LaneOp2 (.fcmpeq · · {}) (fun ty a b => if ((fmtOf ty).dec a).eq ((fmtOf ty).dec b) then 2 ^ tyWidth ty - 1 else 0) ∧
  (∀ f : RFmt, TileWrites (.fsgn · f {}) f.d (fun x => (x.reg f.a).p || (f.c == 2 && (x.reg f.b).p)) fun x v =>
    ∀ k, k < 64 / tyWidth f.ty.toNat → ∀ j, j < tyWidth f.ty.toNat →
      (laneAt (tyWidth f.ty.toNat) k v).testBit j =
        if j + 1 < tyWidth f.ty.toNat then (laneAt (tyWidth f.ty.toNat) k (x.reg f.a).v).testBit j
        else if f.c = 0 then false
        else if f.c = 1 then !(laneAt (tyWidth f.ty.toNat) k (x.reg f.a).v).testBit j
        else (laneAt (tyWidth f.ty.toNat) k (x.reg f.b).v).testBit j)

/-- R235, R236: rounding to nearest, ties to even, with subnormal results. -/
def Obligations.FloatRoundsToNearestEven : Prop :=
  ∀ (ty : Nat) (s : Bool) (m : Nat) (e : Int), 8 ≤ ty → ty ≤ 12 →
    let F := fmtOf ty
    let r := F.round false s m e
    let x : ℚ := (FVal.fin s m e).rat
    (F.finite r = true → ∀ y, y < 2 ^ F.w → F.finite y = true →
      |(F.dec r).rat - x| ≤ |(F.dec y).rat - x| ∧
      (|(F.dec r).rat - x| = |(F.dec y).rat - x| → (F.dec r).rat = (F.dec y).rat ∨ r % 2 = 0)) ∧
    (F.finite r = false → ∀ y, y < 2 ^ F.w → F.finite y = true → |(F.dec y).rat| < |x|)

/-- R245: FMA and DOT. -/
def Obligations.TileFusedMultiplyAdd : Prop :=
  LaneOp3 (.fma · · {}) (fun ty a b c => (fmtOf ty).enc false ((((fmtOf ty).dec a).mul ((fmtOf ty).dec b)).add ((fmtOf ty).dec c))) ∧
  (∀ f : RFmt, TileWrites (.dot · f {}) f.d (fun x => (x.reg f.a).p || (x.reg f.b).p || (x.reg f.d).p) fun x v =>
    laneAt 32 1 v = 0 ∧
    laneAt 32 0 v = (List.range (64 / tyWidth f.ty.toNat)).foldl
      (fun acc i => (fmtOf 12).enc false
        ((((fmtOf f.ty.toNat).dec (laneAt (tyWidth f.ty.toNat) i (x.reg f.a).v)).mul
          ((fmtOf (f.c.toNat % 16)).dec (laneAt (tyWidth f.ty.toNat) i (x.reg f.b).v))).add ((fmtOf 12).dec acc)))
      (laneAt 32 0 (x.reg f.d).v))

/-- R253: CVT of a lane group. The encoding is legal only where the group lies in range. -/
def Obligations.TileConvert : Prop :=
  (∀ f : RFmt, tileLegal (.cvt 0 f {}) = true →
    let ws := tyWidth (f.c.toNat % 16)
    let wd := tyWidth f.ty.toNat
    (f.b.toNat + 1) * (64 / max ws wd) ≤ 64 / min ws wd) ∧
  (∀ f : RFmt, tyWidth (f.c.toNat % 16) < tyWidth f.ty.toNat →
    TileWrites (.cvt · f {}) f.d (fun x => (x.reg f.a).p) fun x v => ∀ i, i < 64 / tyWidth f.ty.toNat →
      laneAt (tyWidth f.ty.toNat) i v =
        cvtLane (f.c.toNat % 16) f.ty.toNat (f.c.getLsbD 4)
          (laneAt (tyWidth (f.c.toNat % 16)) (f.b.toNat * (64 / tyWidth f.ty.toNat) + i) (x.reg f.a).v)) ∧
  (∀ f : RFmt, tyWidth f.ty.toNat ≤ tyWidth (f.c.toNat % 16) →
    TileWrites (.cvt · f {}) f.d (fun x => (x.reg f.a).p || (x.reg f.d).p) fun x v => ∀ i, i < 64 / tyWidth f.ty.toNat →
      let n := 64 / tyWidth (f.c.toNat % 16)
      laneAt (tyWidth f.ty.toNat) i v =
        if f.b.toNat * n ≤ i ∧ i < (f.b.toNat + 1) * n then
          cvtLane (f.c.toNat % 16) f.ty.toNat (f.c.getLsbD 4) (laneAt (tyWidth (f.c.toNat % 16)) (i - f.b.toNat * n) (x.reg f.a).v)
        else laneAt (tyWidth f.ty.toNat) i (x.reg f.d).v)

/-- R242 to R244: the accumulator instructions where no address faults.
R241, R242, R244: exact addition, sticky flags, and the image. -/
def Obligations.TileAccumulatorInstructions : Prop :=
  (
  (∀ f, TileComputes (.accClr · f {}) fun x => x.setAccum f.d { n := 0, nan := false, pinf := false, ninf := false, poison := false }) ∧
  (∀ f, TileComputes (.accAdd · f {}) fun x => x.setAccum f.d ((x.accum f.d).addWord f.ty.toNat (x.reg f.a))) ∧
  (∀ f, TileComputes (.accMrg · f {}) fun x => x.setAccum f.d
    { n := (x.accum f.d).n + (x.accum f.a).n, nan := (x.accum f.d).nan || (x.accum f.a).nan, pinf := (x.accum f.d).pinf || (x.accum f.a).pinf
      ninf := (x.accum f.d).ninf || (x.accum f.a).ninf, poison := (x.accum f.d).poison || (x.accum f.a).poison }) ∧
  (∀ f, TileWrites (.accRd · f {}) f.d (fun x => (x.accum f.a).poison) fun x v =>
    v.toNat = (x.accum f.a).read f.ty.toNat (f.c.getLsbD 4)) ∧
  (∀ f, TileComputesWhen (.accLd · f {}) (fun x => 0 ≤ x.addr f.a f.imm.toInt ∧ x.addr f.a f.imm.toInt + 5 < 8192) fun x =>
    x.setAccum f.d
      { Accum.ofImage ((List.range 6).map fun k => x.word ((x.addr f.a f.imm.toInt).toNat + k)) with
        poison := (Accum.ofImage ((List.range 6).map fun k => x.word ((x.addr f.a f.imm.toInt).toNat + k))).poison || (x.reg f.a).p }) ∧
  (∀ f t s, tileLegal (.accSt t f {}) = true → TileReady t (.accSt t f {}) s →
    (∀ k, k < 6 → (s.dev.tile t.val).storable ((s.dev.tile t.val).addr f.a f.imm.toInt + (k : Nat)) = true) →
    Completes (.accSt t f {}) s fun d =>
      let x := s.dev.tile t.val
      let a := (x.addr f.a f.imm.toInt).toNat
      d.tile t.val = ({ x with sram := (d.tile t.val).sram } : Tile).stepped (.accSt t f {}) ∧
      (∀ k, k < 6 → (d.tile t.val).word (a + k) = { v := (x.accum f.d).image.getD k 0, p := (x.reg f.a).p }) ∧
      (∀ b, (b < a ∨ a + 6 ≤ b) → (d.tile t.val).word b = x.word b) ∧ TileFrame t (.accSt t f {}) s d)) ∧
  (
  (∀ (ty x : Nat) (c : Accum), 8 ≤ ty → ty ≤ 12 → (fmtOf ty).finite x = true →
    ∃ z : Int, (z : ℚ) = ((fmtOf ty).dec x).rat * 2 ^ 149 ∧ c.addLane ty x = { c with n := c.n + BitVec.ofInt 320 z }) ∧
  (∀ (ty x : Nat) (c : Accum), ty < 8 → c.addLane ty x = { c with n := c.n + BitVec.ofInt 320 (intOf ty x * 2 ^ 149) }) ∧
  (∀ (ty x : Nat) (c : Accum), 8 ≤ ty → (fmtOf ty).dec x = .nan → c.addLane ty x = { c with nan := true }) ∧
  (∀ (ty x : Nat) (c : Accum), 8 ≤ ty → (fmtOf ty).dec x = .inf false → c.addLane ty x = { c with pinf := true }) ∧
  (∀ (ty x : Nat) (c : Accum), 8 ≤ ty → (fmtOf ty).dec x = .inf true → c.addLane ty x = { c with ninf := true }) ∧
  (∀ (ty : Nat) (w : TWord) (c : Accum), (c.nan → (c.addWord ty w).nan) ∧ (c.pinf → (c.addWord ty w).pinf) ∧
    (c.ninf → (c.addWord ty w).ninf) ∧ (c.poison || w.p) = (c.addWord ty w).poison) ∧
  (∀ c : Accum, Accum.ofImage (c.image.map fun v => { v := v, p := false }) = c))

/-- The exact accumulator: order and grouping of the terms do not matter. -/
def Obligations.AccumulatorOrderFree : Prop :=
  (∀ (l m : List (Nat × TWord)) (c : Accum), l.Perm m →
    l.foldl (fun c x => c.addWord x.1 x.2) c = m.foldl (fun c x => c.addWord x.1 x.2) c) ∧
  (∀ (l m : List (Nat × TWord)) (c : Accum),
    (l ++ m).foldl (fun c x => c.addWord x.1 x.2) c =
      (l.foldl (fun c x => c.addWord x.1 x.2) c).merge (m.foldl (fun c x => c.addWord x.1 x.2) {}))

/-- R251, R252, R259: loads and stores without a fault. The store's poison takes in that of its address register (log 22).
R251: address faults. -/
def Obligations.TileMemoryInstructions : Prop :=
  (
  (∀ f, TileComputesWhen (.ld · f {}) (fun x => 0 ≤ x.addr f.a f.imm.toInt ∧ x.addr f.a f.imm.toInt < 8192) fun x =>
    x.setReg f.d { v := (x.word (x.addr f.a f.imm.toInt).toNat).v
                   p := (x.word (x.addr f.a f.imm.toInt).toNat).p || (x.reg f.a).p }) ∧
  (∀ f, TileComputesWhen (.st · f {}) (fun x => x.storable (x.addr f.a f.imm.toInt) = true) fun x =>
    x.setWord (x.addr f.a f.imm.toInt).toNat { v := (x.reg f.d).v, p := (x.reg f.d).p || (x.reg f.a).p }) ∧
  (∀ f : RFmt,
    let w := tyWidth f.ty.toNat
    let ix (k : Nat) (x : Tile) : Nat := laneAt 16 k (x.reg f.a).v
    let wa (k : Nat) (x : Tile) : Int := x.addr f.b ((ix k x * w / 64 : Nat) : Int)
    TileWritesWhen (.gld · f {}) (fun x => ∀ k, k < 64 / w → 0 ≤ wa k x ∧ wa k x < 8192) f.d
      (fun x => (x.reg f.a).p || (x.reg f.b).p || (List.range (64 / w)).any fun k => (x.word (wa k x).toNat).p)
      fun x v => ∀ k, k < 64 / w → laneAt w k v = laneAt w (ix k x % (64 / w)) (x.word (wa k x).toNat).v) ∧
  (∀ f, TileComputesWhen (.hadd · f {}) (fun x => x.storable (x.addr f.b (bucketOf (x.reg f.a).v.toNat)) = true) fun x =>
    x.setWord (x.addr f.b (bucketOf (x.reg f.a).v.toNat)).toNat
      { v := (x.word (x.addr f.b (bucketOf (x.reg f.a).v.toNat)).toNat).v + 1
        p := (x.word (x.addr f.b (bucketOf (x.reg f.a).v.toNat)).toNat).p || (x.reg f.a).p || (x.reg f.b).p })) ∧
  (
  (∀ f, TileFaultsWhen (.ld · f {}) false (fun x => x.addr f.a f.imm.toInt < 0 ∨ 8192 ≤ x.addr f.a f.imm.toInt) fun x =>
    x.setReg f.d { v := 0, p := true }) ∧
  (∀ f, TileFaultsWhen (.accLd · f {}) false (fun x => x.addr f.a f.imm.toInt < 0 ∨ 8192 ≤ x.addr f.a f.imm.toInt + 5) fun x =>
    x.setAccum f.d { poison := true }) ∧
  (∀ f, TileFaultsWhen (.st · f {}) true (fun x => x.storable (x.addr f.a f.imm.toInt) = false) id) ∧
  (∀ f, TileFaultsWhen (.hadd · f {}) true (fun x => x.storable (x.addr f.b (bucketOf (x.reg f.a).v.toNat)) = false) id) ∧
  (∀ f, TileFaultsWhen (.accSt · f {}) true
    (fun x => ∃ k, k < 6 ∧ x.storable (x.addr f.a f.imm.toInt + (k : Nat)) = false) id))

/-- R258, R292, R295: the walk of a tree of depth d. -/
def Obligations.TileTreeWalk : Prop :=
  ∀ (f : RFmt) (t : Fin 10240) (s : State), tileLegal (.twalk t f {}) = true → TileReady t (.twalk t f {}) s →
    let x := s.dev.tile t.val
    let depth := f.c.toNat
    let decide_ (node : Nat) := x.direction (s.dev.treeNan t.val) (x.addr f.a 0) (x.addr f.b 0) depth node
    (∀ node, node < 2 ^ depth - 1 → (decide_ node).2.2 = []) →
    Completes (.twalk t f {}) s fun d => ∃ leaf : Nat, leaf < 2 ^ depth ∧
      (∀ k, k < depth → leaf.testBit (depth - 1 - k) = (decide_ (2 ^ k - 1 + leaf / 2 ^ (depth - k))).1) ∧
      d.tile t.val = (x.setReg f.d { v := BitVec.ofNat 64 leaf
                                     p := (x.reg f.a).p || (x.reg f.b).p ||
                                       (List.range depth).any fun k => (decide_ (2 ^ k - 1 + leaf / 2 ^ (depth - k))).2.1 }).stepped
        (.twalk t f {}) ∧
      TileFrame t (.twalk t f {}) s d

/-- R248, R229, R274: the control instructions. LIDX of a level that is not open takes a free value (log 24).
R254, R255: the issue and the completion of boundary transfers. -/
def Obligations.TileControlAndTransfers : Prop :=
  (
  (∀ f t s, tileLegal (.loop t f {}) = true → TileReady t (.loop t f {}) s → (s.dev.tile t.val).task.isSome = true →
    Completes (.loop t f {}) s fun d =>
      let x := s.dev.tile t.val
      TileFrame t (.loop t f {}) s d ∧
      d.tile t.val =
        if f.n = 0 then ({ x with steps := x.steps + 1 } : Tile).goto (x.pc + 1 + f.len.toNat)
        else { x with steps := x.steps + 1, pc := x.pc + 1
                      loops := { count := f.n.toNat, index := 0, start := x.pc + 1, len := f.len.toNat } :: x.loops }) ∧
  (∀ (x : Tile) (pc : Nat) (l : LoopLvl) (r : List LoopLvl), x.loops = l :: r →
    (pc ≠ l.start + l.len → x.goto pc = { x with pc := pc }) ∧
    (pc = l.start + l.len → l.index + 1 < l.count →
      x.goto pc = { x with pc := l.start, loops := { l with index := l.index + 1 } :: r }) ∧
    (pc = l.start + l.len → l.count ≤ l.index + 1 → x.goto pc = ({ x with loops := r } : Tile).goto pc)) ∧
  (∀ (x : Tile) (pc : Nat), x.loops = [] → x.goto pc = { x with pc := pc }) ∧
  (∀ (f : IFmt) (l : LoopLvl), TileComputesWhen (.lidx · f {}) (fun x => x.loops[f.imm.toNat]? = some l) fun x =>
    x.setReg f.d { v := BitVec.ofNat 64 l.index, p := false }) ∧
  (∀ f t s, tileLegal (.lidx t f {}) = true → TileReady t (.lidx t f {}) s → (s.dev.tile t.val).loops[f.imm.toNat]? = none →
    Completes (.lidx t f {}) s fun d => ∃ v : W64,
      d.tile t.val = ((s.dev.tile t.val).setReg f.d { v := v, p := false }).stepped (.lidx t f {}) ∧ d.freeIx = s.dev.freeIx + 1 ∧
      d.tdu = s.dev.tdu ∧ ∀ u, u ≠ t.val → d.tile u = s.dev.tile u) ∧
  (∀ f t s k h l g r e, tileLegal (.end_ t f {}) = true → TileReady t (.end_ t f {}) s → (s.dev.tile t.val).task = some k →
    (s.dev.tile t.val).use = some { handle := h, logical := l, shadow := false } → s.dev.graph h = some g → g.run = some r →
    s.dev.shadowOf t.val = none → (∀ e ∈ r.sigs, e.1 = k → e.2.1 = false) →
    s.dev.listEntry t.val = some e → (e = .endList ∨ ∃ c, e = .copy c) →
    Completes (.end_ t f {}) s fun d =>
      let x := s.dev.tile t.val
      let status : W64 := if x.fault then 5 else 0
      d.tile t.val = { x with steps := x.steps + 1, task := none, loops := [], sig := 0 } ∧
      d.graph h = some { g with run := some { r with
        poisoned := r.poisoned || x.fault, sigs := r.sigs ++ [(k, false, foldSig x.sig 5 false k status)] } } ∧
      d.tdu = s.dev.tdu ∧ d.pins = s.dev.pins ∧ d.out = s.dev.out ∧ d.freeIx = s.dev.freeIx ∧
      d.tta = { s.dev.tta with tiles := d.tta.tiles, regs := d.tta.regs, graphs := d.tta.graphs } ∧
      (∀ u, u ≠ t.val → d.tile u = s.dev.tile u) ∧ (∀ j, j ≠ h → d.graph j = s.dev.graph j) ∧
      (∀ a, a ≠ (R.TTA_CNT_VALUE.at 12).addr → d.word .tta a = s.dev.word .tta a))) ∧
  (
  (∀ (f : IFmt) (t : Fin 10240) (s : State),
    let x := s.dev.tile t.val
    let a := (x.addr f.a f.imm.toInt).toNat
    let w (k : Nat) : Nat := (x.word (a + k)).v.toNat
    let kind := w 0 / 2 ^ 52 % 16
    let words := w 0 % 65536
    let loc := w 2 % 8192
    tileLegal (.xfer t f {}) = true → TileReady t (.xfer t f {}) s → x.xfers.length < 4 →
    0 ≤ x.addr f.a f.imm.toInt → x.addr f.a f.imm.toInt + 3 < 8192 → s.dev.isShadow t.val = false → kind ≠ 2 →
    Completes (.xfer t f {}) s fun d => ∃ xf : Xfer,
      xf.id = x.issued ∧ xf.addr = a ∧ xf.kind = kind ∧ xf.obj = w 0 / 2 ^ 32 % 65536 ∧ xf.words = words ∧ xf.remote = w 1 ∧ xf.loc = loc ∧
      xf.deadline = w 3 % 2 ^ 32 ∧ xf.mirror = false ∧ xf.round = none ∧ xf.task = x.task ∧
      xf.status = (if 3 < kind then 4 else if words = 0 then 1 else if 8192 < loc + words then 2 else if w 1 % 32 ≠ 0 then 3
        else if kind < 2 ∧ s.dev.denied (s.dev.tileSlot t.val) (((s.dev.tileGraph t.val).map (·.1)).getD 1024) (w 1) words (kind == 1) = true
        then 4 else 0) ∧
      d.tile t.val = ({ x with
        issued := x.issued + 1, sig := (d.tile t.val).sig, xfers := x.xfers ++ [xf]
        fault := x.fault || (decide (xf.status ≠ 0) && decide (1 ≤ kind ∧ kind ≤ 3) && x.task.isSome) } : Tile).stepped (.xfer t f {}) ∧
      (x.task = none → (d.tile t.val).sig = x.sig) ∧ TileFrame t (.xfer t f {}) s d) ∧
  (∀ (f : IFmt) (t : Fin 10240) (s : State), tileLegal (.xfer t f {}) = true → TileReady t (.xfer t f {}) s →
    4 ≤ (s.dev.tile t.val).xfers.length → Completes (.xfer t f {}) s fun d => d = s.dev) ∧
  (∀ (t : Fin 10240) (f : Xfer) (s : State),
    let x := s.dev.tile t.val
    let loaded (i : Nat) : TWord := { v := (x.word (f.loc + i)).v, p := (x.word (f.loc + i)).p || f.poison }
    let n := min f.words (8192 - f.loc)
    x.xfers.find? (fun g => g.id == f.id && !g.mirror && g.round.isNone) = some f → s.dev.shadowOf t.val = none →
    s.dev.ownObj t.val f.obj = true → s.dev.get (R.TTA_SYNC_TYPE.at f.obj) = 1 → x.storable (f.addr : Int) = true →
    (f.kind = 0 → (f.addr < f.loc ∨ f.loc + f.words ≤ f.addr) ∧ ∀ i, i < n → x.storable ((f.loc + i : Nat) : Int) = true) →
    (∀ st ws d₁, f.status = 0 → f.kind = 0 → s.dev.pageAwaited f.remote (8 * f.words) = false → f.loc + f.words ≤ 8192 →
      s.dev.gather (s.dev.tileSlot t.val) (((s.dev.tileGraph t.val).map (·.1)).getD 1024) f.remote f.words = ((st, ws), d₁) →
      ws.length = f.words →
      Completes (.xferComplete t f.id) s fun d =>
        (d.tile t.val).word f.addr = { v := ((x.word f.addr).v &&& 0x00FFFFFFFFFFFFFF#64) ||| (BitVec.ofNat 64 st <<< 56)
                                       p := (x.word f.addr).p } ∧
        (∀ i, i < f.words → (d.tile t.val).word (f.loc + i) = { v := (ws.getD i {}).v, p := (ws.getD i {}).p || f.poison }) ∧
        (∀ b, b ≠ f.addr → (b < f.loc ∨ f.loc + f.words ≤ b) → (d.tile t.val).word b = x.word b) ∧
        (d.tile t.val).xfers = x.xfers.filter (fun g => g.id != f.id) ∧
        d.get (R.TTA_SYNC_VALUE.at f.obj) = min (s.dev.get (R.TTA_SYNC_VALUE.at f.obj) + 1) (2 ^ 32 - 1) ∧
        d.tdu = s.dev.tdu ∧ (∀ u, u ≠ t.val → d.tile u = s.dev.tile u)) ∧
    ((f.status ≠ 0 ∨ f.kind = 3 ∨ (f.kind = 1 ∧ s.dev.pageAwaited f.remote (8 * f.words) = false)) →
      Completes (.xferComplete t f.id) s fun d =>
        (d.tile t.val).word f.addr = { v := ((x.word f.addr).v &&& 0x00FFFFFFFFFFFFFF#64) ||| (BitVec.ofNat 64 f.status <<< 56)
                                       p := (x.word f.addr).p } ∧
        (d.tile t.val).xfers = x.xfers.filter (fun g => g.id != f.id) ∧
        (∀ b, b ≠ f.addr → (d.tile t.val).word b =
          if f.status ≠ 0 ∧ f.kind = 0 ∧ f.loc ≤ b ∧ b < f.loc + n then { v := 0, p := true } else x.word b) ∧
        d.tile t.val = { x with sram := (d.tile t.val).sram, xfers := (d.tile t.val).xfers } ∧
        d.get (R.TTA_SYNC_VALUE.at f.obj) = min (s.dev.get (R.TTA_SYNC_VALUE.at f.obj) + 1) (2 ^ 32 - 1) ∧
        d.tdu = s.dev.tdu ∧ d.tta = { s.dev.tta with tiles := d.tta.tiles, regs := d.tta.regs, hist := d.tta.hist } ∧
        (∀ u, u ≠ t.val → d.tile u = s.dev.tile u) ∧
        (∀ a, a ≠ (R.TTA_SYNC_VALUE.at f.obj).addr → d.word .tta a = s.dev.word .tta a) ∧
        (f.status = 0 ∧ f.kind = 3 →
          d.out = .mailbox t.val f.remote ((List.range f.words).map loaded) :: s.dev.out ∧ d.tta.hist = s.dev.tta.hist) ∧
        (f.status = 0 ∧ f.kind = 1 → d.out = s.dev.out ∧
          (∀ i, i < f.words → d.histAt (f.remote + 8 * i) = some { w := loaded i, gen := s.dev.storeGen (s.dev.tileSlot t.val) }) ∧
          (∀ b, (b / 8 < f.remote / 8 ∨ f.remote / 8 + f.words ≤ b / 8) → d.histAt b = s.dev.histAt b)) ∧
        (f.status ≠ 0 → d.out = s.dev.out ∧ d.tta.hist = s.dev.tta.hist))))

/-- R257: the inbox exchange, without duplicate placement. A waiting instruction is held in the tile.
R276, R277: signals and waits. -/
def Obligations.TileInboxAndSyncObjects : Prop :=
  (
  (∀ (f : IFmt) (t : Fin 10240) (s : State),
    let x := s.dev.tile t.val
    let g := t.val / 16 * 16 + f.d.toNat
    let w := x.reg f.a
    tileLegal (.nput t f {}) = true → TileReady t (.nput t f {}) s → s.dev.isShadow t.val = false → s.dev.shadowOf g = none → g ≠ t.val →
    (((s.dev.tile g).inboxWord f.imm.toNat).full = false →
      Completes (.nput t f {}) s fun d =>
        d.tile t.val = (x.folded 1 w.p (32 * f.d.toNat + f.imm.toNat) w.v).stepped (.nput t f {}) ∧
        d.tile g = (s.dev.tile g).setInbox f.imm.toNat { v := w.v, p := w.p, full := true } ∧
        d.tdu = s.dev.tdu ∧ d.pins = s.dev.pins ∧ d.out = s.dev.out ∧ d.freeIx = s.dev.freeIx ∧
        d.tta = { s.dev.tta with tiles := d.tta.tiles, regs := d.tta.regs } ∧ (∀ u, u ≠ t.val → u ≠ g → d.tile u = s.dev.tile u) ∧
        (∀ a, a ≠ (R.TTA_CNT_VALUE.at 12).addr → d.word .tta a = s.dev.word .tta a)) ∧
    (((s.dev.tile g).inboxWord f.imm.toNat).full = true →
      Completes (.nput t f {}) s fun d =>
        d = s.dev.setTile t.val { x with wait := some (.inbox (.nput t f {})) })) ∧
  (∀ f : IFmt, TileComputesWhen (.inrd · f {})
    (fun x => (x.inboxWord f.imm.toNat).full = true ∧ x.inq.find? (fun e => e.1 == f.imm.toNat) = none) fun x =>
    (x.setReg f.d { v := (x.inboxWord f.imm.toNat).v, p := (x.inboxWord f.imm.toNat).p }).setInbox f.imm.toNat
      { v := (x.inboxWord f.imm.toNat).v, p := (x.inboxWord f.imm.toNat).p, full := false }) ∧
  (∀ f t s, tileLegal (.inrd t f {}) = true → TileReady t (.inrd t f {}) s →
    ((s.dev.tile t.val).inboxWord f.imm.toNat).full = false →
    Completes (.inrd t f {}) s fun d => d = s.dev.setTile t.val { s.dev.tile t.val with wait := some (.inbox (.inrd t f {})) }) ∧
  (∀ (f : IFmt) (t : Fin 10240) (s : State),
    let x := s.dev.tile t.val
    x.wait = some (.inbox (.inrd t f {})) → x.stopped = false → (x.inboxWord f.imm.toNat).full = true →
    x.inq.find? (fun e => e.1 == f.imm.toNat) = none →
    Completes (.inboxWaitEnd t) s fun d =>
      d.tile t.val = ((x.setReg f.d { v := (x.inboxWord f.imm.toNat).v, p := (x.inboxWord f.imm.toNat).p }).setInbox f.imm.toNat
        { v := (x.inboxWord f.imm.toNat).v, p := (x.inboxWord f.imm.toNat).p, full := false }).stepped (.inrd t f {}) ∧
      TileFrame t (.inrd t f {}) s d)) ∧
  (
  (∀ (f : SFmt) (t : Fin 10240) (s : State),
    let x := s.dev.tile t.val
    let o := f.obj.toNat
    let n := f.count.toNat
    TileReady t (.ssig t f {}) s → s.dev.isShadow t.val = false → s.dev.ownObj t.val o = true → s.dev.get (R.TTA_SYNC_TYPE.at o) = 1 →
    Completes (.ssig t f {}) s fun d =>
      d.get (R.TTA_SYNC_VALUE.at o) = min (s.dev.get (R.TTA_SYNC_VALUE.at o) + max n 1) (2 ^ 32 - 1) ∧
      d.get (R.TTA_SYNC_TYPE.at o) = 1 ∧ d.get (R.TTA_SYNC_TARGET.at o) = s.dev.get (R.TTA_SYNC_TARGET.at o) ∧
      d.tile t.val = (x.folded 2 false o (BitVec.ofNat 64 n)).stepped (.ssig t f {}) ∧
      d.tdu = s.dev.tdu ∧ d.tta = { s.dev.tta with tiles := d.tta.tiles, regs := d.tta.regs } ∧
      (∀ u, u ≠ t.val → d.tile u = s.dev.tile u) ∧
      (∀ a, a ≠ (R.TTA_CNT_VALUE.at 12).addr → a ≠ (R.TTA_SYNC_VALUE.at o).addr → d.word .tta a = s.dev.word .tta a)) ∧
  (∀ (f : SFmt) (t : Fin 10240) (s : State),
    let x := s.dev.tile t.val
    let o := f.obj.toNat
    let n := f.count.toNat
    let reached := (s.dev.get (R.TTA_SYNC_TYPE.at o) = 1 ∧
        (if n = 0 then s.dev.get (R.TTA_SYNC_TARGET.at o) else n) ≤ s.dev.get (R.TTA_SYNC_VALUE.at o)) ∨
      s.dev.get (R.TTA_SYNC_TYPE.at o) = 2 ∨
      (s.dev.get (R.TTA_SYNC_TYPE.at o) = 3 ∧ s.dev.get (R.TTA_SYNC_VALUE.at o) % 4 ≠ 0)
    TileReady t (.swait t f {}) s → s.dev.ownObj t.val o = true →
    (reached → Completes (.swait t f {}) s fun d => d.tile t.val = x.stepped (.swait t f {}) ∧ TileFrame t (.swait t f {}) s d) ∧
    (¬ reached → s.dev.get (R.TTA_SYNC_TYPE.at o) ≠ 0 →
      Completes (.swait t f {}) s fun d => d = s.dev.setTile t.val { x with wait := some (.sync o n) })) ∧
  (∀ (t : Fin 10240) (o n : Nat) (s : State),
    (s.dev.tile t.val).wait = some (.sync o n) → (s.dev.tile t.val).stopped = false → s.dev.swaitDone o n = true →
    Completes (.syncWaitEnd t) s fun d =>
      d.tile t.val = (s.dev.tile t.val).stepped (.swait t ⟨0, 0⟩ {}) ∧ TileFrame t (.swait t ⟨0, 0⟩ {}) s d) ∧
  (∀ (f : SFmt) (t : Fin 10240) (s : State),
    let x := s.dev.tile t.val
    TileReady t (.swait t f {}) s → s.dev.ownObj t.val f.obj.toNat = false →
    Completes (.swait t f {}) s fun d =>
      d.tile t.val = ({ x with fault := true } : Tile).stepped (.swait t f {}) ∧
      d.get R.TTA_SYNC_STAT_FOREIGN = min (s.dev.get R.TTA_SYNC_STAT_FOREIGN + 1) (2 ^ 32 - 1) ∧
      d.tta = { s.dev.tta with tiles := d.tta.tiles, regs := d.tta.regs, recorder := d.tta.recorder, rpt := d.tta.rpt } ∧
      (∀ o, d.get (R.TTA_SYNC_VALUE.at o) = s.dev.get (R.TTA_SYNC_VALUE.at o))))

/-- R183: the die index of a TDU.
R180 to R185, R512: training. No descriptor is mirrored on a port (what a port that goes DOWN does to one is another statement). -/
def Obligations.LinkTrainingAndDieIndex : Prop :=
  (
  ∀ (p : Fin 2) (t : Train) (s : State), s.dev.tta.mirrored = [] → (s.dev.port (.tdu p)).phase = 4 → t.role = 1 →
    t.version = 1 → t.minVersion.toNat ≤ 1 →
    (t.ttaId.toNat % 2 = p.val → (s.dev.bit R.TDU_DIE_VALID = true → s.dev.get R.TDU_DIE_DIE = t.port.toNat) → t.port.toNat < 16 →
      (p.val = 0 ∨ s.dev.get (tlState (.tdu 0)) = 0) →
      Completes (.trainFrame (.tdu p) true t) s fun d =>
        d.get R.TDU_DIE_DIE = t.port.toNat ∧ d.bit R.TDU_DIE_VALID = true ∧ (d.port (.tdu p)).phase = 5 ∧ (d.port (.tdu p)).peer = some t ∧
        LinkFrame (.tdu p) s d) ∧
    (s.dev.get (tlState (.tdu p)) ≠ 0 →
      (t.ttaId.toNat % 2 ≠ p.val ∨ (s.dev.bit R.TDU_DIE_VALID = true ∧ s.dev.get R.TDU_DIE_DIE ≠ t.port.toNat)) →
      Completes (.trainFrame (.tdu p) true t) s fun d =>
        d.get (tlState (.tdu p)) = 0 ∧ (d.port (.tdu p)).refused = true ∧ d.get R.TDU_DIE_DIE = s.dev.get R.TDU_DIE_DIE ∧
        LinkFrame (.tdu p) s d)) ∧
  (
  ∀ (e : LinkEnd) (s : State), s.dev.tta.mirrored = [] →
  let P := s.dev.port e
  let act := s.dev.get (tlActive e)
  let ret := s.dev.get (tlRetired e)
  let shown (n : Nat) : Nat := if P.inRetrain then 7 else n
  -- LINK_ENABLE 1 and LINK_RETRY_TIMER start training
  (s.dev.get (tlState e) = 0 → s.dev.portAllowed e = true → laneMask e - (laneMask e &&& ret) ≠ 0 →
    (Completes (.linkEnable e true) s fun d =>
      d.get (tlState e) = 1 ∧ (d.port e).phase = 1 ∧ d.get (tlActive e) = laneMask e - (laneMask e &&& ret) ∧ d.get (tlRetired e) = ret ∧
      d.bit (tlEnable e) = true ∧ (d.port e).refused = false ∧ d.out = .wakePattern e (s.dev.wakeShort (endPart e)) :: s.dev.out ∧
      LinkFrame e s d) ∧
    (P.retryWait = true → P.refused = false → s.dev.bit (tlEnable e) = true →
      Completes (.linkRetryTimer e) s fun d =>
        d.get (tlState e) = 1 ∧ (d.port e).phase = 1 ∧ (d.port e).retryWait = false ∧
        d.get (tlActive e) = laneMask e - (laneMask e &&& ret) ∧ d.out = .wakePattern e (s.dev.wakeShort (endPart e)) :: s.dev.out ∧
        LinkFrame e s d)) ∧
  -- LINK_ENABLE 0 from any state but DOWN
  (s.dev.get (tlState e) ≠ 0 →
    Completes (.linkEnable e false) s fun d =>
      d.get (tlState e) = 0 ∧ (d.port e).phase = 0 ∧ d.bit (tlEnable e) = false ∧ (d.port e).strict.replay = [] ∧ (d.port e).weighted.replay = [] ∧
      (d.port e).queue = P.queue ∧
      d.get (tlLost e) = min (s.dev.get (tlLost e) +
        if s.dev.get (tlState e) = 6 ∨ s.dev.get (tlState e) = 7 then P.strict.replay.length + P.weighted.replay.length else 0) 255 ∧
      LinkFrame e s d) ∧
  -- WAKE to LOCK
  (P.phase = 1 → Completes (.wakePatternDone e) s fun d =>
    (d.port e) = { P with phase := 2 } ∧ d.get (tlState e) = shown 2 ∧ d.out = s.dev.out ∧ LinkFrame e s d) ∧
  -- LOCK to DESKEW: the lanes that locked go on
  (∀ locked : BitVec 8, P.phase = 2 → act &&& locked.toNat ≠ 0 →
    Completes (.lockAchieved e locked) s fun d =>
      (d.port e) = { P with phase := 3 } ∧ d.get (tlState e) = shown 3 ∧ d.get (tlActive e) = act &&& locked.toNat ∧
      d.get (tlRetired e) = ret ||| (act - (act &&& locked.toNat)) ∧ d.out = s.dev.out ∧ LinkFrame e s d) ∧
  -- DESKEW to PARAM: TRAIN goes out
  (∀ skewed : BitVec 8, P.phase = 3 → act - (act &&& skewed.toNat) ≠ 0 →
    Completes (.deskewDone e skewed) s fun d => ∃ t : Train,
      (d.port e) = { P with phase := 4 } ∧ d.get (tlState e) = shown 4 ∧ d.get (tlActive e) = act - (act &&& skewed.toNat) ∧
      d.get (tlRetired e) = ret ||| (act &&& skewed.toNat) ∧ d.out = .train e t :: s.dev.out ∧
      t.lanes = BitVec.ofNat 8 (act - (act &&& skewed.toNat)) ∧ t.role.toNat = (match e with | .tta _ => 1 | .tdu _ => 0) ∧
      t.port.toNat = endPort e ∧ 64 * t.credS.toNat = (match e with | .tta p => if p.val = 16 then 16384 else 8192 | .tdu _ => 4096) ∧
      64 * t.credW.toNat = (match e with | .tta p => if p.val = 16 then 262144 else 65536 | .tdu _ => 16384) ∧ LinkFrame e s d) ∧
  -- PARAM: a TRAIN that R182 and R183 accept, at a TTA end
  (∀ (p : Fin 17) (t : Train), e = .tta p → P.phase = 4 → t.role.toNat = (if p.val = 16 then 1 else 0) →
    (s.dev.ownTrain e).minVersion.toNat ≤ min (s.dev.ownTrain e).version.toNat t.version.toNat →
    t.minVersion.toNat ≤ min (s.dev.ownTrain e).version.toNat t.version.toNat →
    Completes (.trainFrame e true t) s fun d =>
      (d.port e) = { P with phase := 5, peer := some t, version := min (s.dev.ownTrain e).version.toNat t.version.toNat, echoes := 0 } ∧
      d.get (tlState e) = shown 5 ∧ d.out = s.dev.out ∧ LinkFrame e s d) ∧
  -- PARAM: a TRAIN of another role or too old a version is refused
  (∀ t : Train, P.phase = 4 → s.dev.get (tlState e) ≠ 0 →
    (min (s.dev.ownTrain e).version.toNat t.version.toNat < t.minVersion.toNat ∨ t.role.toNat = 2) →
    Completes (.trainFrame e true t) s fun d =>
      d.get (tlState e) = 0 ∧ (d.port e).refused = true ∧ (d.port e).retryWait = false ∧ LinkFrame e s d) ∧
  -- a training state fails
  (P.phase = 2 ∨ P.phase = 3 ∨ P.phase = 4 ∨ P.phase = 5 → s.dev.get (tlState e) ≠ 0 →
    (P.inRetrain = false ∨ 2 ≤ P.tries → Completes (.trainingStateTimeout e) s fun d =>
      d.get (tlState e) = 0 ∧ (d.port e).phase = 0 ∧ (d.port e).retryWait = true ∧ (d.port e).strict.replay = [] ∧ LinkFrame e s d) ∧
    (P.inRetrain = true → P.tries < 2 → Completes (.trainingStateTimeout e) s fun d =>
      (d.port e) = { P with phase := 2, tries := P.tries + 1 } ∧ d.get (tlState e) = 7 ∧ LinkFrame e s d)))

/-- R166, R176, R177, R179, R180, R185: retraining, lanes, retry and credits of an UP port. -/
def Obligations.LinkLanesAndRetry : Prop :=
  ∀ (e : LinkEnd) (s : State), s.dev.tta.mirrored = [] → s.dev.get (tlState e) = 6 →
  let P := s.dev.port e
  let act := s.dev.get (tlActive e)
  let ret := s.dev.get (tlRetired e)
  let without (n : Nat) : Nat := act - (act &&& 2 ^ n)
  (Completes (.linkRetrain e) s fun d =>
    d.get (tlState e) = 7 ∧ (d.port e).phase = 2 ∧ (d.port e).inRetrain = true ∧ (d.port e).current = none ∧
    (d.port e).strict.replay = P.strict.replay ∧ (d.port e).weighted.replay = P.weighted.replay ∧
    d.get (tlRetrains e) = min (s.dev.get (tlRetrains e) + 1) 255 ∧
    (P.clrPending = false → d.get (tlActive e) = act ∧ d.get (tlRetired e) = ret) ∧
    (P.clrPending = true → d.get (tlActive e) = act ||| ret ∧ d.get (tlRetired e) = 0) ∧ LinkFrame e s d) ∧
  (Completes (.retireClr e) s fun d => d = s.dev.setPort e { P with clrPending := true }) ∧
  (∀ ln : Fin 8, P.clrPending = false → act.testBit ln.val = true → without ln.val ≠ 0 →
    (∀ f, f = .syncHeaders ln ∨ f = .blockLock ln → Completes (.laneFault e f) s fun d =>
      d.get (tlActive e) = without ln.val ∧ d.get (tlRetired e) = ret ||| 2 ^ ln.val ∧ d.get (tlState e) = 7 ∧
      (d.port e).strict.replay = P.strict.replay ∧ Out.lane e ln.val 1 ∈ d.out ∧ LinkFrame e s d) ∧
    (Completes (.lane e true (BitVec.ofNat 8 ln.val) 1) s fun d =>
      d.get (tlActive e) = without ln.val ∧ d.get (tlRetired e) = ret ||| 2 ^ ln.val ∧ d.get (tlState e) = 7 ∧
      (d.port e).strict.replay = P.strict.replay ∧ Out.lane e ln.val 2 ∈ d.out ∧ LinkFrame e s d)) ∧
  (P.clrPending = false → Completes (.laneFault e .allLanes) s fun d =>
    d.get (tlActive e) = act ∧ d.get (tlRetired e) = ret ∧ d.get (tlState e) = 7 ∧ LinkFrame e s d) ∧
  (∀ ss ws : BitVec 12, Completes (.ackBlock e true ss false ws false) s fun d =>
    (∀ f : Frame, f ∈ (d.port e).strict.replay ↔ f ∈ P.strict.replay ∧ seqLater f.seq ss.toNat = true) ∧
    (∀ f : Frame, f ∈ (d.port e).weighted.replay ↔ f ∈ P.weighted.replay ∧ seqLater f.seq ws.toNat = true) ∧
    (d.port e).queue = P.queue ∧ d = s.dev.setPort e (d.port e)) ∧
  (∀ (ss ws : BitVec 12) (f : Frame), f ∈ P.strict.replay → f.seq = ss.toNat → P.strict.replayRun = none →
    Completes (.ackBlock e true ss true ws false) s fun d =>
      (d.port e).strict.resendFrom = some ss.toNat ∧ d.get (tlReplays e) = min (s.dev.get (tlReplays e) + 1) 65535 ∧
      (d.port e).current = none ∧ (∀ g ∈ P.strict.replay, seqLater g.seq ((ss.toNat + 4095) % 4096) = true → g ∈ (d.port e).strict.replay)) ∧
  (∀ ss ws : BitVec 16, Completes (.credit e true ss ws) s fun d =>
    d = s.dev.setPort e { P with strict := { P.strict with credFreedByPeer := ss.toNat }
                                 weighted := { P.weighted with credFreedByPeer := ws.toNat } }) ∧
  (Completes (.creditReturn e) s fun d => d = s.dev.emit (.credit e P.strict.credFreed P.weighted.credFreed)) ∧
  (∀ (strict : Bool) (f : Frame) (l : List Frame) (tick : Nat), (P.space strict).replay = f :: l → (P.space strict).resendFrom = none →
    (P.space strict).replayRun = none → f.sentAt + (if strict then 800 else 4000) ≤ tick →
    Completes (.replayTimeout e strict tick) s fun d =>
      ((d.port e).space strict).resendFrom = some f.seq ∧ ((d.port e).space strict).replay = f :: l ∧
      d.get (tlReplays e) = min (s.dev.get (tlReplays e) + 1) 65535 ∧ d.get (tlState e) = 6) ∧
  (Completes (.abortBlock e) s fun d => d = s.dev) ∧
  (∀ (c : Instr) (a b : BitVec 8) (sq wq : BitVec 12) (n m : Bool) (sc wc : BitVec 16),
    c = .lane e false a b ∨ c = .ackBlock e false sq n wq m ∨ c = .credit e false sc wc →
    Completes c s fun d => d.get (tlCtlErr e) = min (s.dev.get (tlCtlErr e) + 1) 255 ∧ d.port e = P ∧ d.get (tlState e) = 6 ∧ d.out = s.dev.out)

/-- R175, R177, R179, R188: the frame boundary of a port whose egress buffer holds nothing back.
R188, at a TTA port whose finish tags have not wrapped.
R194, R195, R197. -/
def Obligations.EgressOrderAndSlots : Prop :=
  (
  ∀ (e : LinkEnd) (tick : Nat) (s : State), s.dev.isUp e = true →
  s.dev.tdu.smp.spill = [] → s.dev.tdu.smp.held = [] → s.dev.tdu.smp.stampQueue = [] →
  let P := s.dev.port e
  (P.current = none → P.strict.resendFrom = none → P.weighted.resendFrom = none →
    (∀ f : Frame, P.head 0 = some f → P.creditsOk f = true → P.replayRoom f = true →
      Completes (.frameBoundary e tick) s fun d => ∃ g : Frame,
        d.out = .frame e g false :: s.dev.out ∧ (d.port e).current = some (g, false) ∧ g.cls = f.cls ∧ g.seq = P.strict.nextSeq ∧
        (∀ l, f.payload = .stamps l → g.payload = .stamps l) ∧ (∀ l, f.payload = .hint l → g.payload = .hint l) ∧
        (d.port e).queue = P.queue.eraseP (fun x => x.cls.val = 0) ∧ (d.port e).strict.replay = P.strict.replay) ∧
    (P.queue = [] → Completes (.frameBoundary e tick) s fun d =>
      d.out = .idle e :: s.dev.out ∧ (d.port e).current = none ∧ (d.port e).queue = [])) ∧
  (∀ (f : Frame) (q : Nat), P.current = none → P.strict.resendFrom = some q → P.strict.replay.find? (fun x => x.seq = q) = some f →
    Completes (.frameBoundary e tick) s fun d =>
      d.out = .frame e f true :: s.dev.out ∧ (d.port e).current = some (f, true) ∧ (d.port e).queue = P.queue) ∧
  (∀ f : Frame, P.current = some (f, false) → f.cls.val < 4 → P.strict.resendFrom = none → P.weighted.resendFrom = none → P.queue = [] →
    Completes (.frameBoundary e tick) s fun d =>
      (d.port e).strict.replay = P.strict.replay ++ [{ f with sentAt := max (s.dev.tb (endPart e)).tick tick }] ∧
      (d.port e).strict.nextSeq = (P.strict.nextSeq + 1) % 4096 ∧ (d.port e).strict.credTaken = P.strict.credTaken + ceilDiv (8 * f.words + 16) 64 ∧
      (d.port e).current = none ∧ d.out = .idle e :: s.dev.out)) ∧
  (
  ∀ (p : Fin 17) (l : LinkPort) (d : Dev),
    let ok (c : Nat) : Prop := ∃ f, l.head c = some f ∧ l.creditsOk f = true ∧ l.replayRoom f = true
    let strict (c : Nat) : Prop := ok c ∧ (c = 2 → 0 < l.tokens2) ∧ (c = 3 → 0 < l.tokens3)
    let ready (c : Nat) : Prop := ok c ∧ ∃ f, l.head c = some f ∧ d.quietOk .tta (wireNs (popMask (d.get (tlActive (.tta p)))) f) = true
    l.tagW0 < 2 ^ 47 → l.tagW1 < 2 ^ 47 → l.tagW2 < 2 ^ 47 → l.tagW3 < 2 ^ 47 →
    (∀ c, d.selectClass (.tta p) l = some c →
      c < 8 ∧
      (c < 4 → strict c ∧ ∀ b, b < c → ¬ strict b) ∧
      (4 ≤ c → ready c ∧ (∀ b, b < 4 → ¬ strict b) ∧
        ∀ b, 4 ≤ b → b < 8 → ready b → l.tag c < l.tag b ∨ (l.tag c = l.tag b ∧ c ≤ b))) ∧
    (d.selectClass (.tta p) l = none → (∀ b, b < 4 → ¬ strict b) ∧ ∀ b, 4 ≤ b → b < 8 → ¬ ready b)) ∧
  (
  (∀ s : State, s.dev.timeValid .tta = true → s.dev.bit R.TTA_EGR_SLOT_CTL_PENDING = false →
    Completes .slotTableCommit s fun d => ∃ b : Nat,
      b % 10000000 = 0 ∧ s.dev.nowNs .tta + 100000 ≤ b ∧ b < s.dev.nowNs .tta + 10100000 ∧
      d.tta.slots = { s.dev.tta.slots with next := some (b, s.dev.shadowBank) } ∧ d.bit R.TTA_EGR_SLOT_CTL_PENDING = true ∧
      (∀ p, p < 16 → (d.port (ttaEnd p)).queue = (s.dev.port (ttaEnd p)).queue ++
        if s.dev.isUp (ttaEnd p) then [{ payload := .control 0 false (.slotTable b s.dev.shadowBank), cls := 2, prot := true, fwd := none
                                         allotIdx := 0, len := 272, seq := 0, sentAt := 0 }] else []) ∧
      d.tdu = s.dev.tdu ∧ d.out = s.dev.out) ∧
  (∀ s : State, s.dev.bit R.TTA_EGR_SLOT_CTL_PENDING = true → Completes .slotTableCommit s fun d => d = s.dev) ∧
  (∀ (p : Part) (tick b : Nat) (new : List SlotWin) (s : State), (s.dev.slotTable p).next = some (b, new) →
    (s.dev.advance p tick).timeValid p = true → b ≤ (s.dev.advance p tick).nowNs p →
    Completes (.slotTableSwitch p tick) s fun d =>
      d.slotTable p = { active := new, next := none, bank := !(s.dev.slotTable p).bank } ∧
      (p = .tta → d.bit R.TTA_EGR_SLOT_CTL_PENDING = false ∧ d.bit R.TTA_EGR_SLOT_CTL_BANK = !(s.dev.slotTable p).bank ∧ d.tdu = s.dev.tdu) ∧
      (p = .tdu → d.tta = s.dev.tta) ∧ d.out = s.dev.out) ∧
  (∀ (a : Nat) (arr : List ArbReq) (s : State),
    let x := Memory.read (fun _ => {}) s.dev.tta.arbiters a
    let stamp := s.dev.stamp .tta
    let pend := x.pending ++ arr.map fun r => { req := r, deadline := r.deadline.getD s.dev.slackDeadline, hinted := none }
    pend ≠ [] →
    (s.dev.bit R.TTA_ARB_CTL_MODE = true → Completes (.arbiterGrant a arr) s fun d => ∃ g ∈ pend,
      Out.grant a g.req.index ∈ d.out ∧ (Memory.read (fun _ => {}) d.tta.arbiters a).pending.length + 1 = pend.length ∧
      (∀ r ∈ pend, arbKey stamp g < arbKey stamp r ∨ (arbKey stamp g = arbKey stamp r ∧ g.req.index ≤ r.req.index)) ∧
      d.get R.TTA_ARB_CTL_OVERDUE =
        min (s.dev.get R.TTA_ARB_CTL_OVERDUE + if (g.deadline - stamp).toInt < 0 then 1 else 0) (2 ^ 32 - 1) ∧
      (∀ b, b ≠ a → Memory.read (fun _ => {}) d.tta.arbiters b = Memory.read (fun _ => {}) s.dev.tta.arbiters b) ∧
      d.tdu = s.dev.tdu ∧ d.tta = { s.dev.tta with regs := d.tta.regs, arbiters := d.tta.arbiters }) ∧
    (s.dev.bit R.TTA_ARB_CTL_MODE = false → Completes (.arbiterGrant a arr) s fun d => ∃ g ∈ pend,
      Out.grant a g.req.index ∈ d.out ∧ (Memory.read (fun _ => {}) d.tta.arbiters a).lastIndex = g.req.index ∧
      ((∃ r ∈ pend, x.lastIndex < r.req.index) → x.lastIndex < g.req.index ∧ ∀ r ∈ pend, x.lastIndex < r.req.index → g.req.index ≤ r.req.index) ∧
      ((∀ r ∈ pend, r.req.index ≤ x.lastIndex) → ∀ r ∈ pend, g.req.index ≤ r.req.index))))

/-- R193, R194: a frame that fits before the quiet windows meets none of them. -/
def Obligations.QuietWindows : Prop :=
  ∀ (tb : SlotTable) (t wire : Nat), fitsBeforeQuiet tb t wire = true → (∀ b new, tb.next = some (b, new) → t < b) →
    ∀ u, t ≤ u → u < t + wire →
      (tb.next = none → windowOpen tb.active u = false) ∧
      (∀ b new, tb.next = some (b, new) → (u < b → windowOpen tb.active u = false) ∧ (b ≤ u → windowOpen new u = false))

/-- R175 to R179: acceptance, as every command that brings a frame applies it. -/
def Obligations.FrameAcceptance : Prop :=
  ∀ (e : LinkEnd) (prot : Bool) (h : RxHdr) (d : Dev),
  let r := d.acceptFrame e prot h
  let st := decide (h.cls.val < 4)
  let x := (d.port e).space st
  let y := (r.2.port e).space st
  (d.isUp e = false → r = (false, d)) ∧
  (d.isUp e = true →
    (r.1 = true ↔ h.crcOk = true ∧ h.prot = prot ∧ h.seq.toNat = x.expect ∧ (prot = true → h.tagOk = true)) ∧
    (r.1 = true → Received e h d r.2 ∧ (r.2.port e).lastRx = (d.tb (endPart e)).tick ∧
      (∃ ss ws, r.2.out = .ack e ss false ws false :: d.out ∧ (if st then ss else ws) = (y.expect + 4095) % 4096)) ∧
    (h.crcOk = false → y.expect = x.expect ∧ y.credFreed = x.credFreed ∧ r.2.get (tlCrcErr e) = min (d.get (tlCrcErr e) + 1) (2 ^ (tlCrcErr e).width - 1)) ∧
    (h.crcOk = true → h.prot = prot → h.seq.toNat ≠ x.expect → y.expect = x.expect ∧ y.credFreed = x.credFreed ∧
      (seqLater h.seq.toNat x.expect = false → ∃ ss ws, r.2.out = .ack e ss false ws false :: d.out ∧ (if st then ss else ws) = (x.expect + 4095) % 4096)) ∧
    (h.crcOk = true → prot = true → h.prot = true → h.seq.toNat = x.expect → h.tagOk = false →
      (x.tagFailed ≠ some x.expect → y.expect = x.expect ∧ y.tagFailed = some x.expect ∧ y.credFreed = x.credFreed) ∧
      (x.tagFailed = some x.expect → Received e h d r.2 ∧ r.2.get (tlTagDrop e) = min (d.get (tlTagDrop e) + 1) (2 ^ (tlTagDrop e).width - 1))) ∧
    r.2.get (tlState e) = 6 ∧ (r.2.port e).queue = (d.port e).queue ∧ LinkFrame e { dev := d, pending := [] } r.2)

/-- R98, R120, R129, R172, R194, R219, R372, R427, R451, R476, R496: the CONTROL messages, alone or after another of their frame. A trigger of a
cause other than ANOMALY carries no ORIGIN. RESET messages are stated with the other resets.
R24, R73, R173, R393, R426, R427. -/
def Obligations.TduMessagesAndOrders : Prop :=
  (
  ∀ (p : Fin 2) (h : Option RxHdr) (tag : BitVec 32) (ackReq : Bool) (s : State), TakesControl p h s.dev →
  let Keeps (d : Dev) (t : Tdu) : Prop := d.tdu = { t with link0 := d.tdu.link0, link1 := d.tdu.link1, bank := d.tdu.bank }
  (∀ (off : BitVec 16) (mask v : W64), let o := off.toNat / 8 * 8
    let K (a : Nat) := 0x4000 + 8 * a
    (∀ a, 0 < a → a < 64 → o = 0x5200 + 8 * a → p = s.dev.tdu.time.srcPort → Completes (.regWrite p h tag ackReq off mask v) s fun d =>
      d.word .tdu o = maskPut (s.dev.word .tdu o) mask v &&& 0x7FFFF ∧ RegsKept .tdu [o, K a] s d ∧
      (s.dev.mapValid a = false → d.mapValid a = true → d.get (R.TDU_CHK_K_K_REQ.at a) = 8) ∧
      (s.dev.mapValid a = true → d.mapValid a = false → a ∈ d.tdu.smp.cleared) ∧
      Answered p h tag ackReq 0 s d ∧ Keeps d { s.dev.tdu with regs := d.tdu.regs, smp := { s.dev.tdu.smp with cleared := d.tdu.smp.cleared } }) ∧
    (0x5200 ≤ o ∧ o < 0x5400 → o = 0x5200 ∨ p ≠ s.dev.tdu.time.srcPort → Completes (.regWrite p h tag ackReq off mask v) s fun d =>
      Answered p h tag ackReq 0 s d ∧ Keeps d s.dev.tdu) ∧
    (∀ a, a < 64 → o = K a → Completes (.regWrite p h tag ackReq off mask v) s fun d =>
      d.word .tdu o = maskPut (s.dev.word .tdu o) (mask &&& 0x1F1F) v ∧ RegsKept .tdu [o] s d ∧
      Answered p h tag ackReq 0 s d ∧ Keeps d { s.dev.tdu with regs := d.tdu.regs }) ∧
    (o = 8 → p = s.dev.tdu.time.srcPort → Completes (.regWrite p h tag ackReq off mask v) s fun d =>
      d.word .tdu o = maskPut (s.dev.word .tdu o) (mask &&& 7) v ∧ RegsKept .tdu [o] s d ∧
      Answered p h tag ackReq 0 s d ∧ Keeps d { s.dev.tdu with regs := d.tdu.regs }) ∧
    (∀ n, n < 8 → o = 0x6840 + 8 * n → (s.dev.tslot n).shadow = none → s.dev.tvalid n = false ∨ s.dev.tstate n = 0 →
      R.TDU_TRC_SLOT_CFG_VALID.read (maskPut (s.dev.word .tdu o) mask v) ≠ 0 → Completes (.regWrite p h tag ackReq off mask v) s fun d =>
      d.word .tdu o = maskPut (s.dev.word .tdu o) mask v ∧ RegsKept .tdu [o] s d ∧
      Answered p h tag ackReq 0 s d ∧ Keeps d { s.dev.tdu with regs := d.tdu.regs, trc := d.tdu.trc }) ∧
    (o ≠ 8 → o < 0x4000 ∨ 0x4200 ≤ o → o < 0x5200 ∨ 0x5400 ≤ o → o < 0x6840 ∨ 0x6880 ≤ o →
      Completes (.regWrite p h tag ackReq off mask v) s fun d => Answered p h tag ackReq 4 s d ∧ Keeps d s.dev.tdu)) ∧
  (∀ (slots cause : BitVec 8) (start stop : Bool) (origin : BitVec 32), Completes (.controlTrigger p h tag ackReq slots start stop cause origin) s fun d =>
    Answered p h tag ackReq 0 s d ∧ Keeps d { s.dev.tdu with trc := { s.dev.tdu.trc with trigs := s.dev.tdu.trc.trigs ++
      [{ slots := slots.toNat, start := start, stop := stop, cause := cause.toNat, origin := if cause = 2 then some origin else none }] } }) ∧
  (RecorderRoom .tdu s → Completes (.partnerQuery p h tag ackReq) s fun d =>
    Recorded .tdu 0x3135 [1 - p.val, min (s.dev.tdu.time.base.tick - (s.dev.port (.tdu (1 - p))).lastRx) (2 ^ 32 - 1)] s d ∧
    Answered p h tag ackReq 0 s d ∧ Keeps d { s.dev.tdu with recorder := { s.dev.tdu.recorder with queue := d.tdu.recorder.queue } }) ∧
  (∀ on : Bool, Completes (.park p h tag ackReq on) s fun d =>
    (d.port (.tdu p)).parked = on ∧ Answered p h tag ackReq 0 s d ∧ Keeps d s.dev.tdu) ∧
  (∀ (boundary : W64) (l : List SlotWin), Completes (.slotTable p h tag ackReq boundary l) s fun d => ∃ b,
    (s.dev.timeValid .tdu = true → boundary.toNat < s.dev.nowNs .tdu → b % 10000000 = 0 ∧ s.dev.nowNs .tdu < b ∧ b ≤ s.dev.nowNs .tdu + 10000000) ∧
    (s.dev.timeValid .tdu = false ∨ s.dev.nowNs .tdu ≤ boundary.toNat → b = boundary.toNat) ∧
    Answered p h tag ackReq 0 s d ∧ Keeps d { s.dev.tdu with slots := { s.dev.tdu.slots with next := some (b, l.take 32) } }) ∧
  (∀ on : Bool, Completes (.mirror p h tag ackReq on) s fun d =>
    d.bit R.TDU_Q_MIRROR_EN = on ∧ RegsKept .tdu [R.TDU_Q_MIRROR_EN.addr] s d ∧
    Answered p h tag ackReq 0 s d ∧ Keeps d { s.dev.tdu with regs := d.tdu.regs }) ∧
  (∀ t : W64, s.dev.bit R.TDU_SNAP_STAT_BUSY = false →
    (s.dev.timeValid .tdu = true ∧ s.dev.nowNs .tdu < t.toNat → Completes (.snapshot p h tag ackReq t) s fun d =>
      d.tdu.snap = some { tNs := t.toNat, source := 4 } ∧ d.bit R.TDU_SNAP_STAT_BUSY = true ∧ d.bit R.TDU_SNAP_STAT_VALID = false ∧
      d.bit R.TDU_SNAP_STAT_LATE = false ∧ d.tdu.latched = s.dev.tdu.latched ∧ RegsKept .tdu [R.TDU_SNAP_STAT_BUSY.addr] s d ∧
      Answered p h tag ackReq 0 s d ∧ Keeps d { s.dev.tdu with regs := d.tdu.regs, snap := d.tdu.snap }) ∧
    (s.dev.timeValid .tdu = false ∨ t.toNat ≤ s.dev.nowNs .tdu → Completes (.snapshot p h tag ackReq t) s fun d =>
      d.tdu.snap = none ∧ d.bit R.TDU_SNAP_STAT_BUSY = false ∧ d.bit R.TDU_SNAP_STAT_VALID = true ∧ d.bit R.TDU_SNAP_STAT_LATE = true ∧
      d.tdu.latched.isSome = true ∧ d.get R.TDU_SNAP_STAT_STAMP = (s.dev.stamp .tdu).toNat ∧ RegsKept .tdu [R.TDU_SNAP_STAT_BUSY.addr] s d ∧
      Answered p h tag ackReq 0 s d ∧ Keeps d { s.dev.tdu with regs := d.tdu.regs, snap := none, latched := d.tdu.latched }))) ∧
  (
  (∀ (p : Fin 2) (h : RxHdr) (x : Hint) (s : State), Accepts (.tdu p) h s.dev →
    let fresh : Hint := if 80000 < (s.dev.stamp .tdu - x.stamp).toNat then { x with flags := x.flags ||| 1 } else x
    (s.dev.tdu.smp.hints = [] → (s.dev.tdu.smp.unpaired.find? fun e => e.1 = x.pipe.val) = none →
      Completes (.hintFrame (.tdu p) h [x]) s fun d =>
        d.tdu.smp.hints = [(p.val, fresh)] ∧ Out.hintOut fresh ∈ d.out ∧
        (d.tdu.smp.unpaired.find? fun e => e.1 = x.pipe.val) = some (x.pipe.val, p.val, x) ∧
        Received (.tdu p) h s.dev d ∧ d.tta = s.dev.tta) ∧
    (s.dev.tdu.smp.hints ≠ [] → s.dev.tdu.smp.hints.length < 256 → (s.dev.tdu.smp.unpaired.find? fun e => e.1 = x.pipe.val) = none →
      Completes (.hintFrame (.tdu p) h [x]) s fun d =>
        d.tdu.smp.hints = s.dev.tdu.smp.hints ++ [(p.val, x)] ∧ Received (.tdu p) h s.dev d ∧ d.tta = s.dev.tta) ∧
    (256 ≤ s.dev.tdu.smp.hints.length → (s.dev.tdu.smp.unpaired.find? fun e => e.1 = x.pipe.val) = none →
      Completes (.hintFrame (.tdu p) h [x]) s fun d =>
        d.tdu.smp.hints = s.dev.tdu.smp.hints ∧ d.counter 44 = s.dev.counter 44 + 1 ∧ Received (.tdu p) h s.dev d ∧ d.tta = s.dev.tta) ∧
    (∀ q : Nat, q ≠ p.val → (s.dev.tdu.smp.unpaired.find? fun e => e.1 = x.pipe.val) = some (x.pipe.val, q, x) →
      Completes (.hintFrame (.tdu p) h [x]) s fun d =>
        d.tdu.smp.hints = s.dev.tdu.smp.hints ∧ (d.tdu.smp.unpaired.find? fun e => e.1 = x.pipe.val) = none ∧ d.counter 28 = s.dev.counter 28 ∧
        d.tdu.recorder = s.dev.tdu.recorder ∧ Received (.tdu p) h s.dev d ∧ d.tta = s.dev.tta)) ∧
  (∀ (s : State) (a b : Nat × Hint) (l : List (Nat × Hint)), s.dev.tdu.smp.hints = a :: b :: l →
    Completes .hintAccepted s fun d => ∃ g : Hint, d.tdu.smp.hints = (b.1, g) :: l ∧ Out.hintOut g ∈ d.out ∧ d.counter 26 = s.dev.counter 26 + 1 ∧
      (80000 < (s.dev.stamp .tdu - b.2.stamp).toNat → g = { b.2 with flags := b.2.flags ||| 1 } ∧ d.counter 27 = s.dev.counter 27 + 1) ∧
      ((s.dev.stamp .tdu - b.2.stamp).toNat ≤ 80000 → g = b.2 ∧ d.counter 27 = s.dev.counter 27) ∧
      CountersKept [26, 27] s d ∧ d.tta = s.dev.tta ∧ d.tdu = { s.dev.tdu with
        smp := { s.dev.tdu.smp with hints := d.tdu.smp.hints }, bank := d.tdu.bank, trc := { s.dev.tdu.trc with trigs := d.tdu.trc.trigs } }) ∧
  (∀ (s : State) (a : Nat × Hint), s.dev.tdu.smp.hints = [a] → Completes .hintAccepted s fun d =>
    d.counter 26 = s.dev.counter 26 + 1 ∧ CountersKept [26] s d ∧ d.out = s.dev.out ∧
    d.tta = s.dev.tta ∧ d.tdu = { s.dev.tdu with smp := { s.dev.tdu.smp with hints := [] }, bank := d.tdu.bank }) ∧
  (∀ (p : Fin 2) (h : RxHdr) (tag : BitVec 32) (mask : BitVec 16) (s : State), Accepts (.tdu p) h s.dev →
    let named (u : Nat) : Prop := ∃ c, c < 16 ∧ mask.toNat.testBit c = true ∧ s.dev.get (R.TDU_CHK_CLASS_FIRST_UNIT.at c) ≤ u ∧
      u < s.dev.get (R.TDU_CHK_CLASS_FIRST_UNIT.at c) + s.dev.get (R.TDU_CHK_CLASS_UNIT_COUNT.at c)
    ((∀ u, ¬ named u) → Completes (.testOrder p h tag mask) s fun d =>
      (d.port (.tdu p)).queue = (s.dev.port (.tdu p)).queue ++ [queued 2 0 (.check tag (.testDone 0))] ∧
      d.tdu.chk = s.dev.tdu.chk ∧ Received (.tdu p) h s.dev d ∧ d.tta = s.dev.tta) ∧
    ((∃ u, named u) → Completes (.testOrder p h tag mask) s fun d => ∃ us : List Nat,
      (∀ u, u ∈ us ↔ named u) ∧ d.tdu.chk.orders = s.dev.tdu.chk.orders ++ [{ tag := tag, units := us, failures := 0 }] ∧
      (∀ u, named u → d.tdu.chk.testing = some u ∨ u ∈ d.tdu.chk.testQ) ∧
      Received (.tdu p) h s.dev d ∧ d.tta = s.dev.tta)) ∧
  (∀ (p : Fin 2) (h : RxHdr) (index : BitVec 16) (bs : List Byte) (s : State), Accepts (.tdu p) h s.dev → bs.length = 64 →
    let op := leAt bs 0 1
    let back (status : Nat) (f : Frame) : Prop := ∃ c : List Byte, f.payload = .ring 3 index 0 c ∧ c.length = 64 ∧ c.take 11 = bs.take 11 ∧ leAt c 11 1 = status
    let compl (status : Nat) (f : Frame) : Prop := ∃ c : List Byte, f.payload = .ring 4 index 0 c ∧ c.take 4 = leBytes 4 (leAt bs 4 4) ∧
      leAt c 4 1 = status ∧ leAt c 5 1 = op ∧ c.length = 16
    (op ≠ 0x70 → op ≠ 0x71 → op ≠ 0x72 → Completes (.ringDescriptor p h index bs) s fun d => ∃ f g : Frame,
      (d.port (.tdu p)).queue = (s.dev.port (.tdu p)).queue ++ [f, g] ∧ back 4 f ∧ compl 4 g ∧ Received (.tdu p) h s.dev d ∧ d.tta = s.dev.tta) ∧
    (op = 0x71 → (BitVec.ofNat 8 (leAt bs 1 1)).getLsbD 1 = false → leAt bs 2 2 = 0 → 256 ≤ leAt bs 8 3 → leAt bs 24 8 % 64 = 0 →
      Completes (.ringDescriptor p h index bs) s fun d => ∃ e f g : Frame,
        (d.port (.tdu p)).queue = (s.dev.port (.tdu p)).queue ++ [e, f, g] ∧
        e.payload = .ring 2 index 0 (((List.range 32).map fun i => leBytes 8 (d.counter i).toNat).flatten) ∧
        back 0 f ∧ compl 0 g ∧ Received (.tdu p) h s.dev d ∧ d.tta = s.dev.tta)))

/-- R429 to R434: the encoder of the die unit and the decoder of the aggregator agree on every chunk. -/
def Obligations.FastPackRoundTrip : Prop :=
  ∀ (stride off : Nat) (hdr : Option (List Byte)) (last : Bool) (ws : List Nat) (rest : List Byte),
    stride = 1 ∨ stride = 4 → off < 65536 → ws.length ≤ 64 → (∀ w ∈ ws, w < 2 ^ 64) → (∀ h, hdr = some h → h.length = 16) →
    let bs := encodeChunk stride hdr last off ws
    bs.length ≤ 8 + (hdr.getD []).length + 8 * ws.length ∧
    ∃ c : Chunk, readChunk (bs ++ rest) = some c ∧ c.len = bs.length ∧ c.hdr = hdr.isSome ∧ c.last = last ∧ c.off = off ∧ c.nwords = ws.length ∧
      (∀ h, hdr = some h → c.rest.take 16 = h) ∧ c.words stride = some ws

/-- R70, R71, R95 to R98, R103, R171. -/
def Obligations.TduCounting : Prop :=
  (∀ (lanes : List FlushWord) (s : State), s.dev.inD0 = true →
    let ws := lanes.take 4
    let shared (w : FlushWord) : Bool := kindShared (s.dev.grpKind (w.counter.toNat / 256))
    let mapped (w : FlushWord) : Bool := s.dev.mapValid w.allot.val
    let owned (w : FlushWord) : Bool := kindPrivate (s.dev.grpKind (w.counter.toNat / 256)) && s.dev.grpOwner (w.counter.toNat / 256) == w.allot.val
    let total (p : FlushWord → Bool) : BitVec 64 := BitVec.ofNat 64 ((ws.filter p).map fun w => w.incr.toNat).sum
    let number (p : FlushWord → Bool) : Nat := (ws.filter p).length
    Completes (.flushWord lanes) s fun d =>
      (∀ c, 256 ≤ c → d.counter c = s.dev.counter c + total fun w => w.counter.toNat == c && (shared w || (mapped w && owned w))) ∧
      (∀ a, a < 64 → d.counter (64 + 2 * a) = s.dev.counter (64 + 2 * a) + total fun w =>
        decide (256 ≤ w.counter.toNat) && !shared w && mapped w && !owned w && w.allot.val == a) ∧
      (∀ c, c = 17 ∨ c = 18 ∨ c = 19 → d.counter c = s.dev.counter c + total fun w => w.counter.toNat == c) ∧
      (∀ c, c < 64 → c ∉ ([2, 3, 4, 5, 6, 7, 8, 9, 17, 18, 19, 29, 37, 38] : List Nat) → d.counter c = s.dev.counter c) ∧
      d.counter 37 = s.dev.counter 37 + BitVec.ofNat 64 (number fun w => decide (256 ≤ w.counter.toNat) && !shared w && !mapped w) ∧
      d.get R.TDU_CNT_STAT_NO_ALLOT = min (s.dev.get R.TDU_CNT_STAT_NO_ALLOT + number fun w =>
        decide (256 ≤ w.counter.toNat) && !shared w && !mapped w) (2 ^ R.TDU_CNT_STAT_NO_ALLOT.width - 1) ∧
      d.get R.TDU_CNT_STAT_BAD_INDEX = min (s.dev.get R.TDU_CNT_STAT_BAD_INDEX + number fun w =>
        decide (w.counter.toNat < 256) && w.counter != 17 && w.counter != 18 && w.counter != 19) (2 ^ R.TDU_CNT_STAT_BAD_INDEX.width - 1) ∧
      RegsKept .tdu [R.TDU_CNT_STAT_BAD_INDEX.addr, R.TDU_TAP_STAT_DUP_COUNT.addr] s d ∧ d.tta = s.dev.tta ∧ d.out = s.dev.out ∧
      d.tdu = { s.dev.tdu with regs := d.tdu.regs, bank := d.tdu.bank }) ∧
  (∀ (a : Fin 64) (id : BitVec 16) (s : State), s.dev.tdu.smp.hostReset = false →
    let cleared (g : Nat) : Prop := 0 < g ∧ g < 256 ∧ kindPrivate (s.dev.grpKind g) = true ∧ s.dev.grpOwner g = a.val ∧ s.dev.grpCmdReset g = true
    Completes (.cmdStart a id) s fun d =>
      (∀ c, cleared (c / 256) → d.counter c = 0) ∧ (∀ c, ¬ cleared (c / 256) → c ≠ 43 → d.counter c = s.dev.counter c) ∧
      d.counter 43 = s.dev.counter 43 + 1 ∧
      (∀ b, Memory.read (fun _ => 0) d.tdu.smp.cmdId b = if b = a.val then id else Memory.read (fun _ => 0) s.dev.tdu.smp.cmdId b) ∧
      (∀ b, natRead d.tdu.smp.starts b = natRead s.dev.tdu.smp.starts b + if b = a.val then 1 else 0) ∧
      d.tta = s.dev.tta ∧ d.out = s.dev.out ∧ d.tdu = { s.dev.tdu with bank := d.tdu.bank, smp := { s.dev.tdu.smp with
        cmdId := d.tdu.smp.cmdId, starts := d.tdu.smp.starts } }) ∧
  (∀ (g : Fin 256) (v : W64) (s : State), Completes (.cntGroupWrite g v) s fun d =>
    d.bit (R.TDU_CNT_GROUP_PENDING.at g.val) = true ∧
    d.get (R.TDU_CNT_GROUP_STRICT.at g.val) = R.TDU_CNT_GROUP_STRICT.read v ∧ d.get (R.TDU_CNT_GROUP_RATE.at g.val) = R.TDU_CNT_GROUP_RATE.read v ∧
    (∀ f, f = R.TDU_CNT_GROUP_KIND ∨ f = R.TDU_CNT_GROUP_OWNER ∨ f = R.TDU_CNT_GROUP_CMD_RESET →
      d.get (f.at g.val) = if g.val = 0 then s.dev.get (f.at 0) else f.read v) ∧
    RegsKept .tdu [(R.TDU_CNT_GROUP_PENDING.at g.val).addr] s d ∧ d.tta = s.dev.tta ∧ d.out = s.dev.out ∧
    d.tdu = { s.dev.tdu with regs := d.tdu.regs }) ∧
  (∀ (pipe : Fin 64) (slot : BitVec 16) (stage : Fin 16) (last : Bool) (s : State), s.dev.slotReady = true →
    let st : StageStamp := ⟨pipe, last, stage, slot, s.dev.stamp .tdu⟩
    (∀ a, s.dev.radioIndex = some a → s.dev.tdu.smp.stampQueue = [] → (∀ p f, f ∈ (s.dev.port (.tdu p)).queue → f.cls ≠ 0) →
      Completes (.stageStamp pipe slot stage last) s fun d =>
        (∀ p : Fin 2, s.dev.isUp (.tdu p) = true → (d.port (.tdu p)).queue = (s.dev.port (.tdu p)).queue ++ [queued 0 (BitVec.ofNat 6 a) (.stamps [st])]) ∧
        (∀ p : Fin 2, s.dev.isUp (.tdu p) = false → d.port (.tdu p) = s.dev.port (.tdu p)) ∧
        d.tdu.smp.stampQueue = (if s.dev.isUp (.tdu 0) || s.dev.isUp (.tdu 1) then [] else [st]) ∧
        d.counter 25 = s.dev.counter 25 + 1 ∧ CountersKept [25] s d ∧ d.tta = s.dev.tta ∧ d.tdu.regs = s.dev.tdu.regs) ∧
    (∀ a, s.dev.radioIndex = some a → (∃ p f, s.dev.isUp (.tdu p) = true ∧ f ∈ (s.dev.port (.tdu p)).queue ∧ f.cls = 0) →
      Completes (.stageStamp pipe slot stage last) s fun d => d.tdu.smp.stampQueue = s.dev.tdu.smp.stampQueue ++ [st] ∧
        d.counter 25 = s.dev.counter 25 + 1 ∧ CountersKept [25] s d ∧
        d.tdu = { s.dev.tdu with bank := d.tdu.bank, smp := { s.dev.tdu.smp with stampQueue := d.tdu.smp.stampQueue } }) ∧
    (s.dev.radioIndex = none → Completes (.stageStamp pipe slot stage last) s fun d =>
      d.counter 45 = s.dev.counter 45 + 1 ∧ d.counter 25 = s.dev.counter 25 + 1 ∧ CountersKept [25, 45] s d ∧ d.tdu = { s.dev.tdu with bank := d.tdu.bank }))

/-- R97, R98, R105 to R112: a boundary of the die unit, with no step entry waiting.
R62, R85, R113 to R115, R127, R509. -/
def Obligations.TduEpochsMemoryPortAndClocks : Prop :=
  (
  ∀ (tick : Nat) (s : State), s.dev.tdu.chk.stepQ = [] →
  let now := s.dev.advance .tdu tick
  let sel : Bool := if now.nowNs .tdu % 1000000000 < 250000 then s.dev.bit R.TDU_SMP_CFG_EPOCH_SEL else s.dev.tdu.smp.epochSel
  let e := now.nowNs .tdu % 1000000000 / (if sel then 500000 else 250000)
  let enable : Bool := s.dev.bit R.TDU_SMP_CFG_ENABLE && s.dev.tdu.pwr.trans != 2
  let running := s.dev.bit R.TDU_SMP_STAT_RUNNING
  let shadow (g : Nat) : W64 := R.TDU_CNT_GROUP_PENDING.put (s.dev.word .tdu (R.TDU_CNT_GROUP_PENDING.at g).addr) 0
  (now.timeValid .tdu = false → Completes (.epochBoundary tick) s fun d => d = now) ∧
  (now.timeValid .tdu = true → Completes (.epochBoundary tick) s fun d =>
    d.get R.TDU_SMP_STAT_EPOCH_NUM = e ∧ d.tdu.smp.epochSel = sel ∧ d.tdu.smp.cleared = [] ∧
    d.tdu.smp.psMask = s.dev.word .tdu R.TDU_PS_CFG.base ∧
    (∀ g, g < 256 → s.dev.bit (R.TDU_CNT_GROUP_PENDING.at g) = true →
      d.grpWord g = shadow g ∧ d.bit (R.TDU_CNT_GROUP_PENDING.at g) = false) ∧
    (∀ g, g < 256 → s.dev.bit (R.TDU_CNT_GROUP_PENDING.at g) = false → d.grpWord g = s.dev.grpWord g) ∧
    (∀ g i, 0 < g → g < 256 → i < 256 → s.dev.bit (R.TDU_CNT_GROUP_PENDING.at g) = true →
      R.TDU_CNT_GROUP_KIND.read (s.dev.grpWord g) ≠ R.TDU_CNT_GROUP_KIND.read (shadow g) ∨
      R.TDU_CNT_GROUP_OWNER.read (s.dev.grpWord g) ≠ R.TDU_CNT_GROUP_OWNER.read (shadow g) → d.counter (256 * g + i) = 0) ∧
    (∀ a, a ∈ s.dev.tdu.smp.cleared → a < 64 → d.counter (64 + 2 * a) = 0 ∧ d.counter (65 + 2 * a) = 0) ∧
    d.bit R.TDU_SMP_STAT_RUNNING = (if running then enable else enable && e == 0) ∧ d.tta = s.dev.tta) ∧
  (now.timeValid .tdu = true → running = true → s.dev.tdu.smp.hostReset = false → s.dev.tdu.smp.spillLevel ≤ 3 →
    Completes (.epochBoundary tick) s fun d =>
      d.get R.TDU_SMP_STAT_DECIM ≤ s.dev.get R.TDU_SMP_STAT_DECIM + 1 ∧ s.dev.get R.TDU_SMP_STAT_DECIM ≤ d.get R.TDU_SMP_STAT_DECIM + 1 ∧
      d.tdu.smp.spillLevel ≤ 3 ∧ d.tdu.smp.lastNs = now.nowNs .tdu) ∧
  (now.timeValid .tdu = true → running = false → enable = false ∨ e ≠ 0 → Completes (.epochBoundary tick) s fun d =>
    (∀ p : Fin 2, d.port (.tdu p) = s.dev.port (.tdu p)) ∧ d.out = s.dev.out ∧
    d.get R.TDU_SMP_STAT_DECIM = s.dev.get R.TDU_SMP_STAT_DECIM ∧ d.tdu.smp.psBuf = s.dev.tdu.smp.psBuf) ∧
  (now.timeValid .tdu = true → s.dev.tdu.smp.strictOn = [] → Completes (.epochBoundary tick) s fun d =>
    d.tdu.smp.strictOn.length ≤ 4 ∧ ∀ g ∈ d.tdu.smp.strictOn, d.isQuad g = false →
      kindPrivate (d.grpKind g) = true ∧ d.grpAsksStrict g = true ∧ d.mapValid (d.grpOwner g) = true ∧
      d.get (R.TDU_ALLOT_MAP_CLASS.at (d.grpOwner g)) = 1)) ∧
  (
  (∀ (tag : Fin 64) (stat : Fin 4) (s : State), (s.dev.tdu.smp.memReqs.find? fun r => r.tag = tag.val) = none →
    (Completes (.memResponse tag stat) s fun d => d.counter 31 = s.dev.counter 31 + 1 ∧ CountersKept [31] s d ∧
      d.tdu = { s.dev.tdu with bank := d.tdu.bank } ∧ d.tta = s.dev.tta ∧ d.out = s.dev.out) ∧
    (Completes (.memRequestTimeout tag) s fun d => d = s.dev)) ∧
  (∀ (tag : Fin 64) (r i : Nat) (s : State), r < 3 → s.dev.tdu.smp.spill = [] → s.dev.tdu.smp.memReqs = [⟨tag.val, .ring r i⟩] →
    (Completes (.memResponse tag 0) s fun d => d.tdu = { s.dev.tdu with smp := { s.dev.tdu.smp with memReqs := [] } } ∧ d.tta = s.dev.tta) ∧
    (Completes (.memRequestTimeout tag) s fun d => d.tdu.smp.memReqs = [] ∧ d.bit (qErr .tdu r) = true ∧ d.tta = s.dev.tta)) ∧
  (∀ (tag : Fin 64) (f : Frame) (s : State), s.dev.tdu.smp.spill = [f] →
    (s.dev.tdu.smp.memReqs = [⟨tag.val, .spillWrite f.born⟩] → ∀ c, c = .memRequestTimeout tag ∨ (∃ k : Fin 4, k ≠ 0 ∧ c = .memResponse tag k) →
      Completes c s fun d => d.tdu.smp.spill = [] ∧ d.tdu.smp.memReqs = [] ∧ d.tdu.smp.sawFull = true ∧
        d.get R.TDU_SMP_STAT_LOST_BLOCKS = min (s.dev.get R.TDU_SMP_STAT_LOST_BLOCKS + 1) (2 ^ R.TDU_SMP_STAT_LOST_BLOCKS.width - 1) ∧
        (∀ p : Fin 2, d.port (.tdu p) = s.dev.port (.tdu p)) ∧ d.tdu.bank = s.dev.tdu.bank ∧ d.tta = s.dev.tta) ∧
    (s.dev.tdu.smp.memReqs = [⟨tag.val, .spillRead f.born⟩] →
      Completes (.memResponse tag 0) s fun d => d.tdu.smp.spill = [] ∧ d.tdu.smp.memReqs = [] ∧
        d.counter 35 = s.dev.counter 35 + BitVec.ofNat 64 (8 * f.words + 16) ∧ CountersKept [35] s d ∧
        (∀ p : Fin 2, s.dev.isUp (.tdu p) = true → f ∈ (d.port (.tdu p)).queue ∧ ∀ g ∈ (s.dev.port (.tdu p)).queue, g ∈ (d.port (.tdu p)).queue) ∧
        d.tta = s.dev.tta)) ∧
  (∀ (c : Instr) (s : State), c = .hostClkGoodFall ∨ c = .tduRailRemoval →
    (s.dev.get R.TDU_PWR_STAT_STATE < 2 → s.dev.tdu.smp.hostReset = false → s.dev.tdu.chk.flight = [] → RecorderRoom .tdu s →
      Completes c s fun d =>
        Recorded .tdu 0x0120 [s.dev.get R.TDU_PWR_STAT_STATE, (s.dev.stamp .tdu).toNat] s d ∧
        d.tdu.smp.hostReset = true ∧ d.tdu.smp.cmdId = [] ∧ (∀ i, i ≠ 40 → d.counter i = 0) ∧
        (∀ x, x ∈ d.tdu.smp.psBuf ↔ x ∈ s.dev.tdu.smp.psBuf ∧ (x.words.getD 3 0).toNat / 2 ^ 24 % 4 = 3) ∧
        d.tdu.smp.emitted = [] ∧ d.tdu.smp.force = s.dev.tdu.smp.force ∧ d.tdu.smp.hints = s.dev.tdu.smp.hints ∧
        d.tdu.smp.stampQueue = s.dev.tdu.smp.stampQueue ∧ (∀ p : Fin 2, d.port (.tdu p) = s.dev.port (.tdu p)) ∧
        RegsKept .tdu [R.TDU_PS_STAT_FILL.addr] s d ∧ d.tta = s.dev.tta) ∧
    (2 ≤ s.dev.get R.TDU_PWR_STAT_STATE ∨ s.dev.tdu.smp.hostReset = true → Completes c s fun d => d = s.dev)) ∧
  (∀ s : State, s.dev.get R.TDU_PWR_STAT_STATE < 2 → s.dev.tdu.smp.trcReset = false → Completes .trcClkGoodFall s fun d =>
    d.tdu.smp.trcReset = true ∧ d.tdu.trc.cycle = 0 ∧ d.tdu.trc.lane0 = none ∧ d.tdu.trc.lane1 = none ∧ d.tdu.smp.psLane0 = none ∧
    d.tdu.smp.psLane1 = none ∧ (∀ n, n < 8 → s.dev.tlive n = true → (d.tslot n).restartSync = true) ∧
    (∀ n, n < 8 → s.dev.tlive n = false → d.tslot n = s.dev.tslot n ∧ d.tstate n = s.dev.tstate n) ∧
    d.tdu.trc.trigs = s.dev.tdu.trc.trigs ∧ d.tdu.trc.grants = s.dev.tdu.trc.grants ∧
    (∀ p : Fin 2, d.port (.tdu p) = s.dev.port (.tdu p)) ∧ d.tta = s.dev.tta))

/-- R116, R121 to R124, R127: one word, on a lane whose precise record under way, if any, is of its source.
R52, R129 to R137. -/
def Obligations.TraceStreams : Prop :=
  (
  ∀ (w : TraceIn) (cycle : Nat) (s : State),
  (s.dev.tdu.smp.trcReset = true ∨ 2 ≤ s.dev.get R.TDU_PWR_STAT_STATE → Completes (.traceWord w cycle) s fun d => d = s.dev) ∧
  (s.dev.tdu.smp.trcReset = false → s.dev.get R.TDU_PWR_STAT_STATE < 2 →
    let cyc := max s.dev.tdu.trc.cycle (cycle % 2 ^ 48)
    let counted : Trace := { s.dev.tdu.trc with cycle := cyc }
    let covered (precise : Bool) : Bool := s.dev.grantCovers precise w.allot.val w.src.val w.priv.toNat
    let precise : Bool := s.dev.tdu.smp.psMask.getLsbD w.src.val
    -- words that no slot takes
    (s.dev.laneRun w.lane = none → s.dev.psLane w.lane = none → precise = false →
      (w.priv = 3 ∨ covered false = false → Completes (.traceWord w cycle) s fun d =>
        d.get R.TDU_TRC_STAT_FILTER_REJECTED = min (s.dev.get R.TDU_TRC_STAT_FILTER_REJECTED + 1) (2 ^ R.TDU_TRC_STAT_FILTER_REJECTED.width - 1) ∧
        d.counter 41 = s.dev.counter 41 + 1 ∧ CountersKept [41] s d ∧ RegsKept .tdu [R.TDU_TRC_STAT_FILTER_REJECTED.addr] s d ∧
        d.tdu = { s.dev.tdu with regs := d.tdu.regs, bank := d.tdu.bank, trc := counted } ∧ d.tta = s.dev.tta) ∧
      (w.priv ≠ 3 → covered false = true → s.dev.slotOf w.allot.val = none → Completes (.traceWord w cycle) s fun d =>
        d.get R.TDU_TRC_STAT_UNSLOTTED = min (s.dev.get R.TDU_TRC_STAT_UNSLOTTED + 1) (2 ^ R.TDU_TRC_STAT_UNSLOTTED.width - 1) ∧
        RegsKept .tdu [R.TDU_TRC_STAT_UNSLOTTED.addr] s d ∧ d.tdu = { s.dev.tdu with regs := d.tdu.regs, trc := counted } ∧ d.tta = s.dev.tta) ∧
      (∀ n, w.priv ≠ 3 → covered false = true → s.dev.slotOf w.allot.val = some n →
        (s.dev.tstate n = 0 → Completes (.traceWord w cycle) s fun d => d.tdu = { s.dev.tdu with trc := counted } ∧ d.tta = s.dev.tta) ∧
        (s.dev.tstate n = 3 ∨ s.dev.tstate n = 4 → Completes (.traceWord w cycle) s fun d =>
          d.get (R.TDU_TRC_SLOT_STAT_LOSS.at n) = min (s.dev.get (R.TDU_TRC_SLOT_STAT_LOSS.at n) + 1) (2 ^ R.TDU_TRC_SLOT_STAT_LOSS.width - 1) ∧
          d.counter 42 = s.dev.counter 42 + 1 ∧ CountersKept [42] s d ∧ RegsKept .tdu [(R.TDU_TRC_SLOT_STAT_LOSS.at n).addr] s d ∧
          d.tdu = { s.dev.tdu with regs := d.tdu.regs, bank := d.tdu.bank, trc := counted } ∧ d.tta = s.dev.tta) ∧
        -- the first word of a DATA packet
        (s.dev.tstate n = 1 ∨ s.dev.tstate n = 2 → w.pd = false → w.wk = false → (s.dev.tslot n).restartSync = false →
          (s.dev.tslot n).written < (s.dev.tslot n).syncEnd + 4096 →
          let since := (assocGet w.src.val (s.dev.tslot n).lastCycle).getD (s.dev.tslot n).allCycle
          cyc - since ≤ 1048575 → Completes (.traceWord w cycle) s fun d =>
            d.laneRun w.lane = some { slot := n, src := w.src.val, priv := w.priv.toNat, first := w.first, delta := cyc - since, words := [w.word] } ∧
            (d.tslot n).packets = (s.dev.tslot n).packets ∧ assocGet w.src.val (d.tslot n).lastCycle = some cyc ∧
            (∀ m, m ≠ n → d.tslot m = s.dev.tslot m) ∧ d.laneRun (1 - w.lane) = s.dev.laneRun (1 - w.lane) ∧
            d.tdu = { s.dev.tdu with trc := d.tdu.trc } ∧ d.tta = s.dev.tta))) ∧
    -- further words of a DATA packet
    (∀ (n : Nat) (r : TrcRun), s.dev.laneRun w.lane = some r → s.dev.psLane w.lane = none → precise = false → w.priv ≠ 3 → covered false = true →
      s.dev.slotOf w.allot.val = some n → r.slot = n → r.src = w.src.val → r.priv = w.priv.toNat → w.first = false → w.pd = false → w.wk = false →
      s.dev.tstate n = 1 →
      (r.words.length < 14 → Completes (.traceWord w cycle) s fun d =>
        d.laneRun w.lane = some { r with words := r.words ++ [w.word] } ∧ (∀ m, d.tslot m = s.dev.tslot m) ∧ d.tdu = { s.dev.tdu with trc := d.tdu.trc }) ∧
      (r.words.length = 14 → 0 < s.dev.get (R.TDU_TRC_SLOT_CFG_SIZE_64K.at n) → Completes (.traceWord w cycle) s fun d =>
        d.laneRun w.lane = none ∧ (d.tslot n).written = (s.dev.tslot n).written + 128 ∧
        (∃ h : W64, (d.tslot n).packets.getLast?.map (·.words) = some (h :: (r.words ++ [w.word])) ∧ h.toNat / 2 ^ 60 = 1) ∧
        (∀ m, m ≠ n → d.tslot m = s.dev.tslot m) ∧ d.tdu = { s.dev.tdu with trc := d.tdu.trc })) ∧
    -- precise samples
    (precise = true → s.dev.laneRun w.lane = none →
      (s.dev.psLane w.lane = none → w.first = true → Completes (.traceWord w cycle) s fun d =>
        d.psLane w.lane = some { src := w.src.val, allot := w.allot.val, priv := w.priv.toNat, stamp := s.dev.stamp .tdu, words := [w.word] } ∧
        d.tdu.trc = counted ∧ d.tdu.smp.psBuf = s.dev.tdu.smp.psBuf) ∧
      (∀ p : PsPartial, s.dev.psLane w.lane = some p → p.src = w.src.val → p.priv < 4 → p.allot < 64 → w.first = false →
        (p.words.length < 2 → Completes (.traceWord w cycle) s fun d =>
          d.psLane w.lane = some { p with words := p.words ++ [w.word] } ∧ d.tdu.trc = counted ∧ d.tdu.smp.psBuf = s.dev.tdu.smp.psBuf) ∧
        (p.words.length = 2 → s.dev.tdu.time.state ≠ .unset → s.dev.grantCovers true p.allot p.src p.priv = false → Completes (.traceWord w cycle) s fun d =>
          d.psLane w.lane = none ∧ d.tdu.smp.psBuf = s.dev.tdu.smp.psBuf ∧ d.counter 41 = s.dev.counter 41 + 1 ∧ CountersKept [41] s d) ∧
        (p.words.length = 2 → s.dev.tdu.time.state ≠ .unset → s.dev.grantCovers true p.allot p.src p.priv = true → s.dev.tdu.smp.psBuf.length < 4096 →
          Completes (.traceWord w cycle) s fun d => ∃ w3 : W64,
            d.psLane w.lane = none ∧ d.tdu.smp.psBuf = s.dev.tdu.smp.psBuf ++ [⟨p.allot, p.words ++ [w.word, w3]⟩] ∧
            w3.toNat / 2 ^ 32 = p.stamp.toNat ∧ d.counter 39 = s.dev.counter 39 + 1 ∧ CountersKept [39] s d))))) ∧
  (
  (∀ (mask : BitVec 8) (s : State),
    (Completes (.trcTrigStart mask) s fun d => d.tta = s.dev.tta ∧ d.out = s.dev.out ∧ d.tdu = { s.dev.tdu with trc := { s.dev.tdu.trc with
      trigs := s.dev.tdu.trc.trigs ++ [{ slots := mask.toNat, start := true, stop := false, cause := 0, origin := none }] } }) ∧
    (Completes (.trcTrigStop mask) s fun d => d.tta = s.dev.tta ∧ d.out = s.dev.out ∧ d.tdu = { s.dev.tdu with trc := { s.dev.tdu.trc with
      trigs := s.dev.tdu.trc.trigs ++ [{ slots := mask.toNat, start := false, stop := true, cause := 0, origin := none }] } })) ∧
  (∀ (t : TrcTrig) (n : Nat) (s : State), n < 8 → s.dev.tdu.smp.trcReset = false → s.dev.tdu.trc.trigs = [t] → t.slots = 2 ^ n → t.cause ≤ 4 →
    s.dev.tvalid n = true → 0 < s.dev.get (R.TDU_TRC_SLOT_CFG_SIZE_64K.at n) → s.dev.tdu.trc.lane0 = none → s.dev.tdu.trc.lane1 = none →
    (t.start = true → t.stop = false → (s.dev.get (R.TDU_TRC_SLOT_CFG_START_MASK.at n)).testBit t.cause = true → s.dev.tstate n = 0 →
      s.dev.tdu.time.state ≠ .unset → (s.dev.tslot n).d2Lost = 0 → Completes .triggerPoint s fun d =>
        d.tstate n = 1 ∧ (d.tslot n).capture = ((s.dev.tslot n).capture + 1) % 2 ^ 32 ∧ d.get (R.TDU_TRC_SLOT_STAT_LOSS.at n) = 0 ∧
        (∃ p, (d.tslot n).packets = [p] ∧ p.syncAll = true ∧ p.start = 0 ∧ p.words.length = 3) ∧ d.tdu.trc.trigs = [] ∧
        (∀ m, m ≠ n → d.tslot m = s.dev.tslot m) ∧ RegsKept .tdu [(R.TDU_TRC_SLOT_STAT_STATE.at n).addr] s d ∧
        d.tdu = { s.dev.tdu with regs := d.tdu.regs, trc := d.tdu.trc } ∧ d.tta = s.dev.tta) ∧
    (t.start = false → t.stop = true → (s.dev.get (R.TDU_TRC_SLOT_CFG_STOP_MASK.at n)).testBit t.cause = true → s.dev.tstate n = 1 →
      (s.dev.tslot n).restartSync = false → (s.dev.tslot n).written < (s.dev.tslot n).syncEnd + 4096 → Completes .triggerPoint s fun d =>
        d.tstate n = 2 ∧ d.get (R.TDU_TRC_SLOT_STAT_STOP_CAUSE.at n) = t.cause ∧ (d.tslot n).written = (s.dev.tslot n).written + 16 ∧
        (d.tslot n).trigEnd = some ((s.dev.tslot n).written + 16) ∧ ((d.tslot n).packets.getLast?.map (·.trigger)) = some true ∧ d.tdu.trc.trigs = [] ∧
        (∀ m, m ≠ n → d.tslot m = s.dev.tslot m) ∧ d.tdu = { s.dev.tdu with regs := d.tdu.regs, trc := d.tdu.trc } ∧ d.tta = s.dev.tta) ∧
    (t.start = false → t.stop = true → (s.dev.get (R.TDU_TRC_SLOT_CFG_STOP_MASK.at n)).testBit t.cause = true →
      s.dev.tstate n = 0 ∨ s.dev.tstate n = 3 ∨ s.dev.tstate n = 4 → Completes .triggerPoint s fun d =>
        d.get R.TDU_TRC_STAT_TRIG_IGNORED = min (s.dev.get R.TDU_TRC_STAT_TRIG_IGNORED + 1) (2 ^ R.TDU_TRC_STAT_TRIG_IGNORED.width - 1) ∧
        RegsKept .tdu [R.TDU_TRC_STAT_TRIG_IGNORED.addr] s d ∧ d.tdu = { s.dev.tdu with regs := d.tdu.regs, trc := { s.dev.tdu.trc with trigs := [] } }) ∧
    ((s.dev.get (R.TDU_TRC_SLOT_CFG_START_MASK.at n)).testBit t.cause = false → (s.dev.get (R.TDU_TRC_SLOT_CFG_STOP_MASK.at n)).testBit t.cause = false →
      Completes .triggerPoint s fun d => d.tdu = { s.dev.tdu with trc := { s.dev.tdu.trc with trigs := [] } } ∧ d.tta = s.dev.tta)) ∧
  (∀ (n : Fin 8) (s : State), s.dev.tvalid n.val = true → s.dev.tstate n.val = 3 ∨ s.dev.tstate n.val = 4 →
    s.dev.isUp (.tdu 0) = true → (∀ p : Fin 2, (s.dev.port (.tdu p)).queue = []) →
    let t := s.dev.tslot n.val
    let content := wordBytes ((t.packets.map (·.words)).flatten)
    (t.sent < content.length → Completes (.traceSegment n) s fun d => ∃ (f : Frame) (body : List Byte) (seg : List Byte),
      (d.port (.tdu 0)).queue = [f] ∧ f.payload = .trace seg ∧ f.cls = 6 ∧ seg.length = 16 + body.length ∧ seg.drop 16 = body ∧ leAt seg 8 4 = t.sent % 2 ^ 32 ∧
      leAt seg 12 2 = body.length ∧ body ≠ [] ∧ body.length ≤ 4096 ∧ body = (content.drop t.sent).take body.length ∧
      d.tstate n.val = 4 ∧ d.tslot n.val = { t with sent := t.sent + body.length } ∧ (∀ m, m ≠ n.val → d.tslot m = s.dev.tslot m) ∧ d.tta = s.dev.tta) ∧
    (content.length ≤ t.sent → t.shadow = none → s.dev.bit (R.TDU_TRC_SLOT_CFG_REARM.at n.val) = false → Completes (.traceSegment n) s fun d =>
      (∃ (f : Frame) (seg : List Byte), (d.port (.tdu 0)).queue = [f] ∧ f.payload = .trace seg ∧ (leAt seg 1 1) / 2 % 2 = 1 ∧ f.cls = 6) ∧
      d.tstate n.val = 0 ∧ (d.tslot n.val).packets = [] ∧ (d.tslot n.val).capture = t.capture ∧ (∀ m, m ≠ n.val → d.tslot m = s.dev.tslot m) ∧
      d.tta = s.dev.tta) ∧
    (∀ v : W64, content.length ≤ t.sent → t.shadow = some v → R.TDU_TRC_SLOT_CFG_REARM.read v = 0 → Completes (.traceSegment n) s fun d =>
      d.tstate n.val = 0 ∧ d.word .tdu (R.TDU_TRC_SLOT_CFG_REARM.at n.val).addr = v ∧ (d.tslot n.val).shadow = none)) ∧
  (∀ (tick : Nat) (s : State), let now := s.dev.advance .tdu tick
    (Completes (.grantExpiry tick) s fun d =>
      (∀ g, g ∈ d.tdu.trc.grants ↔ g ∈ s.dev.tdu.trc.grants ∧ now.secondsA .tdu < g.notAfter) ∧ d.tta = s.dev.tta) ∧
    (∀ g, s.dev.tdu.trc.grants = [g] → g.notAfter ≤ now.secondsA .tdu → RecorderRoom .tdu s → Completes (.grantExpiry tick) s fun d =>
      Recorded .tdu 0x6004 [g.allot, g.serial, 0] s d ∧
      (∀ n, n < 8 → s.dev.tvalid n = true → s.dev.mapValid (s.dev.tallot n) = true → s.dev.mapId (s.dev.tallot n) = g.allot →
        s.dev.tstate n = 1 ∨ s.dev.tstate n = 2 → d.tstate n = 3 ∧ (s.dev.tstate n = 1 → d.get (R.TDU_TRC_SLOT_STAT_STOP_CAUSE.at n) = 6)) ∧
      (∀ n, n < 8 → s.dev.tvalid n = false ∨ s.dev.mapId (s.dev.tallot n) ≠ g.allot → d.tslot n = s.dev.tslot n ∧ d.tstate n = s.dev.tstate n))))

/-- R74 to R78, R372, R373, R375: an index whose SEED is drawn, an item of its open step but where a clause says otherwise. -/
def Obligations.CheckItems : Prop :=
  (∀ (item : BitVec 48) (unit : Fin 4096) (a : Fin 64) (step : BitVec 32) (sig : W64) (tempC : Int) (mv : BitVec 16) (seed : BitVec 32) (s : State),
    s.dev.inD0 = true → (s.dev.chkIdx a.val).seed = some seed → (s.dev.chkIdx a.val).openStep = some step.toNat →
    let map := (s.dev.chkIdx a.val).map.getD s.dev.tdu.chk.force
    let k := s.dev.get (R.TDU_CHK_K_K_EFF.at a.val)
    let h := (crc32c (leBytes 6 item.toNat ++ leBytes 4 step.toNat ++ leBytes 4 seed.toNat)).toNat
    let inFree (c : Nat × Nat) (u : Nat) : Prop := c.1 ≤ u ∧ u < c.1 + c.2 ∧ u ≠ unit.val ∧ s.dev.unitOut u = false
    let checked (c : Nat × Nat) : Prop := classOf map unit.val = some c ∧ ∃ u v, u ≠ v ∧ inFree c u ∧ inFree c v
    let items (d : Dev) (st : Nat) : Nat := (((d.chkIdx a.val).steps.find? fun x => x.step = st).map (·.items)).getD 0
    let sampled (d : Dev) (st : Nat) : Nat := (((d.chkIdx a.val).steps.find? fun x => x.step = st).map (·.sampled)).getD 0
    let turnedAway (poison : Bool) (reg : Option Fld) : Prop := Completes (.chkItem item unit a step sig poison tempC mv) s fun d =>
      d.out = .chkKeep item.toNat false :: s.dev.out ∧ d.tdu.chk.flight = s.dev.tdu.chk.flight ∧ d.tdu.chk.due = s.dev.tdu.chk.due ∧
      items d step.toNat = items s.dev step.toNat + 1 ∧ sampled d step.toNat = sampled s.dev step.toNat ∧ d.tdu.bank = s.dev.tdu.bank ∧
      (∀ f, reg = some f → d.get f = min (s.dev.get f + 1) (2 ^ f.width - 1) ∧ RegsKept .tdu [f.addr] s d) ∧
      (reg = none → d.tdu.regs = s.dev.tdu.regs) ∧ d.tta = s.dev.tta
    turnedAway true none ∧
    (classOf map unit.val = none → turnedAway false (some R.TDU_CHK_STAT_UNCHECKED)) ∧
    (∀ c, classOf map unit.val = some c → (¬ ∃ u v, u ≠ v ∧ inFree c u ∧ inFree c v) → turnedAway false (some R.TDU_CHK_STAT_UNCHECKED)) ∧
    (∀ c, checked c → k ≠ 0 → h % 2 ^ k ≠ 0 → turnedAway false none) ∧
    (∀ c, checked c → k ≠ 0 → h % 2 ^ k = 0 → 1024 ≤ s.dev.tdu.chk.flight.length → turnedAway false (some R.TDU_CHK_STAT_SKIPPED)) ∧
    (∀ c, checked c → k = 0 → 1024 ≤ s.dev.tdu.chk.flight.length →
      Completes (.chkItem item unit a step sig false tempC mv) s fun d => d = s.dev) ∧
    (∀ c, checked c → k = 0 ∨ h % 2 ^ k = 0 → s.dev.tdu.chk.flight.length < 1024 → Completes (.chkItem item unit a step sig false tempC mv) s fun d =>
      ∃ f : ChkFlight, d.tdu.chk.flight = s.dev.tdu.chk.flight ++ [f] ∧ f.item = item.toNat ∧ f.unit = unit.val ∧ f.allot = a.val ∧ f.step = step.toNat ∧
        f.sig = sig ∧ f.cls = c ∧ f.shadow = none ∧ f.third = none ∧ d.tdu.chk.due = s.dev.tdu.chk.due ++ [(item.toNat, a.val, false)] ∧
        d.out = .chkKeep item.toNat true :: s.dev.out ∧ items d step.toNat = items s.dev step.toNat + 1 ∧
        sampled d step.toNat = sampled s.dev step.toNat + 1 ∧ d.counter 20 = s.dev.counter 20 + 1 ∧ CountersKept [20] s d ∧
        f.bins.1 < 32 ∧ f.bins.2 = 32 + item.toNat / 2 ^ 44 ∧
        (∀ b, b = f.bins.1 ∨ b = f.bins.2 → d.get (R.TDU_CHK_BIN_CHECKED.at b) =
          min (s.dev.get (R.TDU_CHK_BIN_CHECKED.at b) + 1) (2 ^ R.TDU_CHK_BIN_CHECKED.width - 1)) ∧
        RegsKept .tdu [(R.TDU_CHK_BIN_CHECKED.at f.bins.1).addr, (R.TDU_CHK_BIN_CHECKED.at f.bins.2).addr] s d ∧ d.tta = s.dev.tta)) ∧
  (∀ (item : BitVec 48) (unit : Fin 4096) (a : Fin 64) (step : BitVec 32) (sig : W64) (tempC : Int) (mv : BitVec 16) (s : State) (o : Nat) (c : Nat × Nat),
    s.dev.inD0 = true → (s.dev.chkIdx a.val).seed.isSome = true → (s.dev.chkIdx a.val).openStep = some o → o ≠ step.toNat →
    classOf ((s.dev.chkIdx a.val).map.getD s.dev.tdu.chk.force) unit.val = some c →
    Completes (.chkItem item unit a step sig false tempC mv) s fun d =>
      d.get R.TDU_CHK_STAT_UNCHECKED = min (s.dev.get R.TDU_CHK_STAT_UNCHECKED + 1) (2 ^ R.TDU_CHK_STAT_UNCHECKED.width - 1) ∧
      RegsKept .tdu [R.TDU_CHK_STAT_UNCHECKED.addr] s d ∧ d.tdu = { s.dev.tdu with regs := d.tdu.regs } ∧ d.out = .chkKeep item.toNat false :: s.dev.out) ∧
  (∀ (f : ChkFlight) (third : Bool) (s : State), s.dev.inD0 = true → s.dev.tdu.chk.flight = [f] → s.dev.tdu.chk.due = [(f.item, f.allot, third)] →
    let lo := f.cls.1
    let n := f.cls.2
    let p := Memory.read (fun x => x + n - 1) s.dev.tdu.chk.pointer lo
    let cand (i : Nat) : Nat := lo + (p - lo + 1 + i) % n
    let bad (u : Nat) : Prop := u = f.unit ∨ (third = true ∧ f.shadowUnit = some u) ∨ s.dev.unitOut u = true
    (∀ i, i < n → ¬ bad (cand i) → (∀ j, j < i → bad (cand j)) → Completes .chkReqIssue s fun d =>
      d.tdu = { s.dev.tdu with chk := { s.dev.tdu.chk with due := []
                                                           pointer := Memory.write (fun x => x + n - 1) s.dev.tdu.chk.pointer lo (cand i)
                                                           flight := [if third then { f with thirdUnit := some (cand i) }
                                                                      else { f with shadowUnit := some (cand i) }] } } ∧
      d.out = .chkReq f.item (cand i) :: s.dev.out ∧ d.tta = s.dev.tta) ∧
    ((∀ i, i < n → bad (cand i)) → Completes .chkReqIssue s fun d => d = s.dev)) ∧
  (∀ (c : Fin 16) (v : W64) (s : State), Completes (.chkClassWrite c v) s fun d =>
    (∀ f, f = R.TDU_CHK_CLASS_FIRST_UNIT ∨ f = R.TDU_CHK_CLASS_UNIT_COUNT ∨ f = R.TDU_CHK_CLASS_ENABLE → d.get (f.at c.val) = f.read v) ∧
    d.get (R.TDU_CHK_CLASS_ELIGIBLE.at c.val) = s.dev.get (R.TDU_CHK_CLASS_ELIGIBLE.at c.val) ∧
    RegsKept .tdu [(R.TDU_CHK_CLASS_ENABLE.at c.val).addr] s d ∧ d.tdu = { s.dev.tdu with regs := d.tdu.regs } ∧ d.tta = s.dev.tta ∧ d.out = s.dev.out)

/-- R372 to R379: one item in flight, of a step that has not ended. SEED is a free value (log 3).
R391, R392: with no other test waiting and no test order. -/
def Obligations.CheckVotesAndTests : Prop :=
  (
  (∀ (f : ChkFlight) (item : BitVec 48) (a : Fin 64) (unit : Fin 4096) (st : ChkStep) (s : State),
    s.dev.tdu.chk.flight = [f] → f.item = item.toNat → f.allot = a.val → s.dev.tdu.chk.stepQ = [] →
    (s.dev.chkIdx a.val).steps = [st] → st.step = f.step → st.ended = none →
    let missing (c : Instr) : Prop := c = .chkResponseTimeout item a unit ∨ ∃ v, c = .chkRsp item a unit v true
    let step (d : Dev) : Option ChkStep := (d.chkIdx a.val).steps.head?
    let third : Nat × Nat × Bool := (f.item, f.allot, true)
    let done (d : Dev) (worst : Nat) (dis : Nat) : Prop := d.tdu.chk.flight = [] ∧ Out.chkRel f.item ∈ d.out ∧
      step d = some { st with waiting := st.waiting - 1, disagreed := st.disagreed + dis, worst := worst }
    -- the shadow answers
    (f.shadowUnit = some unit.val → f.shadow = none → f.thirdUnit = none → f.third = none → third ∉ s.dev.tdu.chk.due →
      (Completes (.chkRsp item a unit f.sig false) s fun d => done d st.worst 0 ∧ d.tdu.bank = s.dev.tdu.bank ∧ d.tdu.regs = s.dev.tdu.regs ∧
        d.tdu.recorder = s.dev.tdu.recorder ∧ d.tdu.chk.due = s.dev.tdu.chk.due ∧ d.tta = s.dev.tta) ∧
      (∀ v, v ≠ f.sig → RecorderRoom .tdu s → Completes (.chkRsp item a unit v false) s fun d =>
        d.tdu.chk.flight = [{ f with shadow := some (some v) }] ∧ d.tdu.chk.due = s.dev.tdu.chk.due ++ [third] ∧
        d.counter 21 = s.dev.counter 21 + 1 ∧ d.counter 22 = s.dev.counter 22 ∧ step d = some { st with disagreed := st.disagreed + 1 } ∧
        (∃ q ∈ d.tdu.recorder.queue, q.evt.code = 0x4001 ∧ q.evt.p1 = BitVec.ofNat 32 f.unit ∧ q.evt.p2 = BitVec.ofNat 32 unit.val) ∧ d.tta = s.dev.tta) ∧
      (∀ c, missing c → Completes c s fun d =>
        d.tdu.chk.flight = [{ f with shadow := some none }] ∧ d.tdu.chk.due = s.dev.tdu.chk.due ++ [third] ∧
        d.counter 22 = s.dev.counter 22 + 1 ∧ CountersKept [22] s d ∧ step d = some st ∧ d.tdu.recorder = s.dev.tdu.recorder ∧ d.tta = s.dev.tta)) ∧
    -- the third answers
    (∀ (su : Nat) (x : Option W64), f.shadowUnit = some su → su ≠ unit.val → f.shadow = some x → x ≠ some f.sig → f.thirdUnit = some unit.val → f.third = none →
      st.worst = 0 →
      (s.dev.chkUnit su).withdrawn = false → (s.dev.chkUnit su).blame + 1 < s.dev.get R.TTA_CHK_CFG_BLAME_MAX → (s.dev.chkUnit su).timeouts < 2 →
      (Completes (.chkRsp item a unit f.sig false) s fun d => done d 0 0 ∧
        d.get R.TDU_CHK_OUT_CORRECTED = min (s.dev.get R.TDU_CHK_OUT_CORRECTED + 1) (2 ^ R.TDU_CHK_OUT_CORRECTED.width - 1) ∧
        (x.isSome = true → (d.chkUnit su).blame = min 65535 ((s.dev.chkUnit su).blame + 1) ∧ (d.chkUnit su).timeouts = (s.dev.chkUnit su).timeouts) ∧
        (x = none → (d.chkUnit su).timeouts = min 65535 ((s.dev.chkUnit su).timeouts + 1) ∧ (d.chkUnit su).blame = (s.dev.chkUnit su).blame) ∧
        (∀ u, u ≠ su → d.chkUnit u = s.dev.chkUnit u) ∧ d.tta = s.dev.tta) ∧
      (∀ v, x = some v → Completes (.chkRsp item a unit v false) s fun d => done d 1 1 ∧ d.counter 21 = s.dev.counter 21 + 1 ∧
        (d.chkUnit f.unit).blame = min 65535 ((s.dev.chkUnit f.unit).blame + 1) ∧ d.tta = s.dev.tta) ∧
      (∀ v y, x = some y → v ≠ f.sig → v ≠ y → Completes (.chkRsp item a unit v false) s fun d => done d 2 1 ∧ d.counter 21 = s.dev.counter 21 + 1 ∧
        d.tdu.chk.units = s.dev.tdu.chk.units ∧ d.tta = s.dev.tta) ∧
      (∀ c y, x = some y → missing c → Completes c s fun d => done d 3 0 ∧ d.counter 22 = s.dev.counter 22 + 1 ∧
        (d.chkUnit unit.val).timeouts = min 65535 ((s.dev.chkUnit unit.val).timeouts + 1) ∧ d.tta = s.dev.tta))) ∧
  (∀ (a : Fin 64) (step : BitVec 32) (st : ChkStep) (s : State), s.dev.inD0 = true → s.dev.tdu.chk.stepQ = [] →
    (s.dev.chkIdx a.val).steps = [st] → st.step = step.toNat →
    let next (d : Dev) : Prop := (d.chkIdx a.val).openStep = some ((step.toNat + 1) % 2 ^ 32) ∧ (d.chkIdx a.val).map = some s.dev.classMap ∧
      (∃ v, (d.chkIdx a.val).seed = some v) ∧ d.freeIx = s.dev.freeIx + 1 ∧
      d.get (R.TDU_CHK_K_K_EFF.at a.val) = min (s.dev.get (R.TDU_CHK_K_K_REQ.at a.val)) (s.dev.get (R.TDU_CHK_K_K_CAP.at a.val)) ∧
      (∀ c, c < 16 → d.bit (R.TDU_CHK_CLASS_ELIGIBLE.at c) = s.dev.classEligible c) ∧ d.tta = s.dev.tta
    (0 < st.waiting → Completes (.chkStepEnd a step) s fun d => next d ∧
      (d.chkIdx a.val).steps = [{ st with ended := some (s.dev.stamp .tdu) }] ∧ d.tdu.chk.stepQ = [] ∧ d.tdu.smp.psBuf = s.dev.tdu.smp.psBuf) ∧
    (st.waiting = 0 → s.dev.tdu.time.state = .locked → s.dev.tdu.smp.psBuf.length < 4096 → st.step < 2 ^ 32 → st.worst < 4 → st.k ≤ 16 → Completes (.chkStepEnd a step) s fun d => next d ∧
      (d.chkIdx a.val).steps = [] ∧ d.tdu.chk.stepQ = [] ∧
      (∃ ws : List W64, d.tdu.smp.psBuf = s.dev.tdu.smp.psBuf ++ [⟨a.val, ws⟩] ∧ ws.length = 4 ∧
        (ws.getD 0 0).toNat = st.step + st.worst * 2 ^ 32 + st.k * 2 ^ 40 ∧
        (st.items < 2 ^ 32 → st.sampled < 65536 → st.disagreed < 65536 →
          (ws.getD 1 0).toNat = st.items + st.sampled * 2 ^ 32 + st.disagreed * 2 ^ 48)) ∧
      (st.worst ≠ 0 → RecorderRoom .tdu s → Recorded .tdu 0x4004 [s.dev.die, a.val, st.step, st.worst] s d ∧
        d.get R.TDU_CHK_OUT_STEPS_VOID = min (s.dev.get R.TDU_CHK_OUT_STEPS_VOID + 1) (2 ^ R.TDU_CHK_OUT_STEPS_VOID.width - 1)))) ∧
  (∀ (a : Fin 64) (step : BitVec 32) (s : State), s.dev.inD0 = false ∨ 64 ≤ s.dev.tdu.chk.stepQ.length →
    Completes (.chkStepEnd a step) s fun d => d = s.dev)) ∧
  (
  (∀ (u : Nat) (s : State), s.dev.tdu.chk.testing = some u → s.dev.tdu.chk.testQ = [] → s.dev.tdu.chk.periodicDue = false → s.dev.tdu.chk.orders = [] →
    let sent (w : Bool) (p : Fin 2) (d : Dev) : Prop := (d.port (.tdu p)).queue = (s.dev.port (.tdu p)).queue ++
      if s.dev.isUp (.tdu p) then [queued 2 0 (.check 0 (.unitState (BitVec.ofNat 16 u) w))] else []
    (Completes (.chkTestDone true) s fun d =>
      (d.chkUnit u).timeouts = 0 ∧ (d.chkUnit u).blame = 0 ∧ (d.chkUnit u).withdrawn = (s.dev.chkUnit u).withdrawn ∧
      d.tdu.chk.testing = none ∧ d.bit R.TDU_CHK_TEST_BUSY = false ∧ (∀ v, v ≠ u → d.chkUnit v = s.dev.chkUnit v) ∧
      RegsKept .tdu [R.TDU_CHK_TEST_BUSY.addr] s d ∧ d.tdu.bank = s.dev.tdu.bank ∧ d.tta = s.dev.tta) ∧
    (∀ c why, (c = .chkTestDone false ∧ why = 0) ∨ (c = .fieldTestTimeout ∧ why = 1) → RecorderRoom .tdu s → Completes c s fun d =>
      d.chkUnit u = { s.dev.chkUnit u with withdrawn := true } ∧ (∀ v, v ≠ u → d.chkUnit v = s.dev.chkUnit v) ∧
      d.tdu.chk.testing = none ∧ d.bit R.TDU_CHK_TEST_BUSY = false ∧ d.counter 24 = s.dev.counter 24 + 1 ∧ CountersKept [24] s d ∧
      Recorded .tdu 0x4010 [s.dev.die, u, why] s d ∧ d.out = .tduIrq :: s.dev.out ∧
      ((s.dev.chkUnit u).withdrawn = false → ∀ p, sent true p d) ∧ ((s.dev.chkUnit u).withdrawn = true → ∀ p, d.port (.tdu p) = s.dev.port (.tdu p)) ∧
      RegsKept .tdu [R.TDU_CHK_TEST_BUSY.addr] s d ∧ d.tta = s.dev.tta)) ∧
  (∀ (s : State), s.dev.tdu.chk.testing = none → s.dev.tdu.chk.testQ = [] → (∃ a, s.dev.radioIndex = some a) →
    let radio (u : Nat) : Prop := ∃ c, c < 16 ∧ (s.dev.get R.TDU_CHK_TEST_RADIO_CLASSES).testBit c = true ∧ s.dev.get (R.TDU_CHK_CLASS_FIRST_UNIT.at c) ≤ u ∧
      u < s.dev.get (R.TDU_CHK_CLASS_FIRST_UNIT.at c) + s.dev.get (R.TDU_CHK_CLASS_UNIT_COUNT.at c)
    (∀ i, i < 4096 → radio ((s.dev.tdu.chk.lastPeriodic + 1 + i) % 4096) → (∀ j, j < i → ¬ radio ((s.dev.tdu.chk.lastPeriodic + 1 + j) % 4096)) →
      let u := (s.dev.tdu.chk.lastPeriodic + 1 + i) % 4096
      Completes .periodicTestTimer s fun d =>
        d.tdu.chk = { s.dev.tdu.chk with testing := some u, lastPeriodic := u, periodicDue := false } ∧ d.out = .chkTest u :: s.dev.out ∧
        d.bit R.TDU_CHK_TEST_BUSY = true ∧ d.get R.TDU_CHK_TEST_UNIT = u ∧ d.counter 23 = s.dev.counter 23 + 1 ∧ CountersKept [23] s d ∧ d.tta = s.dev.tta)) ∧
  (∀ (u : Nat) (s : State), s.dev.tdu.chk.testing = some u → (∃ a, s.dev.radioIndex = some a) →
    Completes .periodicTestTimer s fun d => d.tdu = { s.dev.tdu with chk := { s.dev.tdu.chk with periodicDue := true } } ∧ d.out = s.dev.out) ∧
  (∀ (s : State), s.dev.radioIndex = none → Completes .periodicTestTimer s fun d => d = s.dev) ∧
  (∀ (s : State), let u := s.dev.get R.TDU_CHK_USEL_UNIT
    Completes .unitClear s fun d => d.chkUnit u = {} ∧ (∀ v, v ≠ u → d.chkUnit v = s.dev.chkUnit v) ∧
      (∀ p : Fin 2, (d.port (.tdu p)).queue = (s.dev.port (.tdu p)).queue ++
        if (s.dev.chkUnit u).withdrawn && s.dev.isUp (.tdu p) then [queued 2 0 (.check 0 (.unitState (BitVec.ofNat 16 u) false))] else []) ∧
      d.tdu.regs = s.dev.tdu.regs ∧ d.tdu.bank = s.dev.tdu.bank ∧ d.tta = s.dev.tta ∧ d.out = s.dev.out) ∧
  (∀ (s : State), Completes .binClr s fun d =>
    (∀ i, i < 48 → d.get (R.TDU_CHK_BIN_CHECKED.at i) = 0 ∧ d.get (R.TDU_CHK_BIN_MISMATCH.at i) = 0) ∧ d.tdu.chk = { s.dev.tdu.chk with trips := [] } ∧
    RegsKept .tdu ((List.range 48).map fun i => (R.TDU_CHK_BIN_CHECKED.at i).addr) s d ∧
    d.tdu = { s.dev.tdu with regs := d.tdu.regs, chk := d.tdu.chk } ∧ d.tta = s.dev.tta ∧ d.out = s.dev.out))

/-- R140, R143 to R145. R145's upper bound leaves out the product of its two terms, so the statement gives the sum that R144's slew yields. -/
def Obligations.PresentedTimeMonotonic : Prop :=
  ∀ b : TimeBase, b.paced →
    (∀ t t', t < t' → ({ b with tick := t } : TimeBase).present < ({ b with tick := t' } : TimeBase).present) ∧
    (∀ t, let x := ({ b with tick := t } : TimeBase)
      let y := ({ b with tick := t + 1 } : TimeBase)
      1000000 * (x.present + 2 ^ 40 - 2 ^ 31) - 50 * 2 ^ 40 ≤ 1000000 * y.present ∧
      1000000 * (y.present - x.present) ≤ 1000050 * (y.forceT - x.forceT) + 2000000)

/-- R141, R142, R144, R146, R147, R155, R161. The clauses on SET take AUTO = 0, since a SET may start an automatic switch otherwise. -/
def Obligations.TimeDomains : Prop :=
  (∀ (m : Dom) (s : State), s.dev.leads = true →
    let b := s.dev.tta.time.base
    let x := b.dom m
    let hold : Nat := if x.state = .locked then b.tick else x.holdFrom
    (∀ (rate : BitVec 32), s.dev.synceLock m = true → Completes (.timeRateWrite m rate) s fun d => d = s.dev) ∧
    (∀ (rate : BitVec 32), s.dev.synceLock m = false → Completes (.timeRateWrite m rate) s fun d =>
      d = s.dev.setTb .tta (b.setDom m { x with ofs := x.timeAt b.tick, base := b.tick, rate := rate.toInt, corrEnd := none, holdFrom := hold }) ∧
      (d.tta.time.base.dom m).timeAt b.tick = x.timeAt b.tick) ∧
    (∀ (ns : W64), s.dev.bit R.TTA_TIME_CTL_AUTO = false →
      let v : Int := ns.toNat * 2 ^ 40 + s.dev.get (R.TTA_TIME_SET_FRAC_FRAC.at m.code) * 2 ^ 8
      let jump := (ns32 (v - x.timeAt b.tick)).toNat
      (x.state = .unset → m ≠ b.inForce → RecorderRoomFor 1 .tta s → Completes (.timeSet m ns) s fun d =>
        (∃ y, SetTo x y b.tick v ∧ y.state = .holdover ∧ d.tta.time.base = b.setDom m y) ∧
        RecordedAll .tta [(0x1001, [m.code, 0, 2])] s.dev d ∧ d.tta.regs = s.dev.tta.regs ∧ TimeFrame d s.dev) ∧
      (x.state = .unset → m = b.inForce → s.dev.tta.time.noAnchor = false → RecorderRoomFor 2 .tta s → Completes (.timeSet m ns) s fun d =>
        (∃ y, SetTo x y b.tick v ∧ y.state = .holdover ∧ d.tta.time.base = b.setDom m y) ∧
        RecordedAll .tta [(0x1001, [m.code, 0, 2]), (0xF001, anchorParams .tta 2 d)] s.dev d ∧ d.tta.regs = s.dev.tta.regs ∧ TimeFrame d s.dev) ∧
      (x.state ≠ .unset → m ≠ b.inForce → Completes (.timeSet m ns) s fun d =>
        ∃ y, SetTo x y b.tick v ∧ y.state = x.state ∧ y.holdFrom = hold ∧ d = s.dev.setTb .tta (b.setDom m y)) ∧
      (x.state ≠ .unset → m = b.inForce → s.dev.tta.time.noAnchor = false → RecorderRoomFor 2 .tta s → Completes (.timeSet m ns) s fun d =>
        (SetTo x (d.tta.time.base.dom m) b.tick v ∧ (d.tta.time.base.dom m).state = x.state ∧ (d.tta.time.base.dom m).holdFrom = hold) ∧
        d.tta.time.base.present = b.present ∧
        d.tta.time.base = { b.setDom m (d.tta.time.base.dom m) with bridge := d.tta.time.base.bridge, own := d.tta.time.base.own } ∧
        d.tta.time.base.bridge.ppm = max 1 (min 50 (s.dev.get R.TTA_TIME_CTL_SLEW_PPM)) ∧
        RecordedAll .tta [(0x1006, [m.code, jump]), (0xF001, anchorParams .tta 5 d)] s.dev d ∧ d.tta.regs = s.dev.tta.regs ∧ TimeFrame d s.dev)) ∧
    (∀ (k : W64), m ≠ b.inForce → Completes (.timeStep m k) s fun d =>
      d = s.dev.setTb .tta (b.setDom m { x with ofs := x.ofs + k.toInt * 2 ^ 40, holdFrom := hold })) ∧
    (∀ (k : W64), m = b.inForce → s.dev.tta.time.noAnchor = false → RecorderRoomFor 2 .tta s → Completes (.timeStep m k) s fun d =>
      d.tta.time.base.dom m = { x with ofs := x.ofs + k.toInt * 2 ^ 40, holdFrom := hold } ∧ d.tta.time.base.present = b.present ∧
      d.tta.time.base.bridgeNow = b.bridgeNow - k.toInt * 2 ^ 40 ∧
      d.tta.time.base = { b.setDom m (d.tta.time.base.dom m) with bridge := d.tta.time.base.bridge, own := d.tta.time.base.own } ∧
      RecordedAll .tta [(0x1006, [m.code, (ns32 (k.toInt * 2 ^ 40)).toNat]), (0xF001, anchorParams .tta 5 d)] s.dev d ∧
      d.tta.regs = s.dev.tta.regs ∧ TimeFrame d s.dev) ∧
    (x.state = .unset → Completes (.domCmdLocked m) s (fun d => d = s.dev) ∧ Completes (.domCmdHoldover m) s fun d => d = s.dev) ∧
    (x.state = .holdover → Completes (.domCmdHoldover m) s (fun d => d = s.dev) ∧
      (s.dev.bit R.TTA_TIME_CTL_AUTO = false → RecorderRoomFor 1 .tta s → Completes (.domCmdLocked m) s fun d =>
        d.tta.time.base = b.setDom m { x with state := .locked, holdFrom := b.tick } ∧ RecordedAll .tta [(0x1001, [m.code, 2, 1])] s.dev d ∧
        d.tta.regs = s.dev.tta.regs ∧ TimeFrame d s.dev)) ∧
    (x.state = .locked → Completes (.domCmdLocked m) s fun d => d = s.dev.setTb .tta (b.setDom m { x with holdFrom := b.tick })) ∧
    -- LOCKED to HOLDOVER, by command or by the hold timer
    (x.state = .locked →
      let ms := max 1 (min 1000 (s.dev.get (R.TTA_TIME_DOM_CTL_HOLD_MS.at m.code)))
      (∀ t, max b.tick t < x.holdFrom + ms * 1000000 → Completes (.holdTimerExpiry m t) s fun d => d = s.dev.advance .tta t) ∧
      (∀ c t, (c = .domCmdHoldover m ∧ t = 0) ∨ (c = .holdTimerExpiry m t ∧ x.holdFrom + ms * 1000000 ≤ max b.tick t) →
        let b' := (({ b with tick := max b.tick t } : TimeBase).setDom m { x with state := .holdover })
        (s.dev.bit R.TTA_TIME_CTL_AUTO = false ∨ (b'.dom b.inForce.other).state ≠ .locked ∨ m ≠ b.inForce ∧ (b.dom b.inForce).state = .locked → RecorderRoomFor 1 .tta s →
          Completes c s fun d => d.tta.time.base = b' ∧ RecordedAll .tta [(0x1001, [m.code, 1, 2])] s.dev d ∧ d.tta.regs = s.dev.tta.regs ∧ TimeFrame d s.dev) ∧
        (s.dev.bit R.TTA_TIME_CTL_AUTO = true → m = b.inForce → (b.dom m.other).state = .locked → b.plan = none → RecorderRoomFor 2 .tta s → 0 ≤ b'.present →
          Completes c s fun d => ∃ at_ : Nat, d.tta.time.base = { b' with plan := some ⟨at_, m.other⟩ } ∧ at_ % 10000 = 0 ∧
            b'.present + 20000 * 2 ^ 40 ≤ at_ * 2 ^ 40 ∧ at_ * 2 ^ 40 < b'.present + 30000 * 2 ^ 40 ∧
            RecordedAll .tta [(0x1001, [m.code, 1, 2]), (0x1002, [m.other.code, 1, at_ % 2 ^ 32, (ns32 (b'.present - (b'.dom m.other).timeAt b'.tick)).toNat])] s.dev d ∧
            d.tta.regs = s.dev.tta.regs ∧ TimeFrame d s.dev))) ∧
    -- a switch request
    (∀ u : Dom,
      let amt := b.present - (b.dom u).timeAt b.tick
      let big : Prop := max 1 (s.dev.get R.TTA_TIME_CTL_MAX_BRIDGE_MS) * 1000000 * 2 ^ 40 < amt.natAbs
      let refusedWith (code : Nat) : Prop := RecorderRoomFor 1 .tta s → Completes (.timeSwitchRequest u) s fun d =>
        d.get R.TTA_TIME_STAT_LAST_SW = code ∧ d.tta.time = s.dev.tta.time ∧ RecordedAll .tta [(0x1004, [u.code, code])] s.dev d ∧
        RegsKept .tta [R.TTA_TIME_STAT.base] s d ∧ TimeFrame d s.dev
      (b.plan ≠ none → refusedWith 2) ∧
      (b.plan = none → u = b.inForce → Completes (.timeSwitchRequest u) s fun d =>
        d.get R.TTA_TIME_STAT_LAST_SW = 1 ∧ d.tta = { s.dev.tta with regs := d.tta.regs } ∧ RegsKept .tta [R.TTA_TIME_STAT.base] s d ∧ TimeFrame d s.dev) ∧
      (b.plan = none → u ≠ b.inForce → (b.dom u).state = .unset → refusedWith 4) ∧
      (b.plan = none → u ≠ b.inForce → (b.dom u).state ≠ .unset → (b.dom b.inForce).state ≠ .unset → big → refusedWith 3) ∧
      (b.plan = none → u ≠ b.inForce → (b.dom u).state ≠ .unset → (b.dom b.inForce).state ≠ .unset → ¬ big → 0 ≤ b.present → RecorderRoomFor 1 .tta s →
        Completes (.timeSwitchRequest u) s fun d => ∃ at_ : Nat, d.tta.time.base = { b with plan := some ⟨at_, u⟩ } ∧ at_ % 10000 = 0 ∧
          b.present + 20000 * 2 ^ 40 ≤ at_ * 2 ^ 40 ∧ at_ * 2 ^ 40 < b.present + 30000 * 2 ^ 40 ∧
          RecordedAll .tta [(0x1002, [u.code, 0, at_ % 2 ^ 32, (ns32 amt).toNat])] s.dev d ∧ d.tta.regs = s.dev.tta.regs ∧ TimeFrame d s.dev) ∧
      (b.plan = none → u ≠ b.inForce → (b.dom u).state ≠ .unset → (b.dom b.inForce).state = .unset → s.dev.tta.time.noAnchor = false → RecorderRoomFor 2 .tta s →
        Completes (.timeSwitchRequest u) s fun d => d.tta.time.base.inForce = u ∧ d.tta.time.base.present = (b.dom u).timeAt b.tick ∧
          d.get R.TTA_TIME_STAT_LAST_SW = 1 ∧ RegsKept .tta [R.TTA_TIME_STAT.base] s d ∧
          RecordedAll .tta [(0x1003, [u.code, 0]), (0xF001, anchorParams .tta 2 d)] s.dev d ∧ TimeFrame d s.dev))) ∧
  (∀ (m : Dom) (s : State), s.dev.leads = false → RecorderRoomFor 1 .tta s →
    (∀ c off, (∃ r, c = .timeRateWrite m r ∧ off = 0x118) ∨ (∃ v, c = .timeSet m v ∧ off = 0x120) ∨ (∃ v, c = .timeStep m v ∧ off = 0x130) ∨
        ((c = .domCmdLocked m ∨ c = .domCmdHoldover m) ∧ off = 0x138) →
      Completes c s fun d => d.tta.time = s.dev.tta.time ∧ RecordedAll .tta [(0x1007, [off + 0x80 * m.code])] s.dev d ∧
        d.tta.regs = s.dev.tta.regs ∧ TimeFrame d s.dev) ∧
    Completes (.timeSwitchRequest m) s fun d => d.get R.TTA_TIME_STAT_LAST_SW = 6 ∧ d.tta.time = s.dev.tta.time ∧
      RecordedAll .tta [(0x1007, [0x28])] s.dev d ∧ RegsKept .tta [R.TTA_TIME_STAT.base] s d ∧ TimeFrame d s.dev)

/-- R143, R144, R147, R148, R151, R152, R391, R496. The clauses on the aggregator's switch take AUTO = 0, those on the die unit's no live
trace slot.
R159 to R162, R497, R511. -/
def Obligations.TimeSwitchAndPtp : Prop :=
  (
  (∀ (p : Part) (tick : Nat) (s : State),
    let e := s.dev.advance p tick
    let b := e.tb p
    let calm : Prop := (p = .tta → s.dev.bit R.TTA_TIME_CTL_AUTO = false ∧ s.dev.tta.time.noAnchor = false) ∧ (p = .tdu → ∀ k, k < 8 → e.tlive k = false)
    let kept (d : Dev) : Prop := d.pins = e.pins ∧ d.out = e.out ∧ d.freeIx = e.freeIx ∧ d.timeValid p = true ∧
      (p = .tta → TimeFrame d e ∧ d.get R.TTA_TIME_STAT_LAST_SW = 1 ∧ RegsKept .tta [R.TTA_TIME_STAT.base] s d) ∧
      (p = .tdu → d.tta = s.dev.tta ∧ d.tdu = { e.tdu with time := { e.tdu.time with base := d.tdu.time.base }, recorder := d.tdu.recorder })
    (b.plan = none → Completes (.switchAt p tick) s fun d => d = e) ∧
    (∀ w, b.plan = some w →
      (e.timeValid p = true → b.present < w.swAt * 2 ^ 40 → 0 < w.swAt → Completes (.switchAt p tick) s fun d => d = e) ∧
      (e.timeValid p = true → w.swAt * 2 ^ 40 ≤ b.present → (b.dom w.target).state ≠ .unset → calm → RecorderRoomFor 2 p s →
        Completes (.switchAt p tick) s fun d => (d.tb p).present = b.present ∧ (d.tb p).inForce = w.target ∧ (d.tb p).plan = none ∧
          (d.tb p).domA = b.domA ∧ (d.tb p).domB = b.domB ∧ (d.tb p).tick = b.tick ∧
          RecordedAll p [(0x1003, [w.target.code, (ns32 (b.present - (b.dom w.target).timeAt b.tick)).toNat]), (0xF001, anchorParams p 1 d)] s.dev d ∧ kept d) ∧
      (e.timeValid p = false → (p = .tdu → e.tdu.time.state ≠ .unset) → (b.dom w.target).state ≠ .unset → calm → RecorderRoomFor 2 p s →
        Completes (.switchAt p tick) s fun d => (d.tb p).present = (b.dom w.target).timeAt b.tick ∧ (d.tb p).inForce = w.target ∧ (d.tb p).plan = none ∧
          RecordedAll p [(0x1003, [w.target.code, 0]), (0xF001, anchorParams p 2 d)] s.dev d ∧ kept d) ∧
      ((e.timeValid p = true → w.swAt * 2 ^ 40 ≤ b.present) → (b.dom w.target).state = .unset → (p = .tta → s.dev.bit R.TTA_TIME_CTL_AUTO = false) → RecorderRoomFor 1 p s →
        Completes (.switchAt p tick) s fun d => d.tb p = { b with plan := none } ∧ RecordedAll p [(0x1004, [w.target.code, 5])] s.dev d ∧
          (p = .tta → d.get R.TTA_TIME_STAT_LAST_SW = 5 ∧ RegsKept .tta [R.TTA_TIME_STAT.base] s d ∧ TimeFrame d e) ∧
          (p = .tdu → d.tta = s.dev.tta ∧ d.tdu.regs = s.dev.tdu.regs)))) ∧
  (∀ (p : Part) (tick : Nat) (s : State),
    let e := s.dev.advance p tick
    let b := e.tb p
    (b.bridgeNow = 0 → b.bridge.amt ≠ 0 ∨ b.own.amt ≠ 0 → (p = .tta → s.dev.tta.time.noAnchor = false) → RecorderRoomFor 2 p s →
      Completes (.bridgeSlewComplete p tick) s fun d => (d.tb p).bridge.amt = 0 ∧ (d.tb p).own.amt = 0 ∧ (d.tb p).present = b.present ∧
        d.tb p = { b with bridge := (d.tb p).bridge, own := (d.tb p).own } ∧
        RecordedAll p [(0x1005, [b.inForce.code]), (0xF001, anchorParams p 4 d)] s.dev d ∧
        (p = .tta → TimeFrame d e ∧ d.tta.regs = s.dev.tta.regs) ∧ (p = .tdu → d.tta = s.dev.tta ∧ d.tdu.regs = s.dev.tdu.regs)) ∧
    (b.bridgeNow ≠ 0 ∨ (b.bridge.amt = 0 ∧ b.own.amt = 0) → Completes (.bridgeSlewComplete p tick) s fun d => d = e)) ∧
  (∀ (p : Part) (tick : Nat) (s : State),
    let e := s.dev.advance p tick
    (e.timeValid p = false → Completes (.wholeSecond p tick) s fun d => d = e) ∧
    (e.timeValid p = true → p = .tta → s.dev.bit R.TTA_COMPAT_NO_ANCHOR = false → RecorderRoomFor 1 p s → Completes (.wholeSecond p tick) s fun d =>
      RecordedAll p [(0xF001, anchorParams p 0 e)] s.dev d ∧ d.tta.time = { e.tta.time with noAnchor := false } ∧ d.bit R.TTA_ARB_CTL_MODE = true ∧
      RegsKept .tta [R.TTA_ARB_CTL_MODE.addr] s d ∧ d.tdu = s.dev.tdu ∧ d.out = s.dev.out ∧ d.tta.ing.nextWm = none) ∧
    (e.timeValid p = true → p = .tta → s.dev.bit R.TTA_COMPAT_NO_ANCHOR = true → Completes (.wholeSecond p tick) s fun d =>
      d.tta.recorder = s.dev.tta.recorder ∧ d.tta.time = { e.tta.time with noAnchor := true } ∧ d.bit R.TTA_ARB_CTL_MODE = true ∧
      RegsKept .tta [R.TTA_ARB_CTL_MODE.addr] s d ∧ d.tdu = s.dev.tdu ∧ d.out = s.dev.out) ∧
    (e.timeValid p = true → p = .tdu → RecorderRoomFor 1 p s → Completes (.wholeSecond p tick) s fun d =>
      RecordedAll p [(0xF001, anchorParams p 0 e)] s.dev d ∧ d.tdu.regs = s.dev.tdu.regs ∧ d.tdu.time = e.tdu.time ∧ d.tta = s.dev.tta ∧
      ∀ q : Fin 2, (d.port (.tdu q)).queue = (s.dev.port (.tdu q)).queue ++ (if s.dev.isUp (.tdu q) then
        [queued 2 0 (.check 0 (.bins (e.stamp .tdu) ((List.range 48).map fun i => s.dev.word .tdu (R.TDU_CHK_BIN.base + 8 * i))))] else [])))) ∧
  (
  (∀ (m : PtpMsg) (tick : Nat) (s : State),
    let e := s.dev.advance .tta tick
    let b := e.tta.time.base
    let g (f : Fld) (i : Nat) := s.dev.get (f.at i)
    let on (i : Nat) : Prop := g R.TTA_PTP_CFG_ENABLE i = 1 ∧ g R.TTA_PTP_CFG_PROFILE i < 2
    let clash : Prop := on 0 ∧ (g R.TTA_PTP_CFG_TIME_DOM 0 = g R.TTA_PTP_CFG_TIME_DOM 1 ∨ (g R.TTA_PTP_CFG_PORT_MASK 0 &&& g R.TTA_PTP_CFG_PORT_MASK 1 ≠ 0 ∧
      g R.TTA_PTP_CFG_PROFILE 0 = g R.TTA_PTP_CFG_PROFILE 1 ∧ g R.TTA_PTP_CFG_DOMAIN_NUM 0 = g R.TTA_PTP_CFG_DOMAIN_NUM 1))
    let fits (i : Nat) : Prop := (g R.TTA_PTP_CFG_PORT_MASK i).testBit m.port.val = true ∧ g R.TTA_PTP_CFG_DOMAIN_NUM i = m.domainNum.toNat ∧
      g R.TTA_PTP_CFG_PROFILE i = if m.udp then 1 else 0
    let covers (i : Nat) : Prop := (i = 0 ∧ on 0 ∧ fits 0) ∨ (i = 1 ∧ on 1 ∧ ¬ clash ∧ fits 1 ∧ ¬ (on 0 ∧ fits 0))
    (m.management = true ∨ (m.transmit = true ∧ s.dev.bit R.TTA_POS_LOCKED = false) ∨ (∀ i, ¬ covers i) →
      Completes (.ptpEventMessage m tick) s fun d => d = e) ∧
    (∀ i, covers i → m.management = false → (m.transmit = true → s.dev.bit R.TTA_POS_LOCKED = true) → Completes (.ptpEventMessage m tick) s fun d =>
      d.out = .ptpStamp m.port b.tick (b.domA.timeAt b.tick / 2 ^ 40).toNat (b.domB.timeAt b.tick / 2 ^ 40).toNat
        (m.transmit && m.isSync && decide (g R.TTA_PTP_CFG_TWO_STEP i = 0)) :: s.dev.out ∧
      d.get (R.TTA_CNT_VALUE.at 18) = (s.dev.get (R.TTA_CNT_VALUE.at 18) + 1) % 2 ^ 64 ∧ RegsKept .tta [(R.TTA_CNT_VALUE.at 18).addr] s d ∧
      d.tta = { e.tta with regs := d.tta.regs } ∧ d.tdu = s.dev.tdu)) ∧
  (∀ (m : Dom) (s : State),
    let b := s.dev.tta.time.base
    let src := s.dev.get (R.TTA_TIME_DOM_CTL_SYNCE_SRC.at m.code)
    let lost : Bool := match m with
      | .a => s.dev.tta.time.synceLostA
      | .b => s.dev.tta.time.synceLostB
    let some_ : Prop := 1 ≤ src ∧ src ≤ 4
    (∀ freq : BitVec 32, some_ → lost = false → Completes (.synceRateUpdate m freq) s fun d =>
      d.get (R.TTA_TIME_FREQ_FREQ.at m.code) = freq.toNat ∧ d.bit (R.TTA_TIME_FREQ_VALID.at m.code) = true ∧
      RegsKept .tta [(R.TTA_TIME_FREQ_FREQ.at m.code).addr] s d ∧ TimeFrame d s.dev ∧ d.tta.recorder = s.dev.tta.recorder ∧
      (s.dev.synceLock m = true → s.dev.leads = true → d.tta.time.base = b.setDom m
        { b.dom m with ofs := (b.dom m).timeAt b.tick, base := b.tick, rate := freq.toInt, corrEnd := none }) ∧
      (s.dev.synceLock m = false ∨ s.dev.leads = false → d.tta.time.base = b)) ∧
    (∀ freq : BitVec 32, ¬ some_ ∨ lost = true → Completes (.synceRateUpdate m freq) s fun d => d = s.dev) ∧
    (some_ → lost = false → RecorderRoom .tta s → Completes (.synceClockLost m) s fun d => d.bit (R.TTA_TIME_FREQ_VALID.at m.code) = false ∧
      RegsKept .tta [(R.TTA_TIME_FREQ_VALID.at m.code).addr] s d ∧ Recorded .tta 0x1021 [m.code, src - 1, 0] s d ∧ d.tta.time.base = b ∧
      d.tta.time = { s.dev.tta.time with synceLostA := m = .a || s.dev.tta.time.synceLostA, synceLostB := m = .b || s.dev.tta.time.synceLostB } ∧
      d.tdu = s.dev.tdu ∧ d.out = s.dev.out) ∧
    (some_ → lost = true → RecorderRoom .tta s → Completes (.synceClockRestored m) s fun d => Recorded .tta 0x1021 [m.code, src - 1, 1] s d ∧
      d.tta.time = { s.dev.tta.time with synceLostA := !decide (m = .a) && s.dev.tta.time.synceLostA, synceLostB := !decide (m = .b) && s.dev.tta.time.synceLostB } ∧
      d.tta.regs = s.dev.tta.regs ∧ d.tdu = s.dev.tdu ∧ d.out = s.dev.out) ∧
    (¬ some_ → Completes (.synceClockLost m) s (fun d => d = s.dev) ∧ Completes (.synceClockRestored m) s fun d => d = s.dev)) ∧
  (∀ (tick : Nat) (s : State),
    let e := s.dev.advance .tta tick
    let t := max s.dev.tta.time.base.tick tick
    let early : Prop := s.dev.tta.time.ppsSeen = true ∧ t < s.dev.get R.TTA_PPS_IN_TICK + 500000000
    (s.dev.bit R.TTA_PPS_CFG_IN_EN = false ∨ early → Completes (.ppsInEdge tick) s fun d => d = e) ∧
    (s.dev.bit R.TTA_PPS_CFG_IN_EN = true → ¬ early → Completes (.ppsInEdge tick) s fun d => d.get R.TTA_PPS_IN_TICK = t % 2 ^ 64 ∧
      RegsKept .tta [R.TTA_PPS_IN_TICK.addr] s d ∧ d.tta = { e.tta with regs := d.tta.regs, time := { e.tta.time with ppsSeen := true } } ∧
      d.tdu = s.dev.tdu ∧ d.out = s.dev.out) ∧
    (∀ rise : Bool, Completes (.ppsOutEdge rise tick) s fun d =>
      let b := s.dev.tta.time.base
      let src := s.dev.get R.TTA_PPS_CFG_OUT_SRC
      let live : Prop := (src = 0 ∧ (b.dom b.inForce).state ≠ .unset) ∨ (src = 1 ∧ b.domA.state ≠ .unset) ∨ (src = 2 ∧ b.domB.state ≠ .unset)
      (d.pins.ppsOut = true ↔ rise = true ∧ live) ∧ d = { e with pins := d.pins } ∧ { d.pins with ppsOut := false } = { s.dev.pins with ppsOut := false })))

/-- R153 to R158. The latency counts in ps, each value of L doubled in ticks. -/
def Obligations.TimeMessages : Prop :=
  (∀ (tick : Nat) (s : State),
    let e := s.dev.advance .tta tick
    let b := e.tta.time.base
    Completes (.timeSend tick) s fun d => d.tta.time = { e.tta.time with seq := (e.tta.time.seq + 1) % 65536 } ∧ d.out = s.dev.out ∧
      d.tdu = s.dev.tdu ∧ d.tta.regs = s.dev.tta.regs ∧
      ∀ p : Fin 17, ∃ m : TimeMsg, m.inForce = b.inForce ∧ m.lead = s.dev.leads ∧ m.seq = BitVec.ofNat 16 e.tta.time.seq ∧
        m.latDone = s.dev.bit (R.TTA_TIME_LAT_VALID.at p.val) ∧ m.latPs.toNat = s.dev.get (R.TTA_TIME_LAT_LAT_PS.at p.val) ∧
        m.slewPpm.toNat = max 1 (min 50 (s.dev.get R.TTA_TIME_CTL_SLEW_PPM)) ∧
        d.port (.tta p) = { s.dev.port (.tta p) with queue := (s.dev.port (.tta p)).queue ++
          (if s.dev.isUp (.tta p) && (decide (p.val < 16) || s.dev.leads) then [queued 1 0 (.time m)] else []) }) ∧
  -- a TIME message at a die unit
  (∀ (p : Fin 2) (h : RxHdr) (m : TimeMsg) (tick : Nat) (s : State), AcceptsPlain (.tdu p) h s.dev →
    let e := s.dev.advance .tdu tick
    let b := e.tdu.time.base
    let uses : Prop := m.usable = true ∧ (m.lead = true ∨ (s.dev.tdu.time.leadLost = true ∧ p = s.dev.tdu.time.srcPort))
    let c : Instr := .timeFrame (.tdu p) h m tick
    let got (d : Dev) : Prop := Received (.tdu p) h s.dev d ∧ d.tta = s.dev.tta ∧
      (m.lead = true → d.tdu.time.srcPort = p ∧ d.tdu.time.leadLost = false) ∧
      (m.lead = false → d.tdu.time.srcPort = s.dev.tdu.time.srcPort ∧ d.tdu.time.leadLost = s.dev.tdu.time.leadLost)
    (¬ uses → Completes c s fun d => got d ∧ d.tdu.time.base = b ∧ d.tdu.time.state = s.dev.tdu.time.state ∧ d.tdu.time.usable = s.dev.tdu.time.usable ∧
      (d.port (.tdu p)).queue = (s.dev.port (.tdu p)).queue ++
        (if m.seq.toNat % 64 = 0 then [queued 1 0 (.echo (BitVec.ofNat 64 b.tick) 0)] else [])) ∧
    (uses → s.dev.tdu.time.state = .unset → s.dev.tdu.time.usable = 0 → Completes c s fun d => got d ∧ d.tdu.time.base = b ∧
      d.tdu.time.state = .unset ∧ d.tdu.time.usable = 1) ∧
    (uses → s.dev.tdu.time.state = .unset → s.dev.tdu.time.usable = 1 → s.dev.tdu.chk.stepQ = [] → RecorderRoomFor 2 .tdu s → Completes c s fun d =>
      got d ∧ d.tdu.time.state = .locked ∧ d.tdu.time.fromD2 = false ∧ d.tdu.time.base.inForce = m.inForce ∧ d.tdu.time.base.tick = b.tick ∧
      (∀ x, (d.tdu.time.base.dom x).state = m.st x ∧ (m.st x ≠ .unset → (d.tdu.time.base.dom x).timeAt b.tick = m.value x)) ∧
      d.tdu.time.base.bridgeNow = m.carried ∧
      ∃ r : Nat, r = (if s.dev.tdu.time.fromD2 then 3 else 2) ∧ RecordedAll .tdu [(0x1001, [2, 0, 1]), (0xF001, anchorParams .tdu r d)] s.dev d) ∧
    (uses → s.dev.tdu.time.state ≠ .unset → m.inForce = b.inForce → m.switchTo = none → RecorderRoomFor 3 .tdu s → Completes c s fun d =>
      let set (x : Dom) : Bool := decide (m.st x ≠ .unset ∧ 1000 * 2 ^ 40 ≤ (m.value x - (b.dom x).timeAt b.tick).natAbs)
      let err (x : Dom) : Int := m.value x - (b.dom x).timeAt b.tick
      got d ∧ d.tdu.time.state = .locked ∧ d.tdu.time.base.inForce = b.inForce ∧ d.tdu.time.base.plan = none ∧ d.tdu.time.base.tick = b.tick ∧
      (∀ x, (m.st x = .unset → d.tdu.time.base.dom x = b.dom x) ∧
        (m.st x ≠ .unset → Aligned (b.dom x) (d.tdu.time.base.dom x) b.tick (m.value x) ∧ (d.tdu.time.base.dom x).state = m.st x)) ∧
      d.tdu.time.base.bridge.amt = m.carried ∧ d.tdu.time.base.bridge.ppm = m.slewPpm.toNat ∧
      (set b.inForce = false → d.tdu.time.base.own.amt = (({ b with domA := d.tdu.time.base.domA, domB := d.tdu.time.base.domB } : TimeBase).ownLeft)) ∧
      (set b.inForce = true → (b.dom b.inForce).state ≠ .unset → d.tdu.time.base.own.amt = b.ownLeft - err b.inForce) ∧
      RecordedAll .tdu ((if set .a then [(0x1012, [0, (ns32 (err .a)).toNat])] else []) ++ (if set .b then [(0x1012, [1, (ns32 (err .b)).toNat])] else []) ++
        (if s.dev.tdu.time.state = .holdover then [(0x1001, [2, 2, 1])] else [])) s.dev d) ∧
    -- a switch that the message announces, or that it shows to have happened
    (uses → s.dev.tdu.time.state = .locked → RecorderRoomFor 4 .tdu s →
      (∀ u at_, m.switchTo = some (u, at_) → u ≠ b.inForce → Completes c s fun d => got d ∧
        (d.tdu.time.base.inForce = u ∨ d.tdu.time.base.plan = some ⟨at_, u⟩)) ∧
      (m.switchTo = none → m.inForce ≠ b.inForce → Completes c s fun d => got d ∧ d.tdu.time.base.inForce = m.inForce))) ∧
  -- MEASURE, and messages in the wrong direction
  (∀ (p : Fin 2) (h : RxHdr) (m : TimeMsg) (tick : Nat) (s : State), (s.dev.port (.tdu p)).phase = 5 → h.crcOk = true → (s.dev.port (.tdu p)).echoes < 63 →
    let t := max s.dev.tdu.time.base.tick tick
    Completes (.timeFrame (.tdu p) h m tick) s fun d => ∃ f : Frame, d.out = .frame (.tdu p) f false :: s.dev.out ∧
      f.payload = .echo (BitVec.ofNat 64 t) (BitVec.ofNat 64 t) ∧ d.port (.tdu p) = { s.dev.port (.tdu p) with echoes := (s.dev.port (.tdu p)).echoes + 1 } ∧
      d.tdu.time = (s.dev.advance .tdu tick).tdu.time ∧ d.tta = s.dev.tta) ∧
  (∀ (p : Fin 17) (h : RxHdr) (m : TimeMsg) (tick : Nat) (s : State), p.val < 16 →
    Completes (.timeFrame (.tta p) h m tick) s fun d => d = s.dev.advance .tta tick) ∧
  -- the follower twin
  (∀ (h : RxHdr) (m : TimeMsg) (tick : Nat) (s : State), AcceptsPlain (.tta 16) h s.dev →
    let e := s.dev.advance .tta tick
    let b := e.tta.time.base
    let c : Instr := .timeFrame (.tta 16) h m tick
    (s.dev.leads = true ∨ m.lead = false ∨ m.usable = false → Completes c s fun d => Received (.tta 16) h s.dev d ∧ d.tta.time = e.tta.time ∧ d.tdu = s.dev.tdu) ∧
    (s.dev.leads = false → m.lead = true → m.usable = true → b.valid = false → s.dev.tta.time.noAnchor = false → RecorderRoomFor 1 .tta s →
      Completes c s fun d => Received (.tta 16) h s.dev d ∧ d.tta.time.base.inForce = m.inForce ∧ d.tta.time.base.bridgeNow = m.carried ∧
        (∀ x, (d.tta.time.base.dom x).state = m.st x ∧ (m.st x ≠ .unset → (d.tta.time.base.dom x).timeAt b.tick = m.value x)) ∧
        RecordedAll .tta [(0xF001, anchorParams .tta 2 d)] s.dev d ∧ d.tdu = s.dev.tdu) ∧
    (s.dev.leads = false → m.lead = true → m.usable = true → b.valid = true → m.inForce = b.inForce → m.switchTo = none →
      Completes c s fun d => Received (.tta 16) h s.dev d ∧ d.tta.time.base.inForce = b.inForce ∧ d.tta.time.base.bridge.amt = m.carried ∧
        (∀ x, m.st x ≠ .unset → Aligned (b.dom x) (d.tta.time.base.dom x) b.tick (m.value x) ∧ (d.tta.time.base.dom x).state = m.st x) ∧ d.tdu = s.dev.tdu)) ∧
  -- ECHO
  (∀ (p : Fin 17) (h : RxHdr) (t2 t3 : BitVec 64) (tick : Nat) (s : State) (es : EchoState) (t1 : Nat),
    assocGet p.val s.dev.tta.time.echo = some es → es.t1 = some t1 →
    let t := max s.dev.tta.time.base.tick tick
    let twice : Int := ((t : Int) - t1) - ((t3.toNat : Int) - t2.toNat)
    let mean (l : List Int) : Nat := ((l.sum * 500) / l.length).toNat
    let frame (d : Dev) : Prop := d.tdu = s.dev.tdu ∧ d.tta.time.base = (s.dev.advance .tta tick).tta.time.base ∧
      (∀ q, q ≠ p.val → assocGet q d.tta.time.echo = assocGet q s.dev.tta.time.echo) ∧ (∀ q, q ≠ p → d.port (.tta q) = s.dev.port (.tta q))
    (AcceptsPlain (.tta p) h s.dev → (∀ l, l = (twice :: es.last).take 64 → mean l < 2 ^ 24 →
      (es.deviated = true ∨ mean l ≤ es.trained + 1000 ∧ es.trained ≤ mean l + 1000 ∨ RecorderRoom .tta s) →
      Completes (.echoFrame p h t2 t3 tick) s fun d => frame d ∧ Received (.tta p) h s.dev d ∧ d.get (R.TTA_TIME_LAT_LAT_PS.at p.val) = mean l ∧
        (∃ es', assocGet p.val d.tta.time.echo = some es' ∧ es'.t1 = none ∧ es'.last = l ∧ es'.trained = es.trained) ∧
        (es.deviated = false → mean l > es.trained + 1000 ∨ es.trained > mean l + 1000 → Recorded .tta 0x1011 [p.val, es.trained, mean l] s d))) ∧
    ((s.dev.port (.tta p)).phase = 5 → h.crcOk = true → 0 < es.count → es.count < 63 → Completes (.echoFrame p h t2 t3 tick) s fun d => frame d ∧
      (∃ es', assocGet p.val d.tta.time.echo = some es' ∧ es'.t1 = some t ∧ es'.last = (twice :: es.last).take 64 ∧ es'.count = es.count + 1) ∧
      (∃ f : Frame, d.out = .frame (.tta p) f false :: s.dev.out) ∧ d.tta.regs = s.dev.tta.regs ∧ d.port (.tta p) = s.dev.port (.tta p)) ∧
    ((s.dev.port (.tta p)).phase = 5 → h.crcOk = true → es.count = 63 → RecorderRoomFor 2 .tta s → (∀ l, l = (twice :: es.last).take 64 → mean l < 2 ^ 24 →
      Completes (.echoFrame p h t2 t3 tick) s fun d => frame d ∧ d.get (R.TTA_TIME_LAT_LAT_PS.at p.val) = mean l ∧
        d.bit (R.TTA_TIME_LAT_VALID.at p.val) = true ∧ d.isUp (.tta p) = true ∧
        (∃ es', assocGet p.val d.tta.time.echo = some es' ∧ es'.t1 = none ∧ es'.trained = mean l ∧ es'.count = 0) ∧
        (∃ q ∈ d.tta.recorder.queue, q.evt.code = 0x1010 ∧ q.evt.p0 = BitVec.ofNat 32 p.val ∧ q.evt.p1 = BitVec.ofNat 32 (mean l)) ∧
        (d.port (.tta p)).queue = (s.dev.port (.tta p)).queue ++
          (if p.val < 16 then [queued 2 0 (.control 0 false (.regWrite 8 7 (s.dev.word .tta R.TTA_COMPAT.base &&& 7)))] else [])))) ∧
  -- messages that stay away
  (∀ (tick : Nat) (s : State),
    let e := s.dev.advance .tdu tick
    (Completes (.leadMessageTimeout tick) s fun d => d = e.updTduTime fun t =>
      { t with leadLost := true, srcPort := if s.dev.tdu.time.leadLost then t.srcPort else if t.srcPort = 0 then 1 else 0 }) ∧
    (s.dev.tdu.time.state ≠ .locked → Completes (.timeMessageTimeout tick) s fun d => d = e) ∧
    (s.dev.tdu.time.state = .locked → RecorderRoom .tdu s → Completes (.timeMessageTimeout tick) s fun d =>
      d.tdu = { e.tdu with time := { e.tdu.time with state := .holdover }, recorder := d.tdu.recorder } ∧ Recorded .tdu 0x1001 [2, 1, 2] s d ∧ d.tta = s.dev.tta))

/-- R15, R135, R171, R186, R210, R281, R364, R434.
R38, R41, R50, R152, R172, R173, R174, R391, R393, R427, R448, R474. -/
def Obligations.TtaFrames : Prop :=
  (
  (∀ (p : Fin 17) (h : RxHdr) (bytes : List Byte) (tick : Nat) (s : State) (c : Chunk), AcceptsHere p h s.dev → p.val < 16 → h.fwd = none →
    readChunk bytes = some c → c.len = bytes.length →
    let e := s.dev.advance .tta tick
    let hdr := c.rest.take 16
    let full := extendStamp e.ttaNs (leAt hdr 4 4)
    let good (ws : List Nat) : Prop := c.hdr = true ∧ c.last = true ∧ leAt hdr 0 1 = 1 ∧ 0 < c.nwords ∧ c.nwords ≤ 64 ∧ c.off = 0 ∧
      c.words 1 = some ws ∧ ws.length = leAt hdr 10 2 ∧ (s.dev.unpackOf (unpackKey p.val p.val h.cls.val)).isOpen = false
    (∀ (ws : List Nat) (n : Nat), good ws → s.dev.dieEnabled p.val = true → s.dev.get R.TTA_PWR_STAT_STATE = 0 → e.timeValid .tta = true →
      250000 * (n : Int) ≤ full + 1000 → full ≤ 250000 * (n : Int) + 1000 → full ≤ e.ttaNs + 1000000 → s.dev.epochPast n = false →
      let key := p.val * 384 + blockBit hdr h.allotIdx.toNat
      let ep := (s.dev.epoch? n).getD {}
      (∀ b ∈ ep.blocks, b.1 ≠ key) → Completes (.dataFrame p h bytes tick) s fun d => TookFrame p h s d ∧
        d.epoch? n = some { ep with blocks := ep.blocks ++ [(key, { hdr := hdr, words := ws, chunks := [bytes], allotIdx := h.allotIdx, cls := h.cls,
                                                                    allot := s.dev.dieAllot p.val h.allotIdx.toNat })] } ∧
        (∀ m, m ≠ n → d.epoch? m = s.dev.epoch? m) ∧ d.get (R.TTA_CNT_VALUE.at 13) = (s.dev.get (R.TTA_CNT_VALUE.at 13) + 1) % 2 ^ 64 ∧
        d.get R.TTA_ING_DROP_DROP = s.dev.get R.TTA_ING_DROP_DROP ∧ d.tta.recorder = s.dev.tta.recorder) ∧
    (∀ ws, good ws → s.dev.dieEnabled p.val = false ∨ s.dev.get R.TTA_PWR_STAT_STATE ≠ 0 ∨ e.timeValid .tta = false →
      Completes (.dataFrame p h bytes tick) s fun d => TookFrame p h s d ∧ d.tta.ing.epochs = s.dev.tta.ing.epochs ∧
        d.get R.TTA_ING_DROP_DROP = min (s.dev.get R.TTA_ING_DROP_DROP + 1) (2 ^ R.TTA_ING_DROP_DROP.width - 1)) ∧
    (c.hdr = true → leAt hdr 0 1 ≠ 1 → leAt hdr 0 1 ≠ 2 → (s.dev.unpackOf (unpackKey p.val p.val h.cls.val)).isOpen = false → RecorderRoom .tta s →
      Completes (.dataFrame p h bytes tick) s fun d => TookFrame p h s d ∧ d.tta.ing.epochs = s.dev.tta.ing.epochs ∧
        Recorded .tta 0x7010 [p.val, p.val, h.cls.val, 3] s d ∧
        d.get (R.TTA_CMP_UNPACK_ERR.at p.val) = min (s.dev.get (R.TTA_CMP_UNPACK_ERR.at p.val) + 1) (2 ^ R.TTA_CMP_UNPACK_ERR.width - 1))) ∧
  (∀ (p : Fin 17) (h : RxHdr) (bytes : List Byte) (tick : Nat) (s : State), Accepts (.tta p) h s.dev → p.val < 16 → bytes ≠ [] → readChunk bytes = none → RecorderRoom .tta s →
    Completes (.dataFrame p h bytes tick) s fun d => Received (.tta p) h s.dev d ∧ d.tta.ing.epochs = s.dev.tta.ing.epochs ∧ d.tdu = s.dev.tdu ∧
      Recorded .tta 0x7010 [p.val, upDie p h, h.cls.val, 1] s d ∧
      -- forwarding
      (s.dev.tta.ing.otherDown.contains p.val = true → s.dev.bit R.TTA_TWIN_CFG_ETH_FALLBACK = false ∨ s.dev.isUp (.tta 16) = true →
        ∃ f : Frame, (d.port (.tta 16)).queue = (s.dev.port (.tta 16)).queue ++ [f] ∧ f.payload = .data [bytes] ∧ f.cls = h.cls ∧ f.prot = true ∧
          ∃ o : Origin, f.fwd = some o ∧ o.down = false ∧ o.die.val = p.val ∧ o.port = (if s.dev.pins.twinSel then 1 else 0) ∧ o.ttaId = BitVec.ofNat 14 s.dev.ttaId) ∧
      (s.dev.tta.ing.otherDown.contains p.val = false → d.port (.tta 16) = s.dev.port (.tta 16))) ∧
  (∀ (p : Fin 17) (h : RxHdr) (x : StageStamp) (tick : Nat) (s : State), AcceptsHere p h s.dev →
    let e := s.dev.advance .tta tick
    let die := upDie p h
    let ns := (extendStamp e.ttaNs x.stamp.toNat).toNat
    let w : List W64 := [BitVec.ofNat 64 (die * 2 ^ 59 + x.pipe.val * 2 ^ 53 + (if x.last then 2 ^ 52 else 0) + x.stage.val * 2 ^ 48 + x.slotNum.toNat * 2 ^ 32 + x.stamp.toNat),
      BitVec.ofNat 64 (ns / 10 ^ 9 % 2 ^ 48), BitVec.ofNat 64 (ns % 10 ^ 9), 0]
    (∀ hd g, assocGet (die * 64 + x.pipe.val) s.dev.tta.det.routes = some hd → s.dev.graph hd = some g → g.stamps.length < 256 →
      Completes (.stampFrame p h [x] tick) s fun d => TookFrame p h s d ∧ d.graph hd = some { g with stamps := g.stamps ++ [w] } ∧
        (∀ k, k ≠ hd → d.graph k = s.dev.graph k) ∧ d.tta.recorder = s.dev.tta.recorder) ∧
    (∀ hd g, assocGet (die * 64 + x.pipe.val) s.dev.tta.det.routes = some hd → s.dev.graph hd = some g → 256 ≤ g.stamps.length → RecorderRoom .tta s →
      Completes (.stampFrame p h [x] tick) s fun d => TookFrame p h s d ∧
        d.graph hd = some { g with stamps := g.stamps.drop 1 ++ [w], stampsLost := g.stampsLost + 1 } ∧ Recorded .tta 0x3208 [g.slot, hd] s d) ∧
    (assocGet (die * 64 + x.pipe.val) s.dev.tta.det.routes = none → Completes (.stampFrame p h [x] tick) s fun d => TookFrame p h s d ∧
      d.get R.TTA_HINT_STAT_UNROUTED = min (s.dev.get R.TTA_HINT_STAT_UNROUTED + 1) (2 ^ R.TTA_HINT_STAT_UNROUTED.width - 1) ∧ d.tta.graphs = s.dev.tta.graphs)) ∧
  (∀ (p : Fin 17) (h : RxHdr) (seg : List Byte) (s : State), AcceptsHere p h s.dev →
    let allot := leAt seg 2 2
    let no := leAt seg 4 4
    let first := (leAt seg 1 1).testBit 0
    let mine (c : Capture) : Prop := c.die = upDie p h ∧ c.allot = allot ∧ c.capture = no
    Completes (.traceFrame p h seg) s fun d => TookFrame p h s d ∧
      (∀ c, ¬ mine c → (c ∈ d.tta.captures ↔ c ∈ s.dev.tta.captures)) ∧
      ∃ c ∈ d.tta.captures, mine c ∧ (∀ c' ∈ d.tta.captures, mine c' → c' = c) ∧
        assocGet (leAt seg 8 4) c.bytes = some ((seg.drop 16).take (leAt seg 12 2)) ∧
        ((leAt seg 1 1).testBit 1 = true → c.last = true) ∧
        (first = true ∨ (∀ c ∈ s.dev.tta.captures, ¬ mine c) → c.bytes = [(leAt seg 8 4, (seg.drop 16).take (leAt seg 12 2))] ∧ (c.last = true ↔ (leAt seg 1 1).testBit 1 = true)) ∧
        (∀ old, first = false → s.dev.tta.captures = [old] → mine old → ∀ off, off ≠ leAt seg 8 4 → assocGet off c.bytes = assocGet off old.bytes))) ∧
  (
  (∀ (p : Fin 17) (h : RxHdr) (r : Rec) (s : State), AcceptsHere p h s.dev →
    (r.crc ≠ r.sealed.crc → Completes (.recordFrame p h [r]) s fun d => TookFrame p h s d ∧ d.tta.recorder = s.dev.tta.recorder ∧
      d.get R.TTA_REC_STAT_LOST = min (s.dev.get R.TTA_REC_STAT_LOST + 1) (2 ^ R.TTA_REC_STAT_LOST.width - 1)) ∧
    (r.crc = r.sealed.crc → r.code = 0xF001 → s.dev.tta.time.noAnchor = true → Completes (.recordFrame p h [r]) s fun d =>
      TookFrame p h s d ∧ d.tta.recorder = s.dev.tta.recorder ∧ d.get R.TTA_REC_STAT_LOST = s.dev.get R.TTA_REC_STAT_LOST) ∧
    (r.crc = r.sealed.crc → (r.code = 0xF001 → s.dev.tta.time.noAnchor = false) → r.code ∉ ([0x0101, 0x2001, 0x2002, 0x2003, 0x2010, 0x3135, 0x4002, 0x4010, 0x4030] : List (BitVec 16)) →
      RecorderRoom .tta s → Completes (.recordFrame p h [r]) s fun d => TookFrame p h s d ∧
        d.tta.recorder.queue = s.dev.tta.recorder.queue ++ [{ arrived := s.dev.tta.time.base.tick, evt := r, permAsked := false }] ∧
        d.tta.ing = s.dev.tta.ing) ∧
    (r.crc = r.sealed.crc → r.code = 0x2002 → r.p0.toNat ≠ s.dev.twinNo → RecorderRoom .tta s → Completes (.recordFrame p h [r]) s fun d =>
      TookFrame p h s d ∧ d.tta.ing.otherDown.contains (upDie p h) = true) ∧
    (r.crc = r.sealed.crc → r.code = 0x0101 → 2 ≤ r.p1.toNat → p.val < 16 → upDie p h = p.val → RecorderRoomFor 2 .tta s → Completes (.recordFrame p h [r]) s fun d =>
      (d.get R.TTA_PWR_STAT_SLEEPING).testBit p.val = true ∧ d.isUp (.tta p) = false ∧ d.tdu = s.dev.tdu)) ∧
  -- SETT frames
  (∀ (p : Fin 2) (h : RxHdr) (s : State), AcceptsPlain (.tdu p) h s.dev →
    let got (d : Dev) : Prop := ((d.port (.tdu p)).space (decide (h.cls.val < 4))).expect = (((s.dev.port (.tdu p)).space (decide (h.cls.val < 4))).expect + 1) % 4096 ∧
      d.tta = s.dev.tta ∧ d.tdu.regs = s.dev.tdu.regs
    (∀ ix allot inst, Completes (.settFrame (.tdu p) h (.linkKey ix allot inst)) s fun d => got d ∧
      (∀ x, x ∈ d.tdu.linkKeys ↔ x = (p.val * 64 + ix, allot, inst) ∨ (x ∈ s.dev.tdu.linkKeys ∧ x.1 ≠ p.val * 64 + ix)) ∧
      d.tdu.trc = s.dev.tdu.trc) ∧
    (∀ ix, Completes (.settFrame (.tdu p) h (.dropKey ix)) s fun d => got d ∧
      (∀ x, x ∈ d.tdu.linkKeys ↔ x ∈ s.dev.tdu.linkKeys ∧ x.1 ≠ p.val * 64 + ix) ∧ d.tdu.trc = s.dev.tdu.trc) ∧
    (∀ allot flags sources nb na serial, s.dev.tdu.trc.grants.length < 8 → Completes (.settFrame (.tdu p) h (.grant allot flags sources nb na serial)) s fun d => got d ∧
      (∃ g, d.tdu.trc = { s.dev.tdu.trc with grants := s.dev.tdu.trc.grants ++ [g] } ∧ g.allot = allot ∧ g.flags = flags ∧ g.sources = sources ∧
        g.notBefore = nb ∧ g.notAfter = na ∧ g.serial = serial) ∧ d.tdu.linkKeys = s.dev.tdu.linkKeys)) ∧
  (∀ (p : Fin 17) (h : RxHdr) (bs : List Byte) (s : State), AcceptsPlain (.tta p) h s.dev → p.val < 16 →
    Completes (.settFrame (.tta p) h (.evidence bs)) s fun d => TookFrame p h s d ∧ assocGet p.val d.tta.sett.evidence = some bs ∧
      (∀ k, k ≠ p.val → assocGet k d.tta.sett.evidence = assocGet k s.dev.tta.sett.evidence)) ∧
  -- acknowledgements
  (∀ (p : Fin 17) (h : RxHdr) (tag : BitVec 32) (status : BitVec 8) (s : State) (c : CtlWait), Accepts (.tta p) h s.dev → s.dev.tta.chk.ctl = [c] → c.port = p.val → c.tag = tag.toNat →
    (c.q = none → Completes (.controlAck p h tag status) s fun d => TookFrame p h s d ∧ d.tta.chk = { s.dev.tta.chk with ctl := [] } ∧ d.tta.fns = s.dev.tta.fns) ∧
    (∀ op q, c.q = some (op, q) → Completable q s.dev →
      Completes (.controlAck p h tag status) s fun d => TookFrame p h s d ∧ d.tta.chk = { s.dev.tta.chk with ctl := [] } ∧ Completed q 0 [] s d)) ∧
  -- CHECK frames
  (∀ (p : Fin 17) (h : RxHdr) (s : State), Accepts (.tta p) h s.dev →
    (∀ (tag : BitVec 32) (failures : BitVec 16) (t : TestWait), s.dev.tta.chk.tests = [t] → t.tag = tag.toNat → p.val ∈ t.dies →
      (t.dies.erase p.val ≠ [] → Completes (.testDone p h tag failures) s fun d => TookFrame p h s d ∧
        d.tta.chk = { s.dev.tta.chk with tests := [{ t with dies := t.dies.erase p.val, failures := t.failures + failures.toNat }] } ∧ d.tta.fns = s.dev.tta.fns) ∧
      (t.dies = [p.val] → Completable t.q s.dev → Completes (.testDone p h tag failures) s fun d =>
        TookFrame p h s d ∧ d.tta.chk = { s.dev.tta.chk with tests := [] } ∧ Completed t.q 0 [(24, 2, min 65535 (t.failures + failures.toNat))] s d)) ∧
    (∀ (stamp : BitVec 32) (values : List W64), values.length = 48 → s.dev.canNotify .lodge 6 = false → ((s.dev.fnq .lodge).backlog.filter fun e => e.1 ≥ 5).length + 9 ≤ 4096 →
      Completes (.bins p h stamp values) s fun d => TookFrame p h s d ∧ ∃ l : List (List Byte), l.length = 9 ∧
        (d.fnq .lodge).backlog = (s.dev.fnq .lodge).backlog ++ l.map (fun x => (6, x)) ∧
        l.flatten = leBytes 4 stamp.toNat ++ List.replicate 4 0#8 ++ values.flatMap fun v => leBytes 8 v.toNat) ∧
    (∀ (unit : BitVec 16) (w : Bool), Completes (.unitState p h unit w) s fun d => TookFrame p h s d ∧
      (∀ u, u ∈ d.tta.sett.units ↔ (u = (p.val, unit.toNat) ∧ w = true) ∨ (u ∈ s.dev.tta.sett.units ∧ u ≠ (p.val, unit.toNat))) ∧
      d.tta.sett = { s.dev.tta.sett with units := d.tta.sett.units })) ∧
  -- RING frames
  (∀ (p : Fin 17) (h : RxHdr) (s : State) (m : Mirrored), Accepts (.tta p) h s.dev → p.val < 16 → s.dev.tta.mirrored = [m] → m.port = p.val → m.q.fn = .pf →
    (∀ off content, Completes (.ringOutput p h m.q.index off content) s fun d => TookFrame p h s d ∧
      Out.bufWrite .pf (m.addr.toNat + off.toNat) content ∈ d.out ∧ d.tta.mirrored = [m]) ∧
    (∀ content, Completes (.ringWriteback p h m.q.index content) s fun d => TookFrame p h s d ∧ d.tta.mirrored = [{ m with wb := some content }]) ∧
    (∀ content wb, m.wb = some wb → Completable m.q s.dev → Completes (.ringCompletion p h m.q.index content) s fun d =>
      TookFrame p h s d ∧ d.tta.mirrored = [] ∧ Completed m.q (leAt content 4 1) (wb.zipIdx.map fun b => (b.2, 1, b.1.toNat)) s d) ∧
    (∀ content, content.length ≤ 48 → Completes (.ringNotice p h content) s fun d => TookFrame p h s d ∧ Notifies .pf (18 + 3 * p.val) content s.dev d)) ∧
  -- checkpoints
  (∀ (allot gid : BitVec 16) (off : Nat) (part : List Byte) (s : State) (hd : Nat) (g : Graph), s.dev.graphNamed allot.toNat gid.toNat = some hd → s.dev.graph hd = some g → s.dev.twinState ≠ 3 →
    let got := if off = 0 then [(0, part)] else assocSet off part g.ckptIn
    (g.ckptLen ≠ some (ckptBytes got).length → Completes (.checkpointFrame .eth allot gid off part) s fun d =>
      d.graph hd = some { g with ckptIn := got } ∧ (∀ k, k ≠ hd → d.graph k = s.dev.graph k) ∧ d.tdu = s.dev.tdu ∧ d.out = s.dev.out) ∧
    (g.ckptLen = some (ckptBytes got).length → Completes (.checkpointFrame .eth allot gid off part) s fun d =>
      (∃ g' sv, d.graph hd = some g' ∧ g'.standby = some sv ∧ g'.ckptIn = [] ∧ g'.ckptLen = none ∧ sv.clean = true) ∧
      (∀ k, k ≠ hd → d.graph k = s.dev.graph k) ∧ d.tdu = s.dev.tdu ∧ d.out = s.dev.out)))

/-- R42, R98, R201, R207, R211 to R217, R357.
R214, R219 to R222. No epoch is open in the clauses about the whole state, since an open one would be decided then. -/
def Obligations.Twins : Prop :=
  (
  (∀ (tick : Nat) (s : State), s.dev.withdrawn = false → Completes (.heartbeatSend tick) s fun d =>
    TwinSent 0 (.heartbeat ((s.dev.tta.graphs.filter fun (e : Nat × Graph) => e.2.primary && !e.2.isRadio s.dev && !e.2.plan.stamp).map
      fun (e : Nat × Graph) => (s.dev.slotAllot e.2.slot, e.2.gid, e.2.posted))) s.dev d ∧
    d.tdu = s.dev.tdu ∧ d.tta.graphs = s.dev.tta.graphs ∧ d.tta.regs = s.dev.tta.regs) ∧
  (∀ (t : TwinHdr) (tick : Nat) (s : State), Hears t s → s.dev.twinState = 0 →
    let n := t.epochSec.toNat * 4000 + t.epochIdx.toNat
    let heard := WasHeard t tick s
    (∀ posted hd g, posted = [(s.dev.slotAllot g.slot, g.gid, n)] → s.dev.graphNamed (s.dev.slotAllot g.slot) g.gid = some hd → s.dev.graph hd = some g →
      Completes (.heartbeat t posted tick) s fun d => heard d ∧ d.graph hd = some { g with partnerPosted := max g.partnerPosted n } ∧
        (∀ k, k ≠ hd → d.graph k = s.dev.graph k) ∧ d.tta.twin.lastBeat = (s.dev.advance .tta tick).stamp .tta) ∧
    (∀ maps, s.dev.epoch? n = none → s.dev.epochPast n = false → Completes (.propose t maps tick) s fun d => heard d ∧
      d.epoch? n = some { propose := some maps } ∧ (∀ m, m ≠ n → d.epoch? m = s.dev.epoch? m)) ∧
    (∀ maps e, s.dev.epoch? n = some e → e.closed = false → Completes (.propose t maps tick) s fun d => heard d ∧
      d.epoch? n = some { e with propose := some maps } ∧ (∀ m, m ≠ n → d.epoch? m = s.dev.epoch? m)) ∧
    (∀ maps e, s.dev.epoch? n = some e → e.closed = true → e.decided = false → s.dev.leads = false → e.haveSent = false → mapsIn maps e.maps = true →
      Completes (.propose t maps tick) s fun d => heard d ∧ d.epoch? n = some { e with propose := some maps, haveSent := true } ∧ TwinSent n (.have_ e.maps) s.dev d) ∧
    (∀ maps e, s.dev.epoch? n = some e → e.closed = true → e.decided = false → s.dev.leads = true → e.fillsDone = true → (∀ b ∈ e.blocks, b.2.mark = 0) → s.dev.epochsSorted →
      Completes (.haveMsg t maps tick) s fun d => heard d ∧ DecidedWith n (mapsMeet e.maps maps) 0 e d ∧ TwinSent n (.decide (mapsMeet e.maps maps)) s.dev d) ∧
    (∀ maps e, s.dev.epoch? n = some e → e.closed = true → e.decided = false → s.dev.leads = true → e.fillsDone = false →
      Completes (.haveMsg t maps tick) s fun d => heard d ∧ d.epoch? n = some { e with have_ := some maps } ∧ (∀ m, m ≠ n → d.epoch? m = s.dev.epoch? m)) ∧
    (∀ maps e, s.dev.epoch? n = some e → e.decided = false → s.dev.leads = false → (∀ b ∈ e.blocks, b.2.mark = 0) → s.dev.epochsSorted →
      Completes (.decide t maps tick) s fun d => heard d ∧ DecidedWith n maps 0 e d) ∧
    (∀ maps, s.dev.leads = true → Completes (.decide t maps tick) s fun d => heard d ∧ d.tta.ing = s.dev.tta.ing) ∧
    -- ROLE
    (∀ v, Completes (.role t (.wmCfg v) tick) s fun d => heard d ∧ d.tta.ing = { s.dev.tta.ing with nextWm := some v }) ∧
    (∀ die, die < 16 → Completes (.role t (.dieClear die) tick) s fun d => heard d ∧ d.dieState die = 0) ∧
    (∀ die a ix, s.dev.slotHolding a = none → Completes (.role t (.index die a ix) tick) s fun d => heard d ∧
      assocGet (die * 64 + ix) d.tta.sett.dieMap = some a ∧ (∀ k, k ≠ die * 64 + ix → assocGet k d.tta.sett.dieMap = assocGet k s.dev.tta.sett.dieMap)) ∧
    (∀ l, Completes (.role t (.budgetLog l) tick) s fun d => heard d ∧ d.tta.det.budget = l ∧ d.tta.det.haveLog = true) ∧
    (∀ (allot gid : BitVec 16) bytes hd g, s.dev.graphNamed allot.toNat gid.toNat = some hd → s.dev.graph hd = some g →
      ((ckptBytes g.ckptIn).length ≠ bytes → Completes (.ckptDone t allot gid bytes tick) s fun d => heard d ∧
        d.graph hd = some { g with ckptLen := some bytes } ∧ (∀ k, k ≠ hd → d.graph k = s.dev.graph k)) ∧
      ((ckptBytes g.ckptIn).length = bytes → Completes (.ckptDone t allot gid bytes tick) s fun d => heard d ∧
        ∃ g' sv, d.graph hd = some g' ∧ g'.standby = some sv ∧ sv.clean = true ∧ g'.ckptIn = [] ∧ g'.ckptLen = none)) ∧
    (∀ pg : BitVec 16, Completes (.page t pg none tick) s fun d => heard d ∧ d.tta.hist = s.dev.tta.hist ∧
      ∃ ws : List (Nat × W64), TwinSent 0 (.page pg.toNat (some ws)) s.dev d ∧
        ∀ i v, (i, v) ∈ ws ↔ i < 524288 ∧ ∃ x : StoreWord, (pg.toNat * 524288 + i, some x) ∈ s.dev.tta.hist ∧ x.w = ⟨v, false⟩) ∧
    (∀ (pg : BitVec 16) (i : Nat) (v : W64) (ch : Nat), s.dev.tta.ing.awaited = [(pg.toNat, ch)] → i < 524288 → Completes (.page t pg (some [(i, v)]) tick) s fun d =>
      heard d ∧ d.tta.ing.awaited = [] ∧ (∃ x, d.histAt (pg.toNat * 4194304 + 8 * i) = some x ∧ x.w = ⟨v, false⟩) ∧
      (∀ a, a / 8 ≠ pg.toNat * 524288 + i → d.histAt a = s.dev.histAt a)) ∧
    (∀ (slot : Fin 256) (gid : BitVec 16) run replay site winner hd g, s.dev.graphOf slot.val gid.toNat = some hd → s.dev.graph hd = some g → g.run = none →
      Completes (.decision t slot gid run replay site winner tick) s fun d => heard d ∧
        d.graph hd = some { g with decisions := g.decisions ++ [(run, replay, site, winner)] } ∧ (∀ k, k ≠ hd → d.graph k = s.dev.graph k)) ∧
    (∀ (allot : BitVec 16) (port : Fin 16) inst, s.dev.leads = false → Completes (.linkInst t allot port inst tick) s fun d => heard d ∧
      (∀ l, l ∈ d.tta.twin.links ↔ l = (allot.toNat, port.val, inst) ∨ (l ∈ s.dev.tta.twin.links ∧ ¬ (l.1 = allot.toNat ∧ l.2.1 = port.val))))) ∧
  (∀ (t : TwinHdr) (posted : List (Nat × Nat × Nat)) (tick : Nat) (s : State), t.path = .eth → s.dev.withdrawn = false →
    t.version.toNat ≠ s.dev.get R.TTA_CAPS_TWIN_VER → t.version.toNat + 1 ≠ s.dev.get R.TTA_CAPS_TWIN_VER → RecorderRoom .tta s →
    Completes (.heartbeat t posted tick) s fun d => d.tta.twin = { s.dev.tta.twin with peerVersion := t.version.toNat, discarded := s.dev.tta.twin.discarded + 1 } ∧
      d.tta.graphs = s.dev.tta.graphs ∧ d.tdu = s.dev.tdu ∧
      (s.dev.tta.twin.peerVersion ≠ t.version.toNat → Recorded .tta 0x0023 [s.dev.get R.TTA_CAPS_TWIN_VER, t.version.toNat] s d))) ∧
  (
  (∀ (tick : Nat) (s : State),
    let t := max s.dev.tta.time.base.tick tick
    let loss := max 50 (min 10000 (s.dev.get R.TTA_TWIN_CFG_LOSS_US)) * 1000
    let idle : Prop := t < s.dev.tta.twin.lastMsg + loss ∨ s.dev.twinState = 2 ∨ s.dev.tta.twin.querying = true ∨ s.dev.withdrawn = true
    (idle → Completes (.partnerSilent tick) s fun d => d = s.dev.advance .tta tick) ∧
    (¬ idle → Completes (.partnerSilent tick) s fun d => d.tta.twin = { s.dev.tta.twin with querying := true, seen := false } ∧ d.tta.regs = s.dev.tta.regs ∧
      d.tdu = s.dev.tdu ∧ d.out = s.dev.out ∧
      ∀ p : Fin 17, (d.port (.tta p)).queue = (s.dev.port (.tta p)).queue ++
        (if decide (p.val < 16) && s.dev.isUp (.tta p) then [queued 2 0 (.control 0 false .partnerQuery)] else []))) ∧
  (∀ (tick : Nat) (s : State), s.dev.tta.twin.querying = true → s.dev.tta.ing.epochs = [] → RecorderRoom .tta s →
    (s.dev.tta.twin.seen = false → Completes (.partnerQueryDone tick) s fun d =>
      d.twinState = 2 ∧ d.leads = true ∧ d.tta.twin.querying = false ∧
      (∀ hd g, d.graph hd = some g → g.isRadio d = false → g.plan.stamp = false → 2 ≤ g.state → g.primary = true) ∧
      (∃ q ∈ d.tta.recorder.queue, q.evt.code = 0x3130 ∧ q.evt.p0 = BitVec.ofNat 32 s.dev.partnerId ∧ q.evt.p1 = s.dev.tta.twin.lastBeat)) ∧
    (s.dev.tta.twin.seen = true → s.dev.twinState = 0 → s.dev.leads = true → Completes (.partnerQueryDone tick) s fun d =>
      d.twinState = 1 ∧ d.leads = true ∧ d.tta.twin.querying = false ∧
      (∀ hd g, d.graph hd = some g → g.isRadio d = false → g.plan.stamp = false → 2 ≤ g.state → g.primary = true) ∧
      (∃ q ∈ d.tta.recorder.queue, q.evt.code = 0x3131 ∧ q.evt.p0 = BitVec.ofNat 32 s.dev.partnerId)) ∧
    (s.dev.tta.twin.seen = true → s.dev.twinState = 0 → s.dev.leads = false → Completes (.partnerQueryDone tick) s fun d =>
      d.twinState = 1 ∧ d.leads = false ∧
      (∀ hd g, d.graph hd = some g → g.isRadio d = false → g.plan.stamp = false → g.primary = false ∧ g.run = none) ∧
      (∃ q ∈ d.tta.recorder.queue, q.evt.code = 0x3131 ∧ q.evt.p0 = BitVec.ofNat 32 s.dev.partnerId)) ∧
    (s.dev.tta.twin.seen = true → s.dev.twinState = 1 → Completes (.partnerQueryDone tick) s fun d =>
      d = (s.dev.advance .tta tick).updTwin fun w => { w with querying := false })) ∧
  (∀ (tick : Nat) (s : State), s.dev.tta.twin.querying = false → Completes (.partnerQueryDone tick) s fun d => d = s.dev.advance .tta tick) ∧
  (∀ (tick : Nat) (s : State) (t0 : Nat), s.dev.tta.twin.failFrom = some t0 →
    let behind : Prop := ∃ e ∈ s.dev.tta.graphs, ∃ c, e.2.catchUp = some c ∧ (e.2.run.isSome = true ∨ e.2.state = 2 ∧ e.2.nextEpoch ≤ c)
    (behind → Completes (.failoverReplayDone tick) s fun d => d = s.dev.advance .tta tick) ∧
    (¬ behind → RecorderRoom .tta s → Completes (.failoverReplayDone tick) s fun d =>
      d.tta.twin = { s.dev.tta.twin with failFrom := none } ∧ (∀ e ∈ d.tta.graphs, e.2.catchUp = none) ∧
      (∀ hd g, s.dev.graph hd = some g → d.graph hd = some { g with catchUp := none }) ∧
      Recorded .tta 0x3132 [s.dev.tta.twin.failGraphs, s.dev.tta.twin.failRuns, max s.dev.tta.time.base.tick tick - t0] s d ∧
      d.tta.regs = s.dev.tta.regs ∧ d.tdu = s.dev.tdu)) ∧
  (∀ (t : TwinHdr) (entries : List LogEntry) (tick : Nat) (s : State), Hears t s → s.dev.twinState = 3 → s.dev.leads = false → s.dev.tta.ing.epochs = [] →
    let new := entries.filter fun e => !s.dev.epochDecided e.epoch
    ((entries.map (·.epoch)).Nodup → (∀ e ∈ s.dev.tta.graphs, e.2.isRadio s.dev = false ∧ e.2.plan.stamp = false ∧ 1 ≤ e.2.state ∧ s.dev.slotActive e.2.slot = true ∧ e.2.standby = none) →
      s.dev.tta.graphs ≠ [] → entries.length + s.dev.tta.ing.log.length ≤ 40000 → Completes (.logSync t entries tick) s fun d =>
        d.twinState = 3 ∧ d.tta.twin.logDone = true ∧ d.tta.twin.adopted = new.length ∧
        d.tta.ing.log = s.dev.tta.ing.log ++ new.map fun e => { e with flags := 8 }) ∧
    (entries = [] → s.dev.tta.graphs = [] → RecorderRoom .tta s → Completes (.logSync t entries tick) s fun d =>
      d.twinState = 0 ∧ Recorded .tta 0x3133 [s.dev.partnerId, 0] s d ∧ d.tta.twin.changed = [])))

/-- R47, R48, R53, R149, R203, R207, R210 to R214, R223, R418. -/
def Obligations.IngestAgreement : Prop :=
  (∀ (tick : Nat) (s : State),
    let e := s.dev.advance .tta tick
    let n := e.ttaNs / 250000
    (e.timeValid .tta = false ∨ n ≤ s.dev.tta.ing.boundary → Completes (.ingestEpochBoundary tick) s fun d => d = e) ∧
    (e.timeValid .tta = true → s.dev.tta.ing.boundary < n → s.dev.tta.graphs = [] → s.dev.tta.retireDue = [] → s.dev.tta.tables = [] →
      ∀ slot x, s.dev.tta.slotsX = [(slot, x)] → slot < 256 → x.reopen = none →
      (∀ b q, x.rotate = some (b, some q) → 0 < b → b ≤ n → x.due = false → s.dev.storeGen slot < 255 → Completable q s.dev → Completes (.ingestEpochBoundary tick) s fun d =>
        d.storeGen slot = s.dev.storeGen slot + 1 ∧ (d.slotX slot).rotate = none ∧ Completed q 0 [(16, 1, s.dev.storeGen slot + 1)] s d ∧
        d.tta.ing.boundary = n ∧ d.tdu = s.dev.tdu) ∧
      (x.rotate = none → x.due = true → s.dev.slotState slot = 3 → s.dev.workGen slot < 0xFFFF → x.newSet.length < 1024 → RecorderRoom .tta s →
        Completes (.ingestEpochBoundary tick) s fun d =>
        (d.slotX slot).sealed = true ∧ (d.slotX slot).clusters = x.newSet ∧ (d.slotX slot).due = false ∧ (d.slotX slot).startNs = e.ttaNs ∧
        d.workGen slot = s.dev.workGen slot + 1 ∧ d.get (R.TTA_ALT_ENTRY_CLUSTERS.at slot) = x.newSet.length ∧ d.slotState slot = 3 ∧
        (∀ t, x.clusters.contains (t / 16) = true → (d.tile t).use = none ∧ (d.tile t).task = none ∧ ∀ r : BitVec 5, (d.tile t).reg r = ⟨0, false⟩) ∧
        Recorded .tta 0x6010 [s.dev.slotAllot slot, s.dev.workGen slot, x.clusters.length] s d ∧ d.tta.ing.boundary = n ∧ d.tdu = s.dev.tdu))) ∧
  (∀ (n tick : Nat) (s : State),
    let e := s.dev.advance .tta tick
    let ep := (s.dev.epoch? n).getD {}
    let early : Prop := e.ttaNs < n * 250000 + s.dev.tta.ing.hold * 1000
    let past : Prop := s.dev.epoch? n = none ∧ s.dev.epochPast n = true
    (e.timeValid .tta = false ∨ early ∨ ep.closed = true ∨ past → Completes (.watermarkClose n tick) s fun d => d = e) ∧
    (e.timeValid .tta = true → ¬ early → ep.closed = false → ep.decided = false → ¬ past → s.dev.epochsSorted →
      (s.dev.twinState = 2 → s.dev.leads = true → (∀ b ∈ ep.blocks, b.2.mark = 0) → Completes (.watermarkClose n tick) s fun d => DecidedWith n ep.maps 4 ep d ∧
        d.get R.TTA_WM_CNT_SOLO = min (s.dev.get R.TTA_WM_CNT_SOLO + 1) 0xFFFF ∧ d.tdu = s.dev.tdu) ∧
      (s.dev.twinState = 0 → s.dev.withdrawn = false → ep.have_ = none → s.dev.leads = true ∨ (ep.propose = none ∧ ep.fillDue = false) → Completes (.watermarkClose n tick) s fun d =>
        d.epoch? n = some { ep with closed := true } ∧ TwinSent n (.propose ep.maps) s.dev d ∧ d.tdu = s.dev.tdu))) ∧
  (∀ (n tick : Nat) (s : State) (ep : Epoch),
    let e := s.dev.advance .tta tick
    s.dev.epoch? n = some ep → ep.closed = true → ep.decided = false → n * 250000 + (s.dev.tta.ing.hold + s.dev.tta.ing.fill) * 1000 ≤ e.ttaNs → s.dev.twinState = 0 →
    (s.dev.leads = true → ep.have_ = none → Completes (.fillBound n tick) s fun d => d.epoch? n = some { ep with fillDue := true } ∧ d.tdu = s.dev.tdu ∧ d.out = s.dev.out) ∧
    (s.dev.leads = false → ep.haveSent = false → s.dev.withdrawn = false → Completes (.fillBound n tick) s fun d =>
      d.epoch? n = some { ep with fillDue := true, haveSent := true } ∧ TwinSent n (.have_ ep.maps) s.dev d ∧ d.tdu = s.dev.tdu)) ∧
  (∀ (n tick : Nat) (s : State), s.dev.epoch? n = none → Completes (.fillBound n tick) s fun d => d = s.dev.advance .tta tick) ∧
  (∀ (tick : Nat) (temps : List Int) (railMv : List Nat) (s : State) (c : Nat), c < 640 →
    let figs : List CluFig := ((List.range 640).map fun k => (⟨k, s.dev.rateM k, temps.getD k 0⟩ : CluFig)).filter fun f => s.dev.get (R.TTA_FAB_CLU_STATE.at f.c) != 2
    let temp := temps.getD c 0
    let rate := s.dev.rateM c
    let near := (quadFigs (c / 160) figs).filter fun g => decide ((g.temp - temp).natAbs ≤ 5)
    let med := median (near.map (·.rate))
    let slowPct := max 1 (s.dev.get R.TTA_FAB_CFG_SLOW_PCT)
    let run := Memory.read (fun _ => 0) s.dev.tta.ing.runs c
    let low := Memory.read (fun _ => 0) s.dev.tta.ing.low c
    let state (d : Dev) := d.get (R.TTA_FAB_CLU_STATE.at c)
    Completes (.clusterWindowEnd tick temps railMv) s fun d =>
      d.get (R.TTA_FAB_CLU_RATE_M.at c) = rate ∧ d.get (R.TTA_FAB_CLU_TEMP_C.at c) = (temp % 256).toNat ∧
      (∀ t, (d.tile t).steps = 0) ∧ d.tdu = s.dev.tdu ∧
      (rate = 0 ∨ near.length < 16 → state d = state s.dev) ∧
      (rate ≠ 0 → 16 ≤ near.length → state s.dev = 0 → low < 3 ∨ ratedMin (railMv.getD (c / 160) 0) ≤ rate →
        (rate * 100 < med * (100 - slowPct) → max 1 (s.dev.get R.TTA_FAB_CFG_SLOW_WIN) ≤ run + 1 → state d = 1) ∧
        (rate * 100 < med * (100 - slowPct) → run + 1 < max 1 (s.dev.get R.TTA_FAB_CFG_SLOW_WIN) → state d = 0 ∧ Memory.read (fun _ => 0) d.tta.ing.runs c = run + 1) ∧
        (med * (100 - slowPct) ≤ rate * 100 → state d = 0 ∧ Memory.read (fun _ => 0) d.tta.ing.runs c = 0)) ∧
      (rate ≠ 0 → 16 ≤ near.length → state s.dev ≠ 2 → 3 ≤ low → rate < ratedMin (railMv.getD (c / 160) 0) → state d = 2)) ∧
  (∀ (ch : Fin 64) (ue : Bool) (tick : Nat) (s : State),
    let t := max s.dev.tta.time.base.tick tick
    let age : Nat := if ue then 86400000000000 else 1000000000
    let n := (s.dev.tta.ing.chErrs.filter fun e => decide (e.1 = ch.val ∧ e.2.2 = ue ∧ t < e.2.1 + age)).length + 1
    let f := if ue then R.TTA_MEM_CH_UE.at ch.val else R.TTA_MEM_CH_CE.at ch.val
    let full : Prop := (ue = true ∧ 4 ≤ n) ∨ (ue = false ∧ 64 < n)
    (¬ full → Completes (.memChannelError ch ue tick) s fun d => d.get f = min (s.dev.get f + 1) (2 ^ f.width - 1) ∧ RegsKept .tta [f.addr] s d ∧
      d.tta.ing.epochs = s.dev.tta.ing.epochs ∧ (ch.val, t, ue) ∈ d.tta.ing.chErrs ∧ d.out = s.dev.out ∧ d.tdu = s.dev.tdu) ∧
    (full → s.dev.bit (R.TTA_MEM_CH_RETIRED.at ch.val) = false → RecorderRoom .tta s → Completes (.memChannelError ch ue tick) s fun d =>
      d.bit (R.TTA_MEM_CH_RETIRED.at ch.val) = true ∧ (∀ c, c < 64 → c ≠ ch.val → d.bit (R.TTA_MEM_CH_RETIRED.at c) = s.dev.bit (R.TTA_MEM_CH_RETIRED.at c)) ∧
      (∃ q ∈ d.tta.recorder.queue, q.evt.code = 0x3110 ∧ q.evt.p0 = BitVec.ofNat 32 ch.val ∧ q.evt.p1 = BitVec.ofNat 32 (if ue then 2 else 1)) ∧ d.tdu = s.dev.tdu)) ∧
  (∀ (tick : Nat) (s : State),
    let e := s.dev.advance .tta tick
    Completes (.coarseWindowEnd tick) s fun d => d.tta.ing.coarseW = max 1 (min 3600 (s.dev.get R.TTA_COARSE_CTL_WINDOW_S)) ∧
      assocGet 0 d.tta.ing.coarse = some (s.dev.get (R.TTA_CNT_VALUE.at 0)) ∧ assocGet 1 d.tta.ing.coarse = some (s.dev.get (R.TTA_CNT_VALUE.at 1)) ∧
      d.tta.det.scores = [] ∧ d.tta.det.hintsSent = 0 ∧ d.tta.det.stepsVoided = 0 ∧ d.tdu = s.dev.tdu ∧
      (e.tta.time.base.domA.state = .unset → d.out = s.dev.out ∧ d.tta.fns = s.dev.tta.fns) ∧
      (e.tta.time.base.domA.state ≠ .unset → ∃ rec : List Byte, rec.length = 48 ∧ leAt rec 0 1 = 1 ∧ leAt rec 2 2 = s.dev.tta.ing.coarseW % 65536 ∧
        leAt rec 4 6 = (e.tta.time.base.domA.timeAt e.tta.time.base.tick / (2 ^ 40 * 10 ^ 9)).toNat % 2 ^ 48 ∧
        (∀ i, i < 16 → leAt rec (16 + i) 1 = s.dev.coarseHealth i) ∧
        leAt rec 34 2 = ((List.range 256).filter fun n => decide (s.dev.slotState n = 2)).length ∧
        leAt rec 36 4 = s.dev.tta.det.hintsSent % 2 ^ 32 ∧ leAt rec 40 4 = s.dev.tta.det.stepsVoided % 2 ^ 32 ∧ Notifies .pf 9 rec s.dev d))

/-- R30 to R34, R53, R56, R416 to R418. Two choices of the model show: CLOSE of an allotment without a slot or of slot 0 is DENIED (log 45), and the
boundary of a rotation is the second one ahead while PAIRED (log 46). -/
def Obligations.Allotments : Prop :=
  let others (slot : Nat) (s : State) (d : Dev) : Prop := ∀ n, n ≠ slot → n < 256 →
    d.slotX n = s.dev.slotX n ∧ d.word .tta (R.TTA_ALT_ENTRY.base + 8 * n) = s.dev.word .tta (R.TTA_ALT_ENTRY.base + 8 * n)
  let none_ (s : State) (d : Dev) : Prop := d.tta.slotsX = s.dev.tta.slotsX ∧
    ∀ n, n < 256 → d.word .tta (R.TTA_ALT_ENTRY.base + 8 * n) = s.dev.word .tta (R.TTA_ALT_ENTRY.base + 8 * n)
  (∀ (q : Desc) (slot cls : BitVec 8) (addr : W64) (list : Fetch) (s : State), DescRuns 0x08 q s.dev → s.dev.parked = false →
    let c : Instr := .allotOpen q slot cls addr list
    let len := q.length.toNat
    let misaligned : Prop := addr.toNat % 64 ≠ 0 ∨ len < 50 ∨ 1328 < len ∨ len % 2 ≠ 0
    let denied : Prop := (cls ≠ 1 ∧ cls ≠ 2) ∨ q.allot = 0 ∨ q.allot = 0xFFFF ∨ s.dev.slotState slot.toNat ≠ 0 ∨ s.dev.slotHolding q.allot.toNat ≠ none ∨
      (cls = 1 ∧ ∃ n, n < 256 ∧ s.dev.slotState n ≠ 0 ∧ s.dev.slotClass n = 1)
    let refused (st : Nat) : Prop := Completes c s fun d => Completed q st [] s d ∧ none_ s d ∧ d.tdu = s.dev.tdu
    (misaligned → refused 3) ∧ (¬ misaligned → denied → refused 4) ∧
    (¬ misaligned → ¬ denied → (list = .poison → refused 5) ∧ (list = .denied → refused 4) ∧ (list = .timeout → refused 6)) ∧
    (∀ bs, ¬ misaligned → ¬ denied → list = .data bs →
      let cs := (List.range ((len - 48) / 2)).map fun i => leAt bs (48 + 2 * i) 2
      let takes : Prop := cs.Nodup ∧ (∀ k ∈ cs, k < 640 ∧ s.dev.clusterFree k = true) ∧ s.dev.diesFull = false
      (¬ takes → refused 9) ∧
      (takes → Completes c s fun d => Completed q 0 [] s d ∧ d.slotState slot.toNat = 1 ∧ d.slotAllot slot.toNat = q.allot.toNat ∧
        d.slotClass slot.toNat = cls.toNat ∧ d.workGen slot.toNat = 0 ∧ d.storeGen slot.toNat = 0 ∧ d.get (R.TTA_ALT_ENTRY_CLUSTERS.at slot.toNat) = cs.length ∧
        d.slotX slot.toNat = { clusters := cs, digest := bs.take 48 } ∧ others slot.toNat s d ∧ d.tdu = s.dev.tdu))) ∧
  (∀ (q : Desc) (s : State), DescRuns 0x09 q s.dev →
    (s.dev.slotHolding q.allot.toNat = none ∨ s.dev.slotHolding q.allot.toNat = some 0 → Completes (.allotClose q) s fun d => Completed q 4 [] s d ∧ none_ s d) ∧
    (∀ n, s.dev.slotHolding q.allot.toNat = some n → n ≠ 0 →
      let st := s.dev.fnState (.vf (Fin.ofNat 256 n))
      let may : Prop := q.fn = .pf → st = 2 ∨ st = 3
      (¬ may → Completes (.allotClose q) s fun d => Completed q 8 [] s d ∧ none_ s d) ∧
      (may → s.dev.slotState n = 1 ∨ s.dev.slotState n = 2 → Completes (.allotClose q) s fun d => d.slotState n = 4 ∧ (d.slotX n).seq = some (0x09, q) ∧
        ((d.slotX n).due = true ↔ s.dev.slotState n = 2) ∧ d.out = s.dev.out ∧ others n s d ∧ d.tta.tiles = s.dev.tta.tiles ∧ d.tdu = s.dev.tdu) ∧
      (may → s.dev.slotState n = 3 → (s.dev.slotX n).heldClose = none → Completes (.allotClose q) s fun d => d.slotState n = 3 ∧
        d.slotX n = { s.dev.slotX n with heldClose := some q } ∧ d.out = s.dev.out ∧ others n s d ∧ d.tta.regs = s.dev.tta.regs ∧ d.tdu = s.dev.tdu))) ∧
  (∀ (q : Desc) (addr : W64) (bs : List Byte) (n : Nat) (s : State), DescRuns 0x0A q s.dev → s.dev.slotHolding q.allot.toNat = some n →
    let c : Instr := .allotRebind q addr (.data bs)
    let misaligned : Prop := addr.toNat % 64 ≠ 0 ∨ q.length.toNat % 2 ≠ 0 ∨ 1280 < q.length.toNat
    let cs := (List.range (q.length.toNat / 2)).map fun i => leAt bs (2 * i) 2
    let takes : Prop := cs.Nodup ∧ (∀ k ∈ cs, k < 640 ∧ (s.dev.clusterFree k = true ∨ k ∈ (s.dev.slotX n).clusters)) ∧ s.dev.workGen n ≠ 0xFFFF
    (misaligned → Completes c s fun d => Completed q 3 [] s d ∧ none_ s d) ∧
    (¬ misaligned → s.dev.slotState n ≠ 2 → Completes c s fun d => Completed q 4 [] s d ∧ none_ s d) ∧
    (¬ misaligned → s.dev.slotState n = 2 → ¬ takes → Completes c s fun d => Completed q 9 [] s d ∧ none_ s d) ∧
    (¬ misaligned → s.dev.slotState n = 2 → takes → Completes c s fun d => d.slotState n = 3 ∧
      d.slotX n = { s.dev.slotX n with seq := some (0x0A, q), newSet := cs, due := true } ∧ d.out = s.dev.out ∧ others n s d ∧ d.tdu = s.dev.tdu)) ∧
  (∀ (q : Desc) (s : State), DescRuns 0x0B q s.dev →
    let n := descSlot q
    (s.dev.slotState n ≠ 2 → Completes (.rotateStore q) s fun d => Completed q 4 [] s d ∧ none_ s d) ∧
    (s.dev.slotState n = 2 → s.dev.storeGen n = 255 → Completes (.rotateStore q) s fun d => Completed q 9 [] s d ∧ none_ s d) ∧
    (s.dev.slotState n = 2 → s.dev.storeGen n ≠ 255 → (s.dev.slotX n).rotate = none → s.dev.leads = true → s.dev.withdrawn = false → Completes (.rotateStore q) s fun d =>
      let b := s.dev.ttaNs / 250000 + (if s.dev.twinState = 0 then 2 else 1)
      d.slotX n = { s.dev.slotX n with rotate := some (b, some q) } ∧ TwinSent 0 (.role (.rotate (s.dev.slotAllot n) b)) s.dev d ∧
      d.storeGen n = s.dev.storeGen n ∧ d.tta.regs = s.dev.tta.regs ∧ d.tdu = s.dev.tdu)) ∧
  (∀ (slot : Fin 256) (tick : Nat) (s : State),
    let e := s.dev.advance .tta tick
    let x := s.dev.slotX slot.val
    (s.dev.slotState slot.val ≠ 3 ∨ x.sealed = false → Completes (.rebindComplete slot tick) s fun d => d = e) ∧
    (∀ q, s.dev.slotState slot.val = 3 → x.sealed = true → x.readmit = [] → x.seq = some (0x0A, q) → x.heldClose = none → Completable q s.dev → RecorderRoom .tta s →
      Completes (.rebindComplete slot tick) s fun d => d.slotState slot.val = 2 ∧ d.slotX slot.val = { x with sealed := false, seq := none } ∧
        (∃ r ∈ d.tta.recorder.queue, r.evt.code = 0x6011 ∧ r.evt.p0 = BitVec.ofNat 32 (s.dev.slotAllot slot.val) ∧ r.evt.p1 = BitVec.ofNat 32 (s.dev.workGen slot.val) ∧
          r.evt.p2 = BitVec.ofNat 32 (e.ttaNs - x.startNs)) ∧
        Completed q 0 [(32, 2, 0)] s d ∧ others slot.val s d ∧ d.tdu = s.dev.tdu) ∧
    (∀ qc, s.dev.slotState slot.val = 3 → x.sealed = true → x.readmit = [] → x.seq = none → x.heldClose = some qc →
      Completes (.rebindComplete slot tick) s fun d => d.slotState slot.val = 4 ∧ (d.slotX slot.val).seq = some (0x09, qc) ∧ (d.slotX slot.val).heldClose = none ∧
        (d.slotX slot.val).due = true ∧ others slot.val s d) ∧
    (slot.val = 0 ∨ s.dev.slotState slot.val ≠ 4 ∨ x.due = true → Completes (.releaseComplete slot tick) s fun d => d = e) ∧
    (∀ q, slot.val ≠ 0 → s.dev.slotState slot.val = 4 → x.due = false → x.seq = some (0x09, q) → x.rotate = none → Completable q s.dev → RecorderRoom .tta s →
      Completes (.releaseComplete slot tick) s fun d => d.slotX slot.val = {} ∧
        d.word .tta (R.TTA_ALT_ENTRY.base + 8 * slot.val) = Regs.resetOf .tta (R.TTA_ALT_ENTRY.base + 8 * slot.val) ∧
        (∃ r ∈ d.tta.recorder.queue, r.evt.code = 0x6012 ∧ r.evt.p0 = BitVec.ofNat 32 (s.dev.slotAllot slot.val) ∧ r.evt.p1 = BitVec.ofNat 32 (e.ttaNs - x.startNs)) ∧
        assocGet slot.val d.tta.sett.arks = none ∧ (∀ t ∈ d.tta.tables, t.slot ≠ slot.val) ∧ Completed q 0 [] s d ∧ others slot.val s d ∧ d.tdu = s.dev.tdu))

/-- R37, R38. The response and error codes and the order of the requests are those of SPDM 1.2, which the spec names and does not list (log 48).
R39, R40, R425. The vendor-defined response code and the TDISP transitions are the model's presumption (log 48, log 63). -/
def Obligations.SessionsKeysAndTdisp : Prop :=
  (
  ∀ (r : SpdmReq) (s : State),
    let level := s.dev.spdmLevel r
    let sett := s.dev.tta.sett
    let conn (n : Nat) (d : Dev) : Prop := d.tta.sett = { sett with conn := assocSet (spdmConn r) n sett.conn }
    let kept (d : Dev) : Prop := d.tta.sett = sett ∧ d.freeIx = s.dev.freeIx
    let err (c : Instr) (e : BitVec 8) : Prop := Completes c s fun d => SpdmAnswers r 0x7F [e] s.dev d ∧ kept d
    let ready : Prop := (r.session = none ∧ level = 3) ∨ ∃ e, s.dev.sessionOf r = some e ∧ e.secured = true
    let others (id : BitVec 32) : List Session := sett.sessions.filter fun e => decide (e.id ≠ id)
    Completes (.getVersion r) s (fun d => SpdmAnswers r 0x04 [0x12] s.dev d ∧ conn 1 d) ∧
    (level = 0 → err (.getCapabilities r) 4) ∧
    (1 ≤ level → Completes (.getCapabilities r) s fun d => SpdmAnswers r 0x61 [] s.dev d ∧ conn 2 d) ∧
    (∀ common : Bool, (level < 2 → err (.negotiateAlgorithms r common) 4) ∧
      (2 ≤ level → common = false → err (.negotiateAlgorithms r common) 1) ∧
      (2 ≤ level → common = true → Completes (.negotiateAlgorithms r common) s fun d => SpdmAnswers r 0x63 [] s.dev d ∧ conn 3 d)) ∧
    (∀ (c : Instr) (off len : BitVec 16) (id : BitVec 32), c ∈ [.getDigests r, .getCertificate r off len, .challenge r, .getMeasurements r, .keyExchange r id] →
      (r.session = none → level ≠ 3 → err c 4) ∧ (r.session ≠ none → s.dev.sessionOf r = none → err c 2) ∧
      (∀ e, s.dev.sessionOf r = some e → e.secured = false → err c 4)) ∧
    (ready →
      Completes (.getDigests r) s (fun d => SpdmAnswers r 0x01 [] s.dev d ∧ kept d) ∧
      Completes (.challenge r) s (fun d => SpdmAnswers r 0x03 [] s.dev d ∧ kept d) ∧
      (∀ off len : BitVec 16, Completes (.getCertificate r off len) s fun d => ∃ bs : List Byte, bs.length = len.toNat ∧ SpdmAnswers r 0x02 bs s.dev d ∧ d.tta.sett = sett) ∧
      Completes (.getMeasurements r) s (fun d => ∃ bs : List Byte, SpdmAnswers r 0x60 bs s.dev d ∧ kept d ∧
        (∀ n, n < 256 → s.dev.slotState n ≠ 0 → (leBytes 2 (s.dev.slotAllot n) ++ leBytes 1 (s.dev.slotClass n) ++
          leBytes 2 (s.dev.get (R.TTA_ALT_ENTRY_CLUSTERS.at n)) ++ (s.dev.slotX n).digest) <:+: bs) ∧
        (∀ e ∈ sett.evidence, (leBytes 1 e.1 ++ e.2) <:+: bs)) ∧
      (∀ id : BitVec 32, (256 ≤ sett.sessions.length → err (.keyExchange r id) 3) ∧
        (sett.sessions.length < 256 → Completes (.keyExchange r id) s fun d => SpdmAnswers r 0x64 [] s.dev d ∧
          d.tta.sett = { sett with sessions := others id ++ [⟨id, r.doe, false, r.mutualAuth, r.keyDigest⟩] }))) ∧
    (∀ (id : BitVec 32), ((∀ e ∈ sett.sessions, e.id ≠ id) → ∀ v, err (.finish r id v) 2) ∧
      ((∃ e ∈ sett.sessions, e.id = id) → (∀ e ∈ sett.sessions, ∀ f ∈ sett.sessions, e.id = f.id → e = f) →
        Completes (.finish r id true) s (fun d => SpdmAnswers r 0x65 [] s.dev d ∧
          d.tta.sett = { sett with sessions := sett.sessions.map fun e => if e.id = id then { e with secured := true } else e }) ∧
        Completes (.finish r id false) s (fun d => SpdmAnswers r 0x7F [6] s.dev d ∧ d.tta.sett = { sett with sessions := others id }))) ∧
    (∀ c ∈ [.spdmHeartbeat r, .keyUpdate r, .endSession r], (s.dev.sessionOf r = none → err c 2) ∧ (∀ e, s.dev.sessionOf r = some e → e.secured = false → err c 4)) ∧
    (∀ e, s.dev.sessionOf r = some e → e.secured = true →
      Completes (.spdmHeartbeat r) s (fun d => SpdmAnswers r 0x68 [] s.dev d ∧ kept d) ∧
      Completes (.keyUpdate r) s (fun d => SpdmAnswers r 0x69 [] s.dev d ∧ kept d) ∧
      Completes (.endSession r) s (fun d => SpdmAnswers r 0x6C [] s.dev d ∧ d.tta.sett = { sett with sessions := others e.id }))) ∧
  (
  let slots (s : State) (d : Dev) : Prop := d.tta.slotsX = s.dev.tta.slotsX ∧ d.tta.regs = s.dev.tta.regs ∧ d.tta.sett = s.dev.tta.sett
  let others (n : Nat) (s : State) (d : Dev) : Prop := ∀ k, k ≠ n → k < 256 → d.slotX k = s.dev.slotX k ∧ d.slotState k = s.dev.slotState k
  (∀ (r : SpdmReq) (allot : BitVec 16) (ark : BitVec 256) (s : State),
    let takes (n : Nat) (e : Session) : Prop := s.dev.slotHolding allot.toNat = some n ∧ n ≠ 0 ∧ s.dev.slotState n = 1 ∧ s.dev.sessionOf r = some e ∧
      e.secured = true ∧ e.mutualAuth = true ∧ e.keyDigest = (s.dev.slotX n).digest ∧ (e.doe = none ∨ e.doe = some (.vf (Fin.ofNat 256 n)))
    (∀ n e, takes n e → Completes (.setAllotmentKey r allot ark) s fun d => d.slotState n = 2 ∧ assocGet n d.tta.sett.arks = some ark ∧ (d.slotX n).wrnCtr = 0 ∧
      (∀ k, k ≠ n → assocGet k d.tta.sett.arks = assocGet k s.dev.tta.sett.arks) ∧ (∀ k, d.get (R.TTA_ALT_ENTRY_ALLOT_ID.at k) = s.dev.get (R.TTA_ALT_ENTRY_ALLOT_ID.at k)) ∧
      d.tta.sett.sessions = s.dev.tta.sett.sessions ∧ Out.spdm 0x7E r.session [0] ∈ d.out ∧ others n s d ∧ d.tdu = s.dev.tdu) ∧
    ((∀ n e, ¬ takes n e) → Completes (.setAllotmentKey r allot ark) s fun d => SpdmAnswers r 0x7E [4] s.dev d ∧ slots s d)) ∧
  (∀ (r : SpdmReq) (s : State),
    let takes (e : Session) (ark : BitVec 256) : Prop := s.dev.sessionOf r = some e ∧ e.secured = true ∧ e.mutualAuth = true ∧ e.doe = none ∧ s.dev.tta.sett.platform = some ark
    (∀ e ark, takes e ark → Completes (.getPlatformKey r) s fun d => SpdmAnswers r 0x7E (0#8 :: leBytes 32 ark.toNat) s.dev d ∧ slots s d) ∧
    ((∀ e ark, ¬ takes e ark) → Completes (.getPlatformKey r) s fun d => SpdmAnswers r 0x7E [4] s.dev d ∧ slots s d)) ∧
  (∀ (served : BitVec 3) (ark : BitVec 256) (tick : Nat) (s : State),
    let e := s.dev.advance .tta tick
    let me := s.dev.ttaId
    let twin := if me % 2 = 0 then me + 1 else me - 1
    let from_ (id : Nat) : Prop := (served.getLsbD 0 = true ∧ me ≠ 0 ∧ id = 0) ∨ ((served.getLsbD 0 = false ∨ me = 0) ∧ served.getLsbD 1 = true ∧ me ≠ 1 ∧ id = 1) ∨
      ((served.getLsbD 0 = false ∨ me = 0) ∧ (served.getLsbD 1 = false ∨ me = 1) ∧ served.getLsbD 2 = true ∧ id = twin)
    let needs : Prop := s.dev.tta.sett.platform = none ∧ s.dev.slotState 0 = 1
    (¬ needs ∨ served = 0 → Completes (.platformKeyRound served ark tick) s fun d => d = e) ∧
    (∀ id, needs → from_ id → RecorderRoom .tta s → Completes (.platformKeyRound served ark tick) s fun d => d.tta.sett.platform = some ark ∧
      d.slotState 0 = 2 ∧ d.get R.TTA_SETT_PKEY_HELD = 1 ∧ d.get R.TTA_SETT_PKEY_SOURCE = id ∧ assocGet 0 d.tta.sett.arks = some ark ∧
      Recorded .tta 0x6014 [id, 0] s d ∧ others 0 s d ∧ d.tdu = s.dev.tdu ∧ d.pins = s.dev.pins)) ∧
  (∀ (key : BitVec 16) (peer : Bool) (s : State),
    let may : Prop := key = 0x6E7A ∧ s.dev.ttaId = 0 ∧ s.dev.tta.sett.platform = none ∧ peer = false
    (¬ may → Completes (.pkeyGenerate key peer) s fun d => d = s.dev) ∧
    (may → RecorderRoom .tta s → Completes (.pkeyGenerate key peer) s fun d => (∃ ark : BitVec 256, d.tta.sett.platform = some ark ∧ assocGet 0 d.tta.sett.arks = some ark) ∧
      d.slotState 0 = 2 ∧ d.get R.TTA_SETT_PKEY_HELD = 1 ∧ d.get R.TTA_SETT_PKEY_SOURCE = 0 ∧ Recorded .tta 0x6014 [0, 1] s d ∧ others 0 s d ∧
      d.tdu = s.dev.tdu ∧ d.pins = s.dev.pins)) ∧
  (∀ (n : Fin 256) (r : TdispReq) (s : State),
    let fn : Fn := .vf n
    let st := (s.dev.fnq fn).tdi
    let new := match r with
      | .lock => if st = 0 then 1 else st
      | .start => if st = 1 then 2 else st
      | .stop => 0
      | .error => if st = 1 ∨ st = 2 then 3 else st
    (n = 0 → Completes (.tdispRequest n r) s fun d => d = s.dev) ∧
    (n ≠ 0 → Completes (.tdispRequest n r) s fun d => d.fnq fn = { s.dev.fnq fn with tdi := new } ∧ (∀ f, f ≠ fn → d.fnq f = s.dev.fnq f) ∧
      d.tdu = s.dev.tdu ∧ d.out = s.dev.out ∧ d.pins = s.dev.pins)))

/-- R404 to R414, R422, R427. That CI advances at the fetch is the model's choice. -/
def Obligations.QueueRings : Prop :=
  let part (fn : Fn) : Part := if fn = .tdu then .tdu else .tta
  let space (fn : Fn) : Space := (qEn fn 0).space
  let ringReset (fn : Fn) (r : Nat) (d : Dev) : Prop := d.bit (qEn fn r) = false ∧ d.bit (qErr fn r) = false ∧ d.bit (qIdle fn r) = true ∧ d.get (qPi fn r) = 0 ∧
    d.get (qCi fn r) = 0 ∧ d.get (qFault fn r) = 0 ∧ d.get (qSize fn r) = 6 ∧ d.get (qVec fn r) = 0 ∧ d.get (qBuf fn r) = 0 ∧ d.get (qLost fn r) = 0 ∧ d.get (qBadDb fn r) = 0
  let allots (s : State) (d : Dev) : Prop := d.tta.slotsX = s.dev.tta.slotsX ∧ ∀ n, n < 256 → d.word .tta (R.TTA_ALT_ENTRY.base + 8 * n) = s.dev.word .tta (R.TTA_ALT_ENTRY.base + 8 * n)
  (∀ (fn : Fn) (ring : Fin 64) (v : BitVec 16) (s : State),
    let r := ring.val
    let size := s.dev.ringEntries fn r
    let used := s.dev.ringUsed fn r
    let takes : Prop := if ringCmd fn r = true then (v.toNat + 65536 - s.dev.get (qPi fn r)) % 65536 + used ≤ size else (v.toNat + 65536 - s.dev.get (qCi fn r)) % 65536 ≤ used
    let f := if ringCmd fn r = true then qPi fn r else qCi fn r
    let waiting := (s.dev.fnq fn).backlog.filter fun e => decide (e.1 = r)
    (ringExists fn r = false → Completes (.doorbell fn ring v) s fun d => d = s.dev) ∧
    (ringExists fn r = true → takes → waiting = [] ∨ ringCmd fn r = true → Completes (.doorbell fn ring v) s fun d => d.get f = v.toNat ∧
      RegsKept (space fn) [f.addr] s d ∧ d.out = s.dev.out ∧ (∀ g, d.fnq g = s.dev.fnq g)) ∧
    (∀ c rest, ringExists fn r = true → ringCmd fn r = false → takes → waiting = (r, c) :: rest → s.dev.ringOpen fn r = true → s.dev.fnState fn ≠ 3 →
      (s.dev.get (qPi fn r) + 65536 - v.toNat) % 65536 < size → Completes (.doorbell fn ring v) s fun d => d.get (qCi fn r) = v.toNat ∧
      ∃ bs : List Byte, Out.ringEntry fn r (s.dev.get (qPi fn r) % size) bs ∈ d.out ∧ bs.take (min 48 c.length) = c.take 48) ∧
    (ringExists fn r = true → ¬ takes → RecorderRoom (part fn) s → Completes (.doorbell fn ring v) s fun d => d.get (qBadDb fn r) = min (s.dev.get (qBadDb fn r) + 1) 0xFFFF ∧
      RegsKept (space fn) [(qBadDb fn r).addr] s d ∧ Recorded (part fn) 0x6020 [fnNum fn, r, v.toNat] s d ∧ d.out = s.dev.out)) ∧
  (∀ (fn : Fn) (ring : Fin 64) (s : State),
    let r := ring.val
    let ci := s.dev.get (qCi fn r)
    let mirror : Prop := fn = .pf ∧ 16 ≤ r
    let runs : Prop := ringExists fn r = true ∧ ringCmd fn r = true ∧ s.dev.ringOpen fn r = true ∧ s.dev.ringUsed fn r ≠ 0 ∧ s.dev.canReserve fn r = true ∧ s.dev.fnState fn = 0 ∧
      (mirror → (s.dev.get R.TTA_TDU_MIRROR_PORT).testBit ((r - 16) / 3) = true)
    (¬ runs → ∀ res, Completes (.descriptorFetch fn ring res) s fun d => d = s.dev) ∧
    (∀ bs, runs → opAllowed (leAt bs 0 1) fn r = true → Completes (.descriptorFetch fn ring (.data bs)) s fun d => d.get (qCi fn r) = (ci + 1) % 65536 ∧
      (d.fnq fn).inflight = (s.dev.fnq fn).inflight ++ [(r, ci)] ∧ d.bit (qIdle fn r) = false ∧ d.out = s.dev.out ∧ 
        RegsKept (space fn) ([(qCi fn r).addr, (qIdle fn r).addr] ++ (match fn with | .vf n => [(R.TTA_FN_STAT_BACKLOG.at (n.val - 1)).addr] | _ => [])) s d ∧
      (¬ mirror → d.tta.links = s.dev.tta.links ∧ d.tta.mirrored = s.dev.tta.mirrored) ∧
      (mirror → (d.port (ttaEnd ((r - 16) / 3))).queue = (s.dev.port (ttaEnd ((r - 16) / 3))).queue ++ [queued 7 0 (.ring 1 (BitVec.ofNat 16 ci) 0 bs)] ∧
        ∃ m, d.tta.mirrored = s.dev.tta.mirrored ++ [m] ∧ m.port = (r - 16) / 3 ∧ m.q.index = BitVec.ofNat 16 ci)) ∧
    (∀ bs, runs → fn ≠ .tdu → opAllowed (leAt bs 0 1) fn r = false → (s.dev.fnq fn).orphans.contains (r, ci) = false → Completes (.descriptorFetch fn ring (.data bs)) s fun d =>
      ∃ q : Desc, q.fn = fn ∧ q.ring = ring ∧ q.index = BitVec.ofNat 16 ci ∧ q.tag = BitVec.ofNat 32 (leAt bs 4 4) ∧ Out.writeBack q 4 [] ∈ d.out) ∧
    (∀ f : Fetch, runs → (∀ bs, f ≠ .data bs) → RecorderRoom (part fn) s → Completes (.descriptorFetch fn ring f) s fun d => d.bit (qErr fn r) = true ∧ d.get (qFault fn r) = ci ∧
      Recorded (part fn) 0x6021 [fnNum fn, r, ci, match f with | .data _ => 0 | .poison => 5 | .denied => 4 | .timeout => 6] s d ∧ d.get (qCi fn r) = ci ∧
      let cr := complRing fn r
      (s.dev.ringOpen fn cr = true → ∃ phase : Byte, Out.ringEntry fn cr (s.dev.get (qPi fn cr) % s.dev.ringEntries fn cr)
        ([0xFF#8, 0xFF, 0xFF, 0xFF, match f with | .data _ => 0 | .poison => 5 | .denied => 4 | .timeout => 6, 0] ++ leBytes 2 ci ++ leBytes 1 r ++ List.replicate 6 0 ++ [phase]) ∈ d.out))) ∧
  (∀ (q : Desc) (vf : BitVec 8) (a : Bool) (addr : W64) (img : Fetch) (op : Nat) (c : Instr) (s : State),
    (op, c) ∈ [(0x09, .allotClose q), (0x0A, .allotRebind q addr img), (0x0B, .rotateStore q), (0x10, .fnQuiesce q vf), (0x11, .fnResume q vf), (0x12, .fnFreeze q vf),
      (0x13, .fnSave q vf addr), (0x15, .fnReset q vf a)] →
    let st (x : Nat) : Prop := Completes c s fun d => Completed q x [] s d ∧ allots s d ∧ d.tdu = s.dev.tdu
    (s.dev.fenceHolds q = true → (q.ring.val, q.index.toNat) ∈ (s.dev.fnq q.fn).inflight → Completes c s fun d => d = s.dev) ∧
    (s.dev.fenceHolds q = false → Completable q s.dev → (opAllowed op q.fn q.ring.val = false → st 4) ∧
      (opAllowed op q.fn q.ring.val = true → q.length = 0 → st 1) ∧
      (opAllowed op q.fn q.ring.val = true → q.length ≠ 0 → op = 0x0A ∨ op = 0x13 → s.dev.get (qBuf q.fn q.ring.val) < q.length.toNat → st 2) ∧
      (opAllowed op q.fn q.ring.val = true → q.length ≠ 0 → (op ≠ 0x0A ∧ op ≠ 0x13) ∨ q.length.toNat ≤ s.dev.get (qBuf q.fn q.ring.val) → s.dev.allotAllowed op q = false → st 4))) ∧
  (∀ (fn : Fn) (ring : Fin 64) (en : Bool) (s : State),
    let r := ring.val
    (ringExists fn r = false ∨ s.dev.bit (qEn fn r) = en → Completes (.qEnable fn ring en) s fun d => d = s.dev) ∧
    (ringExists fn r = true → s.dev.bit (qEn fn r) ≠ en → en = false ∨ (∀ e ∈ (s.dev.fnq fn).backlog, e.1 ≠ r) → Completes (.qEnable fn ring en) s fun d =>
      d.bit (qEn fn r) = en ∧ d.bit (qErr fn r) = false ∧ (en = true ∨ (∀ e ∈ (s.dev.fnq fn).inflight, e.1 ≠ r) → d.get (qPi fn r) = 0 ∧ d.get (qCi fn r) = 0) ∧
      (en = false → (∃ e ∈ (s.dev.fnq fn).inflight, e.1 = r) → d.get (qPi fn r) = s.dev.get (qPi fn r) ∧ d.get (qCi fn r) = s.dev.get (qCi fn r) ∧ d.bit (qIdle fn r) = false) ∧
      RegsKept (space fn) [(qEn fn r).addr, (qPi fn r).addr] s d ∧ d.out = s.dev.out ∧ ∀ g, d.fnq g = s.dev.fnq g)) ∧
  (∀ (fn : Fn) (s : State),
    (fn = .lodge ∨ fn = .tdu → Completes (.flr fn) s fun d => d = s.dev) ∧
    (fn ≠ .lodge → fn ≠ .tdu → RecorderRoom .tta s → (s.dev.fnq fn).quiesce = none → Completes (.flr fn) s fun d => (∀ r, ringExists fn r = true → ringReset fn r d) ∧
      (d.fnq fn).inflight = [] ∧ (d.fnq fn).orphans = (s.dev.fnq fn).orphans ++ (s.dev.fnq fn).inflight ∧ (d.fnq fn).backlog = (s.dev.fnq fn).backlog ∧ d.fnState fn = 0 ∧
      (∀ g, g ≠ fn → d.fnq g = s.dev.fnq g) ∧ (∀ n : Fin 256, n ≠ 0 → fn = .vf n → s.dev.fnState fn ≠ 0 → Recorded .tta 0x6022 [n.val, s.dev.fnState fn, 0] s d) ∧
      allots s d ∧ d.out = s.dev.out ∧ d.tdu = s.dev.tdu)) ∧
  (∀ s : State, Completes .vfEnableClear s fun d => (∀ n : Fin 256, n ≠ 0 → d.fnState (.vf n) = 0 ∧ (∀ r, r < 7 → ringReset (.vf n) r d) ∧ (d.fnq (.vf n)).inflight = []) ∧
    (∀ n : Fin 256, n ≠ 0 → (s.dev.fnq (.vf n)).backlog <+: (d.fnq (.vf n)).backlog) ∧ allots s d ∧ d.tta.graphs = s.dev.tta.graphs)

/-- R209, R417, R419.
R426, R427. -/
def Obligations.HistoryAndDieCopies : Prop :=
  (
  ∀ (q : Desc) (source die : BitVec 8) (first : BitVec 16) (count : BitVec 32) (addr : W64) (fs : BitVec 48) (fi : BitVec 16) (ts : BitVec 48) (ti : BitVec 16) (s : State),
    DescRuns 0x20 q s.dev →
    let c : Instr := .histRead q source die first count addr fs fi ts ti
    let slot := descSlot q
    let allot := s.dev.slotAllot slot
    let gen := s.dev.storeGen slot
    let kept (d : Dev) : Prop := d.tta.ing = s.dev.tta.ing ∧ d.tta.captures = s.dev.tta.captures ∧ d.tdu = s.dev.tdu ∧ d.pins = s.dev.pins
    let ends (st : Nat) : Prop := Completes c s fun d => Completed q st [] s d ∧ kept d
    let fromE := fs.toNat * 4000 + fi.toNat
    let toE := ts.toNat * 4000 + ti.toNat
    let denied : Prop := 3 < source.toNat ∨ s.dev.dieEnabled die.toNat = false ∨ s.dev.slotState slot ≠ 2 ∨ (source = 0 ∧ toE < fromE) ∨ ((source = 1 ∨ source = 2) ∧ ts.toNat < fs.toNat)
    let done (bytes : List Byte) (nextSec nextIdx skipped poisoned : Nat) : Prop := Completes c s fun d => Out.bufWrite q.fn addr.toNat bytes ∈ d.out ∧
      Completed q 0 [(48, 6, nextSec), (54, 2, nextIdx), (56, 4, bytes.length), (60, 2, min 65535 skipped), (62, 2, min 65535 poisoned)] s d ∧ kept d
    (addr.toNat % 64 ≠ 0 → ends 3) ∧ (addr.toNat % 64 = 0 → denied → ends 4) ∧
    (addr.toNat % 64 = 0 → ¬ denied → source = 0 → s.dev.epochsSorted →
      let held := s.dev.tta.ing.epochs.filter fun (e : Nat × Epoch) => e.2.taken && decide (fromE ≤ e.1 ∧ e.1 < toE)
      let mine (e : Epoch) : List Block := (e.blocks.filter fun b => decide (b.2.allot = allot ∧ b.2.mark = 0 ∧ b.1 / 384 = die.toNat ∧ leAt b.2.hdr 0 1 = 1 ∧
        leAt b.2.hdr 8 2 < first.toNat + count.toNat ∧ first.toNat < leAt b.2.hdr 8 2 + leAt b.2.hdr 10 2)).map (·.2)
      let good (b : Block) : Bool := decide (b.poison = false ∧ b.lostPages = [])
      let units := held.flatMap fun e => (mine e.2).filter good
      let raw (b : Block) : List Byte := b.hdr ++ b.words.flatMap (leBytes 8)
      (∀ b rest, units = b :: rest → b.gen < gen → ends 0xC) ∧
      (∀ b rest, units = b :: rest → gen ≤ b.gen → q.length.toNat < (raw b).length → ends 9) ∧
      (held.map (·.1) = List.range' fromE (toE - fromE) → fromE < toE → (∀ b ∈ units, gen ≤ b.gen) → (units.flatMap raw).length ≤ q.length.toNat →
        done (units.flatMap raw) (toE / 4000) (toE % 4000) 0 ((held.flatMap fun e => (mine e.2).filter fun b => !good b).length))) ∧
    (∀ t k, addr.toNat % 64 = 0 → ¬ denied → source.toNat = t → t = 1 ∨ t = 2 → s.dev.pageAwaited (regionBase 1) (regionSize 1) = false →
      let secs := if t = 1 then 1 else 60
      let now := ((s.dev.tta.ing.log.getLast?.map (·.epoch)).getD 0) / 4000 / secs
      fs.toNat = k * secs → ts.toNat = (k + 1) * secs → k < now → now ≤ k + (if t = 1 then 1280 else 256) →
      let entry (i : Nat) : Option TierEntry := s.dev.tta.ing.tiers.find? fun e => decide (e.tier = t ∧ e.stream = die.toNat * 65536 + (first.toNat + i) ∧ e.allot = allot ∧ e.interval = k)
      let n := min count.toNat (65536 - first.toNat)
      let whole : Prop := ∀ e ∈ s.dev.tta.ing.tiers, e.bytes.length = 32
      (∀ e, 0 < n → entry 0 = some e → e.gen < gen → ends 0xC) ∧
      (whole → 0 < n → (∀ i e, i < n → entry i = some e → gen ≤ e.gen) → q.length.toNat < 32 → ends 9) ∧
      (whole → (∀ i e, i < n → entry i = some e → gen ≤ e.gen) → 32 * n ≤ q.length.toNat →
        done ((List.range n).flatMap fun i => match entry i with | some e => e.bytes | none => List.replicate 32 0) ts.toNat 0 0 0)) ∧
    (addr.toNat % 64 = 0 → ¬ denied → source = 3 →
      let is (x : Capture) : Prop := x.die = die.toNat ∧ x.allot = allot ∧ x.capture = count.toNat ∧ x.last = true
      let off := fs.toNat % 2 ^ 32
      ((∀ x ∈ s.dev.tta.captures, ¬ is x) → ends 4) ∧
      (∀ x, s.dev.tta.captures.filter (fun x => decide (is x)) = [x] →
        let left := x.content.drop off
        let n := min left.length q.length.toNat / 8 * 8
        (x.gen < gen → ends 0xC) ∧ (gen ≤ x.gen → left ≠ [] → n = 0 → ends 9) ∧
        (gen ≤ x.gen → left = [] ∨ n ≠ 0 → done (left.take n) (off + n) 0 0 0)))) ∧
  (
  (∀ (q : Desc) (area : BitVec 8) (addr : W64) (op : Nat) (bytes : List Byte) (c : Instr) (s : State), q.fn = .tdu →
    (op, bytes, c) ∈ [(0x70, ((s.dev.recordsOf area.toNat).map Rec.bytes).flatten, Instr.recCopy q area addr),
      (0x71, ((List.range 32).map fun i => leBytes 8 (s.dev.counter i).toNat).flatten, .aonCopy q addr),
      (0x72, ((List.range 48).map fun i => leBytes 8 (s.dev.word .tdu (R.TDU_CHK_BIN.base + 8 * i)).toNat).flatten, .chkCopy q addr)] →
    s.dev.fenceHolds q = false → s.dev.headerCheck op q = none → s.dev.tdu.q.orphans.contains (q.ring.val, q.index.toNat) = false →
    let wb : List (Nat × Nat × Nat) := if op = 0x70 then [(32, 4, bytes.length / 32)] else []
    let st := if addr.toNat % 64 ≠ 0 then 3 else if q.length.toNat < bytes.length then 9 else 0
    (q.ring.val = 0 → Completes c s fun d => Out.writeBack q st (if st = 0 then wb else []) ∈ d.out ∧ (Out.bufWrite .tdu addr.toNat bytes ∈ d.out ∨ st ≠ 0) ∧
      d.tdu.q.inflight = s.dev.tdu.q.inflight.erase (0, q.index.toNat) ∧ d.tdu.recorder = s.dev.tdu.recorder ∧ d.tta = s.dev.tta) ∧
    (∀ p : Fin 2, q.ring.val = 16 + p.val → Completes c s fun d => ∃ out wr co : List Frame,
      (d.port (.tdu p)).queue = (s.dev.port (.tdu p)).queue ++ out ++ wr ++ co ∧
      (out.map fun f => match f.payload with | .ring 2 _ _ bs => bs | _ => []).flatten = (if st = 0 then bytes else []) ∧
      (∃ bs, wr = [queued 7 0 (.ring 3 q.index 0 bs)] ∧ bs.length = 64 ∧ leAt bs 0 1 = op ∧ leAt bs 4 4 = q.tag.toNat ∧ leAt bs 11 1 = st ∧
        (st = 0 → op = 0x70 → leAt bs 32 4 = bytes.length / 32 % 2 ^ 32)) ∧
      (∃ bs, co = [queued 7 0 (.ring 4 q.index 0 bs)] ∧ bs.take 4 = leBytes 4 q.tag.toNat ∧ leAt bs 4 1 = st ∧ leAt bs 5 1 = op ∧ leAt bs 6 2 = q.index.toNat) ∧
      d.out = s.dev.out ∧ d.tdu.recorder = s.dev.tdu.recorder ∧ d.tta = s.dev.tta)) ∧
  (∀ (v : W64) (s : State), Completes (.tduMirrorWrite v) s fun d => d.get R.TTA_TDU_MIRROR_PORT = v.toNat % 65536 ∧ RegsKept .tta [R.TTA_TDU_MIRROR_PORT.addr] s d ∧
    (∀ p, p < 16 → (d.port (ttaEnd p)).queue = (s.dev.port (ttaEnd p)).queue ++ (if (s.dev.get R.TTA_TDU_MIRROR_PORT).testBit p = v.getLsbD p then [] else
      [queued 2 0 (.control 0 false (.mirror (v.getLsbD p)))])) ∧ d.port (.tta 16) = s.dev.port (.tta 16) ∧ d.tdu = s.dev.tdu ∧ d.out = s.dev.out) ∧
  (∀ (p : Fin 16) (index : BitVec 16) (s : State),
    let is (m : Mirrored) : Prop := m.port = p.val ∧ m.q.index = index
    ((∀ m ∈ s.dev.tta.mirrored, ¬ is m) → Completes (.mirrorTimeout p index) s fun d => d = s.dev) ∧
    (∀ l m t, s.dev.tta.mirrored = l ++ m :: t → (∀ x ∈ l, ¬ is x) → is m → Completable m.q s.dev → Completes (.mirrorTimeout p index) s fun d =>
      Completed m.q 6 [] s d ∧ d.tta.mirrored = l ++ t ∧ d.tdu = s.dev.tdu)))

/-- R32, R411, R412, R421 to R425. That DENIED for a locked TDI comes before the state's check, and that a saved record keeps its ring in byte 63, are the
model's choices (log 18, log 19); the log of outputs shows the image's header and body in plaintext. -/
def Obligations.FunctionStates : Prop :=
  ∀ (q : Desc) (vf : BitVec 8) (s : State),
    let n := vf.toNat
    let fn : Fn := .vf (Fin.ofNat 256 n)
    let st := s.dev.fnState fn
    let x := s.dev.fnq fn
    let locked : Prop := x.tdi = 1 ∨ x.tdi = 2
    let waiting := x.backlog.filter fun e => decide (5 ≤ e.1)
    let kept (d : Dev) : Prop := d.tta.slotsX = s.dev.tta.slotsX ∧ d.tta.graphs = s.dev.tta.graphs ∧ d.tdu = s.dev.tdu ∧ d.pins = s.dev.pins ∧
      (∀ m : Fin 256, m ≠ 0 → m.val ≠ n → d.fnState (.vf m) = s.dev.fnState (.vf m) ∧ d.fnq (.vf m) = s.dev.fnq (.vf m))
    let ends (c : Instr) (status : Nat) : Prop := Completes c s fun d => Completed q status [] s d ∧ kept d ∧ d.fnState fn = st
    (∀ (op : Nat) (c : Instr) (addr : W64) (img : Fetch) (ok al : Bool) (body : List Byte),
      (op, c) ∈ [(0x10, .fnQuiesce q vf), (0x11, .fnResume q vf), (0x12, .fnFreeze q vf), (0x13, .fnSave q vf addr), (0x14, .fnRestore q vf addr img ok body), (0x15, .fnReset q vf al)] →
      DescRuns op q s.dev →
      (n = 0 → ends c 4) ∧
      (n ≠ 0 → op = 0x12 ∨ op = 0x13 ∨ op = 0x14 → locked → ends c 4) ∧
      (n ≠ 0 → ¬ (op = 0x12 ∨ op = 0x13 ∨ op = 0x14) ∨ ¬ locked →
        (st, op) ∉ [(0, 0x10), (2, 0x11), (3, 0x11), (2, 0x12), (3, 0x13), (3, 0x14), (2, 0x15), (3, 0x15)] → ends c 8)) ∧
    (DescRuns 0x10 q s.dev → n ≠ 0 → st = 0 →
      (x.inflight ≠ [] ∨ x.orphans ≠ [] → RecorderRoom .tta s → Completes (.fnQuiesce q vf) s fun d => d.fnState fn = 1 ∧ d.fnq fn = { x with quiesce := some q } ∧
        Recorded .tta 0x6022 [n, 0, 1] s d ∧ kept d ∧ d.out = s.dev.out) ∧
      (x.inflight = [] → x.orphans = [] → RecorderRoomFor 2 .tta s → Completes (.fnQuiesce q vf) s fun d => d.fnState fn = 2 ∧ (d.fnq fn).quiesce = none ∧
        RecordedAll .tta [(0x6022, [n, 0, 1]), (0x6022, [n, 1, 2])] s.dev d ∧ Completed q 0 [] s d ∧ kept d)) ∧
    (DescRuns 0x11 q s.dev → n ≠ 0 → st = 2 ∨ st = 3 →
      (x.backlog = [] → RecorderRoom .tta s → Completes (.fnResume q vf) s fun d => d.fnState fn = 0 ∧ Recorded .tta 0x6022 [n, st, 0] s d ∧ Completed q 0 [] s d ∧ kept d ∧
        let cr := complRing q.fn q.ring.val
        (s.dev.ringOpen q.fn cr = true → (∃ phase : Byte, (phase = if s.dev.get (qPi q.fn cr) / s.dev.ringEntries q.fn cr % 2 = 0 then 1 else 0) ∧
          Out.ringEntry q.fn cr (s.dev.get (qPi q.fn cr) % s.dev.ringEntries q.fn cr)
            (leBytes 4 q.tag.toNat ++ [0#8, 0x11] ++ leBytes 2 q.index.toNat ++ leBytes 1 q.ring.val ++ List.replicate 6 0 ++ [phase]) ∈ d.out) ∧
          d.get (qPi q.fn cr) = (s.dev.get (qPi q.fn cr) + 1) % 65536 ∧
          (q.flags.getLsbD 0 = true → Out.msix q.fn (s.dev.ringVector q.fn cr) ∈ d.out))) ∧
      (∀ r c, x.backlog = [(r, c)] → r = 5 ∨ r = 6 → s.dev.ringOpen fn r = true → s.dev.ringUsed fn r < s.dev.ringEntries fn r → Completes (.fnResume q vf) s fun d =>
        d.fnState fn = 0 ∧ (d.fnq fn).backlog = [] ∧ Completed q 0 [] s d ∧ kept d ∧
        (∃ bs : List Byte, Out.ringEntry fn r (s.dev.get (qPi fn r) % s.dev.ringEntries fn r) bs ∈ d.out ∧ bs.length = 64 ∧ bs.take (min 48 c.length) = c.take 48 ∧
          leAt bs 48 4 = min ((assocGet r x.lost).getD 0) (2 ^ 32 - 1)) ∧
        (s.dev.ringUsed fn r = 0 → Out.msix fn (s.dev.ringVector fn r) ∈ d.out))) ∧
    (DescRuns 0x12 q s.dev → n ≠ 0 → ¬ locked → st = 2 → RecorderRoom .tta s → Completes (.fnFreeze q vf) s fun d => d.fnState fn = 3 ∧ d.fnq fn = x ∧
      Recorded .tta 0x6022 [n, 2, 3] s d ∧ Completed q 0 [] s d ∧ kept d) ∧
    (∀ addr : W64, DescRuns 0x13 q s.dev → n ≠ 0 → ¬ locked → st = 3 →
      let bytes := 496 + 64 * waiting.length
      (addr.toNat % 64 ≠ 0 → ends (.fnSave q vf addr) 3) ∧ (addr.toNat % 64 = 0 → q.length.toNat < bytes → ends (.fnSave q vf addr) 9) ∧
      (addr.toNat % 64 = 0 → bytes ≤ q.length.toNat → RecorderRoom .tta s → Completes (.fnSave q vf addr) s fun d => d.fnState fn = 3 ∧ d.fnq fn = x ∧
        Recorded .tta 0x6023 [n, bytes] s d ∧ Completed q 0 [(32, 4, bytes)] s d ∧ kept d ∧ ∃ b : List Byte, Out.bufWrite q.fn addr.toNat b ∈ d.out ∧ b.length = bytes - 16 ∧
        leAt b 0 1 = 1 ∧ leAt b 2 2 = s.dev.slotAllot n ∧ leAt b 4 1 = s.dev.storeGen n ∧ leAt b 6 2 = s.dev.ttaId ∧ leAt b 16 4 = waiting.length % 2 ^ 32 ∧
        leAt b 20 4 = (224 + 64 * waiting.length) % 2 ^ 32 ∧
        (∀ r, r < 7 → leAt b (256 + 32 * r + 8) 8 = (s.dev.word (qEn fn r).space (qEn fn r).addr).toNat ∧ leAt b (256 + 32 * r + 16) 2 = s.dev.get (qPi fn r) ∧
          leAt b (256 + 32 * r + 18) 2 = s.dev.get (qCi fn r) ∧ leAt b (256 + 32 * r + 20) 4 = s.dev.get (qPi fn r) / s.dev.ringEntries fn r % 2) ∧
        (∀ (i : Nat) (e : Nat × List Byte), waiting[i]? = some e → ((b.drop (480 + 64 * i)).take (min 48 e.2.length)) = e.2.take 48 ∧ leAt b (480 + 64 * i + 63) 1 = e.1 % 256))) ∧
    (∀ (addr : W64) (img : Fetch) (ok : Bool) (body : List Byte), DescRuns 0x14 q s.dev → n ≠ 0 → ¬ locked → st = 3 →
      let c : Instr := .fnRestore q vf addr img ok body
      (addr.toNat % 64 ≠ 0 → ends c 3) ∧
      (addr.toNat % 64 = 0 → (img = .poison → ends c 5) ∧ (img = .denied → ends c 4) ∧ (img = .timeout → ends c 6)) ∧
      (∀ bs, addr.toNat % 64 = 0 → img = .data bs →
        let len : Prop := q.length.toNat = 272 + leAt bs 20 4
        let mine : Prop := leAt bs 2 2 = s.dev.slotAllot n
        let gen : Prop := leAt bs 4 1 = s.dev.storeGen n
        let cnt := leAt bs 16 4
        (¬ len → ends c 3) ∧ (len → ¬ mine → ends c 4) ∧ (len → mine → ¬ gen → ends c 0xC) ∧ (len → mine → gen → ok = false → ends c 5) ∧
        (len → mine → gen → ok = true → 4096 < cnt + waiting.length → ends c 9) ∧
        (len → mine → gen → ok = true → cnt + waiting.length ≤ 4096 → RecorderRoom .tta s → Completes c s fun d => d.fnState fn = 3 ∧
          (∀ r, r < 7 → d.get (qPi fn r) = leAt body (32 * r + 16) 2 ∧ d.get (qCi fn r) = leAt body (32 * r + 18) 2 ∧
            (d.word (qEn fn r).space (qEn fn r).addr).toNat = leAt body (32 * r + 8) 8) ∧
          (d.fnq fn).backlog = ((List.range cnt).map fun i => (leAt body (224 + 64 * i + 63) 1, (body.drop (224 + 64 * i)).take 48)) ++ x.backlog ∧
          Recorded .tta 0x6024 [n, leAt bs 6 2, cnt] s d ∧ Completed q 0 [] s d ∧ kept d))) ∧
    (∀ al : Bool, DescRuns 0x15 q s.dev → n ≠ 0 → st = 2 ∨ st = 3 → x.quiesce = none → RecorderRoomFor 2 .tta s →
      let reset (d : Dev) : Prop := d.fnState fn = 0 ∧ (d.fnq fn).backlog = [] ∧ (∀ r, r < 7 → d.bit (qEn fn r) = false ∧ d.get (qPi fn r) = 0 ∧ d.get (qCi fn r) = 0 ∧ d.get (qSize fn r) = 6) ∧
        (∀ r, r = 5 ∨ r = 6 → (assocGet r (d.fnq fn).lost).getD 0 = (assocGet r x.lost).getD 0 + (waiting.filter fun e => decide (e.1 = r)).length) ∧
        ((d.fnq fn).tdi = if locked then 3 else x.tdi) ∧ d.tdu = s.dev.tdu ∧ d.pins = s.dev.pins
      (al = false ∨ s.dev.slotState n ≠ 2 → Completes (.fnReset q vf al) s fun d => reset d ∧ Recorded .tta 0x6022 [n, st, 0] s d ∧ Completed q 0 [] s d ∧ d.tta.slotsX = s.dev.tta.slotsX) ∧
      (al = true → s.dev.slotState n = 2 → s.dev.workGen n ≠ 0xFFFF → Completes (.fnReset q vf al) s fun d => reset d ∧ Recorded .tta 0x6022 [n, st, 0] s d ∧ d.slotState n = 3 ∧
        d.slotX n = { s.dev.slotX n with seq := some (0x15, q), newSet := (s.dev.slotX n).clusters, due := true } ∧ d.out = s.dev.out ∧ ∀ m, m ≠ n → d.slotX m = s.dev.slotX m) ∧
      (al = true → s.dev.slotState n = 2 → s.dev.workGen n = 0xFFFF → Completes (.fnReset q vf al) s fun d => reset d ∧
        RecordedAll .tta [(0x6022, [n, st, 0]), (0x6013, [s.dev.slotAllot n, 0])] s.dev d ∧ d.slotState n = 4 ∧ (d.slotX n).seq = some (0x15, q) ∧ (d.slotX n).due = true))

/-- R50 to R52, R119, R304, R365, R417, R420. -/
def Obligations.TraceAndGrants : Prop :=
  (∀ (q : Desc) (die : BitVec 8) (free : Bool) (size : BitVec 8) (rearm : Bool) (post : BitVec 16) (start stop : BitVec 8) (s : State), DescRuns 0x28 q s.dev →
    let c : Instr := .traceSlot q die free size rearm post start stop
    let slot := descSlot q
    let a := s.dev.slotAllot slot
    let ends (st : Nat) : Prop := Completes c s fun d => Completed q st [] s d ∧ d.tta.sett = s.dev.tta.sett ∧ d.tta.links = s.dev.tta.links ∧ d.tdu = s.dev.tdu
    let denied : Prop := s.dev.slotState slot ≠ 2 ∨ s.dev.dieEnabled die.toNat = false ∨
      (∀ g ∈ s.dev.tta.sett.grants, ¬ (g.grant.allot = a ∧ g.die = die.toNat ∧ g.grant.flags.testBit 3 = true)) ∨
      (s.dev.slotClass slot ≠ 1 ∧ (start.getLsbD 4 = true ∨ stop.getLsbD 4 = true))
    let onDie := s.dev.dieTraceSlots die.toNat
    let orders (sl : Nat) (cfg : W64) (base : Nat) : Prop :=
      (s.dev.cutFollower = true → ends 6) ∧
      (s.dev.twinState = 0 → s.dev.twinLinked → Completes c s fun d => Ordered q a (.traceSlot die.toNat sl cfg) s d) ∧
      (s.dev.ordersAlone → s.dev.cutFollower = false → Completes c s fun d => Completed q 0 [(24, 1, sl), (25, 1, base)] s d ∧
        ((die.toNat, sl, cfg) ∈ d.tta.sett.traceSlots ↔ R.TDU_TRC_SLOT_CFG_VALID.read cfg = 1) ∧
        (∀ e : Nat × Nat × W64, ¬ (e.1 = die.toNat ∧ e.2.1 = sl) → (e ∈ d.tta.sett.traceSlots ↔ e ∈ s.dev.tta.sett.traceSlots)) ∧
        (s.dev.isUp (ttaEnd die.toNat) = true → (d.port (ttaEnd die.toNat)).queue = (s.dev.port (ttaEnd die.toNat)).queue ++
          [queued 2 0 (.control 0 false (.regWrite (BitVec.ofNat 16 (0x6840 + 8 * sl)) (BitVec.allOnes 64) cfg))]) ∧ d.tdu = s.dev.tdu)
    (denied → ends 4) ∧
    (¬ denied → s.dev.indexOn die.toNat a = none → ends 9) ∧
    (∀ ix, ¬ denied → s.dev.indexOn die.toNat a = some ix →
      (free = true → (∀ e ∈ onDie, e.2.2.2 ≠ ix) → ends 9) ∧
      (∀ e, free = true → onDie.filter (fun e => decide (e.2.2.2 = ix)) = [e] → orders e.1 0 0) ∧
      (free = false → s.dev.placeTrace die.toNat ix size.toNat = none → ends 9) ∧
      (∀ sl base, free = false → s.dev.placeTrace die.toNat ix size.toNat = some (sl, base) → 0 < size.toNat ∧ base + size.toNat ≤ 32 ∧
        (∀ e ∈ onDie, e.2.2.2 ≠ ix → base + size.toNat ≤ e.2.1 ∨ e.2.1 + e.2.2.1 ≤ base) ∧
        ((∃ e ∈ onDie, e.2.2.2 = ix ∧ e.1 = sl) ∨ ((∀ e ∈ onDie, e.2.2.2 ≠ ix ∧ e.1 ≠ sl) ∧ sl < 8)) ∧
        ∃ cfg : W64, R.TDU_TRC_SLOT_CFG_VALID.read cfg = 1 ∧ R.TDU_TRC_SLOT_CFG_ALLOT_IDX.read cfg = ix ∧ R.TDU_TRC_SLOT_CFG_BASE_64K.read cfg = base ∧
          R.TDU_TRC_SLOT_CFG_SIZE_64K.read cfg = size.toNat ∧ R.TDU_TRC_SLOT_CFG_POST_4K.read cfg = post.toNat % 2 ^ R.TDU_TRC_SLOT_CFG_POST_4K.width ∧
          (R.TDU_TRC_SLOT_CFG_REARM.read cfg = 1 ↔ rearm = true) ∧
          R.TDU_TRC_SLOT_CFG_START_MASK.read cfg = start.toNat % 2 ^ R.TDU_TRC_SLOT_CFG_START_MASK.width ∧
          R.TDU_TRC_SLOT_CFG_STOP_MASK.read cfg = stop.toNat % 2 ^ R.TDU_TRC_SLOT_CFG_STOP_MASK.width ∧ orders sl cfg base))) ∧
  (∀ (q : Desc) (mask : BitVec 16) (start stop : Bool) (s : State), DescRuns 0x29 q s.dev →
    let slot := descSlot q
    let hit (die sl : Nat) : Prop := die < 16 ∧ mask.getLsbD die = true ∧ s.dev.isUp (ttaEnd die) = true ∧ ∃ ix, s.dev.indexOn die (s.dev.slotAllot slot) = some ix ∧
      ∃ e, (s.dev.dieTraceSlots die).find? (fun e => decide (e.2.2.2 = ix)) = some e ∧ e.1 = sl
    (s.dev.slotState slot ≠ 2 → Completes (.traceTrig q mask start stop) s fun d => Completed q 4 [] s d ∧ d.tta.links = s.dev.tta.links ∧ d.tdu = s.dev.tdu) ∧
    (s.dev.slotState slot = 2 → Completes (.traceTrig q mask start stop) s fun d => ∃ n, n ≤ 16 ∧ Completed q 0 [(19, 1, n)] s d ∧
      (∀ die sl, hit die sl → (d.port (ttaEnd die)).queue = (s.dev.port (ttaEnd die)).queue ++ [queued 2 0 (.control 0 false (.trigger (BitVec.ofNat 8 (2 ^ sl)) start stop 1 0))]) ∧
      (∀ die, die < 16 → (∀ sl, ¬ hit die sl) → d.port (ttaEnd die) = s.dev.port (ttaEnd die)) ∧
      (∃ l : List Nat, l.Nodup ∧ l.length = n ∧ ∀ die, die ∈ l ↔ ∃ sl, hit die sl) ∧ d.tdu = s.dev.tdu)) ∧
  (∀ (q : Desc) (addr : W64) (s : State), DescRuns 0x2A q s.dev →
    let ends (c : Instr) (st : Nat) : Prop := Completes c s fun d => Completed q st [] s d ∧ d.tta.sett = s.dev.tta.sett ∧ d.tta.links = s.dev.tta.links ∧ d.tdu = s.dev.tdu
    (∀ g : GrantFetch, addr.toNat % 64 ≠ 0 ∨ q.length ≠ 160 → ends (.grantInstall q addr g) 3) ∧
    (addr.toNat % 64 = 0 → q.length = 160 → ends (.grantInstall q addr (.failed .poison)) 5 ∧ ends (.grantInstall q addr (.failed .denied)) 4 ∧ ends (.grantInstall q addr (.failed .timeout)) 6) ∧
    (∀ im : GrantImage, addr.toNat % 64 = 0 → q.length = 160 →
      let c : Instr := .grantInstall q addr (.grant im)
      let bs := im.bytes
      let flags := leAt bs 1 1
      let a := leAt bs 2 2
      let serial := leAt bs 28 4
      let now := s.dev.secondsA .tta
      let form : Prop := leAt bs 0 1 = 1 ∧ flags < 16 ∧ leAt bs 6 2 = 0 ∧ (∀ i, 32 ≤ i → i < 64 → leAt bs i 1 = 0)
      let signed : Prop := (flags % 4 = 0 ∧ im.holderSig = true) ∨ (flags % 4 ≠ 0 ∧ im.platformSig = true)
      let act (n : Nat) : Prop := s.dev.slotHolding a = some n ∧ s.dev.slotState n = 2
      let newer (n : Nat) : Prop := (s.dev.slotX n).minSerial ≤ serial
      let window : Prop := leAt bs 16 6 ≤ now ∧ now < leAt bs 22 6
      let bad (k : Nat) : Prop := RecorderRoom .tta s → Completes c s fun d => Completed q 4 [] s d ∧ Records .tta 0x6003 [a, k] s d ∧ d.tta.sett = s.dev.tta.sett ∧ d.tdu = s.dev.tdu
      let dies := (List.range 16).filter fun p => (leAt bs 4 2).testBit p && s.dev.dieEnabled p
      let live (p : Nat) : Nat := (s.dev.tta.sett.grants.filter fun x => decide (x.die = p ∧ now < x.grant.notAfter)).length
      let m : SettMsg := .grant a flags (BitVec.ofNat 64 (leAt bs 8 8)) (leAt bs 16 6) (leAt bs 22 6) serial
      (¬ form → bad 1) ∧ (form → ¬ signed → bad 2) ∧ (form → signed → (∀ n, ¬ act n) → bad 3) ∧
      (∀ n, form → signed → act n → ¬ newer n → bad 4) ∧ (∀ n, form → signed → act n → newer n → ¬ window → bad 5) ∧
      (∀ n, form → signed → act n → newer n → window → (∃ p ∈ dies, 8 ≤ live p) → ends c 9) ∧
      (∀ n, form → signed → act n → newer n → window → (∀ p ∈ dies, live p < 8) → RecorderRoom .tta s → Completes c s fun d => Completed q 0 [] s d ∧
        Records .tta 0x6002 [a, serial, leAt bs 4 2] s d ∧
        (∀ p ∈ dies, (∃ g ∈ d.tta.sett.grants, g.die = p ∧ g.grant.allot = a ∧ g.grant.serial = serial ∧ g.grant.flags = flags) ∧
          (s.dev.isUp (ttaEnd p) = true → (d.port (ttaEnd p)).queue = (s.dev.port (ttaEnd p)).queue ++ [queued 2 0 (.sett m)])) ∧
        (∀ p, p < 16 → p ∉ dies → d.port (ttaEnd p) = s.dev.port (ttaEnd p)) ∧ (d.slotX n).minSerial = (s.dev.slotX n).minSerial ∧ d.tdu = s.dev.tdu))) ∧
  (∀ (q : Desc) (min : BitVec 32) (s : State), DescRuns 0x2B q s.dev →
    let slot := descSlot q
    let a := s.dev.slotAllot slot
    let new := max (s.dev.slotX slot).minSerial min.toNat
    (s.dev.slotState slot ≠ 2 → Completes (.grantSerial q min) s fun d => Completed q 4 [] s d ∧ d.slotX slot = s.dev.slotX slot) ∧
    (s.dev.slotState slot = 2 → s.dev.cutFollower = true → Completes (.grantSerial q min) s fun d => Completed q 6 [] s d ∧ d.slotX slot = s.dev.slotX slot) ∧
    (s.dev.slotState slot = 2 → s.dev.twinState = 0 → s.dev.twinLinked → Completes (.grantSerial q min) s fun d => Ordered q a (.serial min.toNat) s d) ∧
    (s.dev.slotState slot = 2 → s.dev.ordersAlone → s.dev.cutFollower = false → Completes (.grantSerial q min) s fun d => Completed q 0 [(20, 4, new)] s d ∧
      (d.slotX slot) = { s.dev.slotX slot with minSerial := new } ∧ (∀ g, g ∈ d.tta.sett.grants ↔ g ∈ s.dev.tta.sett.grants ∧ (g.grant.allot = a → new ≤ g.grant.serial)) ∧
      (∀ p, p < 16 → s.dev.isUp (ttaEnd p) = true → (d.port (ttaEnd p)).queue = (s.dev.port (ttaEnd p)).queue ++ [queued 2 0 (.sett (.minSerial a new))]) ∧ d.tdu = s.dev.tdu)) ∧
  (∀ (q : Desc) (gid : BitVec 16) (die : BitVec 8) (mask : W64) (s : State), DescRuns 0x48 q s.dev →
    let c : Instr := .slotRoute q gid die mask
    let slot := descSlot q
    let ends (st : Nat) : Prop := Completes c s fun d => Completed q st [] s d ∧ d.tta.det = s.dev.tta.det ∧ d.tdu = s.dev.tdu
    let radio : Prop := s.dev.slotState slot = 2 ∧ s.dev.slotClass slot = 1
    let stamps (h : Nat) : Prop := s.dev.graphOf slot gid.toNat = some h ∧ ∃ g, s.dev.graph h = some g ∧ g.plan.stamp = true
    (¬ radio → ends 4) ∧ (radio → gid ≠ 0xFFFF → (∀ h, ¬ stamps h) → ends 0xA) ∧
    (radio → gid = 0xFFFF ∨ (∃ h, stamps h) → s.dev.dieEnabled die.toNat = false → ends 4) ∧
    (radio → gid = 0xFFFF ∨ (∃ h, stamps h) → s.dev.dieEnabled die.toNat = true → (s.dev.cutFollower = true → ends 6) ∧
      (s.dev.twinState = 0 → s.dev.twinLinked → Completes c s fun d => Ordered q (s.dev.slotAllot slot) (.route gid.toNat die.toNat mask) s d)) ∧
    (∀ t : Option Nat, radio → (gid = 0xFFFF ∧ t = none) ∨ (gid ≠ 0xFFFF ∧ ∃ h, stamps h ∧ t = some h) → s.dev.dieEnabled die.toNat = true → s.dev.ordersAlone → s.dev.cutFollower = false →
      (s.dev.tta.det.routes.map (·.1)).Nodup → Completes c s fun d => Completed q 0 [] s d ∧
        (∀ p, p < 64 → assocGet (die.toNat * 64 + p) d.tta.det.routes = if mask.getLsbD p = true then t else assocGet (die.toNat * 64 + p) s.dev.tta.det.routes) ∧
        (∀ k, k / 64 ≠ die.toNat → assocGet k d.tta.det.routes = assocGet k s.dev.tta.det.routes) ∧ d.tdu = s.dev.tdu))

/-- R264 to R273, R282, R284 to R286. A second REPLACE while one is pending is refused as check 9 (log 36), and a parked TTA as check 4 (R476). -/
def Obligations.GraphAdmission : Prop :=
  let others (h : Nat) (s : State) (d : Dev) : Prop := (∀ k, k ≠ h → d.graph k = s.dev.graph k) ∧ d.tdu = s.dev.tdu ∧ d.pins = s.dev.pins
  let refused (c : Instr) (q : Desc) (st n : Nat) (s : State) : Prop := RecorderRoom .tta s → Completable q s.dev → Completes c s fun d => Completed q st [] s d ∧
    d.get R.TTA_SCHED_STAT_REFUSED = min (s.dev.get R.TTA_SCHED_STAT_REFUSED + 1) 0xFFFF ∧ d.get R.TTA_SCHED_STAT_LAST_STATUS = st ∧
    Records .tta 0x3201 [descSlot q, st, n] s d ∧ d.tta.graphs = s.dev.tta.graphs ∧ d.tta.tiles = s.dev.tta.tiles ∧ d.tdu = s.dev.tdu
  (∀ (q : Desc) (addr : W64) (img : Fetch) (act : BitVec 48) (op : Nat) (c : Instr) (s : State),
    (op, c) ∈ [(0x30, .graphAdmit q addr img), (0x31, .graphReplace q addr img act)] → s.dev.unfenced q = true →
    let slot := descSlot q
    let len := q.length.toNat
    let full : Prop := s.dev.parked = true ∨ (op = 0x30 ∧ 1024 ≤ s.dev.tta.graphs.length) ∨ regionSize 4 < s.dev.plansUsed + len
    let pre : Prop := s.dev.headerCheck op q = none ∧ addr.toNat % 64 = 0 ∧ s.dev.slotState slot = 2 ∧ ¬ full
    (∀ st, s.dev.headerCheck op q = some st → refused c q st 1 s) ∧
    (s.dev.headerCheck op q = none → addr.toNat % 64 ≠ 0 → refused c q 3 2 s) ∧
    (s.dev.headerCheck op q = none → addr.toNat % 64 = 0 → s.dev.slotState slot ≠ 2 → refused c q 4 3 s) ∧
    (s.dev.headerCheck op q = none → addr.toNat % 64 = 0 → s.dev.slotState slot = 2 → full → refused c q 9 4 s) ∧
    (pre → (img = .poison → refused c q 5 5 s) ∧ (img = .denied → refused c q 4 5 s) ∧ (img = .timeout → refused c q 6 5 s)) ∧
    (∀ bs, pre → img = .data bs →
      let mine : Prop := leAt bs 4 2 = s.dev.slotAllot slot ∧ (leAt bs 1 1 % 2 = 1 → s.dev.slotClass slot = 1)
      let formed : Prop := imageOk bs len = true ∧ (op = 0x31 ↔ (s.dev.graphOf slot (leAt bs 6 2)).isSome = true)
      let plan := logicalPlan bs (s.dev.slotClass slot == 1) (s.dev.bit R.TTA_COMPAT_TREE_NAN)
      (¬ mine → refused c q 4 6 s) ∧ (mine → ¬ formed → refused c q 0xA 7 s) ∧
      (mine → formed → plan = .error false → refused c q 0xB 8 s) ∧ (mine → formed → plan = .error true → refused c q 9 9 s) ∧
      (∀ pl, mine → formed → plan = .ok pl → op = 0x30 → Completes c s fun d => ∃ h, h < 1024 ∧ s.dev.graph h = none ∧ (∀ k, k < h → s.dev.graph k ≠ none) ∧
        d.graph h = some { slot := slot, gid := leAt pl.image 6 2, plan := pl, admitQ := some q } ∧ d.get (R.TTA_GRAPH_VALID.at h) = 1 ∧ d.get (R.TTA_GRAPH_STATE.at h) = 0 ∧
        d.bit R.TTA_SCHED_STAT_BUSY = true ∧ d.get R.TTA_SCHED_STAT_RESIDENT = (s.dev.tta.graphs.length + 1) % 2 ^ 11 ∧ d.out = s.dev.out ∧ d.tta.tiles = s.dev.tta.tiles ∧ others h s d) ∧
      (∀ pl h g, mine → formed → plan = .ok pl → op = 0x31 → s.dev.graphOf slot (leAt pl.image 6 2) = some h → s.dev.graph h = some g →
        (g.replace ≠ none → refused c q 9 9 s) ∧
        (g.replace = none → Completes c s fun d => d.graph h = some { g with replace := some { plan := pl, actSec := act.toNat, q := q } } ∧
          d.get (R.TTA_GRAPH_REPLACING.at h) = 1 ∧ d.bit R.TTA_SCHED_STAT_BUSY = true ∧ d.out = s.dev.out ∧ d.tta.tiles = s.dev.tta.tiles ∧ others h s d)))) ∧
  (∀ (q : Desc) (gid : BitVec 16) (s : State), DescRuns 0x32 q s.dev →
    (s.dev.graphOf (descSlot q) gid.toNat = none → Completes (.graphRemove q gid) s fun d => Completed q 0xA [] s d ∧ d.tta.graphs = s.dev.tta.graphs ∧ d.tdu = s.dev.tdu) ∧
    (∀ h g, s.dev.graphOf (descSlot q) gid.toNat = some h → s.dev.graph h = some g →
      let now : Prop := g.state = 1 ∨ g.state = 4 ∨ (g.state = 2 ∧ g.run = none)
      (¬ now → Completes (.graphRemove q gid) s fun d => d.graph h = some { g with removeQ := some q } ∧ d.out = s.dev.out ∧ d.tta.regs = s.dev.tta.regs ∧ d.tta.tiles = s.dev.tta.tiles ∧ others h s d) ∧
      (now → g.pauseQ = none → (∀ r, g.replace = some r → Completable r.q s.dev ∧ r.q ≠ q) → RecorderRoom .tta s → Completes (.graphRemove q gid) s fun d =>
        d.graph h = none ∧ Out.writeBack q 0 [] ∈ d.out ∧ (∀ r, g.replace = some r → Out.writeBack r.q 6 [] ∈ d.out) ∧ Records .tta 0x3203 [g.slot, h] s d ∧
        (∀ t ∈ g.plan.allTiles, (d.tile t).use = none ∧ (d.tile t).task = none ∧ ∀ r : BitVec 5, (d.tile t).reg r = ⟨0, false⟩) ∧
        (g.plan.objs ≠ [] → ∀ o ∈ g.plan.allObjs, o < 65536 → d.get (R.TTA_SYNC_TYPE.at o) = 0 ∧ d.get (R.TTA_SYNC_VALUE.at o) = 0) ∧ d.get (R.TTA_GRAPH_VALID.at h) = 0 ∧
        (∀ k, k ≠ h → d.graph k = s.dev.graph k) ∧ d.tdu = s.dev.tdu))) ∧
  (∀ (h : Fin 1024) (tick : Nat) (s : State),
    let e := s.dev.advance .tta tick
    let c : Instr := .admissionDone h tick
    let busy := e.set R.TTA_SCHED_STAT_BUSY 0
    (s.dev.graph h.val = none → Completes c s fun d => d = e) ∧
    (∀ g q, s.dev.graph h.val = some g → g.state = 0 → g.admitQ = some q → g.removeQ = none → RecorderRoom .tta s → Completable q s.dev →
      (busy.placePlan g.slot g.plan = none → Completes c s fun d => Completed q 9 [] s d ∧ d.graph h.val = none ∧ d.get (R.TTA_GRAPH_VALID.at h.val) = 0 ∧
        Records .tta 0x3201 [descSlot q, 9, 9] s d ∧ d.get R.TTA_SCHED_STAT_REFUSED = min (s.dev.get R.TTA_SCHED_STAT_REFUSED + 1) 0xFFFF ∧ d.bit R.TTA_SCHED_STAT_BUSY = false ∧
        d.tta.tiles = s.dev.tta.tiles ∧ others h.val s d) ∧
      (∀ pl e', busy.placePlan g.slot g.plan = some (pl, e') → pl.phys.length = g.plan.p ∧ (pl.phys ++ pl.shadows).Nodup ∧
        (∀ t ∈ pl.phys ++ pl.shadows, s.dev.tileFree t = true ∧ t / 16 ∈ (s.dev.slotX g.slot).clusters) ∧
        Completes c s fun d => Completed q 0 [(24, 2, h.val), (28, 4, pl.planNs)] s d ∧
        Records .tta 0x3200 [g.slot, h.val, pl.p + pl.shadows.length, pl.planNs] s d ∧ d.bit R.TTA_SCHED_STAT_BUSY = false ∧
        d.get R.TTA_SCHED_STAT_ADMITTED = min (s.dev.get R.TTA_SCHED_STAT_ADMITTED + 1) 0xFFFF ∧ d.get R.TTA_SCHED_STAT_LAST_STATUS = 0 ∧
        (∃ g', d.graph h.val = some g' ∧ g'.state = (if pl.stamp = true then 2 else 1) ∧ g'.ownCommit = true ∧ g'.admitQ = none ∧ g'.plan.phys = pl.phys ∧ g'.plan.shadows = pl.shadows ∧
          g'.plan.objs = pl.objs ∧ d.get (R.TTA_GRAPH_STATE.at h.val) = g'.state ∧
          (pl.stamp = false → s.dev.slotClass g.slot ≠ 1 → s.dev.twinState = 1 ∨ s.dev.twinState = 2 → g.firstRun = none →
            g'.primary = true ∧ ∃ f, g'.firstRun = some f ∧ g'.nextEpoch = f ∧ e.ttaNs + 1000000 ≤ f * 250000 ∧ f % max 1 pl.q = 0)) ∧
        (∀ i t, pl.phys[i]? = some t → (d.tile t).use = some ⟨h.val, i, false⟩ ∧ (d.tile t).task = none) ∧
        (∀ i t, pl.shadows[i]? = some t → (d.tile t).use = some ⟨h.val, i, true⟩) ∧ others h.val s d)) ∧
    (∀ g r, s.dev.graph h.val = some g → g.state ≠ 0 → g.replace = some r → (r.own = true → Completes c s fun d => d = e) ∧
      (r.own = false → busy.placePlan g.slot r.plan = none → RecorderRoom .tta s → Completable r.q s.dev → Completes c s fun d => Completed r.q 9 [] s d ∧
        d.graph h.val = some { g with replace := none } ∧ Records .tta 0x3201 [descSlot r.q, 9, 9] s d ∧ d.tta.tiles = s.dev.tta.tiles ∧ others h.val s d) ∧
      (∀ pl e', r.own = false → busy.placePlan g.slot r.plan = some (pl, e') → Completes c s fun d => (∃ r', d.graph h.val = some { g with replace := some r' } ∧ r'.own = true ∧
          r'.plan.phys = pl.phys ∧ r'.q = r.q ∧ r'.actSec = r.actSec) ∧ (∀ t ∈ pl.phys ++ pl.shadows, (d.tile t).use ≠ none) ∧ d.bit R.TTA_SCHED_STAT_BUSY = false ∧ others h.val s d)) ∧
    (∀ g, s.dev.graph h.val = some g → (g.replace = none → Completes (.replaceTimeout h tick) s fun d => d = e) ∧
      (∀ r, g.replace = some r → (e.ttaNs < (r.actSec + 1) * 10 ^ 9 → Completes (.replaceTimeout h tick) s fun d => d = e) ∧
        ((r.actSec + 1) * 10 ^ 9 ≤ e.ttaNs → Completable r.q s.dev → Completes (.replaceTimeout h tick) s fun d => d.graph h.val = some { g with replace := none } ∧
          Completed r.q 6 [] s d ∧ d.get (R.TTA_GRAPH_REPLACING.at h.val) = 0 ∧ (r.own = true → ∀ t ∈ r.plan.allTiles, (d.tile t).use = none) ∧
          (r.own = false → d.tta.tiles = s.dev.tta.tiles) ∧ others h.val s d))) ∧
    (s.dev.graph h.val = none → Completes (.replaceTimeout h tick) s fun d => d = e))

/-- R264, R286 to R289. A state without a row gives DENIED, the model's choice (log 38).
R262, R269, R270, R276, R279 to R284, R383, R386 to R388. -/
def Obligations.GraphRunsAndSaves : Prop :=
  (
  let others (h : Nat) (s : State) (d : Dev) : Prop := (∀ k, k ≠ h → d.graph k = s.dev.graph k) ∧ d.tdu = s.dev.tdu ∧ d.pins = s.dev.pins
  (∀ (q : Desc) (gid : BitVec 16) (skip : Bool) (op : Nat) (c : Instr) (s : State),
    (op, c) ∈ [(0x33, .graphPause q gid), (0x34, .graphResume q gid skip), (0x35, .graphSave q gid), (0x36, .graphRestore q gid)] → DescRuns op q s.dev →
    let ends (st : Nat) (wb : List (Nat × Nat × Nat)) : Prop := Completes c s fun d => Completed q st wb s d ∧ d.tta.graphs = s.dev.tta.graphs ∧ d.tta.tiles = s.dev.tta.tiles ∧ d.tdu = s.dev.tdu
    (s.dev.graphOf (descSlot q) gid.toNat = none → ends 0xA []) ∧
    (∀ h g, s.dev.graphOf (descSlot q) gid.toNat = some h → s.dev.graph h = some g →
      let size := 256 + 8 * g.plan.allObjs.length + 67584 * g.plan.allTiles.length
      (op = 0x33 ∨ op = 0x35 →
        (g.state = 2 → Completes c s fun d => d.graph h = some { g with state := 3, pauseQ := some (op, q) } ∧ d.get (R.TTA_GRAPH_STATE.at h) = 3 ∧
          (∀ t ∈ g.plan.allTiles, d.tile t = { s.dev.tile t with stopped := true }) ∧ (∀ t, t ∉ g.plan.allTiles → d.tile t = s.dev.tile t) ∧
          (s.dev.twinLinked → d.out = s.dev.out ∧ ∃ f ∈ (d.port (.tta 16)).queue, ∃ v, f.payload = .twin v 0 (.role (.pause (s.dev.slotAllot g.slot) gid.toNat))) ∧ others h s d) ∧
        (g.state = 3 → g.pauseQ = none → Completes c s fun d => d.graph h = some { g with pauseQ := some (op, q) } ∧ d.out = s.dev.out ∧ d.tta.tiles = s.dev.tta.tiles ∧ others h s d) ∧
        (g.state = 0 ∨ g.state = 1 ∨ (g.state = 3 ∧ g.pauseQ ≠ none) → ends 4 [])) ∧
      (op = 0x33 → g.state = 4 → ends 0 []) ∧
      (op = 0x35 → g.state = 4 → Completes c s fun d => Completed q 0 [(24, 8, size)] s d ∧ (∃ sv, d.graph h = some { g with saved := some sv } ∧ sv.image = g.plan.image ∧
        sv.storeGen = s.dev.storeGen g.slot ∧ sv.tiles = g.plan.allTiles.map (fun t => s.dev.tile t) ∧ sv.cur = g.run ∧ (g.run = none → sv.run = g.runNo ∧ sv.epoch = g.nextEpoch ∧ sv.boundary = true)) ∧
        d.tta.tiles = s.dev.tta.tiles ∧ others h s d) ∧
      (op = 0x34 → g.state ≠ 4 ∨ g.cutOff = true → ends 4 []) ∧
      (op = 0x34 → g.state = 4 → g.cutOff = false →
        let held : Prop := s.dev.logHolds g = true ∨ g.plan.stamp = true
        let next := if skip = true ∧ g.plan.stamp = false then max g.nextEpoch (epochAfter (s.dev.ttaNs + 1) g.plan.q) else g.nextEpoch
        (skip = false → ¬ held → ends 6 []) ∧
        (skip = true ∨ held → RecorderRoom .tta s → Completes c s fun d => Completed q 0 [] s d ∧
          d.graph h = some { g with state := 2, nextEpoch := next } ∧ d.get (R.TTA_GRAPH_STATE.at h) = 2 ∧
          (∀ t ∈ g.plan.allTiles, d.tile t = { s.dev.tile t with stopped := false }) ∧ (∀ t, t ∉ g.plan.allTiles → d.tile t = s.dev.tile t) ∧
          Records .tta 0x3205 [g.slot, h, (next - g.nextEpoch) / max 1 g.plan.q] s d ∧ others h s d)) ∧
      (op = 0x36 → (g.state ≠ 4 → ends 4 []) ∧ (g.state = 4 → g.saved = none → ends 0xA []) ∧
        (∀ sv, g.state = 4 → g.saved = some sv → (sv.storeGen ≠ s.dev.storeGen g.slot → ends 0xC []) ∧
          (sv.storeGen = s.dev.storeGen g.slot → sv.image ≠ g.plan.image → ends 0xA []) ∧
          (sv.storeGen = s.dev.storeGen g.slot → sv.image = g.plan.image → Completes c s fun d => Completed q 0 [] s d ∧
            d.graph h = some { g with run := sv.cur, runNo := if sv.boundary = true then sv.run else sv.run + 1, nextEpoch := if sv.boundary = true then sv.epoch else sv.epoch + g.plan.q } ∧
            (g.plan.allTiles.Nodup → ∀ (i t : Nat) (x : Tile), g.plan.allTiles[i]? = some t → sv.tiles[i]? = some x → (∀ r : BitVec 5, (d.tile t).reg r = x.reg r ∧ (d.tile t).accum r = x.accum r) ∧
              (d.tile t).stopped = true ∧ (d.tile t).pc = x.pc ∧ (d.tile t).entry = x.entry ∧ (d.tile t).task = x.task) ∧ others h s d))))) ∧
  (∀ (h : Fin 1024) (s : State),
    (s.dev.graph h.val = none → Completes (.pauseDone h) s fun d => d = s.dev) ∧
    (∀ g, s.dev.graph h.val = some g →
      let over_ : Prop := g.state = 3 ∧ ∀ t ∈ g.plan.phys, (s.dev.tile t).xfers = []
      (¬ over_ → Completes (.pauseDone h) s fun d => d = s.dev) ∧
      (over_ → g.removeQ = none → RecorderRoom .tta s → (∀ op q, g.pauseQ = some (op, q) → Completable q s.dev) → Completes (.pauseDone h) s fun d =>
        (∃ g', d.graph h.val = some g' ∧ g'.state = 4 ∧ g'.pauseQ = none ∧ g'.plan = g.plan ∧ g'.run = g.run ∧ g'.nextEpoch = g.nextEpoch ∧
          (∀ q, g.pauseQ = some (0x35, q) → ∃ sv, g'.saved = some sv ∧ sv.image = g.plan.image ∧ sv.tiles = g.plan.allTiles.map (fun t => s.dev.tile t)) ∧
          ((∀ q, g.pauseQ ≠ some (0x35, q)) → g'.saved = g.saved)) ∧
        Records .tta 0x3204 [g.slot, h.val] s d ∧
        (∀ q, g.pauseQ = some (0x33, q) → Completed q 0 [] s d) ∧
        (∀ q, g.pauseQ = some (0x35, q) → Completed q 0 [(24, 8, 256 + 8 * g.plan.allObjs.length + 67584 * g.plan.allTiles.length)] s d) ∧
        d.tta.tiles = s.dev.tta.tiles ∧ others h.val s d)))) ∧
  (
  let others (h : Nat) (s : State) (d : Dev) : Prop := (∀ k, k ≠ h → d.graph k = s.dev.graph k) ∧ d.tdu = s.dev.tdu ∧ d.pins = s.dev.pins
  (∀ (h : Fin 1024) (tick : Nat) (s : State) (g : Graph),
    let e := s.dev.advance .tta tick
    let c : Instr := .runStart h tick
    let n := g.nextEpoch
    let fresh (ep no : Nat) (d : Dev) : Prop :=
      (∀ t ∈ g.plan.allTiles, (d.tile t).word 8184 = ⟨BitVec.ofNat 64 (ep / 4000), false⟩ ∧ (d.tile t).word 8185 = ⟨BitVec.ofNat 64 (ep % 4000 + g.plan.q * 65536), false⟩ ∧
        (d.tile t).word 8186 = ⟨BitVec.ofNat 64 no, false⟩ ∧ (d.tile t).word 8187 = ⟨BitVec.ofNat 64 (indexBase h.val), false⟩ ∧ (d.tile t).stopped = false) ∧
      (s.dev.get (R.TTA_SYNC_TYPE.at g.plan.runObj) = 2 → s.dev.get (R.TTA_SYNC_TYPE.at g.plan.commitObj) = 3 →
        (∀ o ∈ g.plan.allObjs, s.dev.get (R.TTA_SYNC_TYPE.at o) = 1 → d.get (R.TTA_SYNC_VALUE.at o) = 0) ∧
        d.get (R.TTA_SYNC_VALUE.at g.plan.runObj) = (s.dev.get (R.TTA_SYNC_VALUE.at g.plan.runObj) + 1) % 2 ^ 32 ∧ d.get (R.TTA_SYNC_VALUE.at g.plan.commitObj) = 0) ∧ others h.val s d
    s.dev.graph h.val = some g → g.testTiles = [] →
    let idle : Prop := g.state = 2 ∧ g.run = none
    let free : Prop := idle ∧ g.redo = [] ∧ s.dev.slotState g.slot < 3
    let ready : Prop := free ∧ g.plan.stamp = false ∧ (g.primary = true ∨ s.dev.slotClass g.slot = 1) ∧ (∃ l ∈ s.dev.tta.ing.log, l.epoch = n) ∧ s.dev.jobHolds g n = false
    (¬ idle → Completes c s fun d => d = e) ∧
    (idle → g.redo = [] → 3 ≤ s.dev.slotState g.slot → Completes c s fun d => d = e) ∧
    (free → g.plan.stamp = true → g.stamps = [] → Completes c s fun d => d = e) ∧
    (free → g.plan.stamp = false → ¬ ready → Completes c s fun d => d = e) ∧
    (ready → 2 ^ 28 < s.dev.logBytes → g.logHeld = true → Completes c s fun d => d = e) ∧
    (ready → 2 ^ 28 < s.dev.logBytes → g.logHeld = false → Completes c s fun d => d.graph h.val = some { g with logHeld := true } ∧
      d.get R.TTA_CHK_LOG_HOLDS = min (s.dev.get R.TTA_CHK_LOG_HOLDS + 1) (2 ^ R.TTA_CHK_LOG_HOLDS.width - 1) ∧ d.tta.tiles = s.dev.tta.tiles ∧ others h.val s d) ∧
    (ready → s.dev.logBytes ≤ 2 ^ 28 → (∀ r b, g.replace = some r → r.at_ = some b → n < b + g.plan.q) → Completes c s fun d => (∃ g' r, d.graph h.val = some g' ∧ g'.run = some r ∧
      r.no = g.runNo ∧ r.epoch = n ∧ r.replay = 0 ∧ r.reexec = false ∧ r.startNs = e.ttaNs ∧ g'.nextEpoch = n + g.plan.q ∧ g'.runNo = g.runNo + 1 ∧ g'.state = 2 ∧ g'.plan = g.plan) ∧
      fresh n g.runNo d ∧ d.out = s.dev.out) ∧
    (∀ r b, ready → s.dev.logBytes ≤ 2 ^ 28 → g.replace = some r → r.at_ = some b → b + g.plan.q ≤ n → RecorderRoom .tta s → Completable r.q s.dev → Completes c s fun d =>
      (∃ g', d.graph h.val = some g' ∧ g'.plan = r.plan ∧ g'.replace = none ∧ g'.runNo = 0 ∧ g'.run = none ∧ g'.state = 2) ∧ Records .tta 0x3202 [g.slot, h.val] s d ∧
      Completed r.q 0 [(24, 2, h.val), (28, 4, r.plan.planNs)] s d ∧ (r.plan.phys.Nodup → (∀ t ∈ r.plan.phys, t ∉ r.plan.shadows) → ∀ i t, r.plan.phys[i]? = some t → (d.tile t).use = some ⟨h.val, i, false⟩) ∧
      others h.val s d) ∧
    (∀ no ep rep re rest, idle → g.redo = (no, ep, rep, re) :: rest → Completes c s fun d => (∃ g' r, d.graph h.val = some g' ∧ g'.run = some r ∧ r.no = no ∧ r.epoch = ep ∧ r.replay = rep ∧
      r.reexec = re ∧ g'.redo = rest ∧ g'.nextEpoch = n ∧ g'.runNo = g.runNo) ∧ fresh ep no d ∧ d.out = s.dev.out) ∧
    (∀ ws rest, free → g.plan.stamp = true → g.stamps = ws :: rest → Completes c s fun d => (∃ g' r, d.graph h.val = some g' ∧ g'.run = some r ∧ r.no = g.runNo ∧ r.stampWords = ws ∧
      g'.stamps = rest ∧ g'.runNo = g.runNo + 1) ∧ (∀ t ∈ g.plan.allTiles, ∀ i w, i < 4 → ws[i]? = some w → (d.tile t).word (8188 + i) = ⟨w, false⟩) ∧ others h.val s d ∧ d.out = s.dev.out)) ∧
  (∀ (h : Fin 1024) (tick : Nat) (s : State), s.dev.graph h.val = none → ∀ c ∈ [Instr.runStart h tick, .runEnd h tick], Completes c s fun d => d = s.dev.advance .tta tick) ∧
  (∀ (t : Fin 10240) (s : State),
    let x := s.dev.tile t.val
    let copies (i h : Nat) (g : Graph) : Prop := s.dev.listEntry t.val = some (.copy i) ∧ s.dev.tileGraph t.val = some (h, g) ∧ x.task = none ∧ x.stopped = false ∧ s.dev.isShadow t.val = false
    ((∀ i h g, ¬ copies i h g) → Completes (.edgeCopy t) s fun d => d = s.dev) ∧
    (∀ i h g ed, copies i h g → g.plan.edges[i]? = some ed →
      let dst := g.plan.phys.getD (g.plan.place.getD ed.dst 0) 0
      let at_ := g.plan.winAt.getD ed.dst 0 + ed.dstOff
      let o := (assocGet ed.dst g.plan.edgeObjs).getD 0
      Completes (.edgeCopy t) s fun d => (∀ k, k < ed.words → (d.tile dst).word (at_ + k) = x.word (g.plan.winAt.getD ed.src 0 + ed.srcOff + k)) ∧
        (∀ a, a < at_ ∨ at_ + ed.words ≤ a → (d.tile dst).word a = (s.dev.tile dst).word a) ∧ x.entry < (d.tile t.val).entry ∧
        (s.dev.get (R.TTA_SYNC_TYPE.at o) = 1 → d.get (R.TTA_SYNC_VALUE.at o) = min (s.dev.get (R.TTA_SYNC_VALUE.at o) + 1) (2 ^ 32 - 1)) ∧
        RegsKept .tta [(R.TTA_SYNC_VALUE.at o).addr] s d ∧ (∀ u, u ≠ t.val → u ≠ dst → s.dev.shadowOf dst ≠ some u → d.tile u = s.dev.tile u) ∧
        d.tta.graphs = s.dev.tta.graphs ∧ d.out = s.dev.out ∧ d.tdu = s.dev.tdu)) ∧
  (∀ (h : Fin 1024) (tick : Nat) (s : State) (g : Graph) (r : Run),
    let e := s.dev.advance .tta tick
    let c : Instr := .runEnd h tick
    let over_ : Prop := ∀ t ∈ g.plan.allTiles, s.dev.listEntry t = some .endList ∧ (s.dev.tile t).task = none ∧ (s.dev.tile t).xfers = []
    let void : Prop := s.dev.commitMismatch g.plan.commitObj ≠ 0
    s.dev.graph h.val = some g →
    (g.run = none → Completes c s fun d => d = e) ∧ (g.run = some r → ¬ over_ → Completes c s fun d => d = e) ∧
    (g.run = some r → over_ → r.reexec = true → g.removeQ = none → Completes c s fun d => d.graph h.val = some { g with run := none, redoDone := g.redoDone + 1 } ∧ others h.val s d ∧
      d.tta.tiles = s.dev.tta.tiles ∧ d.out = s.dev.out) ∧
    (g.run = some r → over_ → r.reexec = false → g.plan.stamp = false → r.job = none → r.poisoned = false → g.redoRun = none → g.removeQ = none → g.past = [] → g.held = [] → g.ckpts = [] →
      (¬ void → g.ckptDue r.epoch = false → Completes c s fun d => d.graph h.val = some { g with run := none, posted := max g.posted r.epoch } ∧
        s.dev.commitPassed g.plan.commitObj = d.commitPassed g.plan.commitObj ∧ d.commitState g.plan.commitObj = 1 ∧ RegsKept .tta [(R.TTA_SYNC_VALUE.at g.plan.commitObj).addr] s d ∧
        d.tta.tiles = s.dev.tta.tiles ∧ d.out = s.dev.out ∧ others h.val s d) ∧
      (void → r.replay < 255 → RecorderRoom .tta s → Completes c s fun d => Recorded .tta 0x4021 [g.slot, h.val, r.no, r.replay] s d ∧
        d.get R.TTA_CHK_STAT_RUNS_VOIDED = min (s.dev.get R.TTA_CHK_STAT_RUNS_VOIDED + 1) (2 ^ R.TTA_CHK_STAT_RUNS_VOIDED.width - 1) ∧
        (∃ g', d.graph h.val = some g' ∧ g'.run = none ∧ g'.past = [] ∧ g'.redoRun = some (r.no, e.ttaNs) ∧
          g'.redo = g.ran.map fun x => (x.1, x.2.1, if x.1 < r.no then x.2.2 else x.2.2 + 1, decide (x.1 < r.no))) ∧ d.out = s.dev.out ∧ others h.val s d))))

/-- R299, R302 to R305. -/
def Obligations.Tables : Prop :=
  let others (s : State) (d : Dev) : Prop := d.tta.graphs = s.dev.tta.graphs ∧ d.tta.tiles = s.dev.tta.tiles ∧ d.tta.slotsX = s.dev.tta.slotsX ∧ d.tdu = s.dev.tdu ∧ d.pins = s.dev.pins
  let fails (c : Instr) (q : Desc) (tid st check : Nat) (s : State) : Prop := RecorderRoom .tta s → Completable q s.dev → Completes c s fun d => Completed q st [] s d ∧
    d.get R.TTA_TAB_SUM_REFUSED = min (s.dev.get R.TTA_TAB_SUM_REFUSED + 1) 0xFFFF ∧ Records .tta 0x3302 [descSlot q, tid, st, check] s d ∧ d.tta.tables = s.dev.tta.tables ∧ others s d
  let hold (q : Desc) (op : Nat) (t : Table) (req : Nat) (s : State) (d : Dev) : Prop :=
    d.table (descSlot q) t.tid = some { t with q := some (op, q), asked := some (req, op == 0x3B) } ∧ Ordered q (s.dev.slotAllot (descSlot q)) (if op = 0x3A then .commit t.tid req else .delete t.tid req) s d
  let whole (q : Desc) (s : State) : Prop := s.dev.unfenced q = true ∧ Completable q s.dev
  (∀ (q : Desc) (off rows : BitVec 32) (rw : BitVec 16) (kind entity : BitVec 8) (s : State), whole q s →
    let c : Instr := .tableCreate q off rows rw kind entity
    let slot := descSlot q
    let pre : Prop := s.dev.headerCheck 0x38 q = none
    let aligned : Prop := off.toNat % 4096 = 0 ∧ rw.toNat % 4 = 0
    let wb := (64 + 8 * rw.toNat * rows.toNat + 4095) / 4096 * 4096
    let shape : Prop := kind.toNat < 2 ∧ entity.toNat < 5 ∧ (kind = 0 ∨ entity = 4) ∧ rows.toNat ≤ (if entity = 0 then 16 else if entity = 1 then 1048576 else 65536) ∧ 4 ≤ rw.toNat ∧
      rw.toNat ≤ (if kind = 0 then 4096 else 16384)
    let fits : Prop := off.toNat + 2 * wb ≤ areaSize 2 ∧ (∀ t ∈ s.dev.tta.tables, t.slot = slot → off.toNat + 2 * wb ≤ t.offset ∨ t.offset + 2 * t.wb ≤ off.toNat) ∧
      s.dev.tta.tables.length < 4096 ∧ (s.dev.tta.tables.filter fun t => decide (t.slot = slot)).length < 256
    let new (tid : Nat) : Table := { slot := slot, tid := tid, offset := off.toNat, rows := rows.toNat, rowWords := rw.toNat, kind := kind.toNat, entity := entity.toNat, active := { storeGen := s.dev.storeGen slot, hdrGen := s.dev.storeGen slot }, shadow := { storeGen := s.dev.storeGen slot, hdrGen := s.dev.storeGen slot } }
    let op (tid : Nat) : OrdOp := .create off.toNat rows.toNat rw.toNat kind.toNat entity.toNat tid
    let made (tid : Nat) (d : Dev) : Prop := tid < 256 ∧ (∀ t ∈ s.dev.tta.tables, ¬ (t.slot = slot ∧ t.tid = tid)) ∧ (∀ i, i < tid → ∃ t ∈ s.dev.tta.tables, t.slot = slot ∧ t.tid = i) ∧
      d.tta.tables = s.dev.tta.tables ++ [new tid] ∧ d.get R.TTA_TAB_SUM_TABLES = (s.dev.tta.tables.length + 1) % 2 ^ 13 ∧ Records .tta 0x3300 [slot, tid, rows.toNat, rw.toNat] s d ∧ others s d
    (∀ st, s.dev.headerCheck 0x38 q = some st → fails c q 0 st 1 s) ∧ (pre → ¬ aligned → fails c q 0 3 2 s) ∧ (pre → aligned → s.dev.slotState slot ≠ 2 → fails c q 0 4 3 s) ∧
    (pre → aligned → s.dev.slotState slot = 2 → ¬ (shape ∧ fits) → fails c q 0 9 4 s) ∧
    (pre → aligned → s.dev.slotState slot = 2 → shape → fits → s.dev.cutFollower = true → fails c q 0 6 6 s) ∧
    (pre → aligned → s.dev.slotState slot = 2 → shape → fits →
      (s.dev.ordersAlone → RecorderRoom .tta s → Completes c s fun d => ∃ tid, made tid d ∧ Completed q 0 [(28, 1, tid)] s d) ∧
      (s.dev.twinState = 0 → s.dev.twinLinked → s.dev.leads = true → RecorderRoom .tta s → Completes c s fun d => ∃ tid, made tid d ∧ Ordered q (s.dev.slotAllot slot) (op tid) s d) ∧
      (s.dev.twinState = 0 → s.dev.twinLinked → s.dev.leads = false → Completes c s fun d => Ordered q (s.dev.slotAllot slot) (op 0) s d ∧ d.tta.tables = s.dev.tta.tables ∧ others s d))) ∧
  (∀ (q : Desc) (tid : BitVec 8) (first : BitVec 32) (addr : W64) (data : Fetch) (s : State), whole q s →
    let c : Instr := .tableWrite q tid first addr data
    let slot := descSlot q
    let len := q.length.toNat
    let found := s.dev.table slot tid.toNat
    let aligned : Prop := addr.toNat % 64 = 0 ∧ ∀ t, found = some t → 0 < t.rowWords → len % (8 * t.rowWords) = 0
    (∀ st, s.dev.headerCheck 0x39 q = some st → fails c q tid.toNat st 1 s) ∧ (s.dev.headerCheck 0x39 q = none → ¬ aligned → fails c q tid.toNat 3 2 s) ∧
    (s.dev.headerCheck 0x39 q = none → aligned → found = none ∨ s.dev.slotState slot ≠ 2 → fails c q tid.toNat 4 3 s) ∧
    (∀ t, s.dev.headerCheck 0x39 q = none → aligned → found = some t → s.dev.slotState slot = 2 →
      let busy : Prop := t.rows < first.toNat + len / (8 * t.rowWords) ∨ t.retained ≠ none ∨ t.due ≠ none ∨ t.asked ≠ none
      (busy → fails c q tid.toNat 9 4 s) ∧
      (¬ busy → (data = .poison → fails c q tid.toNat 5 5 s) ∧ (data = .denied → fails c q tid.toNat 4 5 s) ∧ (data = .timeout → fails c q tid.toNat 6 5 s)) ∧
      (∀ bs, ¬ busy → data = .data bs → s.dev.cutFollower = true → fails c q tid.toNat 6 6 s) ∧
      (∀ bs, ¬ busy → data = .data bs → bs.length = len → 0 < t.rowWords →
        let written (d : Dev) : Prop := ∃ t', d.table slot tid.toNat = some t' ∧ t' = { t with shadow := t'.shadow } ∧
          (∀ i, i < len / 8 → t'.word t'.shadow (8 + first.toNat * t.rowWords + i) = BitVec.ofNat 64 (leAt bs (8 * i) 8) ∧
            t'.wordGen t'.shadow (8 + first.toNat * t.rowWords + i) = s.dev.storeGen slot) ∧
          (∀ k, 8 ≤ k → k < 8 + first.toNat * t.rowWords ∨ 8 + first.toNat * t.rowWords + len / 8 ≤ k → t'.word t'.shadow k = t.word t.shadow k)
        (s.dev.ordersAlone → t.shadow.rowGens = [] ∨ t.shadow.storeGen ≠ s.dev.storeGen slot → Completes c s fun d => written d ∧ Completed q 0 [] s d ∧ others s d) ∧
        (s.dev.twinState = 0 → s.dev.twinLinked → Completes c s fun d => Ordered q (s.dev.slotAllot slot) (.write tid.toNat first.toNat bs) s d ∧ others s d ∧
          (s.dev.leads = false → d.tta.tables = s.dev.tta.tables)))) ) ∧
  (∀ (q : Desc) (tid : BitVec 8) (sec : BitVec 48) (idx : BitVec 16) (op : Nat) (c : Instr) (s : State), whole q s →
    (op, c) ∈ [(0x3A, .tableCommit q tid sec idx), (0x3B, .tableDelete q tid sec idx)] →
    let slot := descSlot q
    let req := sec.toNat * 4000 + idx.toNat
    (∀ st, s.dev.headerCheck op q = some st → fails c q tid.toNat st 1 s) ∧
    (s.dev.headerCheck op q = none → s.dev.table slot tid.toNat = none ∨ s.dev.slotState slot ≠ 2 → fails c q tid.toNat 4 3 s) ∧
    (∀ t, s.dev.headerCheck op q = none → s.dev.table slot tid.toNat = some t → s.dev.slotState slot = 2 →
      let busy : Prop := t.retained ≠ none ∨ t.due ≠ none ∨ t.asked ≠ none
      let b := max req ((s.dev.ttaNs + 1000000 + 249999) / 250000)
      (busy → fails c q tid.toNat 9 4 s) ∧ (¬ busy → s.dev.cutFollower = true → fails c q tid.toNat 6 6 s) ∧
      (¬ busy → s.dev.ordersAlone → Completes c s fun d => d.table slot tid.toNat = some { t with due := some (b, op == 0x3B), asked := none, q := none } ∧
        Completed q 0 ([(20, 6, b / 4000), (26, 2, b % 4000)] ++ (if op = 0x3A then [(28, 4, t.active.gen + 1)] else [])) s d ∧ others s d) ∧
      (¬ busy → s.dev.twinState = 0 → s.dev.twinLinked → Completes c s fun d => hold q op t req s d ∧ others s d))) ∧
  (∀ (slot : Fin 256) (tid : BitVec 8) (tick : Nat) (s : State),
    let e := s.dev.advance .tta tick
    (∀ t ns, s.dev.table slot.val tid.toNat = some t → t.retained = some ns → ns ≤ e.ttaNs → Completes (.tableRetainExpire slot tid tick) s fun d =>
      d.table slot.val tid.toNat = some { t with retained := none, shadow := t.active } ∧ others s d ∧ d.tta.regs = s.dev.tta.regs ∧ d.out = s.dev.out) ∧
    ((∀ t ns, s.dev.table slot.val tid.toNat = some t → t.retained = some ns → e.ttaNs < ns) → Completes (.tableRetainExpire slot tid tick) s fun d => d = e) ∧
    let over_ (t : Table) : Prop := t.slot = slot.val ∧ t.tid = tid.toNat ∧ ∃ ns, t.gone = some ns ∧ ns ≤ e.ttaNs
    ((∀ t ∈ s.dev.tta.tables, ¬ over_ t) → Completes (.tableWindowFree slot tid tick) s fun d => d = e) ∧
    ((∃ t ∈ s.dev.tta.tables, over_ t) → RecorderRoom .tta s → Completes (.tableWindowFree slot tid tick) s fun d => (∀ t, t ∈ d.tta.tables ↔ t ∈ s.dev.tta.tables ∧ ¬ over_ t) ∧
      d.get R.TTA_TAB_SUM_TABLES = d.tta.tables.length % 2 ^ 13 ∧ Recorded .tta 0x3303 [slot.val, tid.toNat] s d ∧ others s d ∧ d.out = s.dev.out)) ∧
  (∀ (tick : Nat) (s : State) (t : Table) (b : Nat) (del : Bool),
    let e := s.dev.advance .tta tick
    let n := e.ttaNs / 250000
    e.timeValid .tta = true → s.dev.tta.ing.boundary < n → s.dev.tta.graphs = [] → s.dev.tta.retireDue = [] → s.dev.tta.slotsX = [] → s.dev.tta.tables = [t] → t.gone = none →
      t.due = some (b, del) →
      (n < b → Completes (.ingestEpochBoundary tick) s fun d => d.tta.tables = [t]) ∧
      (b ≤ n → del = true → Completes (.ingestEpochBoundary tick) s fun d => d.tta.tables = [{ t with due := none, gone := some (b * 250000 + 10 ^ 10) }]) ∧
      (b ≤ n → del = false → RecorderRoom .tta s → Completes (.ingestEpochBoundary tick) s fun d => d.tta.tables = [{ t with due := none, since := b, retained := some (b * 250000 + 10 ^ 10), active := { t.shadow with gen := t.active.gen + 1, act := b, hdrGen := s.dev.storeGen t.slot }, shadow := t.active }] ∧
        d.get R.TTA_TAB_SUM_COMMITS = min (s.dev.get R.TTA_TAB_SUM_COMMITS + 1) 0xFFFF ∧
        Records .tta 0x3301 [t.slot, t.tid, t.active.gen + 1, b / 4000 % 2 ^ 32, b % 4000] s d))

/-- R310 to R317, R322 to R329, for packets whose payload is one segment. -/
def Obligations.WarrenPackets : Prop :=
  let others (s : State) (d : Dev) : Prop := d.tdu = s.dev.tdu ∧ d.pins = s.dev.pins
  let quiet (s : State) (d : Dev) : Prop := others s d ∧ d.tta.tiles = s.dev.tta.tiles ∧ d.tta.graphs = s.dev.tta.graphs ∧ d.tta.hist = s.dev.tta.hist
  let bump (f : Fld) (mx : Nat) (s : State) (d : Dev) : Prop := d.get f = min (s.dev.get f + 1) mx
  let whole (h : WrnHdr) (seg : List Byte) (ws : List TWord) : Prop := h.segCnt = 1 ∧ h.segIdx = 0 ∧ ws = payloadWords h.length.toNat seg
  (∀ (h : WrnHdr) (b : BstHdr) (m : BudgetMsg) (a : PktAuth) (seg : List Byte) (tick allot sender v : Nat) (c : Instr) (e : Dev) (s : State),
    let now := s.dev.advance .tta tick
    (c, e, allot, sender, v) ∈ [(.contrib h a seg tick, now, h.allot.toNat, h.sender.toNat, h.version.toNat), (.result h a seg tick, now, h.allot.toNat, h.sender.toNat, h.version.toNat),
      (Instr.copy h a seg, s.dev, h.allot.toNat, h.sender.toNat, h.version.toNat), (.bandstandRequest b a seg tick, now, b.allot.toNat, b.sender.toNat, b.version.toNat),
      (.prepare b a seg tick, now, b.allot.toNat, b.sender.toNat, b.version.toNat), (.ready b a tick, now, b.allot.toNat, b.sender.toNat, b.version.toNat),
      (.go b a tick, now, b.allot.toNat, b.sender.toNat, b.version.toNat), (.abort b a tick, now, b.allot.toNat, b.sender.toNat, b.version.toNat),
      (.bandstandEnd b a tick, now, b.allot.toNat, b.sender.toNat, b.version.toNat), (.query b a tick, now, b.allot.toNat, b.sender.toNat, b.version.toNat), (.budgetRequest m a tick, now, 0, m.sender.toNat, m.version.toNat),
      (.answer m a tick, now, 0, m.sender.toNat, m.version.toNat), (.log m a tick, now, 0, m.sender.toNat, m.version.toNat)] →
    let own := s.dev.get R.TTA_CAPS_WRN_VER
    let known : Prop := ∃ n, s.dev.slotHolding allot = some n ∧ if n = 0 then s.dev.tta.sett.platform.isSome = true else (assocGet n s.dev.tta.sett.arks).isSome = true
    let gone (d : Dev) : Prop := d.tta.wrn = s.dev.tta.wrn ∧ d.out = s.dev.out ∧ quiet s d
    (s.dev.fleetReady = false → Completes c s fun d => d = e) ∧
    (s.dev.fleetReady = true → v ≠ own → v + 1 ≠ own → RecorderRoom .tta s → Completes c s fun d => gone d ∧ bump R.TTA_WRN_ERR_BAD_VERSION 0xFFFF s d ∧
      Recorded .tta 0x3403 [sender, v] s d) ∧
    (s.dev.fleetReady = true → v = own ∨ v + 1 = own → ¬ known ∨ a.tagOk = false → RecorderRoom .tta s → Completes c s fun d => gone d ∧
      d.get R.TTA_ISO_TAG_FAIL_COUNT = min (s.dev.get R.TTA_ISO_TAG_FAIL_COUNT + 1) (2 ^ 32 - 1) ∧ Recorded .tta 0x6001 [2, allot, sender] s d) ∧
    (∀ d, HearsPacket allot v a s.dev → exec c s = .next { s with dev := d } →
      (∃ p, (allot, sender, p) ∈ d.tta.wrn.peers ∧ (p.1 = a.inst ∨ p.2 = some a.inst)) ∧ v ≤ (assocGet (trayOf sender) d.tta.wrn.versions).getD 0)) ∧
  (∀ (h : WrnHdr) (a : PktAuth) (seg : List Byte) (ws : List TWord) (tick : Nat) (s : State),
    let c : Instr := .contrib h a seg tick
    let k := h.key
    let level := h.level.toNat
    let tray := trayOf h.sender.toNat
    let acked (busy : Bool) (d : Dev) : Prop := PacketAcked 0 h.sender.toNat 4 (h.bytes 1) busy d
    let fresh : Prop := ∀ m ∈ s.dev.tta.wrn.merges, ¬ (m.key = k ∧ m.level = level)
    HearsPacket h.allot.toNat h.version.toNat a s.dev →
    (∀ n, s.dev.slotHolding k.allot = some n → (s.dev.slotX n).wrnCtr < 2 ^ 64 → (s.dev.roundSeen k).result ≠ none → Completes c s fun d =>
      (∃ hdr, Out.packetAck 0 h.sender.toNat (s.dev.slotX n).wrnInst (s.dev.slotX n).wrnCtr hdr false ∈ d.out) ∧
      d.slotX n = { s.dev.slotX n with wrnCtr := (s.dev.slotX n).wrnCtr + 1 }) ∧
    (s.dev.jobOf k.allot k.job = none → Completes c s fun d => acked false d ∧ quiet s d ∧ d.tta.wrn.jobs = s.dev.tta.wrn.jobs ∧ RegsKept .tta [R.TTA_WRN_STAT_OPEN.addr] s d) ∧
    (∀ j, s.dev.jobOf k.allot k.job = some j →
      (¬ s.dev.replayCurrent k → Completes c s fun d => acked false d ∧ quiet s d ∧ d.tta.wrn.merges = s.dev.tta.wrn.merges ∧ d.tta.wrn.rounds = s.dev.tta.wrn.rounds ∧ d.tta.regs = s.dev.tta.regs) ∧
      (s.dev.replayCurrent k → (s.dev.roundSeen k).result ≠ none → Completes c s fun d => acked false d ∧ quiet s d ∧
        (∀ l, d.mergeOf k l = s.dev.mergeOf k l) ∧ RegsKept .tta [R.TTA_WRN_STAT_OPEN.addr] s d ∧
        ∀ m ∈ d.tta.wrn.merges, m.key.allot = k.allot → m.key.job = k.job → m.key.epoch = k.epoch → m.key.sub = k.sub → m.key.replay = k.replay) ∧
      (s.dev.replayCurrent k → (s.dev.roundSeen k).result = none →
        let level_ : Prop := ∀ m ∈ s.dev.tta.wrn.merges, m.key.allot = k.allot → m.key.job = k.job → m.key.epoch = k.epoch → m.key.sub = k.sub → m.key.replay = k.replay
        (level_ → fresh → 16384 ≤ s.dev.openStates → Completes c s fun d => acked true d ∧ bump R.TTA_WRN_ERR_BUSY 0xFFFF s d ∧ quiet s d ∧ ∀ l, d.mergeOf k l = s.dev.mergeOf k l) ∧
        let room : Prop := ¬ fresh ∨ s.dev.openStates < 16384
        let mine : Prop := parentTray j.trays level tray = s.dev.ownTray ∧ 1 ≤ level ∧ level ≤ treeLevels j.trays
        (room → ¬ mine → Completes c s fun d => acked false d ∧ quiet s d ∧ ∀ l, d.mergeOf k l = s.dev.mergeOf k l) ∧
        (room → mine → whole h seg ws →
          let m := s.dev.mergeOf k level
          let m' : Merge := { m with kind := h.kind.toNat, inputs := m.inputs ++ [(tray, ws)] }
          let L := treeLevels j.trays
          let out := mergeAll h.kind.toNat (m'.inputs.map (·.2))
          let up := parentTray j.trays (level + 1) s.dev.ownTray
          let alike : Prop := level = 1 → tray = s.dev.ownTray → (s.dev.roundSeen k).copy ≠ none ∨ (s.dev.roundSeen k).own = none ∨ (s.dev.roundSeen k).own = some ws
          m.parts = [] → alike →
          (∀ x, (m.inputs.find? fun y => y.1 = tray) = some (tray, x) →
            (x = ws → Completes c s fun d => acked false d ∧ quiet s d ∧ d.mergeOf k level = m ∧ bump R.TTA_WRN_DUP_DUP (2 ^ 32 - 1) s d) ∧
            (x ≠ ws → RecorderRoom .tta s → Completes c s fun d => acked false d ∧ others s d ∧ d.mergeOf k level = m ∧ bump R.TTA_WRN_ERR_MISMATCH 0xFFFF s d ∧
              Records .tta 0x3402 [k.job, tray, k.group, level] s d ∧ bump R.TTA_CHK_STAT_SELF_FAIL 0xFFFF s d)) ∧
          ((∀ y ∈ m.inputs, y.1 ≠ tray) → m.done = false →
            (m'.complete j.trays s.dev.ownTray = false → Completes c s fun d => acked false d ∧ quiet s d ∧ d.mergeOf k level = m' ∧ (∀ l, l ≠ level → d.mergeOf k l = s.dev.mergeOf k l) ∧
              (∀ x, (d.roundSeen x).result = (s.dev.roundSeen x).result ∨ x ≠ k) ∧ d.get R.TTA_WRN_STAT_OPEN = d.openStates % 2 ^ 15) ∧
            (m'.complete j.trays s.dev.ownTray = true → level < L → up ≠ s.dev.ownTray → Completes c s fun d => acked false d ∧ quiet s d ∧
              d.mergeOf k level = { m' with done := true } ∧ ∀ t ∈ twinsOf up, t ≠ s.dev.ttaId → RoundLeaves 1 (level + 1) k h.kind.toNat out t s.dev d) ∧
            (m'.complete j.trays s.dev.ownTray = true → level = L → k.group ≠ 0 → s.dev.objsNumbered → Completes c s fun d => acked false d ∧ others s d ∧
              (d.roundSeen k).result = some out ∧ bump R.TTA_WRN_STAT_ROUNDS (2 ^ 32 - 1) s d ∧
              ∀ t ∈ (downTrays j.trays s.dev.ownTray).flatMap twinsOf, t ≠ s.dev.ttaId → RoundLeaves 2 0 k h.kind.toNat out t s.dev d)))))) ∧
  (∀ (h : WrnHdr) (a : PktAuth) (seg : List Byte) (ws : List TWord) (tick : Nat) (s : State),
    let c : Instr := .result h a seg tick
    let k := h.key
    let acked (d : Dev) : Prop := PacketAcked 0 h.sender.toNat 4 (h.bytes 2) false d
    HearsPacket h.allot.toNat h.version.toNat a s.dev →
    (s.dev.jobOf k.allot k.job = none ∨ ¬ s.dev.replayCurrent k → Completes c s fun d => acked d ∧ quiet s d ∧ RegsKept .tta [R.TTA_WRN_STAT_OPEN.addr] s d) ∧
    (∀ j, s.dev.jobOf k.allot k.job = some j → s.dev.replayCurrent k → whole h seg ws →
      ((s.dev.roundSeen k).result ≠ none → Completes c s fun d => acked d ∧ quiet s d ∧ bump R.TTA_WRN_DUP_DUP (2 ^ 32 - 1) s d ∧ d.roundSeen k = s.dev.roundSeen k) ∧
      ((s.dev.roundSeen k).result = none → (s.dev.roundSeen k).parts = none →
        let known (d : Dev) : Prop := acked d ∧ others s d ∧ (d.roundSeen k).result = some ws ∧ bump R.TTA_WRN_STAT_ROUNDS (2 ^ 32 - 1) s d ∧
          (∀ t ∈ (downTrays j.trays s.dev.ownTray).flatMap twinsOf, t ≠ s.dev.ttaId → RoundLeaves 2 0 k h.kind.toNat ws t s.dev d) ∧
          (∀ p ∈ d.tta.wrn.outbox, p.proto = 0 → leAt p.hdr 1 1 = 1 ∨ leAt p.hdr 1 1 = 3 → ¬ (p.allot = k.allot ∧ p.job = k.job ∧ p.epoch = k.epoch ∧ p.group = k.group ∧ p.sub = k.sub ∧ p.replay = k.replay))
        (k.group ≠ 0 → s.dev.objsNumbered → Completes c s known) ∧
        (∀ gd hd g r t f, k.group ≠ 0 → s.dev.objsNumbered → jobGraphs j.desc = [gd] → s.dev.graphOf j.slot gd.1 = some hd → s.dev.graph hd = some g → g.run = some r →
          r.job = some j.id → r.epoch = k.epoch → r.replay = k.replay → r.reexec = false → t ∈ g.plan.phys →
          (∀ u ∈ g.plan.phys, ((s.dev.tile u).xfers.filter fun (f : Xfer) => f.round = some (k.group, k.sub)) = if u = t then [f] else []) →
          s.dev.shadowOf t = none → s.dev.ownObj t f.obj = true → s.dev.get (R.TTA_SYNC_TYPE.at f.obj) = 1 → (s.dev.tile t).storable (f.addr : Int) = true →
          let st := if payloadPoison h.kind.toNat ws then 5 else 0
          Completes c s fun d => known d ∧
            (∀ i w, ws[i]? = some w → d.histAt (areaBase 4 g.slot + f.remote % 2 ^ 20 + 8 * i) = some { w := w, gen := s.dev.storeGen g.slot }) ∧
            (d.tile t).word f.addr = { v := (((s.dev.tile t).word f.addr).v &&& 0x00FFFFFFFFFFFFFF#64) ||| (BitVec.ofNat 64 st <<< 56), p := ((s.dev.tile t).word f.addr).p } ∧
            (d.tile t).xfers = (s.dev.tile t).xfers.filter (fun x => x.id != f.id) ∧ d.get (R.TTA_SYNC_VALUE.at f.obj) = min (s.dev.get (R.TTA_SYNC_VALUE.at f.obj) + 1) (2 ^ 32 - 1) ∧
            ∃ g', d.graph hd = some g' ∧ ∃ l ∈ g'.log, l.epoch = k.epoch ∧ l.group = k.group ∧ l.sub = k.sub ∧ l.replay = k.replay ∧ l.words = ws ∧ l.status = st) ∧
        (∀ gd hd g p, k.group = 0 → k.sub < 16 → (jobGraphs j.desc)[k.sub]? = some gd → s.dev.graphOf j.slot gd.1 = some hd → s.dev.graph hd = some g → g.run = none → g.past = [p] →
          p.run.epoch = k.epoch → p.run.replay = k.replay → p.run.job = some j.id → p.passed = none → g.held = [] → g.ckpts = [] → g.plan.commitObj < 65536 → hd < 1024 →
          let void := ((ws.getD 0 {}).v).getLsbD 0
          (void = false → Completes c s fun d => acked d ∧ d.commitState g.plan.commitObj = 1 ∧ (d.graph hd).map (·.past) = some []) ∧
          (void = true → RecorderRoomFor 2 .tta s → Completes c s fun d => acked d ∧ Records .tta 0x3404 [k.job, k.sub, k.epoch / 4000 % 2 ^ 32, k.epoch % 4000, k.replay] s d ∧
            (k.replay = 255 → d.commitState g.plan.commitObj = 2 ∧ (g.state = 2 → (d.graph hd).map (·.state) = some 3) ∧
              Records .tta 0x3405 [p.run.job.getD 0, (((s.dev.runJob g p.run).bind fun j => j.position g.gid).getD 0), k.epoch / 4000 % 2 ^ 32, k.epoch % 4000] s d) ∧
            (k.replay < 255 → g.ran = [(p.run.no, p.run.epoch, p.run.replay)] → ∃ g', d.graph hd = some g' ∧ g'.redo = [(p.run.no, p.run.epoch, p.run.replay + 1, false)])))))) ∧
  (∀ (h : WrnHdr) (a : PktAuth) (seg : List Byte) (ws : List TWord) (s : State),
    let c : Instr := .copy h a seg
    let k := h.key
    let acked (d : Dev) : Prop := PacketAcked 0 h.sender.toNat 4 (h.bytes 3) false d
    HearsPacket h.allot.toNat h.version.toNat a s.dev →
    (s.dev.jobOf k.allot k.job = none ∨ ¬ s.dev.replayCurrent k → Completes c s fun d => acked d ∧ quiet s d ∧ RegsKept .tta [R.TTA_WRN_STAT_OPEN.addr] s d) ∧
    (∀ j, s.dev.jobOf k.allot k.job = some j → s.dev.replayCurrent k → whole h seg ws →
      ((s.dev.roundSeen k).copy ≠ none → Completes c s fun d => acked d ∧ quiet s d ∧ bump R.TTA_WRN_DUP_DUP (2 ^ 32 - 1) s d ∧ d.roundSeen k = s.dev.roundSeen k) ∧
      ((s.dev.roundSeen k).copy = none → (s.dev.roundSeen k).copyParts = none →
        ((s.dev.roundSeen k).own = none ∨ (s.dev.roundSeen k).own = some ws → Completes c s fun d => acked d ∧ quiet s d ∧ (d.roundSeen k).copy = some ws ∧
          RegsKept .tta [R.TTA_WRN_STAT_OPEN.addr] s d) ∧
        (∀ x, (s.dev.roundSeen k).own = some x → x ≠ ws → RecorderRoom .tta s → Completes c s fun d => acked d ∧ others s d ∧ (d.roundSeen k).copy = some ws ∧
          d.get R.TTA_CHK_STAT_SELF_FAIL = min (s.dev.get R.TTA_CHK_STAT_SELF_FAIL + 1) 0xFFFF ∧
          Records .tta 0x4030 [if k.group = 0 then 1 else 0, j.slot, s.dev.roundGraph j k] s d)))) ∧
  (∀ (no : Nat) (sender : BitVec 16) (a : PktAuth) (version : BitVec 8) (busy : Bool) (s : State),
    let c : Instr := .warrenAck no sender a version busy
    (s.dev.packet no = none → Completes c s fun d => d = s.dev) ∧
    (∀ p, s.dev.packet no = some p → HearsPacket p.allot version.toNat a s.dev → sender.toNat = p.dst → Completes c s fun d => d.tta.regs = s.dev.tta.regs ∧ d.out = s.dev.out ∧ quiet s d ∧
      (∀ x, x ∈ d.tta.wrn.suspects ↔ x ∈ s.dev.tta.wrn.suspects ∧ x ≠ (suspectKey p.allot p.job, p.dst)) ∧
      d.tta.wrn.outbox = (if busy then s.dev.tta.wrn.outbox.map fun x => if x.no = no then { x with sends := x.sends - 1 } else x else s.dev.tta.wrn.outbox.filter fun x => x.no != no))) ∧
  (∀ (no tick : Nat) (s : State),
    let e := s.dev.advance .tta tick
    let again (p : Packet) (d : Dev) : Prop := d.tta.regs = s.dev.tta.regs ∧ quiet s d ∧ d.tta.wrn.suspects = s.dev.tta.wrn.suspects ∧
      d.tta.wrn.outbox = (s.dev.tta.wrn.outbox.map fun x => if x.no = no then { x with sends := x.sends + 1 } else x) ∧
      (s.dev.fleetReady = true → d.out = .packet no p.proto p.dst p.inst p.ctr (p.hdr.take 2 ++ [(p.hdr.getD 2 0#8) ||| 1#8] ++ p.hdr.drop 3) p.body :: s.dev.out)
    (s.dev.packet no = none → Completes (.warrenResend no tick) s (fun d => d = e) ∧ Completes (.suspectResend no tick) s fun d => d = e) ∧
    (∀ p, s.dev.packet no = some p →
      let sus := s.dev.isSuspect p.allot p.job p.dst
      let tries := max 1 (s.dev.get R.TTA_WRN_CFG_TRIES)
      (sus = true → Completes (.warrenResend no tick) s (fun d => d = e) ∧ Completes (.suspectResend no tick) s (again p)) ∧
      (sus = false → Completes (.suspectResend no tick) s (fun d => d = e) ∧
        (p.sends < tries → Completes (.warrenResend no tick) s (again p)) ∧
        (tries ≤ p.sends → RecorderRoom .tta s → (∀ j, s.dev.jobOf p.allot p.job = some j → 1 ∈ j.readyDone ∨ (j.readies = [] ∧ readyKeys j.trays 1 s.dev.ownTray ≠ [])) →
          Completes (.warrenResend no tick) s fun d => d.tta.wrn = { s.dev.tta.wrn with suspects := (suspectKey p.allot p.job, p.dst) :: s.dev.tta.wrn.suspects } ∧
            bump R.TTA_WRN_ERR_SUSPECT 0xFFFF s d ∧ Recorded .tta 0x3401 [p.job, p.dst, leAt p.hdr 1 1] s d ∧ d.out = s.dev.out ∧ quiet s d))))

/-- R330 to R338. A job of the same number that this member refused stays only as a parent's merge until the outcome. -/
def Obligations.JobStarts : Prop :=
  let others (s : State) (d : Dev) : Prop := d.tdu = s.dev.tdu ∧ d.pins = s.dev.pins ∧ d.tta.tiles = s.dev.tta.tiles ∧ d.tta.hist = s.dev.tta.hist
  let bump (f : Fld) (mx : Nat) (s : State) (d : Dev) : Prop := d.get f = min (s.dev.get f + 1) mx
  let acked (h : BstHdr) (type : Nat) (d : Dev) : Prop := PacketAcked 1 h.sender.toNat 0x18 (h.bytes type) false d
  let heard (h : BstHdr) (a : PktAuth) (s : State) : Prop := HearsPacket h.allot.toNat h.version.toNat a s.dev
  let jobs (s : State) (d : Dev) : Prop := d.tta.wrn.jobs = s.dev.tta.wrn.jobs ∧ d.tta.wrn.deciding = s.dev.tta.wrn.deciding ∧ d.tta.wrn.origins = s.dev.tta.wrn.origins ∧ others s d
  let issued (allot tag origin : Nat) (bs : List Byte) (e : Dev) (s : State) (d : Dev) : Prop := ∃ id x, x ∈ d.tta.wrn.deciding ∧
    let last := (assocGet allot s.dev.tta.wrn.lastJob).getD 0
    let held (i : Nat) : Prop := (∃ j ∈ s.dev.heldJobs, j.allot = allot ∧ j.id = i) ∨ ∃ y ∈ s.dev.tta.wrn.deciding, y.allot = allot ∧ y.id = i ∧ y.noneAt = none
    let from_ := max (leAt bs 16 6 * 1000000000 + leAt bs 22 4) (e.ttaNs + 100000)
    (∃ n, n < 65535 ∧ id = (last + n) % 65535 + 1 ∧ ¬ held id ∧ ∀ m, m < n → held ((last + m) % 65535 + 1)) ∧ assocGet allot d.tta.wrn.lastJob = some id ∧
    x.allot = allot ∧ x.id = id ∧ x.attempt = 1 ∧ x.reqTag = tag ∧ x.origin = origin ∧ x.goNs % 250000 = 0 ∧ from_ ≤ x.goNs ∧ x.goNs < from_ + 250000 ∧ x.trays = jobTrays bs ∧
    x.desc.length = bs.length ∧ leAt x.desc 6 2 = id ∧ leAt x.desc 8 1 = 1 ∧ leAt x.desc 26 6 = x.goNs / 1000000000 % 2 ^ 48 ∧ leAt x.desc 32 4 = x.goNs % 1000000000 ∧ x.desc.drop 64 = bs.drop 64 ∧
    Records .tta 0x3480 [id, 1, (stampOf x.goNs).toNat] s d ∧
    let m : BstMsg := { type := 0x11, allot := allot, job := id, attempt := 1, timeNs := x.goNs, reqTag := tag, body := x.desc }
    (s.dev.partnerId ≠ s.dev.ttaId → BstLeaves m s.dev.partnerId s.dev d) ∧ (s.dev.jobOf allot id = none → BstAnnounced x.trays m s.dev d)
  let asked (allot tag origin : Nat) (s : State) : Prop := ∃ x ∈ s.dev.tta.wrn.deciding, x.allot = allot ∧ x.reqTag = tag ∧ x.origin = origin ∧ x.noneAt = none
  let idFree (allot : Nat) (s : State) : Prop := ∃ i, 1 ≤ i ∧ i ≤ 65535 ∧ (∀ j ∈ s.dev.heldJobs, ¬ (j.allot = allot ∧ j.id = i)) ∧ ∀ y ∈ s.dev.tta.wrn.deciding, ¬ (y.allot = allot ∧ y.id = i ∧ y.noneAt = none)
  (∀ (q : Desc) (addr : W64) (desc : Fetch) (s : State), s.dev.unfenced q = true → Completable q s.dev →
    let c : Instr := .jobStart q addr desc
    let slot := descSlot q
    let al := s.dev.slotAllot slot
    let pre : Prop := s.dev.headerCheck 0x40 q = none ∧ addr.toNat % 64 = 0 ∧ s.dev.slotState slot = 2
    let fails (st : Nat) : Prop := Completes c s fun d => Completed q st [] s d ∧ d.tta.wrn = s.dev.tta.wrn ∧ others s d
    (∀ st, s.dev.headerCheck 0x40 q = some st → fails st) ∧ (s.dev.headerCheck 0x40 q = none → addr.toNat % 64 ≠ 0 → fails 3) ∧
    (s.dev.headerCheck 0x40 q = none → addr.toNat % 64 = 0 → s.dev.slotState slot ≠ 2 → fails 4) ∧
    (pre → (desc = .poison → fails 5) ∧ (desc = .denied → fails 4) ∧ (desc = .timeout → fails 6)) ∧
    (∀ bs, pre → desc = .data bs →
      let ok := jobDescOk bs q.length.toNat al s.dev.ownTray
      let full : Prop := 4 ≤ (s.dev.heldJobs.filter fun j => j.allot = al).length
      let bs' := putBytes (putBytes bs 10 2 s.dev.ttaId) 12 4 q.tag.toNat
      let root := rootTray (jobTrays bs)
      (ok = false → fails 0xA) ∧ (ok = true → full → fails 9) ∧
      (ok = true → ¬ full →
        (root ≠ s.dev.ownTray ∨ s.dev.leads = false → Completes c s fun d => d.tta.wrn.origins = s.dev.tta.wrn.origins ++ [(al, q.tag.toNat, false, q)] ∧
          (d.fnq q.fn).inflight = (s.dev.fnq q.fn).inflight ∧ d.tta.wrn.jobs = s.dev.tta.wrn.jobs ∧ d.tta.wrn.deciding = s.dev.tta.wrn.deciding ∧ others s d ∧
          ∀ t ∈ twinsOf root, t ≠ s.dev.ttaId → BstLeaves { type := 0x16, allot := al, job := 0, reqTag := q.tag.toNat, body := bs' } t s.dev d) ∧
        (root = s.dev.ownTray → s.dev.leads = true → ¬ asked al q.tag.toNat s.dev.ttaId s → idFree al s → RecorderRoom .tta s →
          Completes c s fun d => issued al q.tag.toNat s.dev.ttaId bs' s.dev s d)))) ∧
  (∀ (h : BstHdr) (a : PktAuth) (desc : List Byte) (tick : Nat) (s : State), heard h a s →
    let c : Instr := .bandstandRequest h a desc tick
    let e := s.dev.advance .tta tick
    (s.dev.leads = false → Completes c s fun d => acked h 0x16 d ∧ jobs s d ∧ d.tta.regs = s.dev.tta.regs) ∧
    (s.dev.leads = true → h.flags.getLsbD 3 = false → asked h.allot.toNat h.reqTag.toNat h.sender.toNat s →
      Completes c s fun d => acked h 0x16 d ∧ jobs s d ∧ bump R.TTA_WRN_DUP_DUP (2 ^ 32 - 1) s d) ∧
    (s.dev.leads = true → h.flags.getLsbD 3 = false → ¬ asked h.allot.toNat h.reqTag.toNat h.sender.toNat s → idFree h.allot.toNat s → 1088 ≤ desc.length → RecorderRoom .tta s →
      Completes c s fun d => acked h 0x16 d ∧ issued h.allot.toNat h.reqTag.toNat h.sender.toNat desc e s d)) ∧
  (∀ (h : BstHdr) (a : PktAuth) (desc : List Byte) (tick : Nat) (s : State), heard h a s →
    let c : Instr := .prepare h a desc tick
    let e := s.dev.advance .tta tick
    let al := h.allot.toNat
    let id := h.job.toNat
    let trays := jobTrays desc
    let up := parentTray trays 1 s.dev.ownTray
    let gs := jobGraphs desc
    let total := (s.dev.heldJobs.map fun j => (jobGroups j.desc).length).sum
    let active (n : Nat) : Prop := s.dev.slotHolding al = some n ∧ s.dev.slotState n = 2
    let good (n : Nat) : Prop := ∀ g ∈ gs, ∃ hd x, s.dev.graphOf n g.1 = some hd ∧ s.dev.graph hd = some x ∧ x.plan.stamp = false ∧ sha384 x.plan.image = g.2
    let idle (n : Nat) : Prop := ∀ g ∈ gs, ∀ j ∈ s.dev.heldJobs, j.slot = n → j.position g.1 = none
    let room : Prop := s.dev.heldJobs.length < 64 ∧ (s.dev.heldJobs.filter fun j => j.allot = al).length < 4 ∧ total + (jobGroups desc).length ≤ 4096
    let soon : Prop := h.ns < e.ttaNs + 20000
    let status (st : Nat) : Prop := ((∀ n, ¬ active n) ∧ st = 4) ∨ ∃ n, active n ∧ ((¬ good n ∧ st = 0xA) ∨ (good n ∧ ¬ idle n ∧ st = 4) ∨ (good n ∧ idle n ∧ ¬ room ∧ st = 9) ∨
      (good n ∧ idle n ∧ room ∧ soon ∧ st = 6) ∨ (good n ∧ idle n ∧ room ∧ ¬ soon ∧ st = 0))
    let down (d : Dev) : Prop := ∀ t ∈ (downTrays trays s.dev.ownTray).flatMap twinsOf, t ≠ s.dev.ttaId → BstLeaves (h.msg 0x11 desc) t s.dev d
    let readied (st : Nat) (d : Dev) : Prop := ∀ t ∈ twinsOf up, t ≠ s.dev.ttaId → BstLeaves { type := 0x12, level := 1, allot := al, job := id, attempt := h.attempt.toNat, status := st, failTta := if st = 0 then 0xFFFF else s.dev.ttaId, timeNs := h.ns } t s.dev d
    let has (st : Nat) (j : Job) : Prop := j.state = (if st = 0 then 0 else 4) ∧ j.attempt = h.attempt.toNat ∧ j.goNs = h.ns ∧ j.desc = desc ∧ j.trays = trays
    (∀ j, s.dev.jobOf al id = some j → h.attempt.toNat ≤ j.attempt ∨ j.state = 1 ∨ j.state = 2 → Completes c s fun d => acked h 0x11 d ∧ jobs s d ∧ bump R.TTA_WRN_DUP_DUP (2 ^ 32 - 1) s d) ∧
    (s.dev.jobOf al id = none → up ≠ s.dev.ownTray ∨ s.dev.leads = false →
      (status 0 → Completes c s fun d => acked h 0x11 d ∧ others s d ∧ down d ∧ readied 0 d ∧ ∃ j, d.jobOf al id = some j ∧ has 0 j ∧ s.dev.slotHolding al = some j.slot ∧ j.entry < 64 ∧
        (∀ i ∈ s.dev.heldJobs, i.entry ≠ j.entry) ∧ d.get (R.TTA_BST_JOB_VALID.at j.entry) = 1 ∧ d.get (R.TTA_BST_JOB_STATE.at j.entry) = 0 ∧ d.get (R.TTA_BST_JOB_SLOT.at j.entry) = j.slot ∧
        d.get (R.TTA_BST_JOB_JOB_ID.at j.entry) = id ∧ d.get (R.TTA_BST_JOB_ATTEMPT.at j.entry) = h.attempt.toNat % 32 ∧
        d.get (R.TTA_BST_JOB_ROOT.at j.entry) = (if rootTray trays = s.dev.ownTray then 1 else 0) ∧ d.get (R.TTA_BST_JOB_TRAYS.at j.entry) = trays.length % 2 ^ 14 ∧
        d.get R.TTA_WRN_STAT_GROUPS = (total + (jobGroups desc).length) % 2 ^ 13) ∧
      (∀ st, st ≠ 0 → status st → RecorderRoom .tta s → Completes c s fun d => acked h 0x11 d ∧ others s d ∧ down d ∧ readied st d ∧ Records .tta 0x3481 [id, h.attempt.toNat, st] s d ∧
        d.heldJobs = s.dev.heldJobs ∧ ∃ j, d.jobOf al id = some j ∧ has st j)) ∧
    (∀ j, s.dev.jobOf al id = some j → j.attempt < h.attempt.toNat → j.state = 0 ∨ j.state = 4 → up ≠ s.dev.ownTray ∨ s.dev.leads = false → Completes c s fun d => acked h 0x11 d ∧ others s d ∧ down d ∧
      (∃ j', d.jobOf al id = some j' ∧ (has 0 j' ∨ has 4 j')) ∧ (∃ st, readied st d) ∧
      ∀ p ∈ d.tta.wrn.outbox, p.proto = 1 → p.allot = al → p.job = id → p.attempt < h.attempt.toNat → leAt p.hdr 1 1 = 0x16)) ∧
  (∀ (h : BstHdr) (a : PktAuth) (tick : Nat) (s : State), heard h a s →
    let c : Instr := .ready h a tick
    let e := s.dev.advance .tta tick
    let al := h.allot.toNat
    let id := h.job.toNat
    let level := h.level.toNat
    let key := if level = 1 then h.sender.toNat else trayOf h.sender.toNat
    (s.dev.jobOf al id = none → Completes c s fun d => acked h 0x12 d ∧ jobs s d ∧ d.tta.regs = s.dev.tta.regs) ∧
    (∀ j, s.dev.jobOf al id = some j →
      let mine : Prop := j.attempt = h.attempt.toNat ∧ 1 ≤ level ∧ level ≤ treeLevels j.trays ∧ parentTray j.trays level (trayOf h.sender.toNat) = s.dev.ownTray
      let j' : Job := { j with readies := j.readies ++ [(level, key, h.status.toNat, h.failTta.toNat)] }
      let first : Prop := ∀ r ∈ j.readies, ¬ (r.1 = level ∧ r.2.1 = key)
      let merged (st fail : Nat) : Prop := (st = 0 ∧ fail = 0xFFFF ∧ ∀ r ∈ j'.readies, r.1 = level → r.2.2.1 = 0) ∨
        (st ≠ 0 ∧ (∃ r ∈ j'.readies, r.1 = level ∧ r.2.2 = (st, fail)) ∧ ∀ r ∈ j'.readies, r.1 = level → r.2.2.1 ≠ 0 → fail < r.2.2.2 ∨ r.2.2 = (st, fail))
      let L := treeLevels j.trays
      (¬ mine → Completes c s fun d => acked h 0x12 d ∧ jobs s d ∧ d.tta.regs = s.dev.tta.regs) ∧
      (∀ r, mine → (j.readies.find? fun r => r.1 == level && r.2.1 == key) = some r →
        (r.2.2 = (h.status.toNat, h.failTta.toNat) → Completes c s fun d => acked h 0x12 d ∧ jobs s d ∧ bump R.TTA_WRN_DUP_DUP (2 ^ 32 - 1) s d) ∧
        (r.2.2 ≠ (h.status.toNat, h.failTta.toNat) → RecorderRoom .tta s → Completes c s fun d => acked h 0x12 d ∧ jobs s d ∧ bump R.TTA_WRN_ERR_MISMATCH 0xFFFF s d ∧
          Records .tta 0x3402 [id, trayOf h.sender.toNat, 0, level] s d ∧ bump R.TTA_CHK_STAT_SELF_FAIL 0xFFFF s d)) ∧
      (mine → first → level ∉ j.readyDone →
        (level < L → e.readyComplete j' level = false → Completes c s fun d => acked h 0x12 d ∧ others s d ∧ d.jobOf al id = some j') ∧
        (∀ st fail, level < L → e.readyComplete j' level = true → merged st fail → parentTray j.trays (level + 1) s.dev.ownTray ≠ s.dev.ownTray → Completes c s fun d => acked h 0x12 d ∧ others s d ∧
          d.jobOf al id = some { j' with readyDone := level :: j.readyDone } ∧ ∀ t ∈ twinsOf (parentTray j.trays (level + 1) s.dev.ownTray),
            BstLeaves { type := 0x12, level := level + 1, allot := al, job := id, attempt := j.attempt, status := st, failTta := fail, timeNs := j.goNs } t s.dev d) ∧
        (level = L → s.dev.leads = false → Completes c s fun d => acked h 0x12 d ∧ others s d ∧ d.jobOf al id = some j') ∧
        (∀ x st fail, level = L → s.dev.leads = true → s.dev.decidedJob al id = some x → x.outcome = 0 → x.attempt = j.attempt → x.allot = al → x.id = id → merged st fail → j.entry < 64 →
          (st ≠ 0 → j.state = 0 ∨ j.state = 4 → RecorderRoom .tta s → Completes c s fun d => acked h 0x12 d ∧ others s d ∧
            d.decidedJob al id = some { x with outcome := 2, status := st, failTta := fail, noneAt := some e.ttaNs } ∧ Records .tta 0x3482 [id, j.attempt, 1] s d ∧ d.jobOf al id = none ∧
            BstAnnounced j.trays { type := 0x14, flags := 4, allot := al, job := id, attempt := j.attempt, status := st, failTta := fail, timeNs := x.goNs, reqTag := x.reqTag } s.dev d) ∧
          (st = 0 → e.readyComplete j' level = true → e.ttaNs < x.goNs - (2000 * treeLevels j.trays + 4000) → j.state = 0 → RecorderRoom .tta s → Completes c s fun d => acked h 0x12 d ∧ others s d ∧
            d.decidedJob al id = some { x with outcome := 1 } ∧ Records .tta 0x3483 [id, j.attempt, (stampOf x.goNs).toNat] s d ∧ (d.jobOf al id).map (·.state) = some 1 ∧
            BstAnnounced j.trays { type := 0x13, allot := al, job := id, attempt := j.attempt, timeNs := x.goNs, reqTag := x.reqTag } s.dev d) ∧
          (st = 0 → e.readyComplete j' level = false ∨ x.goNs - (2000 * treeLevels j.trays + 4000) ≤ e.ttaNs → Completes c s fun d => acked h 0x12 d ∧ others s d ∧
            d.decidedJob al id = some x ∧ d.jobOf al id = some j'))))) ∧
  (∀ (h : BstHdr) (a : PktAuth) (tick : Nat) (s : State), heard h a s →
    let al := h.allot.toNat
    let id := h.job.toNat
    let unheld : Prop := ∀ j, s.dev.jobOf al id = some j → j.attempt ≠ h.attempt.toNat
    let down (m : BstMsg) (j : Job) (d : Dev) : Prop := ∀ t ∈ (downTrays j.trays s.dev.ownTray).flatMap twinsOf, t ≠ s.dev.ttaId → BstLeaves m t s.dev d
    let origin (q : Desc) (isEnd : Bool) (k : Nat) : Prop := s.dev.tta.wrn.origins = [(al, k, isEnd, q)] ∧ Completable q s.dev
    (unheld → Completes (.go h a tick) s fun d => acked h 0x13 d ∧ jobs s d ∧ bump R.TTA_WRN_DUP_DUP (2 ^ 32 - 1) s d) ∧
    (unheld → h.flags.getLsbD 2 = false → Completes (.abort h a tick) s fun d => acked h 0x14 d ∧ jobs s d ∧ bump R.TTA_WRN_DUP_DUP (2 ^ 32 - 1) s d) ∧
    (∀ q, s.dev.jobOf al id = none → h.flags.getLsbD 2 = true → origin q false h.reqTag.toNat → Completes (.abort h a tick) s fun d => acked h 0x14 d ∧ others s d ∧
      Completed q h.status.toNat [(24, 2, id), (26, 1, h.attempt.toNat), (38, 2, h.failTta.toNat)] s d ∧ d.tta.wrn.origins = []) ∧
    (∀ j, s.dev.jobOf al id = some j → j.attempt = h.attempt.toNat → j.entry < 64 →
      (j.state = 0 → RecorderRoom .tta s → Completes (.go h a tick) s fun d => acked h 0x13 d ∧ others s d ∧ d.jobOf al id = some { j with state := 1, goNs := h.ns, readies := [] } ∧
        d.get (R.TTA_BST_JOB_STATE.at j.entry) = 1 ∧ d.get (R.TTA_BST_JOB_VALID.at j.entry) = 1 ∧ Records .tta 0x3483 [id, h.attempt.toNat, (stampOf h.ns).toNat] s d ∧ down (h.msg 0x13 []) j d ∧
        ∀ q, origin q false h.reqTag.toNat → leAt j.desc 10 2 = s.dev.ttaId → d.tta.wrn.origins = [] ∧
          Completed q 0 [(24, 2, id), (26, 1, h.attempt.toNat), (28, 6, h.ns / 1000000000), (34, 4, h.ns % 1000000000), (38, 2, 0xFFFF)] s d) ∧
      (j.state = 1 ∨ j.state = 2 → Completes (.go h a tick) s fun d => acked h 0x13 d ∧ jobs s d ∧ bump R.TTA_WRN_DUP_DUP (2 ^ 32 - 1) s d) ∧
      (j.state = 0 ∨ j.state = 4 → Completes (.abort h a tick) s fun d => acked h 0x14 d ∧ others s d ∧ d.jobOf al id = none ∧ down (h.msg 0x14 []) j d ∧
        (j.state = 0 → d.word .tta (R.TTA_BST_JOB.base + 8 * j.entry) = 0) ∧
        d.get R.TTA_WRN_STAT_GROUPS = ((d.heldJobs.map fun j => (jobGroups j.desc).length).sum) % 2 ^ 13 ∧
        ∀ q, h.flags.getLsbD 2 = true → origin q false h.reqTag.toNat → (leAt j.desc 10 2 = s.dev.ttaId → d.tta.wrn.origins = [] ∧
          Completed q h.status.toNat [(24, 2, id), (26, 1, h.attempt.toNat), (38, 2, h.failTta.toNat)] s d) ∧
          (leAt j.desc 10 2 ≠ s.dev.ttaId → d.tta.wrn.origins = s.dev.tta.wrn.origins))))

/-- R331, R335, R336, R338, R339. A JOB_END of a job that the TTA does not hold is DENIED (log 40). -/
def Obligations.JobEnds : Prop :=
  let others (s : State) (d : Dev) : Prop := d.tdu = s.dev.tdu ∧ d.pins = s.dev.pins ∧ d.tta.tiles = s.dev.tta.tiles ∧ d.tta.graphs = s.dev.tta.graphs ∧ d.tta.hist = s.dev.tta.hist
  let heard (h : BstHdr) (a : PktAuth) (s : State) : Prop := HearsPacket h.allot.toNat h.version.toNat a s.dev
  let acked (h : BstHdr) (type : Nat) (d : Dev) : Prop := PacketAcked 1 h.sender.toNat 0x18 (h.bytes type) false d
  let wrn (s : State) (d : Dev) : Prop := d.tta.wrn.jobs = s.dev.tta.wrn.jobs ∧ d.tta.wrn.deciding = s.dev.tta.wrn.deciding ∧ d.tta.wrn.origins = s.dev.tta.wrn.origins ∧ others s d
  let ended (al id : Nat) (x : Decided) (now : Nat) (s : State) (d : Dev) : Prop := ∃ t : Nat, t % 250000 = 0 ∧ now + 100000 ≤ t ∧ t < now + 350000 ∧
    d.decidedJob al id = some { x with outcome := 3, endNs := t } ∧ (∀ j, s.dev.jobOf al id = some j → j.state = 1 → (d.jobOf al id = some { j with state := 2, endNs := t } ∧
      BstAnnounced j.trays { type := 0x15, allot := al, job := id, attempt := x.attempt, timeNs := t } s.dev d))
  (∀ (q : Desc) (job : BitVec 16) (s : State), DescRuns 0x41 q s.dev →
    let al := s.dev.slotAllot (descSlot q)
    let id := job.toNat
    (s.dev.jobOf al id = none → Completes (.jobEnd q job) s fun d => Completed q 4 [] s d ∧ d.tta.wrn = s.dev.tta.wrn ∧ others s d) ∧
    (∀ j, s.dev.jobOf al id = some j →
      (j.state = 2 → Completes (.jobEnd q job) s fun d => Completed q 0 [(20, 6, j.endNs / 1000000000), (26, 4, j.endNs % 1000000000)] s d ∧ d.tta.wrn = s.dev.tta.wrn ∧ others s d) ∧
      (j.state ≠ 2 → rootTray j.trays ≠ s.dev.ownTray ∨ s.dev.leads = false → Completes (.jobEnd q job) s fun d => d.tta.wrn.origins = s.dev.tta.wrn.origins ++ [(al, id, true, q)] ∧
        d.tta.wrn.jobs = s.dev.tta.wrn.jobs ∧ d.tta.wrn.deciding = s.dev.tta.wrn.deciding ∧ others s d ∧ (d.fnq q.fn).inflight = (s.dev.fnq q.fn).inflight ∧
        ∀ t ∈ twinsOf (rootTray j.trays), t ≠ s.dev.ttaId → BstLeaves { type := 0x16, flags := 8, allot := al, job := id } t s.dev d) ∧
      (∀ x, j.state = 1 → j.entry < 64 → rootTray j.trays = s.dev.ownTray → s.dev.leads = true → s.dev.decidedJob al id = some x → x.outcome = 1 → s.dev.tta.wrn.origins = [] →
        Completes (.jobEnd q job) s fun d => ended al id x s.dev.ttaNs s d ∧ others s d ∧ d.tta.wrn.origins = [] ∧
          ∃ t : Nat, (d.jobOf al id).map (·.endNs) = some t ∧ Completed q 0 [(20, 6, t / 1000000000), (26, 4, t % 1000000000)] s d))) ∧
  (∀ (h : BstHdr) (a : PktAuth) (desc : List Byte) (tick : Nat) (s : State), heard h a s → s.dev.leads = true → h.flags.getLsbD 3 = true →
    let c : Instr := .bandstandRequest h a desc tick
    let e := s.dev.advance .tta tick
    let al := h.allot.toNat
    let id := h.job.toNat
    (∀ x, s.dev.decidedJob al id = some x →
      (x.outcome = 0 → Completes c s fun d => acked h 0x16 d ∧ wrn s d ∧ d.tta.wrn.outbox = s.dev.tta.wrn.outbox) ∧
      (x.outcome = 1 → (∀ o ∈ s.dev.tta.wrn.origins, ¬ (o.1 = al ∧ o.2.1 = id ∧ o.2.2.1 = true)) → (∀ j, s.dev.jobOf al id = some j → j.entry < 64) → Completes c s fun d => acked h 0x16 d ∧ others s d ∧
        ended al id x e.ttaNs s d) ∧
      (2 ≤ x.outcome → h.sender.toNat ≠ s.dev.ttaId → Completes c s fun d => acked h 0x16 d ∧ wrn s d ∧ BstLeaves x.outcomeMsg h.sender.toNat s.dev d)) ∧
    (s.dev.decidedJob al id = none → h.sender.toNat ≠ s.dev.ttaId → Completes c s fun d => acked h 0x16 d ∧ wrn s d ∧
      BstLeaves { type := 0x14, flags := 4, allot := al, job := id, status := 6 } h.sender.toNat s.dev d)) ∧
  (∀ (h : BstHdr) (a : PktAuth) (tick : Nat) (s : State), heard h a s →
    let c : Instr := .bandstandEnd h a tick
    let al := h.allot.toNat
    let id := h.job.toNat
    (∀ j, s.dev.jobOf al id = some j → j.state = 1 → j.entry < 64 → Completes c s fun d => acked h 0x15 d ∧ others s d ∧ d.jobOf al id = some { j with state := 2, endNs := h.ns } ∧
      d.get (R.TTA_BST_JOB_STATE.at j.entry) = 2 ∧ (∀ t ∈ (downTrays j.trays s.dev.ownTray).flatMap twinsOf, t ≠ s.dev.ttaId → BstLeaves (h.msg 0x15 []) t s.dev d) ∧
      ∀ q, s.dev.tta.wrn.origins = [(al, id, true, q)] → Completable q s.dev → d.tta.wrn.origins = [] ∧ Completed q 0 [(20, 6, h.ns / 1000000000), (26, 4, h.ns % 1000000000)] s d) ∧
    ((∀ j, s.dev.jobOf al id = some j → j.state ≠ 1) → (∀ o ∈ s.dev.tta.wrn.origins, ¬ (o.1 = al ∧ o.2.1 = id ∧ o.2.2.1 = true)) →
      Completes c s fun d => acked h 0x15 d ∧ wrn s d ∧ d.get R.TTA_WRN_DUP_DUP = min (s.dev.get R.TTA_WRN_DUP_DUP + 1) (2 ^ 32 - 1))) ∧
  (∀ (h : BstHdr) (a : PktAuth) (tick : Nat) (s : State), heard h a s →
    let c : Instr := .query h a tick
    let al := h.allot.toNat
    let asked (x : Decided) : Prop := x.allot = al ∧ if h.job = 0 then x.reqTag = h.reqTag.toNat ∧ x.origin = h.sender.toNat else x.id = h.job.toNat
    (s.dev.leads = false → Completes c s fun d => acked h 0x17 d ∧ wrn s d ∧ d.tta.wrn.outbox = s.dev.tta.wrn.outbox) ∧
    (s.dev.leads = true → h.sender.toNat ≠ s.dev.ttaId →
      ((∀ x ∈ s.dev.tta.wrn.deciding, ¬ asked x) → Completes c s fun d => acked h 0x17 d ∧ wrn s d ∧ BstLeaves { type := 0x14, flags := 4, allot := al, job := h.job.toNat, attempt := h.attempt.toNat, status := 6, reqTag := h.reqTag.toNat } h.sender.toNat s.dev d) ∧
      (∀ x, x ∈ s.dev.tta.wrn.deciding → asked x → (∀ y ∈ s.dev.tta.wrn.deciding, asked y → y = x) →
        (x.outcome = 0 → Completes c s fun d => acked h 0x17 d ∧ wrn s d ∧ d.tta.wrn.outbox = s.dev.tta.wrn.outbox) ∧
        (x.outcome ≠ 0 → Completes c s fun d => acked h 0x17 d ∧ wrn s d ∧ BstLeaves x.outcomeMsg h.sender.toNat s.dev d)))) ∧
  (∀ x : Decided, (x.outcome = 1 → x.outcomeMsg = { type := 0x13, allot := x.allot, job := x.id, attempt := x.attempt, timeNs := x.goNs, reqTag := x.reqTag }) ∧
    (x.outcome = 2 → x.outcomeMsg.type = 0x14 ∧ x.outcomeMsg.flags = 4 ∧ x.outcomeMsg.status = x.status ∧ x.outcomeMsg.failTta = x.failTta ∧ x.outcomeMsg.reqTag = x.reqTag) ∧
    (x.outcome = 3 → x.outcomeMsg = { type := 0x15, allot := x.allot, job := x.id, attempt := x.attempt, timeNs := x.endNs })) ∧
  (∀ (allot job : BitVec 16) (tick : Nat) (s : State),
    let c : Instr := .prepareDeadline allot job tick
    let e := s.dev.advance .tta tick
    let al := allot.toNat
    let id := job.toNat
    (s.dev.decidedJob al id = none → Completes c s fun d => d = e) ∧
    (∀ x, s.dev.decidedJob al id = some x →
      let L := treeLevels x.trays
      let last := max 1 (min 16 (s.dev.get R.TTA_WRN_CFG_ATTEMPTS)) ≤ x.attempt
      let due : Prop := x.outcome = 0 ∧ x.goNs - (2000 * L + 4000) ≤ e.ttaNs
      (¬ due → Completes c s fun d => d = e) ∧
      (due → ¬ last → RecorderRoomFor 2 .tta s → Completes c s fun d => ∃ x', d.decidedJob al id = some x' ∧ x'.attempt = x.attempt + 1 ∧ x'.reqTag = x.reqTag ∧ x'.origin = x.origin ∧
        x'.goNs % 250000 = 0 ∧ max (x.goNs + 1000000) (e.ttaNs + 100000) ≤ x'.goNs ∧ x'.goNs < max (x.goNs + 1000000) (e.ttaNs + 100000) + 250000 ∧
        Records .tta 0x3482 [id, x.attempt, 0] s d ∧ Records .tta 0x3480 [id, x.attempt + 1, (stampOf x'.goNs).toNat] s d ∧ d.tdu = s.dev.tdu ∧
        BstLeaves { type := 0x11, allot := al, job := id, attempt := x.attempt + 1, timeNs := x'.goNs, reqTag := x.reqTag, body := x'.desc } s.dev.partnerId s.dev d ∧
        (s.dev.fleetReady = true → ∃ no inst ctr hdr, Out.packet no 1 s.dev.partnerId inst ctr hdr [] ∈ d.out ∧ leAt hdr 1 1 = 0x14 ∧ leAt hdr 8 1 = x.attempt % 256) ∧
        ∀ j, d.jobOf al id = some j → x.attempt < j.attempt ∨ j.state = 1 ∨ j.state = 2) ∧
      (∀ j, due → last → RecorderRoom .tta s → s.dev.jobOf al id = some j → j.attempt = x.attempt → j.state = 0 ∨ j.state = 4 →
        let missing (t : Nat) : Prop := t ∈ groupInputs x.trays L 0 ∧ ∀ r ∈ j.readies, ¬ (r.1 = L ∧ (if L = 1 then trayOf r.2.1 else r.2.1) = t)
        Completes c s fun d => Records .tta 0x3482 [id, x.attempt, 0] s d ∧ d.jobOf al id = none ∧ d.tdu = s.dev.tdu ∧ d.tta.tiles = s.dev.tta.tiles ∧
          ∃ t : Nat, ((∃ u, missing u) → missing t ∧ ∀ u, missing u → (groupInputs x.trays L 0).idxOf t ≤ (groupInputs x.trays L 0).idxOf u) ∧
            d.decidedJob al id = some { x with outcome := 2, status := 6, failTta := 2 * t, noneAt := some e.ttaNs } ∧
            BstAnnounced j.trays { type := 0x14, flags := 4, allot := al, job := id, attempt := x.attempt, status := 6, failTta := 2 * t, timeNs := x.goNs, reqTag := x.reqTag } s.dev d))) ∧
  (∀ (allot job : BitVec 16) (tick : Nat) (s : State),
    let c : Instr := .queryTimer allot job tick
    let e := s.dev.advance .tta tick
    let al := allot.toNat
    let id := job.toNat
    let ask (root att tag : Nat) (d : Dev) : Prop := ∀ t ∈ twinsOf root, t ≠ s.dev.ttaId → BstLeaves { type := 0x17, allot := al, job := id, attempt := att, reqTag := tag } t s.dev d
    (id ≠ 0 → s.dev.jobOf al id = none → Completes c s fun d => d = e) ∧
    (∀ j, id ≠ 0 → s.dev.jobOf al id = some j →
      let due : Prop := j.state = 0 ∧ j.goNs + max 1 (s.dev.get R.TTA_WRN_CFG_QUERY_MS) * 1000000 ≤ e.ttaNs
      (¬ due → Completes c s fun d => d = e) ∧ (due → Completes c s fun d => wrn s d ∧ d.tta.regs = s.dev.tta.regs ∧ ask (rootTray j.trays) j.attempt (leAt j.desc 12 4) d)) ∧
    (id = 0 → (∀ o ∈ s.dev.tta.wrn.origins, o.1 = al → o.2.2.1 = true) → Completes c s fun d => d = e) ∧
    (∀ tag q p, id = 0 → s.dev.tta.wrn.origins = [(al, tag, false, q)] →
      (s.dev.tta.wrn.outbox.find? fun (p : Packet) => p.proto == 1 && leAt p.hdr 1 1 == 0x16 && leAt p.hdr 28 4 == tag) = some p →
      Completes c s fun d => wrn s d ∧ d.tta.regs = s.dev.tta.regs ∧ ask (trayOf p.dst) 0 tag d)) ∧
  (∀ (allot job : BitVec 16) (tick : Nat) (s : State),
    let c : Instr := .jobClose allot job tick
    let e := s.dev.advance .tta tick
    let al := allot.toNat
    let id := job.toNat
    (s.dev.jobOf al id = none → Completes c s fun d => d = e) ∧
    (∀ j, s.dev.jobOf al id = some j →
      let due : Prop := j.state = 2 ∧ j.endNs + 1000000 ≤ e.ttaNs
      let gone (d : Dev) : Prop := d.jobOf al id = none ∧ d.word .tta (R.TTA_BST_JOB.base + 8 * j.entry) = 0 ∧ Records .tta 0x3484 [id, (stampOf j.endNs).toNat] s d ∧ d.tdu = s.dev.tdu ∧ d.pins = s.dev.pins ∧
        (∀ r ∈ d.tta.wrn.rounds, ¬ (r.key.allot = al ∧ r.key.job = id)) ∧ (∀ m ∈ d.tta.wrn.merges, ¬ (m.key.allot = al ∧ m.key.job = id)) ∧
        d.get R.TTA_WRN_STAT_GROUPS = ((d.heldJobs.map fun j => (jobGroups j.desc).length).sum) % 2 ^ 13 ∧
        ∀ x, s.dev.decidedJob al id = some x → d.decidedJob al id = some { x with noneAt := some e.ttaNs }
      let noVotes : Prop := ∀ v ∈ s.dev.tta.chk.votes, ¬ (v.1 = j.slot ∧ v.2.1 = id)
      (¬ due → Completes c s fun d => d = e) ∧
      (due → j.entry < 64 → noVotes →
        ((∀ gd ∈ jobGraphs j.desc, ∀ hd g, s.dev.graphOf j.slot gd.1 = some hd → s.dev.graph hd = some g → g.run = none ∧ g.past = []) → RecorderRoom .tta s → Completes c s fun d => gone d ∧ others s d) ∧
        (∀ gd hd g r t f group sub, jobGraphs j.desc = [gd] → s.dev.graphOf j.slot gd.1 = some hd → s.dev.graph hd = some g → g.run = some r → g.past = [] → r.job = some id → s.dev.objsNumbered →
          ¬ (g.isRadio s.dev = true ∧ s.dev.follows = true) → t ∈ g.plan.phys → (∀ u ∈ g.plan.phys, ((s.dev.tile u).xfers.filter fun (f : Xfer) => f.round.isSome) = if u = t then [f] else []) →
          f.round = some (group, sub) → s.dev.shadowOf t = none → s.dev.ownObj t f.obj = true → s.dev.get (R.TTA_SYNC_TYPE.at f.obj) = 1 → (s.dev.tile t).storable (f.addr : Int) = true →
          RecorderRoomFor 3 .tta s → Completes c s fun d => gone d ∧ Records .tta 0x3406 [id, group, r.epoch / 4000 % 2 ^ 32, r.epoch % 4000, 1] s d ∧
            (d.tile t).xfers = (s.dev.tile t).xfers.filter (fun x => x.id != f.id) ∧
            (d.tile t).word f.addr = { v := (((s.dev.tile t).word f.addr).v &&& 0x00FFFFFFFFFFFFFF#64) ||| (BitVec.ofNat 64 6 <<< 56), p := ((s.dev.tile t).word f.addr).p } ∧
            d.get (R.TTA_SYNC_VALUE.at f.obj) = min (s.dev.get (R.TTA_SYNC_VALUE.at f.obj) + 1) (2 ^ 32 - 1)) ∧
        (∀ gd hd g p, jobGraphs j.desc = [gd] → s.dev.graphOf j.slot gd.1 = some hd → hd < 1024 → s.dev.graph hd = some g → g.run = none → g.past = [p] → p.passed = none → p.run.job = some id → g.ckpts = [] →
          g.plan.commitObj < 65536 → RecorderRoomFor 2 .tta s → Completes c s fun d => gone d ∧ Records .tta 0x3406 [id, 0, p.run.epoch / 4000 % 2 ^ 32, p.run.epoch % 4000, 1] s d ∧
            d.commitState g.plan.commitObj = 2 ∧ (d.graph hd).map (·.past) = some [])))) ∧
  (∀ (allot job : BitVec 16) (tick : Nat) (s : State),
    let e := s.dev.advance .tta tick
    Completes (.outcomeExpiry allot job tick) s fun d => d.tta.regs = s.dev.tta.regs ∧ others s d ∧ d.out = s.dev.out ∧ d.tta.wrn.jobs = s.dev.tta.wrn.jobs ∧
      ∀ x, x ∈ d.tta.wrn.deciding ↔ x ∈ s.dev.tta.wrn.deciding ∧ ¬ (x.allot = allot.toNat ∧ x.id = job.toNat ∧ ∃ t, x.noneAt = some t ∧ t + 10000000000 ≤ e.ttaNs))

/-- R357 to R363. -/
def Obligations.ExpulsionBudget : Prop :=
  let others (s : State) (d : Dev) : Prop := d.tdu = s.dev.tdu ∧ d.pins = s.dev.pins ∧ d.tta.tiles = s.dev.tta.tiles ∧ d.tta.graphs = s.dev.tta.graphs ∧ d.tta.hist = s.dev.tta.hist
  let bump (f : Fld) (s : State) (d : Dev) : Prop := d.get f = min (s.dev.get f + 1) 0xFFFF
  let acked (m : BudgetMsg) (type : Nat) (d : Dev) : Prop := PacketAcked 2 m.sender.toNat 0x24 (m.bytes type) false d
  let leaves (type : Nat) (m : BudgetMsg) (dst : Nat) (s : State) (d : Dev) : Prop := PacketLeaves 2 dst (({ m with sender := BitVec.ofNat 16 s.dev.ttaId } : BudgetMsg).bytes type) [] s.dev d
  let states (s : State) (d : Dev) : Prop := ∀ n, n < 16 → d.word .tta (R.TTA_DIE_STATE.base + 8 * n) = s.dev.word .tta (R.TTA_DIE_STATE.base + 8 * n)
  let entered (die st cause : Nat) (e : Dev) (s : State) (d : Dev) : Prop := d.dieState die = st ∧ d.get (R.TTA_DIE_STATE_CAUSE.at die) = cause ∧
    Records .tta 0x5010 [die, s.dev.dieState die, st, cause] s d ∧
    (s.dev.isUp (ttaEnd die) = true → ∀ a, a < 64 → ∃ f ∈ (d.port (ttaEnd die)).queue, ∃ t b, f.payload = .control t b (.regWrite (BitVec.ofNat 16 (0x4000 + 8 * a)) 0x1F00 0)) ∧
    (∀ n, s.dev.slotsOn die = [] ∧ n = 0 ∨ s.dev.slotsOn die = [n] ∧ n ≠ 0 ∧ n < 256 → Notifies (slotFn n) 5 ([1#8, 6#8] ++ leBytes 2 (s.dev.slotAllot n) ++ leBytes 2 0xFFFF ++
      epochBytes (ceilDiv e.ttaNs 250000) ++ leBytes 2 0 ++ leBytes 8 (6 + die * 2 ^ 8 + s.dev.ownTray * 2 ^ 16 + st * 2 ^ 32 + cause * 2 ^ 34) ++ List.replicate 24 0#8) s.dev d)
  let answered (m : BudgetMsg) (e : Dev) (s : State) (d : Dev) : Prop := let die := m.die.toNat
    (∀ x, x ≠ die → assocGet x d.tta.det.asked = assocGet x s.dev.tta.det.asked) ∧ assocGet die d.tta.det.asked = none ∧ Records .tta 0x5012 [die, m.serial.toNat, m.result.toNat, m.used.toNat] s d ∧
    (m.result ≠ 1 → s.dev.dieState die < 2 → entered die 2 1 e s d) ∧ (m.result = 1 → s.dev.dieState die = 0 → entered die 1 2 e s d) ∧
    (2 ≤ s.dev.dieState die ∨ (m.result = 1 ∧ 1 ≤ s.dev.dieState die) → states s d) ∧ ∀ n, n < 16 → n ≠ die → d.dieState n = s.dev.dieState n
  let heard (m : BudgetMsg) (a : PktAuth) (s : State) : Prop := HearsPacket 0 m.version.toNat a s.dev
  let reply (m : BudgetMsg) (result used : Nat) (s : State) (d : Dev) : Prop := ∀ t ∈ twinsOf m.tray.toNat, t ≠ s.dev.ttaId →
    leaves 0x22 { m with result := BitVec.ofNat 8 result, used := BitVec.ofNat 8 used, budget := BitVec.ofNat 8 (s.dev.get R.TTA_DET_CFG_BUDGET) } t s d
  (∀ (m : BudgetMsg) (a : PktAuth) (tick : Nat) (s : State), heard m a s →
    let c : Instr := .budgetRequest m a tick
    let e := s.dev.advance .tta tick
    let keeper : Prop := s.dev.ownTray % 32 = 0 ∧ s.dev.leads = true
    let again : Prop := m.flags.getLsbD 0 = true ∧ assocGet m.sender.toNat s.dev.tta.det.lastReq = some m.serial.toNat
    (¬ keeper ∨ again → Completes c s fun d => acked m 0x21 d ∧ others s d ∧ d.tta.det = s.dev.tta.det ∧ d.tta.regs = s.dev.tta.regs) ∧
    (keeper → ¬ again →
      let now := e.ttaNs / 1000000000
      let live := s.dev.tta.det.budget.filter fun g => decide (now < g.2.2 + max 1 (min 168 (s.dev.get R.TTA_DET_CFG_WINDOW_H)) * 3600)
      let lost := s.dev.bit R.TTA_EXPEL_STAT_LOG_LOST
      let B := s.dev.get R.TTA_DET_CFG_BUDGET
      let used := if lost then B else live.length
      let dup : Prop := ∃ g ∈ live, g.1 = m.tray.toNat ∧ g.2.1 = m.die.toNat ∧ now < g.2.2 + 60
      let g := (m.tray.toNat, m.die.toNat, now)
      let m' : BudgetMsg := { m with grantSec := BitVec.ofNat 48 now }
      let shown (n : Nat) (d : Dev) : Prop := d.get R.TTA_EXPEL_STAT_USED = n % 16 ∧ d.bit R.TTA_EXPEL_STAT_KEEPER = true
      (m.tray.toNat ≠ s.dev.ownTray →
        (dup → Completes c s fun d => acked m 0x21 d ∧ others s d ∧ d.tta.det.budget = s.dev.tta.det.budget ∧ reply m 2 used s d ∧ shown used d ∧ states s d) ∧
        (¬ dup → used < B → s.dev.twinState ≠ 0 → Completes c s fun d => acked m 0x21 d ∧ others s d ∧ d.tta.det.budget = live ++ [g] ∧ reply m' 0 (live.length + 1) s d ∧ shown (live.length + 1) d ∧
          bump R.TTA_EXPEL_STAT_GRANTED s d ∧ states s d) ∧
        (¬ dup → B ≤ used → Completes c s fun d => acked m 0x21 d ∧ others s d ∧ d.tta.det.budget = s.dev.tta.det.budget ∧ reply m 1 used s d ∧ shown used d ∧ bump R.TTA_EXPEL_STAT_REFUSED s d ∧ states s d)) ∧
      (¬ dup → used < B → s.dev.twinState = 0 → Completes c s fun d => acked m 0x21 d ∧ others s d ∧ d.tta.det.budget = live ++ [g] ∧ leaves 0x23 m' s.dev.partnerId s d ∧
        (∃ no, d.tta.det.pendingGrants = s.dev.tta.det.pendingGrants ++ [(no, m')] ∧ ∃ p ∈ d.tta.wrn.outbox, p.no = no ∧ p.dst = s.dev.partnerId ∧ p.proto = 2) ∧ states s d ∧
        d.get R.TTA_EXPEL_STAT_GRANTED = s.dev.get R.TTA_EXPEL_STAT_GRANTED) ∧
      (m.tray.toNat = s.dev.ownTray → m.die.toNat < 16 → RecorderRoomFor 2 .tta s →
        let r : Nat := if live.any fun g => g.1 == m.tray.toNat && g.2.1 == m.die.toNat && decide (now < g.2.2 + 60) then 2 else if used < B then 0 else 1
        let u : Nat := if r = 0 then live.length + 1 else used
        let m'' := if r = 0 then m' else m
        ¬ (r = 0 ∧ s.dev.twinState = 0) → Completes c s fun d => acked m 0x21 d ∧ reply m'' r u s d ∧ answered { m with result := BitVec.ofNat 8 r, used := BitVec.ofNat 8 u } e s d))) ∧
  (∀ (m : BudgetMsg) (a : PktAuth) (tick : Nat) (s : State), heard m a s →
    let e := s.dev.advance .tta tick
    let mine : Prop := m.tray.toNat = s.dev.ownTray ∧ m.die.toNat < 16
    (¬ mine → Completes (.answer m a tick) s fun d => acked m 0x22 d ∧ others s d ∧ d.tta.det = s.dev.tta.det ∧ d.tta.regs = s.dev.tta.regs) ∧
    (mine → RecorderRoomFor 2 .tta s → Completes (.answer m a tick) s fun d => acked m 0x22 d ∧ others s d ∧ answered m e s d) ∧
    let g := (m.tray.toNat, m.die.toNat, m.grantSec.toNat)
    (g ∈ s.dev.tta.det.budget → Completes (.log m a tick) s fun d => acked m 0x23 d ∧ others s d ∧ d.tta.det = s.dev.tta.det ∧ d.tta.regs = s.dev.tta.regs) ∧
    (g ∉ s.dev.tta.det.budget → Completes (.log m a tick) s fun d => acked m 0x23 d ∧ others s d ∧ d.tta.regs = s.dev.tta.regs ∧
      d.tta.det = { s.dev.tta.det with haveLog := true, budget := (s.dev.tta.det.budget.filter fun x => decide (e.ttaNs / 1000000000 < x.2.2 + max 1 (min 168 (s.dev.get R.TTA_DET_CFG_WINDOW_H)) * 3600)) ++ [g] })) ∧
  (∀ (no : Nat) (m : BudgetMsg) (a : PktAuth) (tick : Nat) (s : State),
    let c : Instr := .budgetAck no m a tick
    let e := s.dev.advance .tta tick
    (s.dev.packet no = none → Completes c s fun d => d = e) ∧
    (∀ p, s.dev.packet no = some p → heard m a s → m.sender.toNat = p.dst →
      (assocGet no s.dev.tta.det.pendingGrants = none → Completes c s fun d => others s d ∧ d.tta.det = s.dev.tta.det ∧ d.tta.regs = s.dev.tta.regs ∧ d.out = s.dev.out ∧
        d.tta.wrn.outbox = s.dev.tta.wrn.outbox.filter (fun x => x.no != no) ∧ ∀ x, x ∈ d.tta.wrn.suspects ↔ x ∈ s.dev.tta.wrn.suspects ∧ x ≠ (suspectKey p.allot p.job, p.dst)) ∧
      (∀ r, assocGet no s.dev.tta.det.pendingGrants = some r → r.tray.toNat ≠ s.dev.ownTray → Completes c s fun d => others s d ∧ assocGet no d.tta.det.pendingGrants = none ∧
        d.tta.det = { s.dev.tta.det with pendingGrants := d.tta.det.pendingGrants } ∧ bump R.TTA_EXPEL_STAT_GRANTED s d ∧ states s d ∧ (∀ x ∈ d.tta.wrn.outbox, x.no ≠ no ∨ s.dev.tta.wrn.nextNo ≤ no) ∧ reply r 0 e.budgetUsed s d) ∧
      (∀ r, assocGet no s.dev.tta.det.pendingGrants = some r → r.tray.toNat = s.dev.ownTray → r.die.toNat < 16 → RecorderRoomFor 2 .tta s → Completes c s fun d => others s d ∧
        bump R.TTA_EXPEL_STAT_GRANTED s d ∧ reply r 0 e.budgetUsed s d ∧ answered { r with result := 0, used := BitVec.ofNat 8 e.budgetUsed } e s d))) ∧
  (∀ (die : Fin 16) (tick : Nat) (s : State),
    let c : Instr := .expelAnswerTimeout die tick
    let e := s.dev.advance .tta tick
    (assocGet die.val s.dev.tta.det.asked = none → Completes c s fun d => d = e) ∧
    (∀ n, assocGet die.val s.dev.tta.det.asked = some n → RecorderRoomFor 2 .tta s → Completes c s fun d => others s d ∧ assocGet die.val d.tta.det.asked = none ∧
      Records .tta 0x5013 [die.val, n] s d ∧ (s.dev.dieState die.val = 0 → entered die.val 1 3 e s d) ∧ (s.dev.dieState die.val ≠ 0 → states s d ∧ d.out = s.dev.out))) ∧
  (∀ (die : Fin 16) (s : State),
    (s.dev.dieState die.val = 0 → Completes (.dieStateClear die) s fun d => states s d ∧ d.tdu = s.dev.tdu ∧ (s.dev.twinLinked → TwinSent 0 (.role (.dieClear die.val)) s.dev d)) ∧
    (s.dev.dieState die.val ≠ 0 → RecorderRoom .tta s → Completes (.dieStateClear die) s fun d => d.dieState die.val = 0 ∧ d.get (R.TTA_DIE_STATE_CAUSE.at die.val) = 0 ∧ others s d ∧
      Records .tta 0x5015 [die.val, s.dev.dieState die.val] s d ∧ (∀ n, n < 16 → n ≠ die.val → d.dieState n = s.dev.dieState n) ∧ (s.dev.twinLinked → TwinSent 0 (.role (.dieClear die.val)) s.dev d) ∧
      (s.dev.isUp (ttaEnd die.val) = true → ∀ a, a < 64 → ∃ f ∈ (d.port (ttaEnd die.val)).queue, ∃ t b, f.payload = .control t b (.regWrite (BitVec.ofNat 16 (0x4000 + 8 * a)) 0x1F00
        (BitVec.ofNat 64 (256 * min 16 (s.dev.get R.TTA_CHK_CFG_K_CAP))))))) ∧
  (∀ (tick : Nat) (s : State), Completes (.logLostExpiry tick) s fun d => d.bit R.TTA_EXPEL_STAT_LOG_LOST = false ∧ others s d ∧ d.tta.det = s.dev.tta.det ∧ d.out = s.dev.out ∧
    d.get R.TTA_EXPEL_STAT_USED = (if d.isKeeper then d.liveGrants.length % 16 else 0) ∧ RegsKept .tta [R.TTA_EXPEL_STAT.base] s d)

/-- R225, R374, R381, R393, R394. A FIELD_TEST orders only the named dies whose port is UP (log 51), and a second STEP_REOPEN takes the place of one that waits (log 50). -/
def Obligations.CheckDescriptors : Prop :=
  let others (s : State) (d : Dev) : Prop := d.tdu = s.dev.tdu ∧ d.pins = s.dev.pins ∧ d.tta.tiles = s.dev.tta.tiles ∧ d.tta.graphs = s.dev.tta.graphs ∧ d.tta.hist = s.dev.tta.hist ∧ d.tta.wrn = s.dev.tta.wrn
  (∀ (q : Desc) (k : BitVec 8) (s : State), DescRuns 0x50 q s.dev →
    let c : Instr := .checkSet q k
    let slot := descSlot q
    let al := s.dev.slotAllot slot
    let dies := (List.range 16).filter fun die => s.dev.isUp (ttaEnd die) && (s.dev.indexOn die al).isSome
    let told (d : Dev) : Prop := s.dev.twinLinked → TwinSent 0 (.role (.kReq al (min k.toNat 16))) s.dev d
    (s.dev.slotState slot ≠ 2 → Completes c s fun d => Completed q 4 [] s d ∧ others s d ∧ d.tta.links = s.dev.tta.links ∧ d.tta.chk = s.dev.tta.chk) ∧
    (s.dev.slotState slot = 2 → dies = [] → (∀ w ∈ s.dev.tta.chk.ctl, w.q ≠ some (0x50, q)) → Completes c s fun d => Completed q 0 [] s d ∧ told d ∧ others s d ∧ d.tta.chk = s.dev.tta.chk) ∧
    (s.dev.slotState slot = 2 → dies ≠ [] → Completes c s fun d => told d ∧ others s d ∧ (d.fnq q.fn).inflight = (s.dev.fnq q.fn).inflight ∧
      d.tta.chk.ctl.length = s.dev.tta.chk.ctl.length + dies.length ∧
      ∀ die ix, die ∈ dies → s.dev.indexOn die al = some ix → ∃ tag, ⟨die, tag, some (0x50, q)⟩ ∈ d.tta.chk.ctl ∧
        ∃ f ∈ (d.port (ttaEnd die)).queue, f.payload = .control (BitVec.ofNat 32 tag) true (.regWrite (BitVec.ofNat 16 (0x4000 + 8 * ix)) 0x1F (BitVec.ofNat 64 (min k.toNat 16))))) ∧
  (∀ (q : Desc) (job : BitVec 16) (sec : BitVec 48) (idx : BitVec 16) (s : State), DescRuns 0x51 q s.dev →
    let slot := descSlot q
    let req := sec.toNat * 4000 + idx.toNat
    Completes (.stepReopen q job sec idx) s fun d => ∃ b : Nat, req ≤ b ∧ s.dev.ttaNs + 100000 ≤ b * 250000 ∧ (b = req ∨ b * 250000 < s.dev.ttaNs + 350000) ∧
      d.slotX slot = { s.dev.slotX slot with reopen := some (job.toNat, b) } ∧ (∀ n, n ≠ slot → d.slotX n = s.dev.slotX n) ∧ d.bit (R.TTA_CHK_GATE_PENDING.at slot) = true ∧
      d.gateOpen slot = s.dev.gateOpen slot ∧ Completed q 0 [(20, 6, b / 4000), (26, 2, b % 4000)] s d ∧ others s d) ∧
  (∀ (tick slot job b : Nat) (x : Slot) (s : State),
    let e := s.dev.advance .tta tick
    let n := e.ttaNs / 250000
    e.timeValid .tta = true → s.dev.tta.ing.boundary < n → s.dev.tta.graphs = [] → s.dev.tta.retireDue = [] → s.dev.tta.tables = [] → s.dev.tta.slotsX = [(slot, x)] → slot < 256 →
      x.rotate = none → x.due = false → x.reopen = some (job, b) →
      (n < b → Completes (.ingestEpochBoundary tick) s fun d => d.slotX slot = x ∧ d.gateOpen slot = s.dev.gateOpen slot) ∧
      (b ≤ n → RecorderRoom .tta s → Completes (.ingestEpochBoundary tick) s fun d => (d.slotX slot).reopen = none ∧ d.gateOpen slot = true ∧ d.bit (R.TTA_CHK_GATE_PENDING.at slot) = false ∧
        (s.dev.gateOpen slot = false → Records .tta 0x4006 [slot, job, b / 4000 % 2 ^ 32, b % 4000] s d))) ∧
  (∀ (q : Desc) (dieMask classMask : BitVec 16) (s : State), DescRuns 0x52 q s.dev →
    let c : Instr := .fieldTest q dieMask classMask
    let named (die : Nat) : Prop := die < 16 ∧ dieMask.getLsbD die = true
    let strange : Prop := (∃ n, q.fn = .vf n) ∧ ∃ die, named die ∧ s.dev.indexOn die q.allot.toNat = none
    let busy : Prop := ∃ t ∈ s.dev.tta.chk.tests, ∃ die ∈ t.dies, named die
    let dies := (List.range 16).filter fun die => dieMask.getLsbD die && s.dev.isUp (ttaEnd die)
    (strange → Completes c s fun d => Completed q 4 [] s d ∧ others s d ∧ d.tta.chk = s.dev.tta.chk ∧ d.tta.links = s.dev.tta.links) ∧
    (¬ strange → busy → Completes c s fun d => Completed q 9 [] s d ∧ others s d ∧ d.tta.chk = s.dev.tta.chk ∧ d.tta.links = s.dev.tta.links) ∧
    (¬ strange → ¬ busy → (∀ t ∈ s.dev.tta.chk.tests, t.dies ≠ []) →
      (dies = [] → Completes c s fun d => Completed q 0 [(24, 2, 0)] s d ∧ others s d ∧ d.tta.chk.tests = s.dev.tta.chk.tests) ∧
      (dies ≠ [] → Completes c s fun d => others s d ∧ d.out = s.dev.out ∧ d.tta.chk.tests = s.dev.tta.chk.tests ++ [{ q := q, tag := s.dev.tta.chk.nextTag, dies := dies, failures := 0 }] ∧
        ∀ die ∈ dies, ∃ f ∈ (d.port (ttaEnd die)).queue, f.payload = .check (BitVec.ofNat 32 s.dev.tta.chk.nextTag) (.testOrder classMask)))) ∧
  (∀ (pass : Bool) (s : State),
    let c : Instr := .tileTestSweep pass
    let kept (s : State) (d : Dev) : Prop := d.tdu = s.dev.tdu ∧ d.pins = s.dev.pins ∧ d.out = s.dev.out ∧ d.tta.tiles = s.dev.tta.tiles ∧ d.tta.graphs = s.dev.tta.graphs
    ((∀ t, t < 10240 → s.dev.tileFree t = false) → Completes c s fun d => d = s.dev) ∧
    (∀ i, i < 10240 → s.dev.tileFree ((s.dev.tta.chk.sweep + i) % 10240) = true → (∀ j, j < i → s.dev.tileFree ((s.dev.tta.chk.sweep + j) % 10240) = false) →
      let t := (s.dev.tta.chk.sweep + i) % 10240
      let ret := s.dev.get (R.TTA_FAB_CLU_TILE_RET.at (t / 16))
      (pass = true → Completes c s fun d => kept s d ∧ d.tta.regs = s.dev.tta.regs ∧ d.tta.chk = { s.dev.tta.chk with sweep := (t + 1) % 10240 }) ∧
      (pass = false → ret.testBit (t % 16) = false → RecorderRoom .tta s → Completes c s fun d => kept s d ∧ d.tta.chk.sweep = (t + 1) % 10240 ∧
        (d.get (R.TTA_FAB_CLU_TILE_RET.at (t / 16))).testBit (t % 16) = true ∧ Records .tta 0x3103 [t, 2] s d ∧ t / 16 ∈ d.tta.retireDue)))

/-- R399 to R402, R442 to R450. Event 0x4050 itself is not reported (log 56). -/
def Obligations.EventRecorder : Prop :=
  let wordOf (p : Part) : Nat → Nat := fun i => (match p with | .tta => R.TTA_REC_PERM_MATCH.base | .tdu => R.TDU_REC_PERM_MATCH.base) + 8 * i
  let sp (p : Part) : Space := match p with | .tta => .tta | .tdu => .tdu
  let matched (p : Part) (code : BitVec 16) (s : State) : Prop := ∃ i, i < 4 ∧ (s.dev.word (sp p) (wordOf p i)).getLsbD 32 = true ∧
    code.toNat &&& ((s.dev.word (sp p) (wordOf p i)).toNat / 2 ^ 16 % 2 ^ 16) = (s.dev.word (sp p) (wordOf p i)).toNat % 2 ^ 16 &&& ((s.dev.word (sp p) (wordOf p i)).toNat / 2 ^ 16 % 2 ^ 16)
  let quals (p : Part) (q : QueuedRec) (s : State) : Prop := q.evt.code ≠ 0xF001 ∧ if p = .tta ∧ 0x80 ≤ q.evt.source.toNat then q.evt.flags.getLsbD 0 = true
    else q.evt.code.toNat < 0x1000 ∨ q.permAsked = true ∨ matched p q.evt.code s
  let form (p : Part) (q : QueuedRec) (r : Rec) (s : State) : Prop := let lost := q.evt.source ∈ (s.dev.recd p).droppedSrc
    (p = .tta → 0x80 ≤ q.evt.source.toNat → ¬ lost → r = q.evt) ∧
    (¬ (p = .tta ∧ 0x80 ≤ q.evt.source.toNat ∧ ¬ lost) → r = { q.evt with flags := r.flags, crc := crc32c r.body } ∧ (r.flags.getLsbD 0 = true ↔ quals p q s ∨ q.evt.flags.getLsbD 0 = true) ∧
      (r.flags.getLsbD 1 = true ↔ lost ∨ q.evt.flags.getLsbD 1 = true) ∧ ∀ i, 2 ≤ i → r.flags.getLsbD i = q.evt.flags.getLsbD i)
  let slot (p : Part) (n : Nat) (d : Dev) : Option Rec := assocGet n (d.recd p).circ
  let parts (p : Part) (s : State) (d : Dev) : Prop := d.pins = s.dev.pins ∧ match p with
    | .tta => d.tdu = s.dev.tdu ∧ d.tta = { s.dev.tta with recorder := d.tta.recorder, regs := d.tta.regs, rpt := d.tta.rpt }
    | .tdu => d.tta = s.dev.tta
  let calm (p : Part) (s : State) : Prop := s.dev.bit (snapMatchEn p) = false
  let next (p : Part) (q : QueuedRec) (s : State) : Prop := q ∈ (s.dev.recd p).queue ∧ nextRec (s.dev.recd p).queue = some q
  let still (p : Part) (q : QueuedRec) (s : State) : Prop := match p with
    | .tta => s.dev.tta.rpt.due = [] ∧ s.dev.bit R.TTA_RPT_CFG_ENABLE = false
    | .tdu => s.dev.isUp (.tdu 0) = true ∨ s.dev.isUp (.tdu 1) = true ∨ q.evt.code = 0x4050 ∨ q.evt.code = 0xF001
  (∀ (l : List QueuedRec) (q : QueuedRec), (nextRec l = none ↔ l = []) ∧
    (nextRec l = some q → q ∈ l ∧ ∀ x ∈ l, q.arrived < x.arrived ∨ (q.arrived = x.arrived ∧ q.evt.source.toNat ≤ x.evt.source.toNat))) ∧
  (∀ (p : Part) (up : Bool) (s : State),
    let c : Instr := .eventRecord p up
    let size := circSize p
    let n := s.dev.get (recCircNext p)
    let fill := s.dev.get (recPermFill p)
    let drops := s.dev.get (recPermDrop p)
    ((s.dev.recd p).queue = [] → (p = .tta → s.dev.tta.rpt.due = []) → Completes c s fun d => d = s.dev) ∧
    (∀ q, next p q s → still p q s → s.dev.bit (recFrozen p) = false → calm p s → n < size → Completes c s fun d => parts p s d ∧ (d.recd p).queue = (s.dev.recd p).queue.erase q ∧
      q.evt.source ∉ (d.recd p).droppedSrc ∧ (d.recd p).staging = (s.dev.recd p).staging ∧ ∃ r, form p q r s ∧
      (¬ quals p q s ∨ permSize p ≤ fill → slot p n d = some r ∧ (∀ k, k ≠ n → slot p k d = slot p k s.dev) ∧ (d.recd p).perm = (s.dev.recd p).perm ∧ d.get (recCircNext p) = (n + 1) % size ∧
        (n + 1 = size → d.bit (recWrapped p) = true) ∧ (¬ quals p q s → d.get (recPermDrop p) = drops) ∧
        (quals p q s → d.get (recPermDrop p) = min (drops + 1) 0x3FF) ∧ d.get (recPermFill p) = fill) ∧
      (quals p q s → fill + 1 < permSize p → slot p n d = some r ∧ (∀ k, k ≠ n → slot p k d = slot p k s.dev) ∧ (d.recd p).perm = (s.dev.recd p).perm ++ [r] ∧ d.get (recPermFill p) = fill + 1 ∧
        d.get (recCircNext p) = (n + 1) % size ∧ d.get (recPermDrop p) = drops) ∧
      (quals p q s → fill + 1 = permSize p → ∃ x, x.code = 0xF003 ∧ x.p0 = BitVec.ofNat 32 drops ∧ x.p1 = BitVec.ofNat 32 r.code.toNat ∧ x.flags.getLsbD 0 = true ∧ x.crc = crc32c x.body ∧
        (d.recd p).perm = (s.dev.recd p).perm ++ [x] ∧ slot p n d = some x ∧ slot p ((n + 1) % size) d = some r ∧ d.get (recPermFill p) = fill + 1 ∧ d.get (recCircNext p) = (n + 2) % size ∧
        d.get (recPermDrop p) = min (drops + 1) 0x3FF) ∧
      (p = .tdu → ∀ e : Fin 2, s.dev.isUp (.tdu e) = true → ∃ f ∈ (d.port (.tdu e)).queue, f.payload = .record [r])) ∧
    (∀ q, next p q s → still p q s → s.dev.bit (recFrozen p) = true → Completes c s fun d => parts p s d ∧ (d.recd p).queue = (s.dev.recd p).queue.erase q ∧ (d.recd p).circ = (s.dev.recd p).circ ∧
      (d.recd p).perm = (s.dev.recd p).perm ∧
      ((s.dev.recd p).staging.length < stagingSize p → (d.recd p).staging = (s.dev.recd p).staging ++ [q] ∧ d.get (recStaged p) = (s.dev.recd p).staging.length + 1) ∧
      (stagingSize p ≤ (s.dev.recd p).staging.length → (d.recd p).staging = (s.dev.recd p).staging ∧ (d.recd p).freezeDrops = (s.dev.recd p).freezeDrops + 1 ∧
        d.get (R.recStatLost p) = min (s.dev.get (R.recStatLost p) + 1) 0xFFFF ∧ ((s.dev.recd p).freezeDrops = 0 → (d.recd p).firstDrop = q.evt.stamp))) ∧
    (∀ q, p = .tdu → next p q s → s.dev.isUp (.tdu 0) = false → s.dev.isUp (.tdu 1) = false → q.evt.code ≠ 0x4050 → q.evt.code ≠ 0xF001 → s.dev.bit (recFrozen p) = false → calm p s → n < size →
      (s.dev.recd p).queue = [q] → Completes c s fun d => ∃ x r, form p q r s ∧ (d.recd p).queue = [x] ∧ x.permAsked = true ∧ x.evt.code = 0x4050 ∧ x.evt.p0 = BitVec.ofNat 32 r.source.toNat ∧
        x.evt.p1 = BitVec.ofNat 32 r.code.toNat ∧ x.evt.p2 = r.stamp ∧ (∃ k, slot p k d = some r) ∧ d.tta = s.dev.tta)) ∧
  (∀ (p : Part) (s : State), Completes (.freeze p true) s fun d => d.bit (recFrozen p) = true ∧ d.bit (recFreeze p) = true ∧ parts p s d ∧ d.recd p = s.dev.recd p) ∧
  (∀ (p : Part) (s : State),
    let n := s.dev.get (recCircNext p)
    let size := circSize p
    let rc := s.dev.recd p
    let open_ (d : Dev) : Prop := d.bit (recFrozen p) = false ∧ d.bit (recFreeze p) = false ∧ d.get (recStaged p) = 0 ∧ (d.recd p).staging = [] ∧ (d.recd p).freezeDrops = 0 ∧ parts p s d ∧ (d.recd p).queue = rc.queue
    let plain : Prop := calm p s ∧ ¬ matched p 0xF002 s ∧ ¬ matched p 0xF004 s ∧ n + 3 < size
    (s.dev.bit (recFrozen p) = false → Completes (.freeze p false) s (fun d => d = s.dev) ∧ Completes (.freezeTimeout p) s fun d => d = s.dev) ∧
    (s.dev.bit (recFrozen p) = true → plain → rc.staging = [] →
      (rc.freezeDrops = 0 → Completes (.freeze p false) s (fun d => open_ d ∧ (d.recd p).circ = rc.circ ∧ (d.recd p).perm = rc.perm) ∧
        Completes (.freezeTimeout p) s fun d => open_ d ∧ (∃ x, slot p n d = some x ∧ x.code = 0xF004 ∧ x.p0 = BitVec.ofNat 32 (max 1 (min 1000 (s.dev.get (recFreezeMs p)))) ∧ x.stamp = s.dev.stamp p) ∧
          d.get (recCircNext p) = n + 1) ∧
      (0 < rc.freezeDrops → Completes (.freeze p false) s (fun d => open_ d ∧ (∃ x, slot p n d = some x ∧ x.code = 0xF002 ∧ x.p0 = BitVec.ofNat 32 rc.freezeDrops ∧ x.p1 = rc.firstDrop) ∧ d.get (recCircNext p) = n + 1) ∧
        Completes (.freezeTimeout p) s fun d => open_ d ∧ (∃ x, slot p n d = some x ∧ x.code = 0xF002) ∧ (∃ x, slot p (n + 1) d = some x ∧ x.code = 0xF004) ∧ d.get (recCircNext p) = n + 2)) ∧
    (∀ q, s.dev.bit (recFrozen p) = true → plain → rc.staging = [q] → ¬ quals p q s → rc.freezeDrops = 0 →
      Completes (.freeze p false) s (fun d => open_ d ∧ (∃ r, form p q r s ∧ slot p n d = some r) ∧ d.get (recCircNext p) = n + 1) ∧
      Completes (.freezeTimeout p) s fun d => open_ d ∧ (∃ r, form p q r s ∧ slot p n d = some r) ∧ (∃ x, slot p (n + 1) d = some x ∧ x.code = 0xF004))) ∧
  (∀ (p : Part) (s : State), Completes (.permClr p) s fun d => (d.recd p).perm = [] ∧ d.get (recPermFill p) = 0 ∧ d.recd p = { s.dev.recd p with perm := [] } ∧ parts p s d) ∧
  (∀ (p : Part) (v : W64) (s : State), Completes (.recSel p v) s fun d => d.recd p = s.dev.recd p ∧ parts p s d ∧
    d.get (recSelArea p) = v.toNat / 2 ^ 14 % 2 ∧ d.get (recSelIndex p) = v.toNat % 2 ^ 14 ∧
    let i := d.get (recSelIndex p)
    let r := if v.getLsbD 14 then (s.dev.recd p).perm[min i (permSize p - 1)]? else slot p (min i (circSize p - 1)) s.dev
    ∀ k, k < 4 → d.get ((recData p).at k) = (match r with | some r => leAt r.bytes (8 * k) 8 | none => 0)) ∧
  (∀ (up : Bool) (q : QueuedRec) (s : State), (s.dev.recd .tta).queue = [] → s.dev.tta.rpt.due = [q] →
    let c : Instr := .eventRecord .tta up
    let x := s.dev.tta.rpt
    let sec := s.dev.tta.time.base.tick / 1000000000
    let sent := if x.second = sec then x.inSecond else 0
    let told : Prop := s.dev.bit R.TTA_RPT_CFG_ENABLE = true ∧ (s.dev.get R.TTA_RPT_CFG_RANGE_MASK).testBit (q.evt.code.toNat / 4096) = true ∧ q.evt.code ≠ 0x4050
    (¬ told → Completes c s fun d => d.tta.rpt = { x with due := [] } ∧ d.out = s.dev.out ∧ d.tta.regs = s.dev.tta.regs ∧ parts .tta s d) ∧
    (told → 1024 ≤ sent → Completes c s fun d => d.tta.rpt = { x with due := [], coalesced := min 65535 (x.coalesced + 1), second := sec, inSecond := sent } ∧ d.out = s.dev.out ∧ parts .tta s d ∧
      d.get R.TTA_RPT_STAT_COALESCED = min (s.dev.get R.TTA_RPT_STAT_COALESCED + 1) (2 ^ R.TTA_RPT_STAT_COALESCED.width - 1)) ∧
    (told → sent < 1024 → up = true → Completes c s fun d => ∃ rp b, d.out = .report b :: s.dev.out ∧ d.tta.rpt = { x with due := [], num := x.num + 1, coalesced := 0, second := sec, inSecond := sent + 1, out := x.out ++ [rp] } ∧
      rp.num = x.num ∧ rp.sends = 1 ∧ rp.evt.code = q.evt.code ∧ rp.evt.stamp = q.evt.stamp ∧ b.length = 64 ∧ leAt b 0 1 = 1 ∧ leAt b 1 1 = 0x31 ∧ leAt b 2 1 = 0 ∧
      leAt b 3 1 = (if q.evt.source.toNat < 0x80 then 0xFF else q.evt.source.toNat % 16) ∧ leAt b 4 2 = s.dev.ttaId % 2 ^ 16 ∧ leAt b 6 2 = x.coalesced % 2 ^ 16 ∧ leAt b 8 4 = x.num % 2 ^ 32 ∧ leAt b 24 4 = x.num / 2 ^ 32 % 2 ^ 32 ∧
      b.drop 32 = rp.evt.bytes ∧ (0x80 ≤ q.evt.source.toNat → rp.evt = q.evt) ∧ (q.evt.source.toNat < 0x80 → rp.evt.crc = crc32c rp.evt.body) ∧
      (q.evt.flags.getLsbD 2 = false → leAt b 12 6 = (extendStamp s.dev.ttaNs q.evt.stamp.toNat).toNat / 10 ^ 9 % 2 ^ 48 ∧ leAt b 18 4 = (extendStamp s.dev.ttaNs q.evt.stamp.toNat).toNat % 10 ^ 9)) ∧
    (told → sent < 1024 → up = false → RecorderRoom .tta s → Completes c s fun d => d.tta.rpt = { x with due := d.tta.rpt.due, num := x.num + 1, coalesced := 0, second := sec, inSecond := sent + 1 } ∧ d.out = s.dev.out ∧
      d.get R.TTA_RPT_STAT_UNDELIVERED = min (s.dev.get R.TTA_RPT_STAT_UNDELIVERED + 1) (2 ^ R.TTA_RPT_STAT_UNDELIVERED.width - 1) ∧
      Recorded .tta 0x4050 [q.evt.source.toNat, q.evt.code.toNat, q.evt.stamp.toNat] s d)) ∧
  (∀ (num : W64) (tagOk : Bool) (s : State),
    let x := s.dev.tta.rpt
    let known : Prop := ∃ r ∈ x.out, r.num = num.toNat
    (tagOk = false ∨ ¬ known → Completes (.reportAck num tagOk) s fun d => d = s.dev) ∧
    (tagOk = true → known → Completes (.reportAck num tagOk) s fun d => d.tta.rpt = { x with out := x.out.filter fun r => r.num != num.toNat } ∧ d.out = s.dev.out ∧ parts .tta s d ∧
      d.get R.TTA_RPT_STAT_SENT = min (s.dev.get R.TTA_RPT_STAT_SENT + 1) (2 ^ R.TTA_RPT_STAT_SENT.width - 1))) ∧
  (∀ (num : W64) (up : Bool) (s : State),
    let x := s.dev.tta.rpt
    let c : Instr := .reportResend num up
    ((∀ r ∈ x.out, r.num ≠ num.toNat) → Completes c s fun d => d = s.dev) ∧
    (∀ r, (x.out.find? fun r => r.num = num.toNat) = some r →
      (r.sends < 8 → Completes c s fun d => d.tta.rpt = { x with out := x.out.map fun r => if r.num = num.toNat then { r with sends := r.sends + 1 } else r } ∧ parts .tta s d ∧ d.tta.regs = s.dev.tta.regs ∧
        (up = false → d.out = s.dev.out) ∧ (up = true → ∃ b, d.out = .report b :: s.dev.out ∧ leAt b 2 1 = 1 ∧ b.drop 3 = (r.bytes s.dev.ttaId false).drop 3)) ∧
      (8 ≤ r.sends → RecorderRoom .tta s → Completes c s fun d => (∀ y ∈ d.tta.rpt.out, y.num ≠ num.toNat) ∧ d.out = s.dev.out ∧
        d.get R.TTA_RPT_STAT_UNDELIVERED = min (s.dev.get R.TTA_RPT_STAT_UNDELIVERED + 1) (2 ^ R.TTA_RPT_STAT_UNDELIVERED.width - 1) ∧
        Recorded .tta 0x4050 [r.evt.source.toNat, r.evt.code.toNat, r.evt.stamp.toNat] s d))) ∧
  (∀ (k : Fin 4) (v : W64) (s : State), Completes (.rptKeyWrite k v) s fun d => parts .tta s d ∧ d.tta.regs = s.dev.tta.regs ∧ d.out = s.dev.out ∧
    d.tta.rpt = { s.dev.tta.rpt with key := d.tta.rpt.key } ∧ assocGet k.val d.tta.rpt.key = some ((assocGet k.val s.dev.tta.rpt.key).getD v) ∧
    ∀ j, j ≠ k.val → assocGet j d.tta.rpt.key = assocGet j s.dev.tta.rpt.key)

/-- R54, R451 to R454. Every bound tile has captured when the snapshot is complete (log 60). -/
def Obligations.Snapshots : Prop :=
  let parts (p : Part) (s : State) (d : Dev) : Prop := d.pins = s.dev.pins ∧ d.out = s.dev.out ∧ d.freeIx = s.dev.freeIx ∧ match p with
    | .tta => d.tdu = s.dev.tdu ∧ d.tta.tiles = s.dev.tta.tiles ∧ d.tta.graphs = s.dev.tta.graphs ∧ d.tta.hist = s.dev.tta.hist ∧ d.tta.slotsX = s.dev.tta.slotsX
    | .tdu => d.tta = s.dev.tta ∧ d.tdu = { s.dev.tdu with regs := d.tdu.regs, recorder := d.tdu.recorder, snap := d.tdu.snap, latched := d.tdu.latched, time := d.tdu.time }
  let sp (p : Part) : Space := match p with | .tta => .tta | .tdu => .tdu
  let latchOf (p : Part) (d : Dev) : Option (Memory W64) := match p with | .tta => d.tta.latched | .tdu => d.tdu.latched
  let statOf (p : Part) : Nat := match p with | .tta => R.TTA_SNAP_STAT.base | .tdu => R.TDU_SNAP_STAT.base
  let took (p : Part) (s : State) (d : Dev) : Prop := ∃ m, latchOf p d = some m ∧ ∀ a, a ∉ computedAddrs p → a ≠ statOf p → (p = .tta → a < 0x80000 ∨ (0x100000 ≤ a ∧ a < 0x200000)) →
    Memory.read (Regs.resetOf (sp p)) m a = s.dev.word (sp p) a
  let trigger (c : Instr) (p : Part) (src earliest : Nat) (s : State) : Prop :=
    let incl : Prop := p = .tta ∧ s.dev.bit R.TTA_SNAP_CTL_INCL_TDU = true
    let first := max (s.dev.nowNs p + 20000) earliest
    (s.dev.bit (snapBusy p) = true → RecorderRoom p s → Completes c s fun d => d.get (snapIgnored p) = min (s.dev.get (snapIgnored p) + 1) 0xFFFF ∧ Recorded p 0xF011 [src] s d ∧ parts p s d ∧
      d.snapOf p = s.dev.snapOf p ∧ latchOf p d = latchOf p s.dev) ∧
    (s.dev.bit (snapBusy p) = false → s.dev.timeValid p = true → Completes c s fun d => parts p s d ∧ ∃ T n : Nat, T % 1000 = 0 ∧ first ≤ T ∧ T < first + 1000 ∧
      d.snapOf p = some { tNs := T, source := src, tdus := n } ∧ d.bit (snapBusy p) = true ∧ d.bit (snapValid p) = false ∧ d.get (snapSource p) = src ∧ latchOf p d = latchOf p s.dev ∧
      (¬ incl → n = 0) ∧ (incl → n = ((List.range 16).filter fun i => s.dev.isUp (ttaEnd i)).length ∧
        ∀ i, i < 16 → s.dev.isUp (ttaEnd i) = true → ∃ f ∈ (d.port (ttaEnd i)).queue, ∃ t b, f.payload = .control t b (.snapshot T))) ∧
    (s.dev.bit (snapBusy p) = false → s.dev.timeValid p = false → RecorderRoom p s → Completes c s fun d => parts p s d ∧ took p s d ∧ d.get (snapSource p) = src ∧ d.get (snapStamp p) = (s.dev.stamp p).toNat ∧
      (p = .tta → d.snapOf p = some { tNs := 0, source := src, wave := true } ∧ d.bit (snapBusy p) = true ∧ d.bit (snapValid p) = false) ∧
      (p = .tdu → d.snapOf p = none ∧ d.bit (snapBusy p) = false ∧ d.bit (snapValid p) = true ∧ Recorded p 0xF010 [(s.dev.stamp p).toNat, src, 0, 1] s d))
  (∀ (p : Part) (s : State), trigger (.snapTrig p) p 0 0 s ∧ trigger (.snapDebugTrigger p) p 3 0 s) ∧ (∀ s : State, trigger .snapArmAt .tta 1 (s.dev.get R.TTA_SNAP_AT_NS) s) ∧
  (∀ (p : Part) (up : Bool) (q : QueuedRec) (s : State),
    let w := s.dev.word (sp p) (match p with | .tta => R.TTA_SNAP_MATCH.base | .tdu => R.TDU_SNAP_MATCH.base)
    let mask := w.toNat / 2 ^ 16 % 2 ^ 16
    nextRec (s.dev.recd p).queue = some q → s.dev.bit (recFrozen p) = false → s.dev.bit (snapMatchEn p) = true → w.toNat % 2 ^ 16 &&& mask = q.evt.code.toNat &&& mask →
      s.dev.bit (snapBusy p) = false → s.dev.timeValid p = true → Completes (.eventRecord p up) s fun d => d.bit (snapBusy p) = true ∧ d.get (snapSource p) = 2 ∧
        ∃ T n : Nat, d.snapOf p = some { tNs := T, source := 2, tdus := n } ∧ T % 1000 = 0 ∧ s.dev.nowNs p + 20000 ≤ T ∧ T < s.dev.nowNs p + 21000) ∧
  (∀ (p : Part) (tick : Nat) (s : State),
    let c : Instr := .snapLatch p tick
    let e := s.dev.advance p tick
    (s.dev.snapOf p = none → Completes c s fun d => d = e) ∧
    (∀ x, s.dev.snapOf p = some x →
      (x.wave = true ∨ e.nowNs p < x.tNs → Completes c s fun d => d = e) ∧
      (x.wave = false → x.tNs ≤ e.nowNs p → RecorderRoom p s → Completes c s fun d => parts p s d ∧ took p s d ∧ d.get (snapStamp p) = (e.stamp p).toNat ∧
        (p = .tta → d.snapOf p = some { x with wave := true } ∧ d.bit (snapBusy p) = s.dev.bit (snapBusy p)) ∧
        (p = .tdu → d.snapOf p = none ∧ d.bit (snapBusy p) = false ∧ d.bit (snapValid p) = true ∧ (x.source = 4 → (d.recd p).queue = (s.dev.recd p).queue) ∧
          (x.source ≠ 4 → Recorded p 0xF010 [(e.stamp p).toNat, x.source, 0, 1] s d))))) ∧
  (∀ (t : Fin 10240) (s : State),
    let c : Instr := .tileCapture t
    let tile := s.dev.tile t.val
    ((s.dev.tta.snap = none ∨ tile.use = none) → Completes c s fun d => d = s.dev) ∧
    (∀ x u g, s.dev.tta.snap = some x → tile.use = some u → s.dev.graph u.handle = some g →
      let may : Prop := x.wave = true ∧ t.val ∉ x.cut ∧ tile.xfers = [] ∧ s.dev.tileRetired t.val = false
      let sealed := (s.dev.slotX g.slot).sealed
      let key := g.gid * 2 ^ 14 + (if u.shadow then g.plan.p + (g.plan.shadows.idxOf t.val) else u.logical)
      (¬ may → Completes c s fun d => d = s.dev) ∧
      (may → (u.shadow = true → t.val ∈ g.plan.shadows) → Completes c s fun d => d.tdu = s.dev.tdu ∧ d.out = s.dev.out ∧ d.tta = { s.dev.tta with snap := some { x with cut := t.val :: x.cut }, slotsX := d.tta.slotsX } ∧
        (∀ n, n ≠ g.slot → d.slotX n = s.dev.slotX n) ∧ d.slotX g.slot = { s.dev.slotX g.slot with snaps := (d.slotX g.slot).snaps } ∧
        assocGet key (d.slotX g.slot).snaps = some { bytes := if sealed then [] else tile.control, stamp := BitVec.ofNat 32 (s.dev.get R.TTA_SNAP_STAT_STAMP)
                                                     workGen := s.dev.get (R.TTA_ALT_ENTRY_WORK_GEN.at g.slot), sealed := sealed } ∧
        ∀ k, k ≠ key → assocGet k (d.slotX g.slot).snaps = assocGet k (s.dev.slotX g.slot).snaps))) ∧
  (∀ s : State,
    let bound (t : Nat) : Prop := (s.dev.tile t).use ≠ none ∧ s.dev.tileRetired t = false
    (s.dev.tta.snap = none → Completes .snapComplete s fun d => d = s.dev) ∧
    (∀ x, s.dev.tta.snap = some x → (x.wave = false ∨ ∃ t, bound t ∧ t ∉ x.cut) → Completes .snapComplete s fun d => d = s.dev) ∧
    (∀ x, s.dev.tta.snap = some x → x.wave = true → (∀ t, bound t → t ∈ x.cut) → RecorderRoom .tta s → Completes .snapComplete s fun d => d.tta.snap = none ∧ d.bit R.TTA_SNAP_STAT_BUSY = false ∧
      d.bit R.TTA_SNAP_STAT_VALID = true ∧ Recorded .tta 0xF010 [s.dev.get R.TTA_SNAP_STAT_STAMP, x.source, x.cut.length, x.tdus] s d ∧ parts .tta s d ∧ d.tta.latched = s.dev.tta.latched))

/-- R436 to R441. The stream of a COMPRESS job is the command's operand, and the unit's ciphertext is free (log 59). -/
def Obligations.CompressionEngine : Prop :=
  let entries (d : Dev) : Nat := 2 ^ max 4 (min 8 (d.get R.TTA_CMP_RING_CFG_SIZE_LOG2))
  let frame (s : State) (d : Dev) : Prop := d.tdu = s.dev.tdu ∧ d.pins = s.dev.pins ∧ ∃ h r m, d.tta = { s.dev.tta with hist := h, regs := r, cmp := d.tta.cmp, recorder := m }
  let calm (s : State) (d : Dev) : Prop := frame s d ∧ d.out = s.dev.out ∧ d.tta.hist = s.dev.tta.hist ∧ d.tta.recorder = s.dev.tta.recorder ∧ d.freeIx = s.dev.freeIx ∧
    ∀ a, a ≠ R.TTA_CMP_RING_CFG.base → d.word .tta a = s.dev.word .tta a
  let took (n : Nat) (d : Dev) : Prop := d.tta.cmp.taken = n ∧ (d.bit R.TTA_CMP_RING_CFG_IDLE = true ↔ n = 0)
  let byteAt (d : Dev) (a : Nat) : Option Nat := (d.histAt a).map fun x => x.w.v.toNat / 2 ^ (8 * (a % 8)) % 256
  let holds (bs : List Byte) (dst : Nat) (s : State) (d : Dev) : Prop := (∀ k, k < bs.length → byteAt d (dst + k) = some (bs.getD k 0).toNat) ∧
    (∀ a, a < dst / 8 * 8 ∨ (dst + bs.length + 7) / 8 * 8 ≤ a → d.histAt a = s.dev.histAt a) ∧ ∀ a, (a < dst ∨ dst + bs.length ≤ a) → s.dev.histAt a ≠ none → byteAt d a = byteAt s.dev a
  let outside (dst n : Nat) (s : State) (d : Dev) : Prop := ∀ a, a < dst / 8 * 8 ∨ (dst + n + 7) / 8 * 8 ≤ a → d.histAt a = s.dev.histAt a
  let ended (status : Nat) (fields : List (Nat × Nat × Nat)) (s : State) (d : Dev) : Prop := frame s d ∧ (∀ a, a ≠ R.TTA_CMP_RING_CFG.base → a ≠ R.TTA_CMP_STAT.base → d.word .tta a = s.dev.word .tta a) ∧
    let ci := s.dev.get R.TTA_CMP_RING_CFG_CI
    d.out = .cmpDone (ci % entries s.dev) ((4, 1, status) :: fields) :: s.dev.out ∧ d.get R.TTA_CMP_RING_CFG_CI = (ci + 1) % 65536 ∧ d.get R.TTA_CMP_RING_CFG_PI = s.dev.get R.TTA_CMP_RING_CFG_PI ∧
    d.tta.cmp.posted = s.dev.tta.cmp.posted.drop 1 ∧ took (if s.dev.bit R.TTA_CMP_RING_CFG_ENABLE then min 4 (s.dev.tta.cmp.posted.length - 1) else s.dev.tta.cmp.taken - 1) d ∧
    d.get R.TTA_CMP_STAT_JOBS_OK = min (s.dev.get R.TTA_CMP_STAT_JOBS_OK + (if status = 0 then 1 else 0)) 0xFFFFFFFF ∧
    d.get R.TTA_CMP_STAT_JOBS_ERR = min (s.dev.get R.TTA_CMP_STAT_JOBS_ERR + (if status = 0 then 0 else 1)) 0xFFFF ∧
    d.get R.TTA_CMP_STAT_MISMATCH = min (s.dev.get R.TTA_CMP_STAT_MISMATCH + (if status = 0x14 then 1 else 0)) 0xFFFF
  let quiet (s : State) (d : Dev) : Prop := d.tta.hist = s.dev.tta.hist ∧ d.tta.recorder = s.dev.tta.recorder ∧ d.freeIx = s.dev.freeIx
  let sys (a n : Nat) : Prop := 0x3F00000000 ≤ a ∧ a + n ≤ 0x4000000000
  let cut (j : CmpJob) (s : State) : Prop := (∃ l ∈ s.dev.tta.cmp.posted.head?, j.allot.toNat ∈ l) ∨ ∃ k, s.dev.slotHolding j.allot.toNat = some k ∧ s.dev.slotState k = 4
  let badForm (j : CmpJob) : Prop := (j.op ≠ 1 ∧ j.op ≠ 2) ∨ 4 ≤ j.flags.toNat ∨ j.reserved = true
  let zero (j : CmpJob) : Prop := j.srcLen = 0 ∨ j.dstCap = 0
  let skew (j : CmpJob) : Prop := j.op = 1 ∧ j.src.toNat % 32 ≠ 0
  let shut (j : CmpJob) : Prop := ¬ sys j.dst.toNat j.dstCap.toNat ∨ (j.allot ≠ 0 ∧ j.flags.getLsbD 1 = false) ∨ (j.op = 2 ∧ (j.allot ≠ 0 ∨ ¬ sys j.src.toNat j.srcLen.toNat))
  let own (j : CmpJob) : Prop := j.allot = 0 ∧ sys j.src.toNat j.srcLen.toNat
  let words (j : CmpJob) : Nat := ceilDiv j.srcLen.toNat 8
  let noSource (j : CmpJob) (s : State) : Prop := j.op = 1 ∧ (s.dev.slotHolding j.allot.toNat = none ∨ ∃ k, s.dev.slotHolding j.allot.toNat = some k ∧ ¬ (k = 0 ∧ sys j.src.toNat j.srcLen.toNat) ∧
    (s.dev.denied k 0xFFFF j.src.toNat (words j) false = true ∨ (s.dev.gather k 0xFFFF j.src.toNat (words j)).1.1 = 4))
  let stale (j : CmpJob) (s : State) : Prop := if j.op = 2 then s.dev.histStale (s.dev.storeGen 0) (j.src.toNat / 8 * 8) (ceilDiv (j.src.toNat + j.srcLen.toNat - j.src.toNat / 8 * 8) 8) = true
    else ∃ k, s.dev.slotHolding j.allot.toNat = some k ∧ if k = 0 ∧ sys j.src.toNat j.srcLen.toNat then s.dev.histStale (s.dev.storeGen 0) j.src.toNat (words j) = true
      else (s.dev.gather k 0xFFFF j.src.toNat (words j)).1.1 = 0xC
  let passes (j : CmpJob) (s : State) : Prop := ¬ cut j s ∧ ¬ badForm j ∧ ¬ zero j ∧ ¬ skew j ∧ ¬ shut j ∧ ¬ noSource j s ∧ ¬ stale j s
  let reached (j : CmpJob) (s : State) : Prop := s.dev.tta.cmp.taken ≠ 0 ∧ s.dev.pageAwaited j.src.toNat j.srcLen.toNat = false
  let checked (c : Instr) (j : CmpJob) (s : State) : Prop :=
    (¬ reached j s → Completes c s fun d => d = s.dev) ∧
    (reached j s → (cut j s → Completes c s fun d => ended 0xC [(36, 4, 0)] s d ∧ quiet s d) ∧
      (¬ cut j s → (badForm j → Completes c s fun d => ended 4 [] s d ∧ quiet s d) ∧
        (¬ badForm j → (zero j → Completes c s fun d => ended 1 [] s d ∧ quiet s d) ∧
          (¬ zero j → (skew j → Completes c s fun d => ended 3 [] s d ∧ quiet s d) ∧
            (¬ skew j → (shut j ∨ noSource j s → Completes c s fun d => ended 4 [] s d ∧ quiet s d) ∧
              (¬ shut j → ¬ noSource j s → stale j s → Completes c s fun d => ended 0xC [(36, 4, 0)] s d ∧ quiet s d))))))
  (∀ (pi : BitVec 16) (s : State),
    let c : Instr := .cmpDoorbell pi
    let ci := s.dev.get R.TTA_CMP_RING_CFG_CI
    let used := (pi.toNat + 65536 - ci) % 65536
    let x := s.dev.tta.cmp
    (entries s.dev < used → Completes c s fun d => d = s.dev) ∧
    (used ≤ entries s.dev → x.posted.length ≤ used → Completes c s fun d => calm s d ∧ d.get R.TTA_CMP_RING_CFG_PI = pi.toNat ∧ d.get R.TTA_CMP_RING_CFG_CI = ci ∧
      d.bit R.TTA_CMP_RING_CFG_ENABLE = s.dev.bit R.TTA_CMP_RING_CFG_ENABLE ∧ d.tta.cmp.posted.length = used ∧ d.tta.cmp.posted.take x.posted.length = x.posted ∧
      took (if s.dev.bit R.TTA_CMP_RING_CFG_ENABLE then min 4 d.tta.cmp.posted.length else x.taken) d) ∧
    (used ≤ entries s.dev → used < x.posted.length → Completes c s fun d => calm s d ∧ d.get R.TTA_CMP_RING_CFG_PI = pi.toNat ∧ d.get R.TTA_CMP_RING_CFG_CI = ci ∧
      d.tta.cmp.posted = x.posted.take (max used x.taken))) ∧
  (∀ (on : Bool) (s : State),
    let c : Instr := .cmpEnable on
    (on = true → s.dev.bit R.TTA_CMP_RING_CFG_ENABLE = false → Completes c s fun d => calm s d ∧ d.bit R.TTA_CMP_RING_CFG_ENABLE = true ∧ d.get R.TTA_CMP_RING_CFG_PI = 0 ∧ d.get R.TTA_CMP_RING_CFG_CI = 0 ∧
      d.tta.cmp.posted = [] ∧ took 0 d) ∧
    (on = false ∨ s.dev.bit R.TTA_CMP_RING_CFG_ENABLE = true → Completes c s fun d => calm s d ∧ d.bit R.TTA_CMP_RING_CFG_ENABLE = on ∧ d.get R.TTA_CMP_RING_CFG_PI = s.dev.get R.TTA_CMP_RING_CFG_PI ∧
      d.get R.TTA_CMP_RING_CFG_CI = s.dev.get R.TTA_CMP_RING_CFG_CI ∧ d.bit R.TTA_CMP_RING_CFG_IDLE = s.dev.bit R.TTA_CMP_RING_CFG_IDLE ∧ d.tta.cmp = s.dev.tta.cmp)) ∧
  (∀ (j : CmpJob) (stream : List (BitVec 8)) (s : State), (j.op = 2 → Completes (.compress j stream) s fun d => d = s.dev) ∧ (j.op ≠ 2 → checked (.compress j stream) j s)) ∧
  (∀ (j : CmpJob) (s : State), (j.op = 1 → Completes (.decompress j) s fun d => d = s.dev) ∧ (j.op ≠ 1 → checked (.decompress j) j s)) ∧
  (∀ (j : CmpJob) (stream : List (BitVec 8)) (s : State), j.op = 1 → reached j s → passes j s →
    let c : Instr := .compress j stream
    let src := (s.dev.cmpSource j).1
    let bs := src.1
    let dst := j.dst.toNat
    let cap := j.dstCap.toNat
    let sealed := j.flags.getLsbD 1
    let len := stream.length + (if sealed then 48 else 0)
    let x := inflate stream bs.length
    let same : Prop := x.err = none ∧ x.bytes = bs
    (own j → src = (s.dev.histBytes j.src.toNat j.srcLen.toNat).1) ∧
    (¬ own j → ∀ k, s.dev.slotHolding j.allot.toNat = some k → let g := (s.dev.gather k 0xFFFF j.src.toNat (words j)).1
      bs = ((g.2.flatMap fun w => leBytes 8 w.v.toNat).take j.srcLen.toNat) ∧ (src.2 = true ↔ g.1 = 5 ∨ ∃ w ∈ g.2, w.p = true)) ∧
    (src.2 = true → Completes c s fun d => ended 5 [(36, 4, 0)] s d ∧ outside dst cap s d ∧ d.tta.recorder = s.dev.tta.recorder) ∧
    (src.2 = false → cap < len → Completes c s fun d => ended 9 [(36, 4, 0)] s d ∧ outside dst cap s d ∧ d.tta.recorder = s.dev.tta.recorder) ∧
    (src.2 = false → len ≤ cap → ¬ same → RecorderRoom .tta s → Completes c s fun d => ended 0x14 [(36, 4, 0)] s d ∧ outside dst cap s d ∧
      ∃ at_, Recorded .tta 0x7002 [s.dev.get R.TTA_CMP_RING_CFG_CI % entries s.dev, at_] s d ∧ x.bytes.take at_ = bs.take at_ ∧ (x.bytes ≠ bs → x.bytes[at_]? ≠ bs[at_]?)) ∧
    (src.2 = false → len ≤ cap → same → 0 < len → Completes c s fun d => d.tta.recorder = s.dev.tta.recorder ∧ ∃ out : List Byte, ended 0 [(36, 4, len), (40, 4, bs.length), (44, 4, (crc32c bs).toNat)] s d ∧
      holds out dst s d ∧ out.length = len ∧ (sealed = false → out = stream) ∧
      (sealed = true → leAt out 0 1 = 1 ∧ leAt out 1 1 = j.flags.toNat % 2 ∧ leAt out 2 2 = j.allot.toNat ∧ leAt out 5 1 = 0 ∧ leAt out 6 2 = s.dev.ttaId % 2 ^ 16 ∧ leAt out 16 4 = bs.length % 2 ^ 32 ∧
        leAt out 20 4 = stream.length % 2 ^ 32 ∧ leAt out 24 4 = (crc32c bs).toNat ∧ leAt out 28 4 = 0 ∧ ∀ k, s.dev.slotHolding j.allot.toNat = some k → leAt out 4 1 = s.dev.storeGen k % 256))) ∧
  (∀ (j : CmpJob) (s : State), j.op = 2 → reached j s → passes j s →
    let c : Instr := .decompress j
    let src := (s.dev.histBytes j.src.toNat j.srcLen.toNat).1
    let x := inflate src.1 j.dstCap.toNat
    (src.2 = true → Completes c s fun d => ended 5 [(36, 4, 0)] s d ∧ d.tta.hist = s.dev.tta.hist ∧ d.tta.recorder = s.dev.tta.recorder) ∧
    (src.2 = false → x.err = none → Completes c s fun d => ended 0 [(36, 4, x.outLen), (40, 4, x.used), (44, 4, (crc32c x.bytes).toNat)] s d ∧ x.bytes.length = x.outLen ∧ d.tta.recorder = s.dev.tta.recorder ∧
      (x.bytes ≠ [] → holds x.bytes j.dst.toNat s d) ∧ (x.bytes = [] → d.tta.hist = s.dev.tta.hist)) ∧
    (∀ e, src.2 = false → x.err = some e → RecorderRoom .tta s → Completes c s fun d => ended e.status [(36, 4, x.outLen), (40, 4, x.used)] s d ∧ x.bytes.length = x.outLen ∧
      (x.bytes ≠ [] → holds x.bytes j.dst.toNat s d) ∧ (x.bytes = [] → d.tta.hist = s.dev.tta.hist) ∧
      Recorded .tta 0x7001 [s.dev.get R.TTA_CMP_RING_CFG_CI % entries s.dev, 2, e.status, x.used] s d))

/-- R471 to R473, R478, R480. D2 and D3 pass into each other without a sequence (log 62).
R482 to R484, R487. Before the first step the rail is at 750 mV (log 62). -/
def Obligations.TduPowerRailsAndThrottling : Prop :=
  (
  let st (d : Dev) : Nat := d.get R.TDU_PWR_STAT_STATE
  let woke (d : Dev) : Bool := d.bit R.TDU_PWR_STAT_WOKE
  let idle (d : Dev) : Prop := d.tdu.pwr.trans = 0 ∧ d.tdu.boot.seq = none
  let eff (v : BitVec 2) (d : Dev) : Nat := if woke d = true ∧ 2 ≤ v.toNat then 1 else v.toNat
  let runs (trans target : Nat) (d : Dev) : Prop := d.tdu.pwr.trans = trans ∧ d.tdu.pwr.target = target ∧ d.bit R.TDU_PWR_STAT_IN_TRANS = true ∧ d.pins.pmAck = false
  let rests (state : Nat) (d : Dev) : Prop := d.tdu.pwr.trans = 0 ∧ d.tdu.pwr.wakes = 0 ∧ d.bit R.TDU_PWR_STAT_IN_TRANS = false ∧ st d = state ∧ (d.pins.pmAck = true ↔ state = d.pins.pmReq.toNat)
  let exits (src target : Nat) (d : Dev) : Prop := runs 3 target d ∧ d.get R.TDU_PWR_STAT_WAKE_SRC = src ∧ d.get R.TDU_AON_LDO_MODE = 1 ∧ d.get R.TDU_AON_LDO_MODE_ACK = 1
  let kept (s : State) (d : Dev) : Prop := d.tta = s.dev.tta ∧ d.freeIx = s.dev.freeIx ∧ d.out = s.dev.out ∧ d.tdu = { s.dev.tdu with regs := d.tdu.regs, pwr := d.tdu.pwr, recorder := d.tdu.recorder } ∧
    RegsKept .tdu [R.TDU_PWR_STAT.base, R.TDU_AON_LDO.base] s d
  let quiet (s : State) (d : Dev) : Prop := d.tdu.recorder = s.dev.tdu.recorder
  let blocks (d : Dev) : Nat := max (frameBlocks d.tdu.link0.unsent) (frameBlocks d.tdu.link1.unsent) + frameBlocks (d.tdu.smp.spill ++ d.tdu.smp.held)
  let trains (s : State) (d : Dev) : Prop := ∀ p : Fin 2, s.dev.get (tlState (.tdu p)) = 0 → s.dev.bit (tlEnable (.tdu p)) = true → (s.dev.port (.tdu p)).refused = false → (s.dev.port (.tdu p)).parked = false →
    laneMask (.tdu p) - (laneMask (.tdu p) &&& s.dev.get (tlRetired (.tdu p))) ≠ 0 → d.get (tlState (.tdu p)) = 1 ∧ Out.wakePattern (.tdu p) (s.dev.wakeShort .tdu) ∈ d.out
  let slept (s : State) (d : Dev) : Prop := d.tta = s.dev.tta ∧ (∀ p : Fin 2, d.get (tlState (.tdu p)) = 0) ∧ d.tdu.bank = [] ∧ d.tdu.smp.psBuf = [] ∧ d.tdu.recorder.circ = [] ∧
    d.get (recCircNext .tdu) = 0 ∧ d.bit R.TDU_SMP_STAT_RUNNING = false ∧ d.tdu.time.state = .unset ∧ d.tdu.smp.hostReset = true ∧ d.tdu.smp.trcReset = true ∧ d.tdu.chk.flight = [] ∧
    d.tdu.linkKeys = s.dev.tdu.linkKeys ∧ d.tdu.trc.grants = s.dev.tdu.trc.grants ∧ (∃ l, d.tdu.recorder.perm = s.dev.tdu.recorder.perm ++ l) ∧
    d.get R.TDU_PWR_STAT_D2_ENTRIES = min (s.dev.get R.TDU_PWR_STAT_D2_ENTRIES + 1) 0xFFFF
  (∀ (v : BitVec 2) (s : State),
    let c : Instr := .pmReqChange v
    let r := v.toNat
    let old := st s.dev
    let asked (d : Dev) : Prop := d.pins = { s.dev.pins with pmReq := v, pmAck := d.pins.pmAck }
    (¬ idle s.dev → Completes c s fun d => d = { s.dev with pins := { s.dev.pins with pmReq := v, pmAck := false } }) ∧
    (idle s.dev → s.dev.tdu.pwr.wakes = 0 → s.dev.bit R.TDU_PWR_STAT_IN_TRANS = false →
      (old < 2 → eff v s.dev = old → Completes c s fun d => rests old d ∧ woke d = (woke s.dev && decide (2 ≤ r)) ∧ kept s d ∧ quiet s d ∧ asked d) ∧
      (old < 2 → eff v s.dev ≠ old → eff v s.dev < 2 → Completes c s fun d => runs 1 (eff v s.dev) d ∧ st d = old ∧ woke d = (woke s.dev && decide (2 ≤ r)) ∧ kept s d ∧ quiet s d ∧ asked d) ∧
      (old < 2 → 2 ≤ eff v s.dev → Completes c s fun d => runs 2 r d ∧ st d = old ∧ asked d ∧ d.tta = s.dev.tta ∧ ∀ k, k < 8 → d.tlive k = false) ∧
      (2 ≤ old → woke s.dev = false → r < 2 → Completes c s fun d => exits 4 r d ∧ st d = old ∧ kept s d ∧ quiet s d ∧ asked d) ∧
      (2 ≤ old → woke s.dev = false → 2 ≤ r → r = old → Completes c s fun d => rests old d ∧ kept s d ∧ quiet s d ∧ asked d) ∧
      (2 ≤ old → woke s.dev = false → 2 ≤ r → r ≠ old → RecorderRoom .tdu s → Completes c s fun d => rests r d ∧ Recorded .tdu 0x0101 [old, r, s.dev.get R.TDU_PWR_STAT_WAKE_SRC] s d ∧ kept s d ∧ asked d))) ∧
  (∀ s : State,
    let c : Instr := .d0D1TransitionDone
    let v := s.dev.pins.pmReq
    let t := s.dev.tdu.pwr.target
    (s.dev.tdu.pwr.trans ≠ 1 → Completes c s fun d => d = s.dev) ∧
    (s.dev.tdu.pwr.trans = 1 → s.dev.tdu.boot.seq = none → t < 2 → RecorderRoom .tdu s → Completes c s fun d => st d = t ∧ Records .tdu 0x0101 [st s.dev, t, s.dev.get R.TDU_PWR_STAT_WAKE_SRC] s d ∧
      d.tta = s.dev.tta ∧ woke d = (woke s.dev && decide (2 ≤ v.toNat)) ∧ d.pins = { s.dev.pins with pmAck := d.pins.pmAck } ∧
      (eff v s.dev = t → rests t d ∧ kept s d) ∧ (eff v s.dev ≠ t → runs (if eff v s.dev < 2 then 1 else 2) (eff v s.dev) d))) ∧
  (∀ s : State,
    let c : Instr := .d2DrainDeadline
    let n := blocks s.dev
    (s.dev.tdu.pwr.trans ≠ 2 → Completes c s fun d => d = s.dev) ∧
    (s.dev.tdu.pwr.trans = 2 → Completes c s fun d => d.tta = s.dev.tta ∧ d.pins = s.dev.pins ∧ d.tdu.pwr = s.dev.tdu.pwr ∧ st d = st s.dev ∧ d.tdu.chk.flight = [] ∧
      (s.dev.tdu.chk.flight = [] → (∀ p : Fin 2, (d.port (.tdu p)).queue = [] ∧ (d.port (.tdu p)).current = none) ∧ d.tdu.smp.spill = [] ∧ d.tdu.smp.held = [] ∧ d.tdu.smp.stampQueue = [] ∧
        d.get R.TDU_SMP_STAT_LOST_BLOCKS = min (s.dev.get R.TDU_SMP_STAT_LOST_BLOCKS + n) (2 ^ R.TDU_SMP_STAT_LOST_BLOCKS.width - 1)) ∧
      (s.dev.tdu.chk.flight = [] → RecorderRoom .tdu s → (n = 0 → d.tdu.recorder = s.dev.tdu.recorder) ∧ (n ≠ 0 → Recorded .tdu 0x0104 [n, 0] s d)))) ∧
  (∀ s : State,
    let c : Instr := .d2EntryDone
    let t := s.dev.tdu.pwr.target
    let w := s.dev.tdu.pwr.wakes
    (s.dev.tdu.pwr.trans ≠ 2 → Completes c s fun d => d = s.dev) ∧
    (s.dev.tdu.pwr.trans = 2 → (t = 2 ∨ t = 3) → s.dev.tdu.boot.seq = none → woke s.dev = false →
      (w = 0 → 2 ≤ s.dev.pins.pmReq.toNat → Completes c s fun d => slept s d ∧ rests s.dev.pins.pmReq.toNat d ∧ d.get R.TDU_AON_LDO_MODE = 0 ∧ d.get R.TDU_AON_LDO_MODE_ACK = 0 ∧ woke d = false) ∧
      (w = 0 → s.dev.pins.pmReq.toNat < 2 → Completes c s fun d => slept s d ∧ exits 4 s.dev.pins.pmReq.toNat d ∧ st d = t) ∧
      (0 < w → w < 8 → Completes c s fun d => slept s d ∧ exits w 1 d ∧ st d = t ∧ woke d = true ∧ d.get R.TDU_PWR_STAT_RACES = min (s.dev.get R.TDU_PWR_STAT_RACES + 1) 0xFF) ∧
      (s.dev.tdu.recorder.queue = [] → s.dev.tdu.chk.flight = [] → s.dev.bit (recFrozen .tdu) = false → s.dev.bit (snapMatchEn .tdu) = false → Completes c s fun d =>
        ∀ p : Fin 2, s.dev.isUp (.tdu p) = true → ∃ f r, Out.frame (.tdu p) f false ∈ d.out ∧ f.payload = .record [r] ∧ r.code = 0x0101 ∧ r.p0 = BitVec.ofNat 32 (st s.dev) ∧ r.p1 = BitVec.ofNat 32 t))) ∧
  (∀ (cycles : Nat) (s : State),
    let c : Instr := .d2ExitDone cycles
    let v := s.dev.pins.pmReq
    let t := s.dev.tdu.pwr.target
    (s.dev.tdu.pwr.trans ≠ 3 → Completes c s fun d => d = s.dev) ∧
    (s.dev.tdu.pwr.trans = 3 → s.dev.tdu.boot.seq = none → t < 2 → RecorderRoom .tdu s → Completes c s fun d => st d = t ∧ (d.tb .tdu).tick = (s.dev.tb .tdu).tick + 33 * cycles ∧ trains s d ∧ d.tta = s.dev.tta ∧
      Records .tdu 0x0101 [st s.dev, t, s.dev.get R.TDU_PWR_STAT_WAKE_SRC] s d ∧ woke d = (woke s.dev && decide (2 ≤ v.toNat)) ∧ (eff v s.dev = t → rests t d) ∧
      (eff v s.dev ≠ t → runs (if eff v s.dev < 2 then 1 else 2) (eff v s.dev) d))) ∧
  (∀ (p : Fin 2) (s : State),
    let e : LinkEnd := .tdu p
    let c : Instr := .wakePatternDetected e
    (s.dev.tdu.pwr.trans = 2 → Completes c s fun d => d = { s.dev with tdu := { s.dev.tdu with pwr := { s.dev.tdu.pwr with wakes := s.dev.tdu.pwr.wakes ||| 2 ^ p.val } } }) ∧
    (s.dev.tdu.pwr.trans = 0 → 2 ≤ st s.dev → Completes c s fun d => exits (2 ^ p.val) 1 d ∧ woke d = true ∧ st d = st s.dev ∧ kept s d ∧ quiet s d ∧ d.pins = { s.dev.pins with pmAck := false }) ∧
    (s.dev.tdu.pwr.trans ≠ 2 → st s.dev < 2 →
      (s.dev.get (tlState e) = 0 → s.dev.bit (tlEnable e) = true → (s.dev.port e).refused = false → laneMask e - (laneMask e &&& s.dev.get (tlRetired e)) ≠ 0 → Completes c s fun d => d.get (tlState e) = 1 ∧
        (d.port e).phase = 1 ∧ (d.port e).parked = false ∧ d.get (tlActive e) = laneMask e - (laneMask e &&& s.dev.get (tlRetired e)) ∧ d.out = .wakePattern e (s.dev.wakeShort .tdu) :: s.dev.out ∧ LinkFrame e s d) ∧
      (s.dev.get (tlState e) ≠ 0 → Completes c s fun d => d = s.dev.setPort e { s.dev.port e with parked := false })))) ∧
  (
  let others (l : List Nat) (s : State) (d : Dev) : Prop := d.tdu = s.dev.tdu ∧ d.pins = s.dev.pins ∧ d.freeIx = s.dev.freeIx ∧
    d.tta = { s.dev.tta with regs := d.tta.regs, pwr := { s.dev.tta.pwr with avs := d.tta.pwr.avs }, recorder := d.tta.recorder } ∧ RegsKept .tta l s d
  let kept (s : State) (d : Dev) : Prop := others [R.TTA_AVS_STAT.base] s d
  let waits (r : Option AvsReq) (d : Dev) : Prop := d.tta.pwr.avs = r ∧ d.bit R.TTA_AVS_STAT_PENDING = r.isSome
  let mild (s : State) (d : Dev) : Prop := d.tta.recorder = s.dev.tta.recorder ∧ d.get R.TTA_AVS_STAT_RAIL_MV = s.dev.get R.TTA_AVS_STAT_RAIL_MV ∧ d.bit R.TTA_AVS_STAT_AVS_FAIL = s.dev.bit R.TTA_AVS_STAT_AVS_FAIL
  let busyN (n : Nat) (s : State) (d : Dev) : Prop := d.get R.TTA_AVS_STAT_BUSY_ACKS = min (s.dev.get R.TTA_AVS_STAT_BUSY_ACKS + n) 0xFFFF
  let timeN (n : Nat) (s : State) (d : Dev) : Prop := d.get R.TTA_AVS_STAT_TIMEOUTS = min (s.dev.get R.TTA_AVS_STAT_TIMEOUTS + n) 0xFFFF
  (∀ (r : AvsResponse) (s : State), s.dev.tta.pwr.avs = none → Completes (.avsResponse r) s fun d => d = s.dev) ∧
  (∀ (q : AvsReq) (s : State), s.dev.tta.pwr.avs = some q →
    (Completes (.avsResponse .busy) s fun d => waits (some { q with busy := true }) d ∧ busyN 1 s d ∧ timeN 0 s d ∧ mild s d ∧ kept s d ∧ d.out = s.dev.out) ∧
    (∀ (ok : Bool) (mv : Nat),
      let good : Prop := ok = true ∧ mv ≤ q.target + 10 ∧ q.target ≤ mv + 10
      (good → Completes (.avsResponse (.read ok mv)) s fun d => waits none d ∧ busyN 0 s d ∧ timeN 0 s d ∧ mild s d ∧ kept s d ∧ d.out = s.dev.out) ∧
      (¬ good → Completes (.avsResponse (.read ok mv)) s fun d => d = s.dev)) ∧
    (q.busy = true → Completes .avsBusyRetry s fun d => waits (some { q with busy := false }) d ∧ busyN 0 s d ∧ timeN 0 s d ∧ mild s d ∧ kept s d ∧ d.out = .avsWrite q.rail q.target :: s.dev.out) ∧
    (q.busy = false → Completes .avsBusyRetry s fun d => d = s.dev) ∧
    (q.again = false → Completes .avsTimeout s fun d => waits (some { q with again := true, busy := false }) d ∧ busyN 0 s d ∧ timeN 1 s d ∧ mild s d ∧ kept s d ∧ d.out = .avsWrite q.rail q.target :: s.dev.out) ∧
    (q.again = true → RecorderRoom .tta s → Completes .avsTimeout s fun d => waits none d ∧ busyN 0 s d ∧ timeN 1 s d ∧ d.bit R.TTA_AVS_STAT_AVS_FAIL = true ∧ Recorded .tta 0x0130 [q.rail, q.target, 2] s d ∧ kept s d ∧
      d.out = s.dev.out ∧ ∃ x ∈ d.tta.recorder.queue, x.evt.code = 0x0130 ∧ x.permAsked = true)) ∧
  (∀ s : State, s.dev.tta.pwr.avs = none → Completes .avsBusyRetry s (fun d => d = s.dev) ∧ Completes .avsTimeout s fun d => d = s.dev) ∧
  (∀ s : State, Completes .avsClr s fun d => d.bit R.TTA_AVS_STAT_AVS_FAIL = false ∧ d.get R.TTA_AVS_STAT_RAIL_MV = s.dev.get R.TTA_AVS_STAT_RAIL_MV ∧ busyN 0 s d ∧ timeN 0 s d ∧
    d.bit R.TTA_AVS_STAT_PENDING = s.dev.bit R.TTA_AVS_STAT_PENDING ∧ RegsKept .tta [R.TTA_AVS_STAT.base] s d ∧ d = { s.dev with tta := { s.dev.tta with regs := d.tta.regs } }) ∧
  (∀ (bridges : List (BitVec 8)) (s : State),
    let c : Instr := .throttleTick bridges
    let rail := if s.dev.get R.TTA_AVS_STAT_RAIL_MV = 0 then 750 else s.dev.get R.TTA_AVS_STAT_RAIL_MV
    let floor := max 550 (s.dev.get R.TTA_THROT_CFG_FLOOR_MV)
    let target := max 550 (min 850 (s.dev.get R.TTA_AVS_CTL_TARGET_MV))
    let hotC : Int := s.dev.get R.TTA_THROT_CFG_HOT_C
    let hyst : Int := max 1 (s.dev.get R.TTA_THROT_CFG_HYST_C)
    let sensor (t : Int) : Prop := (∃ k, k < 640 ∧ t = (BitVec.ofNat 8 (s.dev.get (R.TTA_FAB_CLU_TEMP_C.at k))).toInt) ∨ ∃ b ∈ bridges, t = b.toInt
    let hottest (t : Int) : Prop := sensor t ∧ ∀ u, sensor u → u ≤ t
    let step (mv : Nat) (t : Int) : Prop := RecorderRoom .tta s → Completes c s fun d => d.get R.TTA_AVS_STAT_RAIL_MV = mv ∧ waits (some { rail := 0, target := mv }) d ∧ d.out = .avsWrite 0 mv :: s.dev.out ∧
      Recorded .tta 0x0132 [mv, (BitVec.ofInt 32 t).toNat] s d ∧ busyN 0 s d ∧ timeN 0 s d ∧ d.bit R.TTA_AVS_STAT_AVS_FAIL = false ∧ kept s d
    let stays : Prop := Completes c s fun d => d = s.dev
    let free : Prop := s.dev.bit R.TTA_AVS_STAT_AVS_FAIL = false ∧ s.dev.tta.pwr.avs = none
    (∃ t, hottest t) ∧ (¬ free → stays) ∧
    (∀ t, free → hottest t → hotC ≤ t → (floor < rail → step (max floor (rail - 25)) t) ∧ (rail ≤ floor → stays)) ∧
    (∀ t, free → hottest t → t < hotC - hyst → (rail < target → step (min target (rail + 25)) t) ∧ (rail = target → stays) ∧ (target < rail → step (max target (rail - 25)) t)) ∧
    (∀ t, free → hottest t → hotC - hyst ≤ t → t < hotC → stays)))

/-- R474 to R481. -/
def Obligations.TtaPowerStates : Prop :=
  let st (d : Dev) : Nat := d.get R.TTA_PWR_STAT_STATE
  let runs (trans target : Nat) (d : Dev) : Prop := d.tta.pwr.trans = trans ∧ d.tta.pwr.target = target ∧ d.bit R.TTA_PWR_STAT_IN_TRANS = true
  let kept (s : State) (d : Dev) : Prop := d.tdu = s.dev.tdu ∧ d.pins = s.dev.pins ∧ d.freeIx = s.dev.freeIx ∧
    d.tta = { s.dev.tta with regs := d.tta.regs, pwr := d.tta.pwr, recorder := d.tta.recorder, links := d.tta.links, twin := d.tta.twin, rpt := d.tta.rpt }
  let regs (s : State) (d : Dev) : Prop := kept s d ∧ RegsKept .tta [R.TTA_PWR_STAT.base, R.TTA_PWR_SEQ.base] s d ∧ d.out = s.dev.out ∧ d.tta.links = s.dev.tta.links ∧ d.tta.twin = s.dev.tta.twin
  let noted (code : Nat) (s : State) (d : Dev) : Prop := st s.dev < 3 ∧ d.get R.TTA_PWR_STAT_LAST_REQ = code ∧ st d = st s.dev ∧ d.tta.pwr = s.dev.tta.pwr ∧ regs s d
  let wakes (c : Instr) (src : Nat) (states : List Nat) (e : Dev) (s : State) (g : Dev → Prop) : Prop :=
    (s.dev.tta.pwr.trans = 0 → st s.dev ∈ states → Completes c s fun d => runs 2 0 d ∧ d.get R.TTA_PWR_STAT_WAKE_SRC = 2 ^ src ∧ st d = st s.dev ∧ g d) ∧
    (s.dev.tta.pwr.trans = 1 → s.dev.tta.pwr.target ∈ states → Completes c s fun d => d.tta.pwr = { s.dev.tta.pwr with wakes := s.dev.tta.pwr.wakes ||| 2 ^ src } ∧ d.get R.TTA_PWR_STAT_WAKE_SRC = s.dev.get R.TTA_PWR_STAT_WAKE_SRC ∧ g d) ∧
    (2 ≤ s.dev.tta.pwr.trans ∨ (s.dev.tta.pwr.trans = 0 ∧ st s.dev ∉ states) ∨ (s.dev.tta.pwr.trans = 1 ∧ s.dev.tta.pwr.target ∉ states) → Completes c s fun d => d = e)
  let asksFor (c : Instr) (t : Nat) (s : State) : Prop :=
    let busy : Prop := ∃ n, n < 256 ∧ n ≠ 0 ∧ s.dev.slotState n ≠ 0
    (busy → RecorderRoom .tta s → Completes c s fun d => noted 2 s d ∧ Recorded .tta 0x0112 [2] s d) ∧
    (¬ busy → s.dev.tta.graphs ≠ [] → RecorderRoom .tta s → Completes c s fun d => noted 3 s d ∧ Recorded .tta 0x0112 [3] s d) ∧
    (¬ busy → s.dev.tta.graphs = [] → st s.dev = t → Completes c s fun d => noted 1 s d ∧ d.tta.recorder = s.dev.tta.recorder) ∧
    (¬ busy → s.dev.tta.graphs = [] → st s.dev ≠ t → Completes c s fun d => runs 1 t d ∧ st d = st s.dev ∧ d.tta.twin = { s.dev.tta.twin with out := true } ∧ d.tta.recorder = s.dev.tta.recorder ∧ kept s d ∧ d.out = s.dev.out ∧
      (t = 1 → d.tta.links = s.dev.tta.links) ∧ (t = 2 → ∀ p, p < 16 → s.dev.isUp (ttaEnd p) = true → ∃ f ∈ (d.port (ttaEnd p)).queue, ∃ tag a, f.payload = .control tag a (.park true)))
  let trains (p : Nat) (s : State) (d : Dev) : Prop := s.dev.get (tlState (ttaEnd p)) = 0 → s.dev.bit (tlEnable (ttaEnd p)) = true → (s.dev.port (ttaEnd p)).refused = false → s.dev.bit R.TTA_BOOT_CTL_TRAY_GO = true →
    laneMask (ttaEnd p) - (laneMask (ttaEnd p) &&& s.dev.get (tlRetired (ttaEnd p))) ≠ 0 → d.get (tlState (ttaEnd p)) = 1 ∧ (d.port (ttaEnd p)).phase = 1 ∧ Out.wakePattern (ttaEnd p) (s.dev.wakeShort .tta) ∈ d.out
  let room1 (n : Nat) (s : State) : Prop := (s.dev.tta.recorder.queue.filter fun q => q.evt.source = 1).length + n ≤ 16
  (∀ (v : W64) (s : State),
    let c : Instr := .pwrGo v
    let t := v.toNat % 4
    let go := v.getLsbD 8
    (go = false ∨ t = 3 → Completes c s fun d => d = s.dev) ∧ (go = true → t = 0 → wakes c 5 [1, 2] s.dev s (regs s)) ∧
    (go = true → t = 1 ∨ t = 2 → s.dev.tta.pwr.trans ≠ 0 → Completes c s fun d => d = { s.dev with tta := { s.dev.tta with pwr := { s.dev.tta.pwr with request := some t } } }) ∧
    (go = true → t = 1 ∨ t = 2 → s.dev.tta.pwr.trans = 0 → st s.dev < 3 → asksFor c t s)) ∧
  (∀ s : State,
    let c : Instr := .ttaEntryDone
    let t := s.dev.tta.pwr.target
    let w := s.dev.tta.pwr.wakes
    let src := s.dev.get R.TTA_PWR_STAT_WAKE_SRC
    let held (d : Dev) : Prop := d.tdu = s.dev.tdu ∧ d.pins = s.dev.pins ∧ st d = t ∧ d.get R.TTA_PWR_STAT_LAST_REQ = 1 ∧ Records .tta 0x0110 [st s.dev, t, src] s d ∧
      (t = 1 → kept s d ∧ ((∀ r, s.dev.tta.pwr.request ≠ some r) ∨ 0 < w → d.tta.links = s.dev.tta.links ∧ d.out = s.dev.out)) ∧ (t = 2 → (∀ p, p < 17 → d.get (tlState (ttaEnd p)) = 0) ∧ d.bit R.TTA_PWR_CLK_LODGE_PLL = false ∧ d.bit R.TTA_PWR_CLK_ON_PLL = false)
    (s.dev.tta.pwr.trans ≠ 1 → Completes c s fun d => d = s.dev) ∧
    (s.dev.tta.pwr.trans = 1 → (t = 1 ∨ t = 2) → s.dev.tta.mirrored = [] → room1 2 s →
      (w = 0 → s.dev.tta.pwr.request = none → Completes c s fun d => held d ∧ d.tta.pwr.trans = 0 ∧ d.bit R.TTA_PWR_STAT_IN_TRANS = false ∧ d.get R.TTA_PWR_STAT_WAKE_SRC = src) ∧
      (∀ r, w = 0 → s.dev.tta.pwr.request = some r → (r = 1 ∨ r = 2) → r ≠ t → (∀ n, n < 256 → n ≠ 0 → s.dev.slotState n = 0) → s.dev.tta.graphs = [] → Completes c s fun d => held d ∧ runs 1 r d ∧ d.tta.pwr.request = none) ∧
      (0 < w → w < 64 → Completes c s fun d => held d ∧ Records .tta 0x0103 [1, t, w] s d ∧ runs 2 0 d ∧ d.get R.TTA_PWR_STAT_WAKE_SRC = w))) ∧
  (∀ s : State,
    let c : Instr := .ttaExitDone
    (s.dev.tta.pwr.trans ≠ 2 → Completes c s fun d => d = s.dev) ∧
    (s.dev.tta.pwr.trans = 2 → s.dev.tta.pwr.request = none → RecorderRoom .tta s → Completes c s fun d => st d = 0 ∧ d.tta.pwr.trans = 0 ∧ d.bit R.TTA_PWR_STAT_IN_TRANS = false ∧
      Recorded .tta 0x0110 [st s.dev, 0, s.dev.get R.TTA_PWR_STAT_WAKE_SRC] s d ∧ (∀ p, p < 17 → (s.dev.get R.TTA_PWR_STAT_SLEEPING).testBit p = false → trains p s d) ∧ d.tta.boot.sweep = true ∧
      d.get R.TTA_TWIN_STAT_STATE = 3 ∧ d.bit R.TTA_TIME_STAT_LEAD = !s.dev.pins.twinSel ∧ d.tta.twin.out = false ∧ d.tdu = s.dev.tdu ∧ d.pins = s.dev.pins ∧ d.tta.graphs = s.dev.tta.graphs ∧ d.tta.hist = s.dev.tta.hist)) ∧
  (∀ (p : Fin 17) (s : State),
    let c : Instr := .wakePatternDetected (.tta p)
    let slept := s.dev.get R.TTA_PWR_STAT_SLEEPING
    let roused (d : Dev) : Prop := (∀ i, (d.get R.TTA_PWR_STAT_SLEEPING).testBit i = (slept.testBit i && decide (i ≠ p.val))) ∧ d.tdu = s.dev.tdu ∧ d.pins = s.dev.pins
    (s.dev.tta.pwr.trans = 0 → st s.dev = 2 → Completes c s fun d => runs 2 0 d ∧ d.get R.TTA_PWR_STAT_WAKE_SRC = (if p.val = 16 then 2 else 1) ∧ roused d ∧ d.tta.links = s.dev.tta.links ∧ d.out = s.dev.out) ∧
    (s.dev.tta.pwr.trans = 1 → s.dev.tta.pwr.target = 2 → Completes c s fun d => d.tta.pwr = { s.dev.tta.pwr with wakes := s.dev.tta.pwr.wakes ||| (if p.val = 16 then 2 else 1) } ∧ roused d) ∧
    (st s.dev ≠ 2 → (s.dev.tta.pwr.trans = 1 → s.dev.tta.pwr.target ≠ 2) → Completes c s fun d => d.tta.pwr = s.dev.tta.pwr ∧ st d = st s.dev ∧ roused d ∧ trains p.val s d ∧ LinkFrame (.tta p) s d)) ∧
  (∀ (ports : BitVec 17) (s : State), st s.dev ≠ 2 → Completes (.pwrWakeWrite ports) s fun d => d.tta.pwr = s.dev.tta.pwr ∧ st d = st s.dev ∧ kept s d ∧ d.tta.recorder = s.dev.tta.recorder ∧ d.tta.twin = s.dev.tta.twin ∧
    (∀ p, p < 17 → (d.get R.TTA_PWR_STAT_SLEEPING).testBit p = ((s.dev.get R.TTA_PWR_STAT_SLEEPING).testBit p && !ports.getLsbD p)) ∧ (∀ p, p < 17 → ports.getLsbD p = true → trains p s d) ∧
    ∀ p, p < 17 → ports.getLsbD p = false → d.port (ttaEnd p) = s.dev.port (ttaEnd p) ∧ d.get (tlState (ttaEnd p)) = s.dev.get (tlState (ttaEnd p))) ∧
  (∀ (tagOk : Bool) (version type : BitVec 8) (id : BitVec 16) (seq : BitVec 64) (src : BitVec 32) (s : State),
    let c : Instr := .wakePacket tagOk version type id seq src
    let good : Prop := tagOk = true ∧ s.dev.tta.rpt.key ≠ [] ∧ version = 1 ∧ type = 0x41 ∧ id.toNat = s.dev.ttaId ∧ s.dev.get R.TTA_PWR_SEQ_SEQ < seq.toNat
    (good → wakes c 2 [1, 2] (s.dev.set R.TTA_PWR_SEQ_SEQ seq.toNat) s fun d => d.get R.TTA_PWR_SEQ_SEQ = seq.toNat ∧ regs s d) ∧
    (¬ good → RecorderRoom .tta s → Completes c s fun d => d.get R.TTA_PWR_STAT_BAD_WAKE = min (s.dev.get R.TTA_PWR_STAT_BAD_WAKE + 1) 0xFFFF ∧ Recorded .tta 0x0111 [src.toNat] s d ∧ d.tta.pwr = s.dev.tta.pwr ∧
      st d = st s.dev ∧ d.get R.TTA_PWR_SEQ_SEQ = s.dev.get R.TTA_PWR_SEQ_SEQ ∧ regs s d)) ∧
  (∀ s : State, wakes .pcieWake 3 [1, 2] s.dev s (regs s) ∧ wakes .fabricWakeFrame 4 [1] s.dev s (regs s)) ∧
  (∀ (on : Bool) (s : State), Completes (.lodgePllWrite on) s fun d => d.bit R.TTA_PWR_CLK_LODGE_PLL = on ∧ d.bit R.TTA_PWR_CLK_ON_PLL = s.dev.bit R.TTA_PWR_CLK_ON_PLL ∧
    RegsKept .tta [R.TTA_PWR_CLK.base] s d ∧ d = { s.dev with tta := { s.dev.tta with regs := d.tta.regs } }) ∧
  (∀ s : State, Completes .lodgeClockSwitch s fun d => d.bit R.TTA_PWR_CLK_ON_PLL = s.dev.bit R.TTA_PWR_CLK_LODGE_PLL ∧ d.bit R.TTA_PWR_CLK_LODGE_PLL = s.dev.bit R.TTA_PWR_CLK_LODGE_PLL ∧
    RegsKept .tta [R.TTA_PWR_CLK.base] s d ∧ d = { s.dev with tta := { s.dev.tta with regs := d.tta.regs } })

/-- R455 to R457, R460, R466, R494. A fuse load under way counts a restart with every source (log 61). -/
def Obligations.ResetSources : Prop :=
  let causeT (src lvl seen : Nat) (d : Dev) : Prop := d.get R.TTA_RST_CAUSE_LAST_SRC = src ∧ d.get R.TTA_RST_CAUSE_LAST_LEVEL = lvl ∧ d.get R.TTA_RST_CAUSE_SEEN = seen ||| 2 ^ src
  let causeD (src lvl seen : Nat) (d : Dev) : Prop := d.get R.TDU_RST_CAUSE_LAST_SRC = src ∧ d.get R.TDU_RST_CAUSE_LAST_LEVEL = lvl ∧ d.get R.TDU_RST_CAUSE_SEEN = seen ||| 2 ^ src
  let seenT (e : Dev) : Nat := if e.tta.boot.seq = none then 0 else e.get R.TTA_RST_CAUSE_SEEN
  let seenD (e : Dev) : Nat := if e.tdu.boot.seq = none then 0 else e.get R.TDU_RST_CAUSE_SEEN
  let loads (b : Boot) : Prop := b.loading = true ∧ 1 ≤ b.order
  let failed (e d : Dev) : Prop := d.get R.TTA_BOOT_STAT_FAILS = min (e.get R.TTA_BOOT_STAT_FAILS + (if e.tta.boot.starting then 1 else 0)) 3 ∧
    (e.tta.boot.starting = true → ∃ q ∈ d.tta.recorder.queue, q.evt.code = 0x0003 ∧ q.evt.p0 = 0 ∧ q.evt.p1 = BitVec.ofNat 32 (d.get R.TTA_BOOT_STAT_FAILS))
  let tta0 (src : Nat) (e d : Dev) : Prop := d.tdu = e.tdu ∧ d.pins = { e.pins with ppsOut := false } ∧ d.out = e.out ∧ d.freeIx = e.freeIx ∧
    d.tta = { fuses := e.tta.fuses, mtp := e.tta.mtp, mtpCut := e.bit R.TTA_CAL_STAT_BUSY || e.tta.mtpCut, regs := d.tta.regs, recorder := { queue := d.tta.recorder.queue } } ∧ failed e d ∧
    (∀ a, a ∉ [R.TTA_RST_CAUSE.base, R.TTA_BOOT_STAT.base, R.TTA_CAL_STAT.base, R.TTA_FUSE_STAT.base] → d.word .tta a = Regs.resetOf .tta a) ∧
    d.get R.TTA_CAL_STAT_PROGRAMS = e.get R.TTA_CAL_STAT_PROGRAMS ∧ d.bit R.TTA_CAL_STAT_BUSY = false ∧ d.bit R.TTA_FUSE_STAT_DONE = false ∧ d.bit R.TTA_FUSE_STAT_FAIL = false ∧
    d.get R.TTA_BOOT_STAT_ORDER = 0 ∧ d.bit R.TTA_BOOT_STAT_BOOTED = false ∧ d.bit R.TTA_BOOT_STAT_RECOVERY = false ∧ causeT src 0 (seenT e) d ∧ d.get R.TTA_RST_CAUSE_WARM_COUNT = 0 ∧
    (loads e.tta.boot → d.get R.TTA_FUSE_STAT_RESTARTS = min (e.get R.TTA_FUSE_STAT_RESTARTS + 1) 0xFF) ∧ (¬ loads e.tta.boot → d.get R.TTA_FUSE_STAT_RESTARTS = 0)
  let tta1 (src : Nat) (e d : Dev) : Prop := d.tdu = e.tdu ∧ d.pins = { e.pins with ppsOut := false } ∧ d.out = e.out ∧ d.freeIx = e.freeIx ∧
    (∃ c t, d.tta = { fuses := e.tta.fuses, mtp := e.tta.mtp, mtpCut := e.bit R.TTA_CAL_STAT_BUSY || e.tta.mtpCut, cal := e.tta.cal, boot := { seq := some 1, loading := false }
                      regs := d.tta.regs, time := d.tta.time, recorder := { perm := e.tta.recorder.perm, queue := d.tta.recorder.queue }, hist := d.tta.hist, captures := c, tables := t
                      ing := d.tta.ing, det := { budget := e.tta.det.budget, haveLog := e.tta.det.haveLog }, rpt := { num := e.tta.rpt.num, key := e.tta.rpt.key } } ∧
      (∀ x, x ∈ c → x ∈ e.tta.captures ∧ x.allot = 0) ∧ ∀ x, x ∈ t → x ∈ e.tta.tables ∧ x.slot = 0) ∧
    ((∀ n, 0 < n → n < 256 → e.slotState n = 0) → d.tta.hist = e.tta.hist ∧ d.tta.captures = e.tta.captures.filter (fun x => x.allot == 0) ∧ d.tta.tables = e.tta.tables.filter (fun x => x.slot == 0) ∧
      d.tta.ing.log = e.tta.ing.log ∧ d.tta.ing.moved = e.tta.ing.moved ∧ d.tta.ing.tiers = e.tta.ing.tiers.filter fun x => x.allot == 0) ∧
    (d.tb .tta).tick = (e.tb .tta).tick ∧ (∀ m x, (e.tb .tta).dom m = x → (d.tb .tta).dom m = { x with state := if x.state = .locked then .holdover else x.state }) ∧ failed e d ∧
    (∀ a, a = R.TTA_POS.base ∨ a = R.TTA_PWR_SEQ.base → d.word .tta a = e.word .tta a) ∧ (∀ n, n < 256 → d.slotState n = if n = 0 then 1 else 0) ∧ (∀ n, n < 16 → d.dieState n = e.dieState n) ∧
    (∀ k, k < 640 → d.get (R.TTA_FAB_CLU_TILE_RET.at k) = e.get (R.TTA_FAB_CLU_TILE_RET.at k) ∧ (d.get (R.TTA_FAB_CLU_STATE.at k) = 2 ↔ e.get (R.TTA_FAB_CLU_STATE.at k) = 2)) ∧
    (∀ k, k < 64 → d.bit (R.TTA_MEM_CH_RETIRED.at k) = e.bit (R.TTA_MEM_CH_RETIRED.at k)) ∧ d.twinState = 3 ∧ d.bit R.TTA_TIME_STAT_LEAD = !e.pins.twinSel ∧
    (∀ p : Fin 17, d.get (tlState (.tta p)) = 0 ∧ d.get (tlRetired (.tta p)) = 0) ∧ d.bit R.TTA_BOOT_CTL_TRAY_GO = false ∧ d.get R.TTA_BOOT_STAT_ORDER = 0 ∧ d.bit R.TTA_BOOT_STAT_BOOTED = false ∧
    d.bit R.TTA_BOOT_STAT_RECOVERY = false ∧ d.bit R.TTA_BOOT_STAT_CAL_BAD = e.bit R.TTA_BOOT_STAT_CAL_BAD ∧ d.get R.TTA_CAL_STAT_PROGRAMS = e.get R.TTA_CAL_STAT_PROGRAMS ∧
    d.get (recCircNext .tta) = 0 ∧ d.get (recPermFill .tta) = e.get (recPermFill .tta) ∧ causeT src 1 (seenT e) d ∧ d.get R.TTA_RST_CAUSE_WARM_COUNT = min (e.get R.TTA_RST_CAUSE_WARM_COUNT + 1) 0xFF
  let tta2 (src : Nat) (e d : Dev) : Prop := d.tdu = e.tdu ∧ d.pins = e.pins ∧ causeT src 2 (e.get R.TTA_RST_CAUSE_SEEN) d ∧ d.tta.boot = { e.tta.boot with seq := some 2, sweep := true, sweepTest := false } ∧
    d.tta.twin = { e.tta.twin with out := true } ∧ d.tta.cmp = {} ∧ d.get R.TTA_CMP_RING_CFG_CI = d.get R.TTA_CMP_RING_CFG_PI ∧ d.get R.TTA_CMP_RING_CFG_PI = e.get R.TTA_CMP_RING_CFG_PI ∧
    d.get R.TTA_SYNC_STAT_FREE = e.get R.TTA_SYNC_STAT_FREE ∧ d.tta.hist = e.tta.hist ∧ d.tta.slotsX = e.tta.slotsX ∧ d.tta.sett = e.tta.sett ∧ d.tta.time = e.tta.time ∧ d.tta.recorder = e.tta.recorder ∧
    d.tta.links = e.tta.links ∧ d.tta.tables = e.tta.tables ∧ d.get R.TTA_BOOT_STAT_FAILS = e.get R.TTA_BOOT_STAT_FAILS ∧ (∀ n, n < 256 → d.slotState n = e.slotState n) ∧
    (∀ t, (d.tile t).ce = 0 ∧ (d.tile t).ue = 0 ∧ (d.tile t).addrFault = 0 ∧ (d.tile t).codeUe = 0) ∧
    (∀ h g, e.graph h = some g → g.state ≠ 0 → ∃ g', d.graph h = some g' ∧ g'.plan = g.plan ∧ g'.slot = g.slot ∧ g'.run = none ∧ g'.past = [] ∧ g'.held = [] ∧ (g.hasStandby e = true → g'.primary = false)) ∧
    (∀ h g, e.graph h = some g → g.state ≠ 0 → (∀ h' g', h' ≠ h → e.graph h' = some g' → ∀ t, t ∈ g.plan.phys ∨ t ∈ g.plan.shadows → t ∉ g'.plan.phys ∧ t ∉ g'.plan.shadows) →
      (∀ t, t ∈ g.plan.phys ∨ t ∈ g.plan.shadows → (d.tile t).task = none ∧ (d.tile t).xfers = [] ∧ (d.tile t).regs = ({} : Tile).regs ∧ (d.tile t).use.isSome = true))
  let tdu0 (src : Nat) (e d : Dev) : Prop := d.tta = e.tta ∧ d.pins = { e.pins with pmAck := false } ∧ d.out = e.out ∧ d.freeIx = e.freeIx ∧ d.tdu = { fuses := e.tdu.fuses, regs := d.tdu.regs } ∧
    (∀ a, a ∉ [R.TDU_RST_CAUSE.base, R.TDU_FUSE_STAT.base] → d.word .tdu a = Regs.resetOf .tdu a) ∧ d.bit R.TDU_FUSE_STAT_DONE = false ∧ d.bit R.TDU_FUSE_STAT_FAIL = false ∧
    causeD src 0 (seenD e) d ∧ d.get R.TDU_RST_CAUSE_WARM_COUNT = 0 ∧ (loads e.tdu.boot → d.get R.TDU_FUSE_STAT_RESTARTS = min (e.get R.TDU_FUSE_STAT_RESTARTS + 1) 0xFF) ∧
    (¬ loads e.tdu.boot → d.get R.TDU_FUSE_STAT_RESTARTS = 0)
  let tdu1 (src : Nat) (e d : Dev) : Prop := d.tta = e.tta ∧ d.pins = { e.pins with pmAck := false } ∧ d.out = e.out ∧ d.freeIx = e.freeIx ∧
    d.tdu = { fuses := e.tdu.fuses, boot := { seq := some 1, loading := false, order := 1 }, time := e.tdu.time, recorder := { perm := e.tdu.recorder.perm }, regs := d.tdu.regs } ∧
    d.get R.TDU_AON_LDO_BOR_COUNT = e.get R.TDU_AON_LDO_BOR_COUNT ∧ d.bit R.TDU_FUSE_STAT_DONE = e.bit R.TDU_FUSE_STAT_DONE ∧ d.get (recPermFill .tdu) = e.get (recPermFill .tdu) ∧ d.get (recCircNext .tdu) = 0 ∧
    (∀ p : Fin 2, d.get (tlState (.tdu p)) = 0 ∧ d.get (tlRetired (.tdu p)) = 0) ∧ d.bit R.TDU_DIE_VALID = false ∧ d.dState = 0 ∧ causeD src 1 (seenD e) d ∧
    d.get R.TDU_RST_CAUSE_WARM_COUNT = min (e.get R.TDU_RST_CAUSE_WARM_COUNT + 1) 0xFF
  let absorbed (c : Option Nat) (lvl : Nat) : Prop := ∃ l, c = some l ∧ l < lvl
  let joinsT (src : Nat) (e d : Dev) : Prop := d = { e with tta := { e.tta with regs := d.tta.regs } } ∧ RegsKept .tta [R.TTA_RST_CAUSE.base, R.TTA_FUSE_STAT.base] ⟨e, []⟩ d ∧
    d.get R.TTA_RST_CAUSE_SEEN = e.get R.TTA_RST_CAUSE_SEEN ||| 2 ^ src ∧ d.get R.TTA_RST_CAUSE_LAST_SRC = e.get R.TTA_RST_CAUSE_LAST_SRC ∧ d.get R.TTA_RST_CAUSE_LAST_LEVEL = e.get R.TTA_RST_CAUSE_LAST_LEVEL ∧
    (loads e.tta.boot → d.get R.TTA_FUSE_STAT_RESTARTS = min (e.get R.TTA_FUSE_STAT_RESTARTS + 1) 0xFF) ∧ (¬ loads e.tta.boot → d.word .tta R.TTA_FUSE_STAT.base = e.word .tta R.TTA_FUSE_STAT.base)
  let joinsD (src : Nat) (e d : Dev) : Prop := d = { e with tdu := { e.tdu with regs := d.tdu.regs } } ∧ RegsKept .tdu [R.TDU_RST_CAUSE.base, R.TDU_FUSE_STAT.base] ⟨e, []⟩ d ∧
    d.get R.TDU_RST_CAUSE_SEEN = e.get R.TDU_RST_CAUSE_SEEN ||| 2 ^ src ∧ d.get R.TDU_RST_CAUSE_LAST_SRC = e.get R.TDU_RST_CAUSE_LAST_SRC ∧ d.get R.TDU_RST_CAUSE_LAST_LEVEL = e.get R.TDU_RST_CAUSE_LAST_LEVEL ∧
    (loads e.tdu.boot → d.get R.TDU_FUSE_STAT_RESTARTS = min (e.get R.TDU_FUSE_STAT_RESTARTS + 1) 0xFF) ∧ (¬ loads e.tdu.boot → d.word .tdu R.TDU_FUSE_STAT.base = e.word .tdu R.TDU_FUSE_STAT.base)
  -- the command takes the part to the level; `e` is the state that the reset meets, and `more` what the command does beside it
  let takes (c : Instr) (p : Part) (src lvl : Nat) (e : Dev) (more : Dev → Dev) (s : State) : Prop := s.dev.canonical → match p with
    | .tta => (absorbed e.tta.boot.seq lvl → lvl ≤ 2 → Completes c s fun d => ∃ x, joinsT src e x ∧ d = more x) ∧ (lvl = 0 → Completes c s fun d => ∃ x, tta0 src e x ∧ d = more x) ∧
        (lvl = 1 → ¬ absorbed e.tta.boot.seq 1 → Completes c s fun d => ∃ x, tta1 src e x ∧ d = more x) ∧ (lvl = 2 → ¬ absorbed e.tta.boot.seq 2 → Completes c s fun d => ∃ x, tta2 src e x ∧ d = more x)
    | .tdu => (absorbed e.tdu.boot.seq lvl → lvl ≤ 1 → Completes c s fun d => ∃ x, joinsD src e x ∧ d = more x) ∧ (lvl = 0 → Completes c s fun d => ∃ x, tdu0 src e x ∧ d = more x) ∧
        (lvl = 1 → ¬ absorbed e.tdu.boot.seq 1 → Completes c s fun d => ∃ x, tdu1 src e x ∧ d = more x)
  let level (p : Part) (src : Nat) (s : State) : Nat := (match p with | .tta => s.dev.tta.fuses | .tdu => s.dev.tdu.fuses).levels.toNat / 8 ^ src % 8
  (∀ s : State, takes (.por .tdu true) .tdu 0 0 s.dev (fun d => d) s ∧ takes (.por .tdu false) .tdu 0 0 s.dev (fun d => d) s ∧ takes (.por .tta false) .tta 0 0 s.dev (fun d => d) s ∧
    takes (.por .tta true) .tta 0 0 { s.dev with tta := { s.dev.tta with boot := { s.dev.tta.boot with starting := false } } } (fun d => d.set R.TTA_BOOT_STAT_FAILS 0) s) ∧
  (∀ (p : Part) (s : State), takes (.pinReset p) p 1 (level p 1 s) s.dev (fun d => d) s) ∧
  (∀ (w : Fin 5) (s : State), takes (.watchdogExpiry w) .tta 2 (level .tta 2 s) s.dev (fun d => d) s) ∧
  (∀ (v : W64) (s : State),
    let l := v.toNat % 8
    let asked : Prop := v.toNat / 2 ^ 16 % 2 ^ 16 = 0xA5C3 ∧ v.getLsbD 8 = true ∧ (l = 1 ∨ l = 2)
    (asked → takes (.rstReq v) .tta 3 l s.dev (fun d => d) s) ∧ (¬ asked → Completes (.rstReq v) s fun d => d = s.dev)) ∧
  (∀ s : State, takes .thermalTrip .tta 4 (level .tta 4 s) s.dev (fun d => { d with pins := { d.pins with thermTripLow := true } }) s ∧
    Completes .thermalTripClear s fun d => d = { s.dev with pins := { s.dev.pins with thermTripLow := false } }) ∧
  (∀ s : State, takes (.brownOut .tta) .tta 5 (level .tta 5 s) s.dev (fun d => d) s ∧
    takes (.brownOut .tdu) .tdu 5 (level .tdu 5 s) s.dev (fun d => if d.get R.TDU_RST_CAUSE_LAST_LEVEL = 0 then d else d.set R.TDU_AON_LDO_BOR_COUNT (min (d.get R.TDU_AON_LDO_BOR_COUNT + 1) 0xFF)) s) ∧
  (∀ (l : Fin 3) (s : State), (s.dev.tta.fuses.debugEnable = true → takes (.debugReset .tta l) .tta 6 l.val s.dev (fun d => d) s) ∧
    (s.dev.tdu.fuses.debugEnable = true → l.val ≤ 1 → takes (.debugReset .tdu l) .tdu 6 l.val s.dev (fun d => d) s) ∧
    (s.dev.tta.fuses.debugEnable = false → Completes (.debugReset .tta l) s fun d => d = s.dev) ∧ (s.dev.tdu.fuses.debugEnable = false ∨ l.val = 2 → Completes (.debugReset .tdu l) s fun d => d = s.dev)) ∧
  (∀ (p : Fin 2) (h : Option RxHdr) (tag : BitVec 32) (ackReq : Bool) (level port : BitVec 8) (s : State), s.dev.canonical → TakesControl p h s.dev → s.dev.tdu.boot.seq = none →
    let c : Instr := .controlReset p h tag ackReq level port
    (level = 1 → Completes c s fun d => ∃ e : Dev, e.tta = s.dev.tta ∧ e.pins = s.dev.pins ∧ (∃ l0 l1 b, e.tdu = { s.dev.tdu with regs := e.tdu.regs, link0 := l0, link1 := l1, bank := b }) ∧ tdu1 7 e d) ∧
    (level ≠ 1 → ¬ (level = 4 ∧ port.toNat ≤ 1) → Completes c s fun d => Answered p h tag ackReq 4 s d) ∧
    (∀ q : Fin 2, level = 4 → port.toNat = q.val → RecorderRoom .tdu s → Completes c s fun d => d.tta = s.dev.tta ∧ d.pins = s.dev.pins ∧ causeD 7 4 (s.dev.get R.TDU_RST_CAUSE_SEEN) d ∧ d.get (tlRetired (.tdu q)) = 0 ∧
      d.get (tlState (.tdu q)) = (if s.dev.bit (tlEnable (.tdu q)) = true ∧ (s.dev.port (.tdu q)).parked = false ∧ s.dev.dState ≤ 1 then 1 else 0) ∧
      (d.port (.tdu q)).strict.replay = [] ∧ (d.port (.tdu q)).weighted.replay = [] ∧ (d.port (.tdu q)).peer = none ∧
      (d.port (.tdu p)).queue = (s.dev.port (.tdu p)).queue ++ (if ackReq then [queued 2 0 (.control tag false (.ack 0))] else []) ∧
      (q ≠ p → (∀ x, h = some x → Received (.tdu p) x s.dev d) ∧ d.get (tlState (.tdu p)) = s.dev.get (tlState (.tdu p))) ∧ d.tdu.linkKeys = s.dev.tdu.linkKeys ∧ d.tdu.trc = s.dev.tdu.trc))

/-- R207, R458 to R467. -/
def Obligations.StartUp : Prop :=
  let kept (s : State) (d : Dev) : Prop := d.tdu = s.dev.tdu ∧ d.freeIx = s.dev.freeIx ∧ ∃ b r m w l x n, d.tta = { s.dev.tta with boot := b, regs := r, recorder := m, pwr := w, links := l, det := x, rpt := n }
  let at_ (n : Nat) (d : Dev) : Prop := d.get R.TTA_BOOT_STAT_ORDER = n ∧ d.tta.boot.order = n
  let calm (s : State) (d : Dev) : Prop := kept s d ∧ d.pins = s.dev.pins ∧ d.tta.pwr = s.dev.tta.pwr ∧ d.tta.links = s.dev.tta.links ∧ d.tta.det = s.dev.tta.det
  let quiet (s : State) (d : Dev) : Prop := calm s d ∧ d.out = s.dev.out ∧ d.tta.recorder = s.dev.tta.recorder
  let trains (e : LinkEnd) (s : State) (d : Dev) : Prop := s.dev.get (tlState e) = 0 → s.dev.bit (tlEnable e) = true → (s.dev.port e).refused = false → s.dev.portAllowed e = true →
    laneMask e - (laneMask e &&& s.dev.get (tlRetired e)) ≠ 0 → d.get (tlState e) = 1 ∧ (d.port e).phase = 1 ∧ Out.wakePattern e (s.dev.wakeShort (endPart e)) ∈ d.out
  let bit (f : Fld) (s : State) (d : Dev) : Prop := d.bit f = s.dev.bit f
  (∀ (order : Fin 14) (twin : Bool) (s : State),
    let c : Instr := .resetRelease .tta order twin
    let b := s.dev.tta.boot
    let o := s.dev.get R.TTA_BOOT_STAT_ORDER
    let n := order.val
    let due : Prop := s.dev.pins.thermTripLow = false ∧ ((n = 1 ∧ b.seq = some 0 ∧ o = 0) ∨ (n = 3 ∧ ((b.seq = some 0 ∧ o = 2) ∨ (b.seq = some 1 ∧ o = 0))) ∨ (n = 4 ∧ o = 3) ∨ (n = 5 ∧ o = 4) ∨
      (n = 7 ∧ o = 6) ∨ (n = 8 ∧ o = 7) ∨ (n = 9 ∧ o = 8 ∧ s.dev.bit R.TTA_POS_LOCKED = true) ∨ (n = 10 ∧ o = 9 ∧ s.dev.bit R.TTA_BOOT_CTL_TRAY_GO = true) ∨ (n = 11 ∧ o = 10))
    (¬ due → Completes c s fun d => d = s.dev) ∧
    (due → n = 1 → Completes c s fun d => at_ 1 d ∧ kept s d ∧ d.pins = { s.dev.pins with twinSel := twin } ∧ d.bit R.TTA_POS_TWIN = twin ∧ d.bit R.TTA_TIME_STAT_LEAD = !twin) ∧
    (due → n = 3 → RecorderRoom .tta s → Completes c s fun d => at_ 3 d ∧ calm s d ∧ d.out = s.dev.out ∧ d.tta.boot.seq = none ∧ d.tta.boot.starting = true ∧ d.tta.boot.startTick = (s.dev.tb .tta).tick ∧
      d.tta.boot.fetching = false ∧ d.tta.boot.attempt = 0 ∧ (s.dev.get R.TTA_BOOT_STAT_FAILS = 3 → d.bit R.TTA_BOOT_STAT_RECOVERY = true ∧ Recorded .tta 0x0004 [] s d) ∧
      (s.dev.get R.TTA_BOOT_STAT_FAILS ≠ 3 → bit R.TTA_BOOT_STAT_RECOVERY s d ∧ d.tta.recorder = s.dev.tta.recorder)) ∧
    (due → n = 4 → RecorderRoom .tta s → Completes c s fun d => at_ 4 d ∧ calm s d ∧ d.out = s.dev.out ∧ Recorded .tta 0x0001 [s.dev.get R.TTA_RST_CAUSE_LAST_LEVEL, s.dev.get R.TTA_RST_CAUSE_LAST_SRC,
      s.dev.get R.TTA_RST_CAUSE_SEEN, s.dev.get R.TTA_BOOT_STAT_FAILS] s d) ∧
    (due → n = 5 → Completes c s fun d => at_ 5 d ∧ calm s d ∧ d.out = .fetch :: s.dev.out ∧ d.tta.boot.fetching = true ∧ d.tta.boot.attempt = 1 ∧ d.tta.recorder = s.dev.tta.recorder) ∧
    (due → n = 7 → Completes c s fun d => at_ 7 d ∧ kept s d ∧ d.pins = s.dev.pins ∧ let mv := s.dev.get R.TTA_AVS_CTL_BOUNDARY_MV
      let can : Prop := s.dev.tta.pwr.avs = none ∧ s.dev.bit R.TTA_AVS_STAT_AVS_FAIL = false
      (can → d.out = .avsWrite 1 mv :: s.dev.out ∧ d.tta.pwr = { s.dev.tta.pwr with avs := some { rail := 1, target := mv } } ∧ d.bit R.TTA_AVS_STAT_PENDING = true) ∧ (¬ can → quiet s d)) ∧
    (due → n = 8 → Completes c s fun d => at_ 8 d ∧ quiet s d ∧ d.tta.boot.sweep = true ∧ d.tta.boot.sweepTest = true) ∧ (due → n = 9 → Completes c s fun d => at_ 9 d ∧ quiet s d) ∧
    (due → n = 10 → Completes c s fun d => at_ 10 d ∧ kept s d ∧ d.pins = s.dev.pins ∧ d.tta.recorder = s.dev.tta.recorder ∧ d.tta.pwr = s.dev.tta.pwr ∧ ∀ p, p < 17 → trains (ttaEnd p) s d) ∧
    (due → n = 11 → Completes c s fun d => at_ (if s.dev.twinState = 0 then 12 else 11) d ∧ kept s d ∧ d.pins = s.dev.pins ∧ d.out = s.dev.out ∧ d.tta.links = s.dev.tta.links ∧ d.tta.pwr = s.dev.tta.pwr ∧
      (s.dev.isKeeper = false ∨ s.dev.tta.det.haveLog = true → d.tta.det = s.dev.tta.det ∧ d.tta.recorder = s.dev.tta.recorder))) ∧
  (∀ (order : Fin 14) (twin : Bool) (s : State),
    let c : Instr := .resetRelease .tdu order twin
    let b := s.dev.tdu.boot
    let n := order.val
    let due : Prop := (n = 1 ∧ b.seq = some 0 ∧ b.order = 0) ∨ (n = 2 ∧ b.seq ≠ none ∧ b.order = 1 ∧ b.loading = false ∧ s.dev.bit R.TDU_FUSE_STAT_DONE = true) ∨ (n = 3 ∧ b.seq ≠ none ∧ b.order = 2) ∨
      (n = 7 ∧ 2 ≤ b.order ∧ s.dev.dState < 2)
    (¬ due → Completes c s fun d => d = s.dev) ∧
    (due → n = 1 → Completes c s fun d => d = { s.dev with tdu := { s.dev.tdu with boot := { b with order := 1 } } }) ∧
    (due → n = 2 → Completes c s fun d => d = { s.dev with tdu := { s.dev.tdu with boot := { b with order := 2 }, regs := d.tdu.regs } } ∧ d.get R.TDU_AON_LDO_MODE = 1 ∧ d.get R.TDU_AON_LDO_MODE_ACK = 1 ∧
      RegsKept .tdu [R.TDU_AON_LDO.base] s d) ∧
    (due → n = 3 → s.dev.tdu.pwr.trans = 0 → s.dev.dState = 0 → s.dev.bit R.TDU_PWR_STAT_WOKE = false → Completes c s fun d => let r := s.dev.pins.pmReq.toNat
      d.tta = s.dev.tta ∧ d.tdu.boot = { b with order := 3, seq := none } ∧ (∀ p : Fin 2, trains (.tdu p) s d) ∧ d.tdu.pwr.trans = (if r = 0 then 0 else if r = 1 then 1 else 2) ∧ (r ≠ 0 → d.tdu.pwr.target = r) ∧
      d.pins = { s.dev.pins with pmAck := decide (r = 0) }) ∧
    (due → n = 7 → Completes c s fun d => d = { s.dev with tdu := { s.dev.tdu with smp := { s.dev.tdu.smp with hostReset := false, trcReset := false } } })) ∧
  (∀ (failed : BitVec 64) (s : State),
    let c : Instr := .memTrainingDone failed
    (s.dev.get R.TTA_BOOT_STAT_ORDER ≠ 7 ∨ failed = 0 → Completes c s fun d => d = s.dev) ∧
    (s.dev.get R.TTA_BOOT_STAT_ORDER = 7 → Completes c s fun d => d.tdu = s.dev.tdu ∧ d.pins = s.dev.pins ∧ d.tta.tiles = s.dev.tta.tiles ∧ d.get R.TTA_BOOT_STAT_ORDER = 7 ∧
      ∀ k, k < 64 → d.bit (R.TTA_MEM_CH_RETIRED.at k) = (s.dev.bit (R.TTA_MEM_CH_RETIRED.at k) || failed.getLsbD k)) ∧
    (∀ k : Fin 64, s.dev.get R.TTA_BOOT_STAT_ORDER = 7 → failed = BitVec.ofNat 64 (2 ^ k.val) → s.dev.bit (R.TTA_MEM_CH_RETIRED.at k.val) = false → RecorderRoom .tta s → Completes c s fun d =>
      ∃ left, Recorded .tta 0x3110 [k.val, 0, left] s d)) ∧
  (∀ (missing : List (Fin 640)) (failed : List (Fin 10240)) (s : State),
    let c : Instr := .readySweepDone missing failed
    let boot := { s.dev.tta.boot with sweep := false, sweepTest := false, seq := if s.dev.tta.boot.seq = some 2 then none else s.dev.tta.boot.seq }
    let lost (k : Nat) : Prop := ∃ x ∈ missing, x.val = k
    (s.dev.tta.boot.sweep = false → Completes c s fun d => d = s.dev) ∧
    (s.dev.tta.boot.sweep = true → Completes c s fun d => d.tdu = s.dev.tdu ∧ d.pins = s.dev.pins ∧ d.out = s.dev.out ∧ d.tta.boot = boot ∧ d.tta.tiles = s.dev.tta.tiles ∧ d.tta.graphs = s.dev.tta.graphs ∧
      (∀ k, k < 640 → (lost k → d.get (R.TTA_FAB_CLU_STATE.at k) = 2) ∧ (¬ lost k → s.dev.tta.boot.sweepTest = false → d.get (R.TTA_FAB_CLU_STATE.at k) = s.dev.get (R.TTA_FAB_CLU_STATE.at k))) ∧
      (∀ t, t < 10240 → (d.get (R.TTA_FAB_CLU_TILE_RET.at (t / 16))).testBit (t % 16) = ((s.dev.get (R.TTA_FAB_CLU_TILE_RET.at (t / 16))).testBit (t % 16) ||
        (s.dev.tta.boot.sweepTest && failed.any fun x => x.val == t))) ∧
      (s.dev.tta.boot.seq = some 2 → d.twinState = 3 ∧ d.tta.twin.out = false ∧ d.bit R.TTA_TIME_STAT_LEAD = false) ∧ (s.dev.tta.boot.seq ≠ some 2 → d.tta.twin = s.dev.tta.twin ∧ d.twinState = s.dev.twinState)) ∧
    (∀ k : Fin 640, s.dev.tta.boot.sweep = true → missing = [k] → failed = [] → s.dev.get (R.TTA_FAB_CLU_STATE.at k.val) ≠ 2 → RecorderRoom .tta s → Completes c s fun d => Recorded .tta 0x3104 [k.val, 0] s d)) ∧
  (∀ s : State,
    let b := s.dev.tta.boot
    let o := s.dev.get R.TTA_BOOT_STAT_ORDER
    (b.starting = false ∨ o < 6 → Completes .bootOk s fun d => d = s.dev) ∧
    (b.starting = true → 6 ≤ o → RecorderRoom .tta s → Completes .bootOk s fun d => calm s d ∧ d.out = s.dev.out ∧ d.tta.boot.starting = false ∧ d.bit R.TTA_BOOT_STAT_BOOTED = true ∧ d.get R.TTA_BOOT_STAT_FAILS = 0 ∧
      d.get R.TTA_BOOT_STAT_ORDER = (if 11 ≤ o then 13 else o) ∧ Recorded .tta 0x0002 [s.dev.get R.TTA_FW_VER_FW_VERSION, ((s.dev.tb .tta).tick - b.startTick) / 1000000] s d)) ∧
  (∀ s : State, Completes .trayGo s fun d => d.bit R.TTA_BOOT_CTL_TRAY_GO = true ∧ RegsKept .tta [R.TTA_BOOT_CTL.base] s d ∧ d = { s.dev with tta := { s.dev.tta with regs := d.tta.regs } })

/-- R461 to R467. The records that wait are stored before the TTA resets itself (log 61). -/
def Obligations.FusesAndFirmware : Prop :=
  let kept (s : State) (d : Dev) : Prop := d.tdu = s.dev.tdu ∧ d.pins = s.dev.pins ∧ d.freeIx = s.dev.freeIx ∧ d.tta = { s.dev.tta with boot := d.tta.boot, regs := d.tta.regs, recorder := d.tta.recorder, rpt := d.tta.rpt }
  let fails (d : Dev) : Nat := d.get R.TTA_BOOT_STAT_FAILS
  -- the TTA resets itself at L1, with source 3 and FAILS as given, after the events given stand in the permanent area
  let resets (n : Nat) (codes : List (Nat × List Nat)) (s : State) (d : Dev) : Prop := d.tdu = s.dev.tdu ∧ fails d = n ∧ d.tta.boot = { seq := some 1, loading := false } ∧ d.get R.TTA_BOOT_STAT_ORDER = 0 ∧
    d.bit R.TTA_BOOT_STAT_RECOVERY = false ∧ d.get R.TTA_RST_CAUSE_LAST_SRC = 3 ∧ d.get R.TTA_RST_CAUSE_LAST_LEVEL = 1 ∧ (d.get R.TTA_RST_CAUSE_SEEN).testBit 3 = true ∧
    d.get R.TTA_RST_CAUSE_WARM_COUNT = min (s.dev.get R.TTA_RST_CAUSE_WARM_COUNT + 1) 0xFF ∧ d.tta.tiles = [] ∧ d.tta.graphs = [] ∧ d.tta.sett = {} ∧ d.twinState = 3 ∧ (d.tb .tta).tick = (s.dev.tb .tta).tick ∧
    d.tta.fuses = s.dev.tta.fuses ∧ d.tta.cal = s.dev.tta.cal ∧ d.word .tta R.TTA_POS.base = s.dev.word .tta R.TTA_POS.base ∧ d.tta.recorder.circ = [] ∧
    (s.dev.tta.recorder.queue = [] → s.dev.bit (recFrozen .tta) = false → s.dev.bit (snapMatchEn .tta) = false → s.dev.get (recPermFill .tta) + 3 < permSize .tta →
      ∃ l, d.tta.recorder.perm = s.dev.tta.recorder.perm ++ l ∧ List.Forall₂ (fun (r : Rec) (x : Nat × List Nat) => r.code = BitVec.ofNat 16 x.1 ∧ [r.p0, r.p1, r.p2].take x.2.length = x.2.map (BitVec.ofNat 32)) l codes)
  let failed (s : State) : Nat := min (fails s.dev + 1) 3
  let steps (ks : List (Fin 4)) (from_ : Nat) : List (Nat × List Nat) := (ks.zipIdx from_).flatMap fun x => (List.range (min 2 x.1.val)).map fun k => (0x0010, [x.2, k + 2])
  (∀ (l : FuseLoad) (s : State),
    let c : Instr := .fuseLoadDone .tta l
    let runs : Prop := s.dev.tta.boot.loading = true ∧ 1 ≤ s.dev.tta.boot.order
    let dead : Prop := ∃ k ∈ l.failedReads, k = 3
    let sec := max s.dev.tta.fuses.secFuse.toNat l.contents.secFuse.toNat
    let ws := s.dev.tta.mtp.getD ((List.range 256).map Config.factoryCal)
    let stored := match s.dev.tta.mtp with | some ws => (calCrcs ws).1 | none => l.calStored
    let computed := match s.dev.tta.mtp with | some ws => (calCrcs ws).2 | none => l.calComputed
    let bad : Prop := s.dev.tta.mtpCut = true ∨ stored ≠ computed
    let reads := min 65535 ((l.failedReads.map fun k => min 2 k.val).sum)
    (¬ runs → Completes c s fun d => d = s.dev) ∧
    (runs → dead → RecorderRoomFor (steps l.failedReads 0).length .tta s → Completes c s fun d => kept s d ∧ d.out = s.dev.out ∧ d.bit R.TTA_FUSE_STAT_FAIL = true ∧ d.bit R.TTA_FUSE_STAT_DONE = s.dev.bit R.TTA_FUSE_STAT_DONE ∧
      d.get R.TTA_FUSE_STAT_RETRIES = reads ∧ d.tta.boot = { s.dev.tta.boot with loading := false } ∧ RecordedAll .tta (steps l.failedReads 0) s.dev d) ∧
    (runs → ¬ dead → RecorderRoomFor ((steps l.failedReads 0).length + 1) .tta s → Completes c s fun d => d.tdu = s.dev.tdu ∧ d.pins = s.dev.pins ∧ d.out = s.dev.out ∧ d.bit R.TTA_FUSE_STAT_DONE = true ∧
      d.get R.TTA_FUSE_STAT_RETRIES = reads ∧ d.tta.boot = { s.dev.tta.boot with loading := false, order := 2 } ∧ d.get R.TTA_BOOT_STAT_ORDER = 2 ∧ d.tta.fuses = { l.contents with secFuse := BitVec.ofNat 8 sec } ∧
      d.get R.TTA_FW_VER_SEC_FUSE = sec ∧ d.tta.cal = ws ∧ (ws.length = 256 → ∀ k, k < 256 → d.word .tta (R.TTA_CAL_DATA.base + 8 * k) = ws.getD k 0) ∧ d.get R.TTA_AVS_CTL_BOUNDARY_MV = l.boundaryMv.toNat ∧
      d.tta.mtp = s.dev.tta.mtp ∧ (bad → d.bit R.TTA_BOOT_STAT_CAL_BAD = true ∧ RecordedAll .tta (steps l.failedReads 0 ++ [(0x0011, [stored.toNat, computed.toNat])]) s.dev d) ∧
      (¬ bad → d.bit R.TTA_BOOT_STAT_CAL_BAD = false ∧ RecordedAll .tta (steps l.failedReads 0) s.dev d))) ∧
  (∀ (l : FuseLoad) (s : State),
    let c : Instr := .fuseLoadDone .tdu l
    let runs : Prop := s.dev.tdu.boot.loading = true ∧ 1 ≤ s.dev.tdu.boot.order
    let dead : Prop := ∃ k ∈ l.failedReads, k = 3
    let off : Boot := { s.dev.tdu.boot with loading := false }
    (¬ runs → Completes c s fun d => d = s.dev) ∧
    (runs → RecorderRoomFor (steps l.failedReads 0).length .tdu s → Completes c s fun d => d.tta = s.dev.tta ∧ d.pins = s.dev.pins ∧ d.get R.TDU_FUSE_STAT_RETRIES = min 65535 ((l.failedReads.map fun k => min 2 k.val).sum) ∧
      d.tdu.boot = off ∧ RecordedAll .tdu (steps l.failedReads 0) s.dev d ∧ (dead → d.bit R.TDU_FUSE_STAT_FAIL = true ∧ d.tdu.fuses = s.dev.tdu.fuses) ∧
      (¬ dead → d.bit R.TDU_FUSE_STAT_DONE = true ∧ d.tdu.fuses = l.contents))) ∧
  (∀ (key : BitVec 16) (s : State),
    let c : Instr := .calProgram key
    let asked : Prop := key = 0xCA1B ∧ s.dev.bit R.TTA_CAL_STAT_BUSY = false
    let n := s.dev.get R.TTA_CAL_STAT_PROGRAMS
    (¬ asked → Completes c s fun d => d = s.dev) ∧
    (asked → 100 ≤ n → Completes c s fun d => d.bit R.TTA_CAL_STAT_WORN = true ∧ d.get R.TTA_CAL_STAT_PROGRAMS = n ∧ d.bit R.TTA_CAL_STAT_BUSY = false ∧ RegsKept .tta [R.TTA_CAL_STAT.base] s d ∧
      d = { s.dev with tta := { s.dev.tta with regs := d.tta.regs } }) ∧
    (asked → n < 100 → Completes c s fun d => d.bit R.TTA_CAL_STAT_BUSY = true ∧ d.get R.TTA_CAL_STAT_PROGRAMS = n + 1 ∧ RegsKept .tta [R.TTA_CAL_STAT.base] s d ∧
      d = { s.dev with tta := { s.dev.tta with regs := d.tta.regs, mtp := d.tta.mtp, mtpCut := true } } ∧ ∃ ws : List W64, d.tta.mtp = some ws ∧ ws.length = 256 ∧
      ∀ k, k < 256 → ws.getD k 0 = s.dev.word .tta (R.TTA_CAL_DATA.base + 8 * k))) ∧
  (∀ s : State, (s.dev.bit R.TTA_CAL_STAT_BUSY = false → Completes .calProgramDone s fun d => d = s.dev) ∧
    (s.dev.bit R.TTA_CAL_STAT_BUSY = true → RecorderRoom .tta s → Completes .calProgramDone s fun d => d.bit R.TTA_CAL_STAT_BUSY = false ∧ d.tta.mtpCut = false ∧ d.tta.mtp = s.dev.tta.mtp ∧
      d.tta = { s.dev.tta with regs := d.tta.regs, recorder := d.tta.recorder, mtpCut := false } ∧ d.tdu = s.dev.tdu ∧ Recorded .tta 0x0012 [s.dev.get R.TTA_CAL_STAT_PROGRAMS] s d)) ∧
  (∀ (key : BitVec 16) (s : State),
    let c : Instr := .rollFwd key
    let can : Prop := key = 0x5EC5 ∧ s.dev.bit R.TTA_BOOT_STAT_BOOTED = true
    let n := max s.dev.tta.fuses.secFuse.toNat (s.dev.get R.TTA_FW_VER_SEC_VERSION)
    (¬ can → Completes c s fun d => d = s.dev) ∧
    (can → Completes c s fun d => d.get R.TTA_FW_VER_SEC_FUSE = n ∧ RegsKept .tta [R.TTA_FW_VER.base] s d ∧ d.get R.TTA_FW_VER_SEC_VERSION = s.dev.get R.TTA_FW_VER_SEC_VERSION ∧
      d = { s.dev with tta := { s.dev.tta with regs := d.tta.regs, fuses := { s.dev.tta.fuses with secFuse := BitVec.ofNat 8 n } } })) ∧
  (∀ s : State, s.dev.canonical → s.dev.tta.boot.seq = none →
    let b := s.dev.tta.boot
    let rec_ := s.dev.bit R.TTA_BOOT_STAT_RECOVERY
    let attempt (c : Instr) (why : Nat) : Prop :=
      (b.fetching = false → Completes c s fun d => d = s.dev) ∧
      (b.fetching = true → b.attempt < 3 ∨ rec_ = true → RecorderRoom .tta s → Completes c s fun d => kept s d ∧ d.out = s.dev.out ∧ d.tta.boot = { b with fetching := false, attempt := if b.attempt < 3 then b.attempt else 0 } ∧
        d.tta.regs = s.dev.tta.regs ∧ Recorded .tta 0x0020 [b.attempt, why] s d) ∧
      (b.fetching = true → 3 ≤ b.attempt → rec_ = false → Completes c s fun d => resets (failed s) [(0x0020, [b.attempt, why]), (0x0003, [2, failed s])] s d)
    (∀ why : Fin 3, attempt (.fetchAttemptDone (.failed why)) why.val) ∧ attempt .fetchAttemptTimeout 3 ∧
    (∀ x : FwImage,
      let c : Instr := .fetchAttemptDone (.image x)
      let sec := s.dev.tta.fuses.secFuse.toNat
      let form : Prop := x.formOk = true ∧ 1 ≤ x.bodyBytes ∧ x.bodyBytes ≤ 3145472
      let refused (n : Nat) : Prop := (n = 1 ∧ ¬ form) ∨ (n = 2 ∧ form ∧ x.keyOk = false) ∨ (n = 3 ∧ form ∧ x.keyOk = true ∧ x.sigOk = false) ∨ (n = 4 ∧ form ∧ x.keyOk = true ∧ x.sigOk = true ∧ x.hashOk = false) ∨
        (n = 5 ∧ form ∧ x.keyOk = true ∧ x.sigOk = true ∧ x.hashOk = true ∧ x.secVersion.toNat < sec)
      let good : Prop := form ∧ x.keyOk = true ∧ x.sigOk = true ∧ x.hashOk = true ∧ sec ≤ x.secVersion.toNat
      (b.fetching = false → Completes c s fun d => d = s.dev) ∧
      (∀ n, b.fetching = true → refused n → rec_ = true → RecorderRoom .tta s → Completes c s fun d => kept s d ∧ d.out = s.dev.out ∧ d.tta.boot = { b with fetching := false, attempt := 0 } ∧ Recorded .tta 0x0021 [n] s d ∧
        d.tta.regs = s.dev.tta.regs) ∧
      (∀ n, b.fetching = true → refused n → rec_ = false → Completes c s fun d => resets (failed s) [(0x0021, [n]), (0x0003, [3, failed s])] s d) ∧
      (b.fetching = true → good → rec_ = true → Completes c s fun d => resets 2 [(0x0022, [x.fwVersion.toNat, x.secVersion.toNat])] s d) ∧
      (b.fetching = true → good → rec_ = false → RecorderRoom .tta s → Completes c s fun d => kept s d ∧ d.out = s.dev.out ∧ d.tta.boot = { b with fetching := false, attempt := 0, order := 6 } ∧ d.get R.TTA_BOOT_STAT_ORDER = 6 ∧
        d.get R.TTA_FW_VER_FW_VERSION = x.fwVersion.toNat ∧ d.get R.TTA_FW_VER_SEC_VERSION = x.secVersion.toNat ∧ d.get R.TTA_CAPS_LINK_VER = x.linkVer.toNat ∧ d.get R.TTA_CAPS_TWIN_VER = x.twinVer.toNat ∧
        d.get R.TTA_CAPS_WRN_VER = x.wrnVer.toNat ∧ Recorded .tta 0x0022 [x.fwVersion.toNat, x.secVersion.toNat] s d)) ∧
    (b.starting = true → rec_ = false → Completes .startTimerExpiry s fun d => resets (failed s) [(0x0003, [1, failed s])] s d) ∧
    (b.starting = false ∨ rec_ = true → Completes .startTimerExpiry s fun d => d = s.dev)) ∧
  (∀ s : State,
    let b := s.dev.tta.boot
    let begins (n : Nat) (d : Dev) : Prop := d = { s.dev with tta := { s.dev.tta with boot := { b with attempt := n, fetching := true } }, out := .fetch :: s.dev.out }
    let next : Prop := b.fetching = false ∧ 1 ≤ b.attempt ∧ b.attempt < 3
    let again : Prop := s.dev.bit R.TTA_BOOT_STAT_RECOVERY = true ∧ b.fetching = false ∧ b.attempt = 0 ∧ s.dev.get R.TTA_BOOT_STAT_ORDER = 5
    (next → Completes .fetchRetry s fun d => begins (b.attempt + 1) d) ∧ (¬ next → Completes .fetchRetry s fun d => d = s.dev) ∧ (again → Completes .recoveryFetch s fun d => begins 1 d) ∧
    (¬ again → Completes .recoveryFetch s fun d => d = s.dev))

/-- R84, R488 to R496, R498. The register port is silent while the host-main domain is in reset (log 64). -/
def Obligations.RegisterAccess : Prop :=
  let inF (i : Nat) (f : FldRow) : Prop := f.lo ≤ i ∧ i ≤ f.hi
  let on (be : BitVec 8) (f : FldRow) : Prop := ∀ b, f.lo / 8 ≤ b → b ≤ f.hi / 8 → be.getLsbD b = true
  -- the word of a register after a write of its enabled fields; `rw` says whether RW fields may change
  let wrote (r : RegRow) (rw w1c : Bool) (be : BitVec 8) (v old new : W64) : Prop := ∀ i, i < 64 →
    (rw = true → (∃ f ∈ r.fields, inF i f ∧ on be f ∧ (f.acc = .rw ∨ f.acc = .rws)) → new.getLsbD i = v.getLsbD i) ∧
    (w1c = true → (∃ f ∈ r.fields, inF i f ∧ on be f ∧ f.acc = .rw1c) → new.getLsbD i = (old.getLsbD i && !v.getLsbD i)) ∧
    ((∀ f ∈ r.fields, inF i f → on be f → ¬ (rw = true ∧ (f.acc = .rw ∨ f.acc = .rws)) ∧ ¬ (w1c = true ∧ f.acc = .rw1c)) → new.getLsbD i = old.getLsbD i)
  let onlyT (l : List Nat) (s : State) (d : Dev) : Prop := d = { s.dev with tta := { s.dev.tta with regs := d.tta.regs } } ∧ RegsKept .tta l s d
  let acts : List Nat := [R.TTA_POS.base, R.TTA_COMPAT.base, R.TTA_RST_CTL.base, R.TTA_BOOT_CTL.base, R.TTA_CAL_CTL.base, R.TTA_PWR_CTL.base, R.TTA_PWR_WAKE.base, R.TTA_AVS_CTL.base, R.TTA_TIME_CTL.base,
    R.TTA_TIME_SWITCH.base, R.TTA_TIME_DOM_CTL.base, R.TTA_TIME_RATE.base, R.TTA_TIME_SET_FRAC.base, R.TTA_TIME_SET_NS.base, R.TTA_TIME_STEP.base, R.TTA_TL_CTL.base, R.TTA_TWL_CTL.base, R.TTA_EGR_SLOT_CTL.base,
    R.TTA_WM_CFG.base, R.TTA_TILE_ERR.base, R.TTA_DIE_STATE.base, R.TTA_CHK_CFG.base, R.TTA_RPT_KEY.base, R.TTA_TDU_MIRROR.base, R.TTA_CMP_RING_CFG.base, R.TTA_CMP_DB.base, R.TTA_REC_CTL.base, R.TTA_REC_SEL.base,
    R.TTA_SNAP_CTL.base, R.TTA_SETT_PKEY.base, R.PF_Q_CFG.base, R.LODGE_Q_CFG.base, R.PF_Q_DB.base, R.LODGE_Q_DB.base]
  let held (r : RegRow) (i : Nat) (d : Dev) : Prop := (r.base = R.PF_Q_BASE.base ∧ d.bit (qEn .pf i) = true) ∨ (r.base = R.LODGE_Q_BASE.base ∧ d.bit (qEn .lodge i) = true) ∨
    (r.base = R.TTA_CMP_RING_BASE.base ∧ d.bit R.TTA_CMP_RING_CFG_ENABLE = true) ∨ (r.base = R.TTA_EGR_SLOT.base ∧ d.bit R.TTA_EGR_SLOT_CTL_PENDING = true) ∨
    (r.base = R.TTA_CAL_DATA.base ∧ d.bit R.TTA_CAL_STAT_BUSY = true)
  let lodge (a : Nat) : Prop := 0x163000 ≤ a ∧ a < 0x164000
  let pfOpen (a : Nat) : Prop := a = R.TTA_POS.base ∨ (0x40000 ≤ a ∧ a < 0x50000) ∨ (R.TTA_DIE_STATE.base ≤ a ∧ a < R.TTA_DIE_STATE.base + 128) ∨ a = R.TTA_COARSE_CTL.base ∨ a = R.TTA_RPT_CFG.base ∨
    a = R.TTA_RPT_DEST_HI.base ∨ a = R.TTA_RPT_DEST_LO.base ∨ (0x130000 ≤ a ∧ a < 0x150000) ∨ (0x160000 ≤ a ∧ a < 0x170000 ∧ ¬ lodge a) ∨ 0x1F0000 ≤ a
  let asks (r : RegRow) (be : BitVec 8) : Prop := ∃ f ∈ r.fields, on be f ∧ (f.acc = .rw ∨ f.acc = .rws ∨ f.acc = .wo)
  (∀ (off : BitVec 21) (be : BitVec 8) (v : W64) (s : State),
    let a := off.toNat / 8 * 8
    let absent (c : Instr) : Prop := Completes c s fun d => onlyT [R.TTA_REG_ERR.base] s d ∧ d.get R.TTA_REG_ERR_ABSENT = min (s.dev.get R.TTA_REG_ERR_ABSENT + 1) 0xFFFFFFFF ∧
      d.get R.TTA_REG_ERR_PF_DENIED = s.dev.get R.TTA_REG_ERR_PF_DENIED ∧ d.get R.TTA_REG_ERR_LOCKED = s.dev.get R.TTA_REG_ERR_LOCKED
    (pfRow a = none → absent (.registerWrite .lodge off be v) ∧ absent (.registerWrite .pf off be v)) ∧
    (∀ r i, pfRow a = some (r, i) → r.base ∉ acts →
      (¬ held r i s.dev → Completes (.registerWrite .lodge off be v) s fun d => onlyT [a] s d ∧ wrote r true true be v (s.dev.word .tta a) (d.word .tta a)) ∧
      (held r i s.dev → Completes (.registerWrite .lodge off be v) s fun d => onlyT (if r.base = R.TTA_EGR_SLOT.base then [R.TTA_EGR_SLOT_CTL.base] else []) s d ∧
        (r.base = R.TTA_EGR_SLOT.base → asks r be → d.get R.TTA_EGR_SLOT_CTL_SHADOW_REFUSED = min (s.dev.get R.TTA_EGR_SLOT_CTL_SHADOW_REFUSED + 1) (2 ^ R.TTA_EGR_SLOT_CTL_SHADOW_REFUSED.width - 1))) ∧
      (pfOpen a → ¬ held r i s.dev → Completes (.registerWrite .pf off be v) s fun d => onlyT [a] s d ∧ wrote r true true be v (s.dev.word .tta a) (d.word .tta a)) ∧
      (¬ pfOpen a → ¬ asks r be → Completes (.registerWrite .pf off be v) s fun d => onlyT [a] s d ∧ (¬ lodge a → wrote r false true be v (s.dev.word .tta a) (d.word .tta a)) ∧
        (lodge a → d.word .tta a = s.dev.word .tta a)) ∧
      (¬ pfOpen a → asks r be → a ≠ R.TTA_REG_ERR.base → Completes (.registerWrite .pf off be v) s fun d => onlyT [a, R.TTA_REG_ERR.base] s d ∧
        d.get R.TTA_REG_ERR_PF_DENIED = min (s.dev.get R.TTA_REG_ERR_PF_DENIED + 1) 0xFFFF ∧ d.get R.TTA_REG_ERR_ABSENT = s.dev.get R.TTA_REG_ERR_ABSENT ∧
        (¬ lodge a → r.base ≠ R.TTA_EGR_SLOT.base → wrote r false true be v (s.dev.word .tta a) (d.word .tta a)) ∧ (lodge a → d.word .tta a = s.dev.word .tta a))) ∧
    (∀ n : Fin 256,
      let c : Instr := .registerWrite (.vf n) off be v
      let x := a % 65536
      (n = 0 → Completes c s fun d => d = s.dev) ∧ (n ≠ 0 → findRow R.vfRows x = none → absent c) ∧
      (∀ r i, n ≠ 0 → findRow R.vfRows x = some (r, i) → r.base ≠ R.VF_Q_CFG.base → r.base ≠ R.VF_Q_DB.base →
        (r.base = R.VF_Q_BASE.base → s.dev.bit (qEn (.vf n) i) = false) → Completes c s fun d => onlyT [x + vfBase n.val] s d ∧ wrote r true true be v (s.dev.word .tta (x + vfBase n.val)) (d.word .tta (x + vfBase n.val))) ∧
      (∀ r i, n ≠ 0 → findRow R.vfRows x = some (r, i) → r.base = R.VF_Q_BASE.base → s.dev.bit (qEn (.vf n) i) = true → Completes c s fun d => onlyT [x + vfBase n.val] s d ∧
        wrote r false true be v (s.dev.word .tta (x + vfBase n.val)) (d.word .tta (x + vfBase n.val))))) ∧
  -- a register whose write is a command of its own
  (∀ (v : W64) (i : Fin 4) (s : State), s.dev.canonical →
    let w (a : Nat) : Instr := .registerWrite .lodge (BitVec.ofNat 21 a) 0xFF v
    exec (w R.TTA_POS.base) s = exec (.posWrite false v) s ∧ exec (.registerWrite .pf (BitVec.ofNat 21 R.TTA_POS.base) 0xFF v) s = exec (.posWrite true v) s ∧ exec (w R.TTA_RST_CTL.base) s = exec (.rstReq v) s ∧
    exec (w R.TTA_PWR_CTL.base) s = exec (.pwrGo v) s ∧ exec (w R.TTA_PWR_WAKE.base) s = exec (.pwrWakeWrite (BitVec.ofNat 17 v.toNat)) s ∧
    (v.getLsbD 0 = true → exec (w R.TTA_CAL_CTL.base) s = exec (.calProgram (BitVec.ofNat 16 (v.toNat / 2 ^ 16))) s) ∧ exec (w R.TTA_CMP_DB.base) s = exec (.cmpDoorbell (BitVec.ofNat 16 v.toNat)) s ∧
    exec (w (R.TTA_RPT_KEY.base + 8 * i.val)) s = exec (.rptKeyWrite i v) s) ∧
  (∀ (addr : BitVec 16) (be : BitVec 8) (v : W64) (write priv : Bool) (s : State),
    let c : Instr := .regPortRequest write priv addr be v
    let a := addr.toNat / 8 * 8
    let answers (x : W64) (err : Bool) (s : State) (d : Dev) : Prop := d.out = .regAnswer x err :: s.dev.out ∧ d.tta = s.dev.tta ∧ d.pins = s.dev.pins ∧ d.freeIx = s.dev.freeIx
    let rest (s : State) (d : Dev) : Prop := d.tdu = { s.dev.tdu with regs := d.tdu.regs }
    let ready : Prop := s.dev.tdu.smp.hostReset = false ∧ s.dev.dState < 2
    let actsD : List Nat := [R.TDU_TL_CTL.base, R.TDU_CNT_GROUP.base, R.TDU_TRC_TRIG.base, R.TDU_CHK_TEST.base, R.TDU_CHK_UNIT.base, R.TDU_REC_CTL.base, R.TDU_REC_SEL.base, R.TDU_SNAP_CTL.base, R.TDU_Q_CFG.base, R.TDU_Q_DB.base]
    let fixed (r : RegRow) (i : Nat) : Prop := (r.base = R.TDU_Q_BASE.base ∧ s.dev.bit (qEn .tdu i) = true) ∨ ((r.base = R.TDU_SPILL_BASE.base ∨ r.base = R.TDU_SPILL_CFG.base) ∧ s.dev.bit R.TDU_SMP_CFG_ENABLE = true)
    let counted (d : Dev) : Prop := d.get R.TDU_REG_ERR_ABSENT = min (s.dev.get R.TDU_REG_ERR_ABSENT + 1) (2 ^ R.TDU_REG_ERR_ABSENT.width - 1) ∧ RegsKept .tdu [R.TDU_REG_ERR.base] s d
    (¬ ready → Completes c s fun d => d = s.dev) ∧
    (ready → priv = false → Completes c s fun d => answers 0 true s d ∧ d.tdu = { s.dev.tdu with bank := d.tdu.bank } ∧ d.counter 30 = s.dev.counter 30 + 1 ∧ CountersKept [30] s d) ∧
    (ready → priv = true → findRow R.tduRows a = none → Completes c s fun d => answers 0 false s d ∧ rest s d ∧ counted d) ∧
    (∀ r i, ready → priv = true → findRow R.tduRows a = some (r, i) →
      (write = true → r.base ∉ actsD → ¬ fixed r i → Completes c s fun d => answers 0 false s d ∧ rest s d ∧ RegsKept .tdu [a] s d ∧ wrote r true true be v (s.dev.word .tdu a) (d.word .tdu a)) ∧
      (write = true → fixed r i → Completes c s fun d => answers 0 false s d ∧ rest s d ∧ RegsKept .tdu [a] s d ∧ wrote r false true be v (s.dev.word .tdu a) (d.word .tdu a)) ∧
      (write = false → Completes c s fun d => d.tdu = s.dev.tdu ∧ ∃ x : W64, answers x false s d ∧ ∀ k, k < 64 →
        ((∃ f ∈ r.fields, inF k f ∧ f.acc ≠ .wo) → be.getLsbD (k / 8) = true → x.getLsbD k = (s.dev.viewTdu a).getLsbD k) ∧
        ((∀ f ∈ r.fields, inF k f → f.acc = .wo) ∨ be.getLsbD (k / 8) = false → x.getLsbD k = false) ∧ (a ∉ computedAddrs .tdu → a ≠ R.TDU_RST_LEVEL.base → s.dev.viewTdu a = s.dev.word .tdu a)))) ∧
  (∀ (pf : Bool) (v : W64) (s : State),
    let c : Instr := .posWrite pf v
    let pos (d : Dev) : Nat × Nat := (d.get R.TTA_POS_POD, d.get R.TTA_POS_TRAY)
    (s.dev.bit R.TTA_POS_LOCKED = true → Completes c s fun d => onlyT [R.TTA_REG_ERR.base] s d ∧ d.get R.TTA_REG_ERR_LOCKED = min (s.dev.get R.TTA_REG_ERR_LOCKED + 1) 0xFFFF) ∧
    (s.dev.bit R.TTA_POS_LOCKED = false → Completes c s fun d => pos d = (v.toNat / 2 ^ 6 % 256, v.toNat / 2 % 32) ∧ d.bit R.TTA_POS_LOCKED = v.getLsbD 15 ∧ d.bit R.TTA_POS_TWIN = s.dev.bit R.TTA_POS_TWIN ∧
      (v.getLsbD 15 = false ∨ s.dev.get R.TTA_BOOT_STAT_ORDER ≠ 8 → onlyT [R.TTA_POS.base] s d) ∧
      (v.getLsbD 15 = true → s.dev.get R.TTA_BOOT_STAT_ORDER = 8 → d.get R.TTA_BOOT_STAT_ORDER = 9 ∧ RegsKept .tta [R.TTA_POS.base, R.TTA_BOOT_STAT.base] s d ∧
        d = { s.dev with tta := { s.dev.tta with regs := d.tta.regs, boot := { s.dev.tta.boot with order := 9 } } }))) ∧
  (∀ (v : W64) (s : State), Completes (.compatWrite v) s fun d => d.word .tta R.TTA_COMPAT.base = (v &&& 7) ∧ RegsKept .tta [R.TTA_COMPAT.base] s d ∧
    d = { s.dev with tta := { s.dev.tta with regs := d.tta.regs, links := d.tta.links } } ∧
    ∀ p : Fin 17, (d.port (.tta p)).queue = (s.dev.port (.tta p)).queue ++ (if p.val < 16 ∧ s.dev.isUp (.tta p) = true then [queued 2 0 (.control 0 false (.regWrite 8 7 (v &&& 7)))] else [])) ∧
  (∀ (n : Fin 256) (v : W64) (s : State),
    let x := R.TTA_VF_SYNC_SEL_OBJ.ofVf n.val
    (n = 0 → Completes (.vfSyncSel n v) s fun d => d = s.dev) ∧ (n ≠ 0 → Completes (.vfSyncSel n v) s fun d => onlyT [x.addr] s d ∧ d.get x = v.toNat % 65536))

/-- The invariant that every step keeps, over all commands; it is the model's own form of its tables. -/
def Obligations.StepKeepsCanonicalForm : Prop :=
  ∀ s : State, s.dev.canonical → s.queueLegal → ∃ s', step s = .next s' ∧ s'.dev.canonical ∧ s'.queueLegal

/-- R33, R458, R465, R494: the state after reset. -/
def Obligations.ResetIsCanonical : Prop :=
  State.reset.dev.canonical ∧ State.reset.queueLegal ∧ State.reset.pending = [] ∧ (∀ sp a, State.reset.dev.word sp a = Regs.resetOf sp a) ∧ (∀ a, State.reset.dev.histAt a = none) ∧
  State.reset.dev.tta.boot.seq = some 0 ∧ State.reset.dev.tdu.boot.seq = some 0 ∧ State.reset.dev.get R.TTA_BOOT_STAT_ORDER = 0 ∧ (∀ n, n < 256 → State.reset.dev.slotState n = if n = 0 then 1 else 0) ∧
  (∀ e, State.reset.dev.get (tlState e) = 0) ∧ State.reset.dev.out = []
end

