-- ==== Sys2Proof/Laws/Memory.lean ====
section
/-! SUPPORT. Laws of the sparse tables: a read after a write, and the canonical form under every table operation. -/
namespace Sys2Proof
variable {α : Type}

@[simp] theorem Memory.read_nil (dflt : Nat → α) (k : Nat) : Memory.read dflt [] k = dflt k := rfl

theorem Memory.read_absent (dflt : Nat → α) (m : Memory α) (k : Nat) (h : ∀ e ∈ m, e.1 ≠ k) : Memory.read dflt m k = dflt k := by
  induction m with
  | nil => rfl
  | cons e t ih =>
    have := h e (by simp)
    simp only [Memory.read]
    rw [if_neg this]
    exact ih fun x hx => h x (by simp [hx])

theorem Memory.read_erase_same (dflt : Nat → α) (m : Memory α) (k : Nat) : Memory.read dflt (Memory.erase m k) k = dflt k :=
  Memory.read_absent dflt _ k fun e he => by simpa [Memory.erase] using (List.mem_filter.mp he).2

theorem Memory.read_erase_ne (dflt : Nat → α) (m : Memory α) (k j : Nat) (h : j ≠ k) :
    Memory.read dflt (Memory.erase m k) j = Memory.read dflt m j := by
  induction m with
  | nil => rfl
  | cons e t ih =>
    by_cases he : e.1 = k
    · have : e.1 ≠ j := fun c => h (c ▸ he)
      simp only [Memory.erase] at ih
      have hkj : k ≠ j := fun c => h c.symm
      simp [Memory.erase, he, Memory.read, ih, hkj]
    · simp only [Memory.erase] at ih
      simp [Memory.erase, he, Memory.read, ih]

theorem Memory.read_insert_same (dflt : Nat → α) (m : Memory α) (k : Nat) (v : α) (h : ∀ e ∈ m, e.1 ≠ k) :
    Memory.read dflt (Memory.insert k v m) k = v := by
  induction m with
  | nil => simp [Memory.insert, Memory.read]
  | cons e t ih =>
    have h0 := h e (by simp)
    by_cases hk : k < e.1
    · simp [Memory.insert, hk, Memory.read]
    · simp [Memory.insert, hk, Memory.read, h0, ih fun x hx => h x (by simp [hx])]

theorem Memory.read_insert_ne (dflt : Nat → α) (m : Memory α) (k j : Nat) (v : α) (h : j ≠ k) :
    Memory.read dflt (Memory.insert k v m) j = Memory.read dflt m j := by
  have h' : k ≠ j := fun c => h c.symm
  induction m with
  | nil => simp [Memory.insert, Memory.read, h']
  | cons e t ih =>
    by_cases hk : k < e.1
    · simp [Memory.insert, hk, Memory.read, h']
    · simp [Memory.insert, hk, Memory.read, ih]

/-- A read after a write to the same key gives the value written. -/
@[simp] theorem Memory.read_write_same [DecidableEq α] (dflt : Nat → α) (m : Memory α) (k : Nat) (v : α) :
    Memory.read dflt (Memory.write dflt m k v) k = v := by
  unfold Memory.write
  split
  · next h => rw [Memory.read_erase_same]; exact h.symm
  · exact Memory.read_insert_same dflt _ k v fun e he => by simpa [Memory.erase] using (List.mem_filter.mp he).2

/-- A write leaves every other key alone. -/
theorem Memory.read_write_ne [DecidableEq α] (dflt : Nat → α) (m : Memory α) (k j : Nat) (v : α) (h : j ≠ k) :
    Memory.read dflt (Memory.write dflt m k v) j = Memory.read dflt m j := by
  unfold Memory.write
  split
  · exact Memory.read_erase_ne dflt m k j h
  · rw [Memory.read_insert_ne dflt _ k j v h, Memory.read_erase_ne dflt m k j h]

theorem Memory.read_write [DecidableEq α] (dflt : Nat → α) (m : Memory α) (k j : Nat) (v : α) :
    Memory.read dflt (Memory.write dflt m k v) j = if j = k then v else Memory.read dflt m j := by
  by_cases h : j = k
  · simp [h]
  · simp [h, Memory.read_write_ne]

/-! ## The canonical form -/

theorem Memory.rising_iff (m : Memory α) : Memory.rising m = true ↔ m.Pairwise fun a b => a.1 < b.1 := by
  induction m with
  | nil => simp [Memory.rising]
  | cons a t ih =>
    cases t with
    | nil => simp [Memory.rising]
    | cons b u =>
      simp only [Memory.rising, Bool.and_eq_true, decide_eq_true_eq, ih, List.pairwise_cons]
      constructor
      · rintro ⟨hab, hb, hu⟩
        refine ⟨fun x hx => ?_, hb, hu⟩
        rcases List.mem_cons.mp hx with rfl | hx
        · exact hab
        · exact Nat.lt_trans hab (hb x hx)
      · rintro ⟨ha, hb, hu⟩
        exact ⟨ha b (by simp), hb, hu⟩

theorem Memory.rising_filter (m : Memory α) (p : Nat × α → Bool) (h : Memory.rising m = true) : Memory.rising (m.filter p) = true :=
  (Memory.rising_iff _).mpr (((Memory.rising_iff m).mp h).filter p)

theorem Memory.mem_insert (k : Nat) (v : α) (m : Memory α) (e : Nat × α) (he : e ∈ Memory.insert k v m) : e = (k, v) ∨ e ∈ m := by
  induction m with
  | nil => simpa [Memory.insert] using he
  | cons a t ih =>
    by_cases hk : k < a.1
    · simpa [Memory.insert, hk] using he
    · rw [Memory.insert, if_neg hk] at he
      rcases List.mem_cons.mp he with rfl | he
      · exact .inr (by simp)
      · rcases ih he with h | h
        · exact .inl h
        · exact .inr (by simp [h])

theorem Memory.rising_insert (k : Nat) (v : α) (m : Memory α) (h : Memory.rising m = true) (hk : ∀ e ∈ m, e.1 ≠ k) :
    Memory.rising (Memory.insert k v m) = true := by
  rw [Memory.rising_iff] at h ⊢
  induction m with
  | nil => simp [Memory.insert]
  | cons a t ih =>
    obtain ⟨ha, ht⟩ := List.pairwise_cons.mp h
    by_cases hlt : k < a.1
    · rw [Memory.insert, if_pos hlt]
      refine List.pairwise_cons.mpr ⟨fun x hx => ?_, h⟩
      rcases List.mem_cons.mp hx with rfl | hx
      · exact hlt
      · exact Nat.lt_trans hlt (ha x hx)
    · rw [Memory.insert, if_neg hlt]
      refine List.pairwise_cons.mpr ⟨fun x hx => ?_, ih ht fun e he => hk e (by simp [he])⟩
      rcases Memory.mem_insert k v t x hx with rfl | hx
      · have := hk a (by simp); show a.1 < k; omega
      · exact ha x hx

/-- Filtering a canonical table keeps it canonical. -/
theorem Memory.wf_filter [DecidableEq α] (dflt : Nat → α) (m : Memory α) (p : Nat × α → Bool) (h : Memory.wf dflt m = true) :
    Memory.wf dflt (m.filter p) = true := by
  simp only [Memory.wf, Bool.and_eq_true, List.all_eq_true] at h ⊢
  exact ⟨Memory.rising_filter m p h.1, fun e he => h.2 e (List.mem_filter.mp he).1⟩

/-- Erasing a key keeps the canonical form. -/
theorem Memory.wf_erase [DecidableEq α] (dflt : Nat → α) (m : Memory α) (k : Nat) (h : Memory.wf dflt m = true) :
    Memory.wf dflt (Memory.erase m k) = true := Memory.wf_filter dflt m _ h

/-- A write keeps the canonical form. -/
theorem Memory.wf_write [DecidableEq α] (dflt : Nat → α) (m : Memory α) (k : Nat) (v : α) (h : Memory.wf dflt m = true) :
    Memory.wf dflt (Memory.write dflt m k v) = true := by
  unfold Memory.write
  split
  · exact Memory.wf_erase dflt m k h
  · next hv =>
    have he := Memory.wf_erase dflt m k h
    simp only [Memory.wf, Bool.and_eq_true, List.all_eq_true] at he ⊢
    refine ⟨Memory.rising_insert k v _ he.1 fun e hx => by simpa [Memory.erase] using (List.mem_filter.mp hx).2, fun e hx => ?_⟩
    rcases Memory.mem_insert k v _ e hx with rfl | hx
    · simpa using hv
    · exact he.2 e hx

@[simp] theorem Memory.wf_nil [DecidableEq α] (dflt : Nat → α) : Memory.wf dflt [] = true := rfl

end Sys2Proof
end

