-- ==== Sys2Proof/Laws/Field.lean ====
section
/-! SUPPORT. Laws of register fields: reading a field after a field of the same or another register was set. -/
namespace Sys2Proof.Machine

/-- The field lies within a 64-bit word. -/
def Fld.ok (f : Fld) : Bool := decide (f.lo ≤ f.hi) && decide (f.hi < 64)

/-- The bit ranges of two fields do not meet. -/
def Fld.bitsApart (f g : Fld) : Bool := decide (f.hi < g.lo) || decide (g.hi < f.lo)

@[simp] theorem Fld.at_space (f : Fld) (i : Nat) : (f.at i).space = f.space := rfl
@[simp] theorem Fld.at_hi (f : Fld) (i : Nat) : (f.at i).hi = f.hi := rfl
@[simp] theorem Fld.at_lo (f : Fld) (i : Nat) : (f.at i).lo = f.lo := rfl
@[simp] theorem Fld.at_width (f : Fld) (i : Nat) : (f.at i).width = f.width := rfl
@[simp] theorem Fld.at_addr (f : Fld) (i : Nat) : (f.at i).addr = f.addr + f.stride * i := rfl

theorem Fld.read_lt (f : Fld) (w : W64) : f.read w < 2 ^ f.width := Nat.mod_lt _ (by positivity)

/-- A word in three parts: above a field, the field, below it. -/
theorem Fld.split_word (n lo wd : Nat) :
    n = n / 2 ^ (lo + wd) * 2 ^ (lo + wd) + n / 2 ^ lo % 2 ^ wd * 2 ^ lo + n % 2 ^ lo := by
  have h1 := Nat.div_add_mod n (2 ^ lo)
  have h2 := Nat.div_add_mod (n / 2 ^ lo) (2 ^ wd)
  rw [Nat.div_div_eq_div_mul, ← pow_add] at h2
  have h3 : 2 ^ lo * (2 ^ wd * (n / 2 ^ (lo + wd)) + n / 2 ^ lo % 2 ^ wd) + n % 2 ^ lo = n := by rw [h2]; exact h1
  calc n = 2 ^ lo * (2 ^ wd * (n / 2 ^ (lo + wd)) + n / 2 ^ lo % 2 ^ wd) + n % 2 ^ lo := h3.symm
    _ = _ := by rw [pow_add]; ring

theorem Fld.hi_lt (f : Fld) (h : f.ok = true) : f.lo + f.width ≤ 64 := by
  simp only [Fld.ok, Bool.and_eq_true, decide_eq_true_eq] at h
  unfold Fld.width; omega

/-- The word after a put, as a number. -/
theorem Fld.put_toNat (f : Fld) (w : W64) (v : Nat) (h : f.ok = true) :
    (f.put w v).toNat = w.toNat / 2 ^ (f.lo + f.width) * 2 ^ (f.lo + f.width) + v % 2 ^ f.width * 2 ^ f.lo + w.toNat % 2 ^ f.lo := by
  have hs := Fld.split_word w.toNat f.lo f.width
  have hw := f.hi_lt h
  have hlt := w.isLt
  have hr := f.read_lt w
  have hv : v % 2 ^ f.width < 2 ^ f.width := Nat.mod_lt _ (by positivity)
  have hp : (2 : Nat) ^ (f.lo + f.width) = 2 ^ f.width * 2 ^ f.lo := by rw [pow_add, Nat.mul_comm]
  have hm : w.toNat % 2 ^ f.lo < 2 ^ f.lo := Nat.mod_lt _ (by positivity)
  have h64 : (2 : Nat) ^ (f.lo + f.width) ∣ 2 ^ 64 := pow_dvd_pow 2 hw
  set A := w.toNat / 2 ^ (f.lo + f.width) with hA
  have hA' : A * 2 ^ (f.lo + f.width) + 2 ^ (f.lo + f.width) ≤ 2 ^ 64 := by
    obtain ⟨k, hk⟩ := h64
    have : A < k := by
      have : w.toNat < 2 ^ (f.lo + f.width) * k := by rw [← hk]; exact hlt
      exact Nat.div_lt_of_lt_mul this
    rw [hk]; nlinarith [Nat.zero_le (2 ^ (f.lo + f.width))]
  have e1 : f.read w = w.toNat / 2 ^ f.lo % 2 ^ f.width := rfl
  have hr2 : f.read w * 2 ^ f.lo + 2 ^ f.lo ≤ 2 ^ (f.lo + f.width) := by rw [hp]; nlinarith [Nat.zero_le (2 ^ f.lo)]
  have hv2 : v % 2 ^ f.width * 2 ^ f.lo + 2 ^ f.lo ≤ 2 ^ (f.lo + f.width) := by rw [hp]; nlinarith [Nat.zero_le (2 ^ f.lo)]
  rw [← e1] at hs
  unfold Fld.put
  rw [BitVec.toNat_add, BitVec.toNat_sub, BitVec.toNat_ofNat, BitVec.toNat_ofNat]
  generalize f.read w * 2 ^ f.lo = r at *
  generalize v % 2 ^ f.width * 2 ^ f.lo = y at *
  generalize A * 2 ^ (f.lo + f.width) = a at *
  generalize (2 : Nat) ^ (f.lo + f.width) = c at *
  generalize w.toNat % 2 ^ f.lo = b at *
  generalize (2 : Nat) ^ f.lo = e at *
  omega

/-- A field reads as what was put, modulo its width. -/
@[simp] theorem Fld.read_put_same (f : Fld) (w : W64) (v : Nat) (h : f.ok = true) : f.read (f.put w v) = v % 2 ^ f.width := by
  unfold Fld.read
  rw [Fld.put_toNat f w v h]
  have hm : w.toNat % 2 ^ f.lo < 2 ^ f.lo := Nat.mod_lt _ (by positivity)
  have : w.toNat / 2 ^ (f.lo + f.width) * 2 ^ (f.lo + f.width) + v % 2 ^ f.width * 2 ^ f.lo + w.toNat % 2 ^ f.lo =
      2 ^ f.lo * (w.toNat / 2 ^ (f.lo + f.width) * 2 ^ f.width + v % 2 ^ f.width) + w.toNat % 2 ^ f.lo := by rw [pow_add]; ring
  rw [this, Nat.mul_add_div (by positivity), Nat.div_eq_of_lt hm, Nat.add_zero, Nat.mul_comm, Nat.mul_add_mod, Nat.mod_mod]

/-- A put leaves the bits of other fields alone. -/
theorem Fld.read_put_apart (f g : Fld) (w : W64) (v : Nat) (h : f.ok = true) (hg : g.ok = true) (ha : Fld.bitsApart f g = true) :
    g.read (f.put w v) = g.read w := by
  have hs := Fld.split_word w.toNat f.lo f.width
  have hp := Fld.put_toNat f w v h
  have hm : w.toNat % 2 ^ f.lo < 2 ^ f.lo := Nat.mod_lt _ (by positivity)
  simp only [Fld.ok, Fld.bitsApart, Bool.and_eq_true, Bool.or_eq_true, decide_eq_true_eq] at h hg ha
  unfold Fld.read
  rcases ha with ha | ha
  · have hle : f.lo + f.width ≤ g.lo := by unfold Fld.width; omega
    have hr : f.read w < 2 ^ f.width := f.read_lt w
    have key : ∀ x : Nat, x < 2 ^ f.width →
        (w.toNat / 2 ^ (f.lo + f.width) * 2 ^ (f.lo + f.width) + x * 2 ^ f.lo + w.toNat % 2 ^ f.lo) / 2 ^ g.lo = w.toNat / 2 ^ g.lo := by
      intro x hx
      have e : (2 : Nat) ^ g.lo = 2 ^ (f.lo + f.width) * 2 ^ (g.lo - (f.lo + f.width)) := by rw [← pow_add]; congr 1; omega
      have hlow : x * 2 ^ f.lo + w.toNat % 2 ^ f.lo < 2 ^ (f.lo + f.width) := by
        have : x * 2 ^ f.lo + 2 ^ f.lo ≤ 2 ^ (f.lo + f.width) := by rw [pow_add, Nat.mul_comm (2 ^ f.lo)]; nlinarith [Nat.zero_le (2 ^ f.lo)]
        omega
      rw [e, ← Nat.div_div_eq_div_mul, ← Nat.div_div_eq_div_mul, Nat.add_assoc, Nat.mul_comm, Nat.mul_add_div (by positivity),
        Nat.div_eq_of_lt hlow, Nat.add_zero]
    rw [hp, key _ (Nat.mod_lt _ (by positivity))]
  · have hle : g.lo + g.width ≤ f.lo := by unfold Fld.width; omega
    have e : (2 : Nat) ^ f.lo = 2 ^ (g.lo + g.width) * 2 ^ (f.lo - (g.lo + g.width)) := by rw [← pow_add]; congr 1; omega
    have key : ∀ n : Nat, n / 2 ^ g.lo % 2 ^ g.width = n % 2 ^ (g.lo + g.width) / 2 ^ g.lo := by
      intro n; rw [pow_add, Nat.mod_mul_right_div_self]
    have hmod : (f.put w v).toNat % 2 ^ (g.lo + g.width) = w.toNat % 2 ^ (g.lo + g.width) := by
      rw [hp, e]
      have e2 : (2 : Nat) ^ (f.lo + f.width) = 2 ^ (g.lo + g.width) * (2 ^ (f.lo - (g.lo + g.width)) * 2 ^ f.width) := by
        rw [pow_add, e]; ring
      rw [e2]
      generalize (2 : Nat) ^ (g.lo + g.width) = c
      generalize (2 : Nat) ^ (f.lo - (g.lo + g.width)) = k
      generalize w.toNat / (c * (k * 2 ^ f.width)) = a
      have : a * (c * (k * 2 ^ f.width)) + v % 2 ^ f.width * (c * k) + w.toNat % (c * k)
          = c * (a * (k * 2 ^ f.width) + v % 2 ^ f.width * k) + w.toNat % (c * k) := by ring
      rw [this, Nat.mul_add_mod, Nat.mod_mul_right_mod]
    rw [key, key, hmod]

/-! ## Register words and fields of the devices -/

/-- Two spaces share a register file. -/
def Space.sameFile : Space → Space → Bool
  | .tdu, .tdu => true
  | .tdu, _ => false
  | _, .tdu => false
  | _, _ => true

@[simp] theorem Regs.resetOf_vf : Regs.resetOf .vf = Regs.resetOf .tta := by funext a; simp only [Regs.resetOf]

theorem Dev.word_vf (d : Dev) (a : Nat) : d.word .vf a = d.word .tta a := by simp only [Dev.word, Dev.file, Regs.resetOf_vf]

theorem Dev.word_tta (d : Dev) (a : Nat) : d.word .tta a = Memory.read (Regs.resetOf .tta) d.tta.regs a := rfl

theorem Dev.word_tdu (d : Dev) (a : Nat) : d.word .tdu a = Memory.read (Regs.resetOf .tdu) d.tdu.regs a := rfl

theorem Dev.setWord_vf (d : Dev) (a : Nat) (v : W64) : d.setWord .vf a v = d.setWord .tta a v := rfl

theorem Dev.setWord_tta (d : Dev) (a : Nat) (v : W64) :
    d.setWord .tta a v = { d with tta := { d.tta with regs := Memory.write (Regs.resetOf .tta) d.tta.regs a v } } := rfl

theorem Dev.setWord_tdu (d : Dev) (a : Nat) (v : W64) :
    d.setWord .tdu a v = { d with tdu := { d.tdu with regs := Memory.write (Regs.resetOf .tdu) d.tdu.regs a v } } := rfl

theorem Dev.word_setWord_same (d : Dev) (sp : Space) (a : Nat) (v : W64) : (d.setWord sp a v).word sp a = v := by
  cases sp with
  | tdu => rw [Dev.word_tdu, Dev.setWord_tdu]; exact Memory.read_write_same _ _ _ _
  | tta => rw [Dev.word_tta, Dev.setWord_tta]; exact Memory.read_write_same _ _ _ _
  | vf => rw [Dev.word_vf, Dev.word_tta, Dev.setWord_vf, Dev.setWord_tta]; exact Memory.read_write_same _ _ _ _

theorem Dev.word_setWord_ne (d : Dev) (sp sq : Space) (a b : Nat) (v : W64) (h : sp.sameFile sq = false ∨ b ≠ a) :
    (d.setWord sp a v).word sq b = d.word sq b := by
  have tt : b ≠ a → (d.setWord .tta a v).word .tta b = d.word .tta b := fun h => by
    rw [Dev.word_tta, Dev.word_tta, Dev.setWord_tta]; exact Memory.read_write_ne _ _ _ _ _ h
  have uu : b ≠ a → (d.setWord .tdu a v).word .tdu b = d.word .tdu b := fun h => by
    rw [Dev.word_tdu, Dev.word_tdu, Dev.setWord_tdu]; exact Memory.read_write_ne _ _ _ _ _ h
  have tu : (d.setWord .tta a v).word .tdu b = d.word .tdu b := by rw [Dev.word_tdu, Dev.word_tdu, Dev.setWord_tta]
  have ut : (d.setWord .tdu a v).word .tta b = d.word .tta b := by rw [Dev.word_tta, Dev.word_tta, Dev.setWord_tdu]
  cases sp <;> cases sq <;> simp [Space.sameFile] at h <;> first
    | exact tt h
    | exact uu h
    | (simp only [Dev.word_vf, Dev.setWord_vf]; first
        | exact tt h
        | exact tu
        | exact ut)
    | exact tu
    | exact ut

/-- A field reads as it was set. -/
theorem Dev.get_set_same (d : Dev) (f : Fld) (v : Nat) (h : f.ok = true) : (d.set f v).get f = v % 2 ^ f.width := by
  unfold Dev.get Dev.set
  rw [Dev.word_setWord_same, Fld.read_put_same f _ _ h]

/-- A field of another register, or other bits of the same one, reads as before. -/
theorem Dev.get_set_bits (d : Dev) (f g : Fld) (v : Nat) (h : f.ok = true) (hg : g.ok = true) (ha : Fld.bitsApart f g = true) :
    (d.set f v).get g = d.get g := by
  unfold Dev.get Dev.set
  by_cases hs : f.space.sameFile g.space = false ∨ g.addr ≠ f.addr
  · rw [Dev.word_setWord_ne _ _ _ _ _ _ hs]
  · simp only [not_or, Bool.not_eq_false, ne_eq, not_not] at hs
    obtain ⟨h1, h2⟩ := hs
    have hw : ∀ x : Dev, x.word g.space g.addr = x.word f.space f.addr := by
      intro x
      rw [h2]
      cases hf : f.space <;> cases hgs : g.space <;> simp [hf, hgs, Space.sameFile] at h1 <;> simp only [Dev.word_vf]
    rw [hw, hw, Dev.word_setWord_same, Fld.read_put_apart f g _ _ h hg ha]

theorem Dev.get_set_addr (d : Dev) (f g : Fld) (v : Nat) (h : g.addr ≠ f.addr) : (d.set f v).get g = d.get g := by
  unfold Dev.get Dev.set
  rw [Dev.word_setWord_ne _ _ _ _ _ _ (.inr h)]

theorem Dev.get_set_space (d : Dev) (f g : Fld) (v : Nat) (h : f.space.sameFile g.space = false) : (d.set f v).get g = d.get g := by
  unfold Dev.get Dev.set
  rw [Dev.word_setWord_ne _ _ _ _ _ _ (.inl h)]

end Sys2Proof.Machine
end

