-- ==== Sys2Proof/Laws/State.lean ====
section
/-! SUPPORT. The fields of the state after each named update: one lemma per field per update. -/
namespace Sys2Proof.Machine

variable (d : Dev)

/-! ### updIng -/

@[simp] theorem Dev.updIng_regs (f : Ingest → Ingest) : (d.updIng f).tta.regs = d.tta.regs := rfl
@[simp] theorem Dev.updIng_fuses (f : Ingest → Ingest) : (d.updIng f).tta.fuses = d.tta.fuses := rfl
@[simp] theorem Dev.updIng_boot (f : Ingest → Ingest) : (d.updIng f).tta.boot = d.tta.boot := rfl
@[simp] theorem Dev.updIng_pwr (f : Ingest → Ingest) : (d.updIng f).tta.pwr = d.tta.pwr := rfl
@[simp] theorem Dev.updIng_mtp (f : Ingest → Ingest) : (d.updIng f).tta.mtp = d.tta.mtp := rfl
@[simp] theorem Dev.updIng_mtpCut (f : Ingest → Ingest) : (d.updIng f).tta.mtpCut = d.tta.mtpCut := rfl
@[simp] theorem Dev.updIng_cal (f : Ingest → Ingest) : (d.updIng f).tta.cal = d.tta.cal := rfl
@[simp] theorem Dev.updIng_time (f : Ingest → Ingest) : (d.updIng f).tta.time = d.tta.time := rfl
@[simp] theorem Dev.updIng_recorder (f : Ingest → Ingest) : (d.updIng f).tta.recorder = d.tta.recorder := rfl
@[simp] theorem Dev.updIng_snap (f : Ingest → Ingest) : (d.updIng f).tta.snap = d.tta.snap := rfl
@[simp] theorem Dev.updIng_latched (f : Ingest → Ingest) : (d.updIng f).tta.latched = d.tta.latched := rfl
@[simp] theorem Dev.updIng_links (f : Ingest → Ingest) : (d.updIng f).tta.links = d.tta.links := rfl
@[simp] theorem Dev.updIng_slots (f : Ingest → Ingest) : (d.updIng f).tta.slots = d.tta.slots := rfl
@[simp] theorem Dev.updIng_arbiters (f : Ingest → Ingest) : (d.updIng f).tta.arbiters = d.tta.arbiters := rfl
@[simp] theorem Dev.updIng_fns (f : Ingest → Ingest) : (d.updIng f).tta.fns = d.tta.fns := rfl
@[simp] theorem Dev.updIng_mirrored (f : Ingest → Ingest) : (d.updIng f).tta.mirrored = d.tta.mirrored := rfl
@[simp] theorem Dev.updIng_tiles (f : Ingest → Ingest) : (d.updIng f).tta.tiles = d.tta.tiles := rfl
@[simp] theorem Dev.updIng_graphs (f : Ingest → Ingest) : (d.updIng f).tta.graphs = d.tta.graphs := rfl
@[simp] theorem Dev.updIng_hist (f : Ingest → Ingest) : (d.updIng f).tta.hist = d.tta.hist := rfl
@[simp] theorem Dev.updIng_slotsX (f : Ingest → Ingest) : (d.updIng f).tta.slotsX = d.tta.slotsX := rfl
@[simp] theorem Dev.updIng_retireDue (f : Ingest → Ingest) : (d.updIng f).tta.retireDue = d.tta.retireDue := rfl
@[simp] theorem Dev.updIng_ing (f : Ingest → Ingest) : (d.updIng f).tta.ing = f d.tta.ing := rfl
@[simp] theorem Dev.updIng_twin (f : Ingest → Ingest) : (d.updIng f).tta.twin = d.tta.twin := rfl
@[simp] theorem Dev.updIng_sett (f : Ingest → Ingest) : (d.updIng f).tta.sett = d.tta.sett := rfl
@[simp] theorem Dev.updIng_captures (f : Ingest → Ingest) : (d.updIng f).tta.captures = d.tta.captures := rfl
@[simp] theorem Dev.updIng_tables (f : Ingest → Ingest) : (d.updIng f).tta.tables = d.tta.tables := rfl
@[simp] theorem Dev.updIng_wrn (f : Ingest → Ingest) : (d.updIng f).tta.wrn = d.tta.wrn := rfl
@[simp] theorem Dev.updIng_det (f : Ingest → Ingest) : (d.updIng f).tta.det = d.tta.det := rfl
@[simp] theorem Dev.updIng_chk (f : Ingest → Ingest) : (d.updIng f).tta.chk = d.tta.chk := rfl
@[simp] theorem Dev.updIng_rpt (f : Ingest → Ingest) : (d.updIng f).tta.rpt = d.tta.rpt := rfl
@[simp] theorem Dev.updIng_cmp (f : Ingest → Ingest) : (d.updIng f).tta.cmp = d.tta.cmp := rfl
@[simp] theorem Dev.updIng_dev_tdu (f : Ingest → Ingest) : (d.updIng f).tdu = d.tdu := rfl
@[simp] theorem Dev.updIng_dev_pins (f : Ingest → Ingest) : (d.updIng f).pins = d.pins := rfl
@[simp] theorem Dev.updIng_dev_freeIx (f : Ingest → Ingest) : (d.updIng f).freeIx = d.freeIx := rfl
@[simp] theorem Dev.updIng_dev_out (f : Ingest → Ingest) : (d.updIng f).out = d.out := rfl
@[simp] theorem Dev.updIng_word (f : Ingest → Ingest) (sp : Space) (a : Nat) : (d.updIng f).word sp a = d.word sp a := by cases sp <;> rfl
@[simp] theorem Dev.updIng_get (f : Ingest → Ingest) (y : Fld) : (d.updIng f).get y = d.get y := by rw [Dev.get, Dev.get, Dev.updIng_word]
@[simp] theorem Dev.updIng_bit (f : Ingest → Ingest) (y : Fld) : (d.updIng f).bit y = d.bit y := by rw [Dev.bit, Dev.bit, Dev.updIng_get]
@[simp] theorem Dev.updIng_tb_tdu (f : Ingest → Ingest) : (d.updIng f).tb .tdu = d.tb .tdu := rfl
@[simp] theorem Dev.updIng_tb_tta (f : Ingest → Ingest) : (d.updIng f).tb .tta = d.tb .tta := rfl
@[simp] theorem Dev.updIng_recd_tdu (f : Ingest → Ingest) : (d.updIng f).recd .tdu = d.recd .tdu := rfl
@[simp] theorem Dev.updIng_recd_tta (f : Ingest → Ingest) : (d.updIng f).recd .tta = d.recd .tta := rfl
@[simp] theorem Dev.updIng_slotX (f : Ingest → Ingest) (m : Nat) : (d.updIng f).slotX m = d.slotX m := rfl
@[simp] theorem Dev.updIng_tile (f : Ingest → Ingest) (m : Nat) : (d.updIng f).tile m = d.tile m := rfl
@[simp] theorem Dev.updIng_graph (f : Ingest → Ingest) (m : Nat) : (d.updIng f).graph m = d.graph m := rfl
@[simp] theorem Dev.updIng_port_tta (f : Ingest → Ingest) (q : Fin 17) : (d.updIng f).port (.tta q) = d.port (.tta q) := rfl
@[simp] theorem Dev.updIng_slotTable_tdu (f : Ingest → Ingest) : (d.updIng f).slotTable .tdu = d.slotTable .tdu := rfl
@[simp] theorem Dev.updIng_slotTable_tta (f : Ingest → Ingest) : (d.updIng f).slotTable .tta = d.slotTable .tta := rfl
@[simp] theorem Dev.updIng_timeValid_tta (f : Ingest → Ingest) : (d.updIng f).timeValid .tta = d.timeValid .tta := rfl
@[simp] theorem Dev.updIng_timeValid_tdu (f : Ingest → Ingest) : (d.updIng f).timeValid .tdu = d.timeValid .tdu := rfl
@[simp] theorem Dev.updIng_nowNs_tta (f : Ingest → Ingest) : (d.updIng f).nowNs .tta = d.nowNs .tta := rfl
@[simp] theorem Dev.updIng_nowNs_tdu (f : Ingest → Ingest) : (d.updIng f).nowNs .tdu = d.nowNs .tdu := rfl
@[simp] theorem Dev.updIng_snapOf_tdu (f : Ingest → Ingest) : (d.updIng f).snapOf .tdu = d.snapOf .tdu := rfl
@[simp] theorem Dev.updIng_snapOf_tta (f : Ingest → Ingest) : (d.updIng f).snapOf .tta = d.snapOf .tta := rfl
@[simp] theorem Dev.updIng_fnq (f : Ingest → Ingest) (fn : Fn) : (d.updIng f).fnq fn = d.fnq fn := by cases fn <;> rfl

/-! ### updTwin -/

@[simp] theorem Dev.updTwin_regs (f : Twin → Twin) : (d.updTwin f).tta.regs = d.tta.regs := rfl
@[simp] theorem Dev.updTwin_fuses (f : Twin → Twin) : (d.updTwin f).tta.fuses = d.tta.fuses := rfl
@[simp] theorem Dev.updTwin_boot (f : Twin → Twin) : (d.updTwin f).tta.boot = d.tta.boot := rfl
@[simp] theorem Dev.updTwin_pwr (f : Twin → Twin) : (d.updTwin f).tta.pwr = d.tta.pwr := rfl
@[simp] theorem Dev.updTwin_mtp (f : Twin → Twin) : (d.updTwin f).tta.mtp = d.tta.mtp := rfl
@[simp] theorem Dev.updTwin_mtpCut (f : Twin → Twin) : (d.updTwin f).tta.mtpCut = d.tta.mtpCut := rfl
@[simp] theorem Dev.updTwin_cal (f : Twin → Twin) : (d.updTwin f).tta.cal = d.tta.cal := rfl
@[simp] theorem Dev.updTwin_time (f : Twin → Twin) : (d.updTwin f).tta.time = d.tta.time := rfl
@[simp] theorem Dev.updTwin_recorder (f : Twin → Twin) : (d.updTwin f).tta.recorder = d.tta.recorder := rfl
@[simp] theorem Dev.updTwin_snap (f : Twin → Twin) : (d.updTwin f).tta.snap = d.tta.snap := rfl
@[simp] theorem Dev.updTwin_latched (f : Twin → Twin) : (d.updTwin f).tta.latched = d.tta.latched := rfl
@[simp] theorem Dev.updTwin_links (f : Twin → Twin) : (d.updTwin f).tta.links = d.tta.links := rfl
@[simp] theorem Dev.updTwin_slots (f : Twin → Twin) : (d.updTwin f).tta.slots = d.tta.slots := rfl
@[simp] theorem Dev.updTwin_arbiters (f : Twin → Twin) : (d.updTwin f).tta.arbiters = d.tta.arbiters := rfl
@[simp] theorem Dev.updTwin_fns (f : Twin → Twin) : (d.updTwin f).tta.fns = d.tta.fns := rfl
@[simp] theorem Dev.updTwin_mirrored (f : Twin → Twin) : (d.updTwin f).tta.mirrored = d.tta.mirrored := rfl
@[simp] theorem Dev.updTwin_tiles (f : Twin → Twin) : (d.updTwin f).tta.tiles = d.tta.tiles := rfl
@[simp] theorem Dev.updTwin_graphs (f : Twin → Twin) : (d.updTwin f).tta.graphs = d.tta.graphs := rfl
@[simp] theorem Dev.updTwin_hist (f : Twin → Twin) : (d.updTwin f).tta.hist = d.tta.hist := rfl
@[simp] theorem Dev.updTwin_slotsX (f : Twin → Twin) : (d.updTwin f).tta.slotsX = d.tta.slotsX := rfl
@[simp] theorem Dev.updTwin_retireDue (f : Twin → Twin) : (d.updTwin f).tta.retireDue = d.tta.retireDue := rfl
@[simp] theorem Dev.updTwin_ing (f : Twin → Twin) : (d.updTwin f).tta.ing = d.tta.ing := rfl
@[simp] theorem Dev.updTwin_twin (f : Twin → Twin) : (d.updTwin f).tta.twin = f d.tta.twin := rfl
@[simp] theorem Dev.updTwin_sett (f : Twin → Twin) : (d.updTwin f).tta.sett = d.tta.sett := rfl
@[simp] theorem Dev.updTwin_captures (f : Twin → Twin) : (d.updTwin f).tta.captures = d.tta.captures := rfl
@[simp] theorem Dev.updTwin_tables (f : Twin → Twin) : (d.updTwin f).tta.tables = d.tta.tables := rfl
@[simp] theorem Dev.updTwin_wrn (f : Twin → Twin) : (d.updTwin f).tta.wrn = d.tta.wrn := rfl
@[simp] theorem Dev.updTwin_det (f : Twin → Twin) : (d.updTwin f).tta.det = d.tta.det := rfl
@[simp] theorem Dev.updTwin_chk (f : Twin → Twin) : (d.updTwin f).tta.chk = d.tta.chk := rfl
@[simp] theorem Dev.updTwin_rpt (f : Twin → Twin) : (d.updTwin f).tta.rpt = d.tta.rpt := rfl
@[simp] theorem Dev.updTwin_cmp (f : Twin → Twin) : (d.updTwin f).tta.cmp = d.tta.cmp := rfl
@[simp] theorem Dev.updTwin_dev_tdu (f : Twin → Twin) : (d.updTwin f).tdu = d.tdu := rfl
@[simp] theorem Dev.updTwin_dev_pins (f : Twin → Twin) : (d.updTwin f).pins = d.pins := rfl
@[simp] theorem Dev.updTwin_dev_freeIx (f : Twin → Twin) : (d.updTwin f).freeIx = d.freeIx := rfl
@[simp] theorem Dev.updTwin_dev_out (f : Twin → Twin) : (d.updTwin f).out = d.out := rfl
@[simp] theorem Dev.updTwin_word (f : Twin → Twin) (sp : Space) (a : Nat) : (d.updTwin f).word sp a = d.word sp a := by cases sp <;> rfl
@[simp] theorem Dev.updTwin_get (f : Twin → Twin) (y : Fld) : (d.updTwin f).get y = d.get y := by rw [Dev.get, Dev.get, Dev.updTwin_word]
@[simp] theorem Dev.updTwin_bit (f : Twin → Twin) (y : Fld) : (d.updTwin f).bit y = d.bit y := by rw [Dev.bit, Dev.bit, Dev.updTwin_get]
@[simp] theorem Dev.updTwin_tb_tdu (f : Twin → Twin) : (d.updTwin f).tb .tdu = d.tb .tdu := rfl
@[simp] theorem Dev.updTwin_tb_tta (f : Twin → Twin) : (d.updTwin f).tb .tta = d.tb .tta := rfl
@[simp] theorem Dev.updTwin_recd_tdu (f : Twin → Twin) : (d.updTwin f).recd .tdu = d.recd .tdu := rfl
@[simp] theorem Dev.updTwin_recd_tta (f : Twin → Twin) : (d.updTwin f).recd .tta = d.recd .tta := rfl
@[simp] theorem Dev.updTwin_slotX (f : Twin → Twin) (m : Nat) : (d.updTwin f).slotX m = d.slotX m := rfl
@[simp] theorem Dev.updTwin_tile (f : Twin → Twin) (m : Nat) : (d.updTwin f).tile m = d.tile m := rfl
@[simp] theorem Dev.updTwin_graph (f : Twin → Twin) (m : Nat) : (d.updTwin f).graph m = d.graph m := rfl
@[simp] theorem Dev.updTwin_port_tta (f : Twin → Twin) (q : Fin 17) : (d.updTwin f).port (.tta q) = d.port (.tta q) := rfl
@[simp] theorem Dev.updTwin_slotTable_tdu (f : Twin → Twin) : (d.updTwin f).slotTable .tdu = d.slotTable .tdu := rfl
@[simp] theorem Dev.updTwin_slotTable_tta (f : Twin → Twin) : (d.updTwin f).slotTable .tta = d.slotTable .tta := rfl
@[simp] theorem Dev.updTwin_timeValid_tta (f : Twin → Twin) : (d.updTwin f).timeValid .tta = d.timeValid .tta := rfl
@[simp] theorem Dev.updTwin_timeValid_tdu (f : Twin → Twin) : (d.updTwin f).timeValid .tdu = d.timeValid .tdu := rfl
@[simp] theorem Dev.updTwin_nowNs_tta (f : Twin → Twin) : (d.updTwin f).nowNs .tta = d.nowNs .tta := rfl
@[simp] theorem Dev.updTwin_nowNs_tdu (f : Twin → Twin) : (d.updTwin f).nowNs .tdu = d.nowNs .tdu := rfl
@[simp] theorem Dev.updTwin_snapOf_tdu (f : Twin → Twin) : (d.updTwin f).snapOf .tdu = d.snapOf .tdu := rfl
@[simp] theorem Dev.updTwin_snapOf_tta (f : Twin → Twin) : (d.updTwin f).snapOf .tta = d.snapOf .tta := rfl
@[simp] theorem Dev.updTwin_fnq (f : Twin → Twin) (fn : Fn) : (d.updTwin f).fnq fn = d.fnq fn := by cases fn <;> rfl

/-! ### updSett -/

@[simp] theorem Dev.updSett_regs (f : Sett → Sett) : (d.updSett f).tta.regs = d.tta.regs := rfl
@[simp] theorem Dev.updSett_fuses (f : Sett → Sett) : (d.updSett f).tta.fuses = d.tta.fuses := rfl
@[simp] theorem Dev.updSett_boot (f : Sett → Sett) : (d.updSett f).tta.boot = d.tta.boot := rfl
@[simp] theorem Dev.updSett_pwr (f : Sett → Sett) : (d.updSett f).tta.pwr = d.tta.pwr := rfl
@[simp] theorem Dev.updSett_mtp (f : Sett → Sett) : (d.updSett f).tta.mtp = d.tta.mtp := rfl
@[simp] theorem Dev.updSett_mtpCut (f : Sett → Sett) : (d.updSett f).tta.mtpCut = d.tta.mtpCut := rfl
@[simp] theorem Dev.updSett_cal (f : Sett → Sett) : (d.updSett f).tta.cal = d.tta.cal := rfl
@[simp] theorem Dev.updSett_time (f : Sett → Sett) : (d.updSett f).tta.time = d.tta.time := rfl
@[simp] theorem Dev.updSett_recorder (f : Sett → Sett) : (d.updSett f).tta.recorder = d.tta.recorder := rfl
@[simp] theorem Dev.updSett_snap (f : Sett → Sett) : (d.updSett f).tta.snap = d.tta.snap := rfl
@[simp] theorem Dev.updSett_latched (f : Sett → Sett) : (d.updSett f).tta.latched = d.tta.latched := rfl
@[simp] theorem Dev.updSett_links (f : Sett → Sett) : (d.updSett f).tta.links = d.tta.links := rfl
@[simp] theorem Dev.updSett_slots (f : Sett → Sett) : (d.updSett f).tta.slots = d.tta.slots := rfl
@[simp] theorem Dev.updSett_arbiters (f : Sett → Sett) : (d.updSett f).tta.arbiters = d.tta.arbiters := rfl
@[simp] theorem Dev.updSett_fns (f : Sett → Sett) : (d.updSett f).tta.fns = d.tta.fns := rfl
@[simp] theorem Dev.updSett_mirrored (f : Sett → Sett) : (d.updSett f).tta.mirrored = d.tta.mirrored := rfl
@[simp] theorem Dev.updSett_tiles (f : Sett → Sett) : (d.updSett f).tta.tiles = d.tta.tiles := rfl
@[simp] theorem Dev.updSett_graphs (f : Sett → Sett) : (d.updSett f).tta.graphs = d.tta.graphs := rfl
@[simp] theorem Dev.updSett_hist (f : Sett → Sett) : (d.updSett f).tta.hist = d.tta.hist := rfl
@[simp] theorem Dev.updSett_slotsX (f : Sett → Sett) : (d.updSett f).tta.slotsX = d.tta.slotsX := rfl
@[simp] theorem Dev.updSett_retireDue (f : Sett → Sett) : (d.updSett f).tta.retireDue = d.tta.retireDue := rfl
@[simp] theorem Dev.updSett_ing (f : Sett → Sett) : (d.updSett f).tta.ing = d.tta.ing := rfl
@[simp] theorem Dev.updSett_twin (f : Sett → Sett) : (d.updSett f).tta.twin = d.tta.twin := rfl
@[simp] theorem Dev.updSett_sett (f : Sett → Sett) : (d.updSett f).tta.sett = f d.tta.sett := rfl
@[simp] theorem Dev.updSett_captures (f : Sett → Sett) : (d.updSett f).tta.captures = d.tta.captures := rfl
@[simp] theorem Dev.updSett_tables (f : Sett → Sett) : (d.updSett f).tta.tables = d.tta.tables := rfl
@[simp] theorem Dev.updSett_wrn (f : Sett → Sett) : (d.updSett f).tta.wrn = d.tta.wrn := rfl
@[simp] theorem Dev.updSett_det (f : Sett → Sett) : (d.updSett f).tta.det = d.tta.det := rfl
@[simp] theorem Dev.updSett_chk (f : Sett → Sett) : (d.updSett f).tta.chk = d.tta.chk := rfl
@[simp] theorem Dev.updSett_rpt (f : Sett → Sett) : (d.updSett f).tta.rpt = d.tta.rpt := rfl
@[simp] theorem Dev.updSett_cmp (f : Sett → Sett) : (d.updSett f).tta.cmp = d.tta.cmp := rfl
@[simp] theorem Dev.updSett_dev_tdu (f : Sett → Sett) : (d.updSett f).tdu = d.tdu := rfl
@[simp] theorem Dev.updSett_dev_pins (f : Sett → Sett) : (d.updSett f).pins = d.pins := rfl
@[simp] theorem Dev.updSett_dev_freeIx (f : Sett → Sett) : (d.updSett f).freeIx = d.freeIx := rfl
@[simp] theorem Dev.updSett_dev_out (f : Sett → Sett) : (d.updSett f).out = d.out := rfl
@[simp] theorem Dev.updSett_word (f : Sett → Sett) (sp : Space) (a : Nat) : (d.updSett f).word sp a = d.word sp a := by cases sp <;> rfl
@[simp] theorem Dev.updSett_get (f : Sett → Sett) (y : Fld) : (d.updSett f).get y = d.get y := by rw [Dev.get, Dev.get, Dev.updSett_word]
@[simp] theorem Dev.updSett_bit (f : Sett → Sett) (y : Fld) : (d.updSett f).bit y = d.bit y := by rw [Dev.bit, Dev.bit, Dev.updSett_get]
@[simp] theorem Dev.updSett_tb_tdu (f : Sett → Sett) : (d.updSett f).tb .tdu = d.tb .tdu := rfl
@[simp] theorem Dev.updSett_tb_tta (f : Sett → Sett) : (d.updSett f).tb .tta = d.tb .tta := rfl
@[simp] theorem Dev.updSett_recd_tdu (f : Sett → Sett) : (d.updSett f).recd .tdu = d.recd .tdu := rfl
@[simp] theorem Dev.updSett_recd_tta (f : Sett → Sett) : (d.updSett f).recd .tta = d.recd .tta := rfl
@[simp] theorem Dev.updSett_slotX (f : Sett → Sett) (m : Nat) : (d.updSett f).slotX m = d.slotX m := rfl
@[simp] theorem Dev.updSett_tile (f : Sett → Sett) (m : Nat) : (d.updSett f).tile m = d.tile m := rfl
@[simp] theorem Dev.updSett_graph (f : Sett → Sett) (m : Nat) : (d.updSett f).graph m = d.graph m := rfl
@[simp] theorem Dev.updSett_port_tta (f : Sett → Sett) (q : Fin 17) : (d.updSett f).port (.tta q) = d.port (.tta q) := rfl
@[simp] theorem Dev.updSett_slotTable_tdu (f : Sett → Sett) : (d.updSett f).slotTable .tdu = d.slotTable .tdu := rfl
@[simp] theorem Dev.updSett_slotTable_tta (f : Sett → Sett) : (d.updSett f).slotTable .tta = d.slotTable .tta := rfl
@[simp] theorem Dev.updSett_timeValid_tta (f : Sett → Sett) : (d.updSett f).timeValid .tta = d.timeValid .tta := rfl
@[simp] theorem Dev.updSett_timeValid_tdu (f : Sett → Sett) : (d.updSett f).timeValid .tdu = d.timeValid .tdu := rfl
@[simp] theorem Dev.updSett_nowNs_tta (f : Sett → Sett) : (d.updSett f).nowNs .tta = d.nowNs .tta := rfl
@[simp] theorem Dev.updSett_nowNs_tdu (f : Sett → Sett) : (d.updSett f).nowNs .tdu = d.nowNs .tdu := rfl
@[simp] theorem Dev.updSett_snapOf_tdu (f : Sett → Sett) : (d.updSett f).snapOf .tdu = d.snapOf .tdu := rfl
@[simp] theorem Dev.updSett_snapOf_tta (f : Sett → Sett) : (d.updSett f).snapOf .tta = d.snapOf .tta := rfl
@[simp] theorem Dev.updSett_fnq (f : Sett → Sett) (fn : Fn) : (d.updSett f).fnq fn = d.fnq fn := by cases fn <;> rfl

/-! ### updWrn -/

@[simp] theorem Dev.updWrn_regs (f : Warren → Warren) : (d.updWrn f).tta.regs = d.tta.regs := rfl
@[simp] theorem Dev.updWrn_fuses (f : Warren → Warren) : (d.updWrn f).tta.fuses = d.tta.fuses := rfl
@[simp] theorem Dev.updWrn_boot (f : Warren → Warren) : (d.updWrn f).tta.boot = d.tta.boot := rfl
@[simp] theorem Dev.updWrn_pwr (f : Warren → Warren) : (d.updWrn f).tta.pwr = d.tta.pwr := rfl
@[simp] theorem Dev.updWrn_mtp (f : Warren → Warren) : (d.updWrn f).tta.mtp = d.tta.mtp := rfl
@[simp] theorem Dev.updWrn_mtpCut (f : Warren → Warren) : (d.updWrn f).tta.mtpCut = d.tta.mtpCut := rfl
@[simp] theorem Dev.updWrn_cal (f : Warren → Warren) : (d.updWrn f).tta.cal = d.tta.cal := rfl
@[simp] theorem Dev.updWrn_time (f : Warren → Warren) : (d.updWrn f).tta.time = d.tta.time := rfl
@[simp] theorem Dev.updWrn_recorder (f : Warren → Warren) : (d.updWrn f).tta.recorder = d.tta.recorder := rfl
@[simp] theorem Dev.updWrn_snap (f : Warren → Warren) : (d.updWrn f).tta.snap = d.tta.snap := rfl
@[simp] theorem Dev.updWrn_latched (f : Warren → Warren) : (d.updWrn f).tta.latched = d.tta.latched := rfl
@[simp] theorem Dev.updWrn_links (f : Warren → Warren) : (d.updWrn f).tta.links = d.tta.links := rfl
@[simp] theorem Dev.updWrn_slots (f : Warren → Warren) : (d.updWrn f).tta.slots = d.tta.slots := rfl
@[simp] theorem Dev.updWrn_arbiters (f : Warren → Warren) : (d.updWrn f).tta.arbiters = d.tta.arbiters := rfl
@[simp] theorem Dev.updWrn_fns (f : Warren → Warren) : (d.updWrn f).tta.fns = d.tta.fns := rfl
@[simp] theorem Dev.updWrn_mirrored (f : Warren → Warren) : (d.updWrn f).tta.mirrored = d.tta.mirrored := rfl
@[simp] theorem Dev.updWrn_tiles (f : Warren → Warren) : (d.updWrn f).tta.tiles = d.tta.tiles := rfl
@[simp] theorem Dev.updWrn_graphs (f : Warren → Warren) : (d.updWrn f).tta.graphs = d.tta.graphs := rfl
@[simp] theorem Dev.updWrn_hist (f : Warren → Warren) : (d.updWrn f).tta.hist = d.tta.hist := rfl
@[simp] theorem Dev.updWrn_slotsX (f : Warren → Warren) : (d.updWrn f).tta.slotsX = d.tta.slotsX := rfl
@[simp] theorem Dev.updWrn_retireDue (f : Warren → Warren) : (d.updWrn f).tta.retireDue = d.tta.retireDue := rfl
@[simp] theorem Dev.updWrn_ing (f : Warren → Warren) : (d.updWrn f).tta.ing = d.tta.ing := rfl
@[simp] theorem Dev.updWrn_twin (f : Warren → Warren) : (d.updWrn f).tta.twin = d.tta.twin := rfl
@[simp] theorem Dev.updWrn_sett (f : Warren → Warren) : (d.updWrn f).tta.sett = d.tta.sett := rfl
@[simp] theorem Dev.updWrn_captures (f : Warren → Warren) : (d.updWrn f).tta.captures = d.tta.captures := rfl
@[simp] theorem Dev.updWrn_tables (f : Warren → Warren) : (d.updWrn f).tta.tables = d.tta.tables := rfl
@[simp] theorem Dev.updWrn_wrn (f : Warren → Warren) : (d.updWrn f).tta.wrn = f d.tta.wrn := rfl
@[simp] theorem Dev.updWrn_det (f : Warren → Warren) : (d.updWrn f).tta.det = d.tta.det := rfl
@[simp] theorem Dev.updWrn_chk (f : Warren → Warren) : (d.updWrn f).tta.chk = d.tta.chk := rfl
@[simp] theorem Dev.updWrn_rpt (f : Warren → Warren) : (d.updWrn f).tta.rpt = d.tta.rpt := rfl
@[simp] theorem Dev.updWrn_cmp (f : Warren → Warren) : (d.updWrn f).tta.cmp = d.tta.cmp := rfl
@[simp] theorem Dev.updWrn_dev_tdu (f : Warren → Warren) : (d.updWrn f).tdu = d.tdu := rfl
@[simp] theorem Dev.updWrn_dev_pins (f : Warren → Warren) : (d.updWrn f).pins = d.pins := rfl
@[simp] theorem Dev.updWrn_dev_freeIx (f : Warren → Warren) : (d.updWrn f).freeIx = d.freeIx := rfl
@[simp] theorem Dev.updWrn_dev_out (f : Warren → Warren) : (d.updWrn f).out = d.out := rfl
@[simp] theorem Dev.updWrn_word (f : Warren → Warren) (sp : Space) (a : Nat) : (d.updWrn f).word sp a = d.word sp a := by cases sp <;> rfl
@[simp] theorem Dev.updWrn_get (f : Warren → Warren) (y : Fld) : (d.updWrn f).get y = d.get y := by rw [Dev.get, Dev.get, Dev.updWrn_word]
@[simp] theorem Dev.updWrn_bit (f : Warren → Warren) (y : Fld) : (d.updWrn f).bit y = d.bit y := by rw [Dev.bit, Dev.bit, Dev.updWrn_get]
@[simp] theorem Dev.updWrn_tb_tdu (f : Warren → Warren) : (d.updWrn f).tb .tdu = d.tb .tdu := rfl
@[simp] theorem Dev.updWrn_tb_tta (f : Warren → Warren) : (d.updWrn f).tb .tta = d.tb .tta := rfl
@[simp] theorem Dev.updWrn_recd_tdu (f : Warren → Warren) : (d.updWrn f).recd .tdu = d.recd .tdu := rfl
@[simp] theorem Dev.updWrn_recd_tta (f : Warren → Warren) : (d.updWrn f).recd .tta = d.recd .tta := rfl
@[simp] theorem Dev.updWrn_slotX (f : Warren → Warren) (m : Nat) : (d.updWrn f).slotX m = d.slotX m := rfl
@[simp] theorem Dev.updWrn_tile (f : Warren → Warren) (m : Nat) : (d.updWrn f).tile m = d.tile m := rfl
@[simp] theorem Dev.updWrn_graph (f : Warren → Warren) (m : Nat) : (d.updWrn f).graph m = d.graph m := rfl
@[simp] theorem Dev.updWrn_port_tta (f : Warren → Warren) (q : Fin 17) : (d.updWrn f).port (.tta q) = d.port (.tta q) := rfl
@[simp] theorem Dev.updWrn_slotTable_tdu (f : Warren → Warren) : (d.updWrn f).slotTable .tdu = d.slotTable .tdu := rfl
@[simp] theorem Dev.updWrn_slotTable_tta (f : Warren → Warren) : (d.updWrn f).slotTable .tta = d.slotTable .tta := rfl
@[simp] theorem Dev.updWrn_timeValid_tta (f : Warren → Warren) : (d.updWrn f).timeValid .tta = d.timeValid .tta := rfl
@[simp] theorem Dev.updWrn_timeValid_tdu (f : Warren → Warren) : (d.updWrn f).timeValid .tdu = d.timeValid .tdu := rfl
@[simp] theorem Dev.updWrn_nowNs_tta (f : Warren → Warren) : (d.updWrn f).nowNs .tta = d.nowNs .tta := rfl
@[simp] theorem Dev.updWrn_nowNs_tdu (f : Warren → Warren) : (d.updWrn f).nowNs .tdu = d.nowNs .tdu := rfl
@[simp] theorem Dev.updWrn_snapOf_tdu (f : Warren → Warren) : (d.updWrn f).snapOf .tdu = d.snapOf .tdu := rfl
@[simp] theorem Dev.updWrn_snapOf_tta (f : Warren → Warren) : (d.updWrn f).snapOf .tta = d.snapOf .tta := rfl
@[simp] theorem Dev.updWrn_fnq (f : Warren → Warren) (fn : Fn) : (d.updWrn f).fnq fn = d.fnq fn := by cases fn <;> rfl

/-! ### updDet -/

@[simp] theorem Dev.updDet_regs (f : Detect → Detect) : (d.updDet f).tta.regs = d.tta.regs := rfl
@[simp] theorem Dev.updDet_fuses (f : Detect → Detect) : (d.updDet f).tta.fuses = d.tta.fuses := rfl
@[simp] theorem Dev.updDet_boot (f : Detect → Detect) : (d.updDet f).tta.boot = d.tta.boot := rfl
@[simp] theorem Dev.updDet_pwr (f : Detect → Detect) : (d.updDet f).tta.pwr = d.tta.pwr := rfl
@[simp] theorem Dev.updDet_mtp (f : Detect → Detect) : (d.updDet f).tta.mtp = d.tta.mtp := rfl
@[simp] theorem Dev.updDet_mtpCut (f : Detect → Detect) : (d.updDet f).tta.mtpCut = d.tta.mtpCut := rfl
@[simp] theorem Dev.updDet_cal (f : Detect → Detect) : (d.updDet f).tta.cal = d.tta.cal := rfl
@[simp] theorem Dev.updDet_time (f : Detect → Detect) : (d.updDet f).tta.time = d.tta.time := rfl
@[simp] theorem Dev.updDet_recorder (f : Detect → Detect) : (d.updDet f).tta.recorder = d.tta.recorder := rfl
@[simp] theorem Dev.updDet_snap (f : Detect → Detect) : (d.updDet f).tta.snap = d.tta.snap := rfl
@[simp] theorem Dev.updDet_latched (f : Detect → Detect) : (d.updDet f).tta.latched = d.tta.latched := rfl
@[simp] theorem Dev.updDet_links (f : Detect → Detect) : (d.updDet f).tta.links = d.tta.links := rfl
@[simp] theorem Dev.updDet_slots (f : Detect → Detect) : (d.updDet f).tta.slots = d.tta.slots := rfl
@[simp] theorem Dev.updDet_arbiters (f : Detect → Detect) : (d.updDet f).tta.arbiters = d.tta.arbiters := rfl
@[simp] theorem Dev.updDet_fns (f : Detect → Detect) : (d.updDet f).tta.fns = d.tta.fns := rfl
@[simp] theorem Dev.updDet_mirrored (f : Detect → Detect) : (d.updDet f).tta.mirrored = d.tta.mirrored := rfl
@[simp] theorem Dev.updDet_tiles (f : Detect → Detect) : (d.updDet f).tta.tiles = d.tta.tiles := rfl
@[simp] theorem Dev.updDet_graphs (f : Detect → Detect) : (d.updDet f).tta.graphs = d.tta.graphs := rfl
@[simp] theorem Dev.updDet_hist (f : Detect → Detect) : (d.updDet f).tta.hist = d.tta.hist := rfl
@[simp] theorem Dev.updDet_slotsX (f : Detect → Detect) : (d.updDet f).tta.slotsX = d.tta.slotsX := rfl
@[simp] theorem Dev.updDet_retireDue (f : Detect → Detect) : (d.updDet f).tta.retireDue = d.tta.retireDue := rfl
@[simp] theorem Dev.updDet_ing (f : Detect → Detect) : (d.updDet f).tta.ing = d.tta.ing := rfl
@[simp] theorem Dev.updDet_twin (f : Detect → Detect) : (d.updDet f).tta.twin = d.tta.twin := rfl
@[simp] theorem Dev.updDet_sett (f : Detect → Detect) : (d.updDet f).tta.sett = d.tta.sett := rfl
@[simp] theorem Dev.updDet_captures (f : Detect → Detect) : (d.updDet f).tta.captures = d.tta.captures := rfl
@[simp] theorem Dev.updDet_tables (f : Detect → Detect) : (d.updDet f).tta.tables = d.tta.tables := rfl
@[simp] theorem Dev.updDet_wrn (f : Detect → Detect) : (d.updDet f).tta.wrn = d.tta.wrn := rfl
@[simp] theorem Dev.updDet_det (f : Detect → Detect) : (d.updDet f).tta.det = f d.tta.det := rfl
@[simp] theorem Dev.updDet_chk (f : Detect → Detect) : (d.updDet f).tta.chk = d.tta.chk := rfl
@[simp] theorem Dev.updDet_rpt (f : Detect → Detect) : (d.updDet f).tta.rpt = d.tta.rpt := rfl
@[simp] theorem Dev.updDet_cmp (f : Detect → Detect) : (d.updDet f).tta.cmp = d.tta.cmp := rfl
@[simp] theorem Dev.updDet_dev_tdu (f : Detect → Detect) : (d.updDet f).tdu = d.tdu := rfl
@[simp] theorem Dev.updDet_dev_pins (f : Detect → Detect) : (d.updDet f).pins = d.pins := rfl
@[simp] theorem Dev.updDet_dev_freeIx (f : Detect → Detect) : (d.updDet f).freeIx = d.freeIx := rfl
@[simp] theorem Dev.updDet_dev_out (f : Detect → Detect) : (d.updDet f).out = d.out := rfl
@[simp] theorem Dev.updDet_word (f : Detect → Detect) (sp : Space) (a : Nat) : (d.updDet f).word sp a = d.word sp a := by cases sp <;> rfl
@[simp] theorem Dev.updDet_get (f : Detect → Detect) (y : Fld) : (d.updDet f).get y = d.get y := by rw [Dev.get, Dev.get, Dev.updDet_word]
@[simp] theorem Dev.updDet_bit (f : Detect → Detect) (y : Fld) : (d.updDet f).bit y = d.bit y := by rw [Dev.bit, Dev.bit, Dev.updDet_get]
@[simp] theorem Dev.updDet_tb_tdu (f : Detect → Detect) : (d.updDet f).tb .tdu = d.tb .tdu := rfl
@[simp] theorem Dev.updDet_tb_tta (f : Detect → Detect) : (d.updDet f).tb .tta = d.tb .tta := rfl
@[simp] theorem Dev.updDet_recd_tdu (f : Detect → Detect) : (d.updDet f).recd .tdu = d.recd .tdu := rfl
@[simp] theorem Dev.updDet_recd_tta (f : Detect → Detect) : (d.updDet f).recd .tta = d.recd .tta := rfl
@[simp] theorem Dev.updDet_slotX (f : Detect → Detect) (m : Nat) : (d.updDet f).slotX m = d.slotX m := rfl
@[simp] theorem Dev.updDet_tile (f : Detect → Detect) (m : Nat) : (d.updDet f).tile m = d.tile m := rfl
@[simp] theorem Dev.updDet_graph (f : Detect → Detect) (m : Nat) : (d.updDet f).graph m = d.graph m := rfl
@[simp] theorem Dev.updDet_port_tta (f : Detect → Detect) (q : Fin 17) : (d.updDet f).port (.tta q) = d.port (.tta q) := rfl
@[simp] theorem Dev.updDet_slotTable_tdu (f : Detect → Detect) : (d.updDet f).slotTable .tdu = d.slotTable .tdu := rfl
@[simp] theorem Dev.updDet_slotTable_tta (f : Detect → Detect) : (d.updDet f).slotTable .tta = d.slotTable .tta := rfl
@[simp] theorem Dev.updDet_timeValid_tta (f : Detect → Detect) : (d.updDet f).timeValid .tta = d.timeValid .tta := rfl
@[simp] theorem Dev.updDet_timeValid_tdu (f : Detect → Detect) : (d.updDet f).timeValid .tdu = d.timeValid .tdu := rfl
@[simp] theorem Dev.updDet_nowNs_tta (f : Detect → Detect) : (d.updDet f).nowNs .tta = d.nowNs .tta := rfl
@[simp] theorem Dev.updDet_nowNs_tdu (f : Detect → Detect) : (d.updDet f).nowNs .tdu = d.nowNs .tdu := rfl
@[simp] theorem Dev.updDet_snapOf_tdu (f : Detect → Detect) : (d.updDet f).snapOf .tdu = d.snapOf .tdu := rfl
@[simp] theorem Dev.updDet_snapOf_tta (f : Detect → Detect) : (d.updDet f).snapOf .tta = d.snapOf .tta := rfl
@[simp] theorem Dev.updDet_fnq (f : Detect → Detect) (fn : Fn) : (d.updDet f).fnq fn = d.fnq fn := by cases fn <;> rfl

/-! ### updTchk -/

@[simp] theorem Dev.updTchk_regs (f : TtaChk → TtaChk) : (d.updTchk f).tta.regs = d.tta.regs := rfl
@[simp] theorem Dev.updTchk_fuses (f : TtaChk → TtaChk) : (d.updTchk f).tta.fuses = d.tta.fuses := rfl
@[simp] theorem Dev.updTchk_boot (f : TtaChk → TtaChk) : (d.updTchk f).tta.boot = d.tta.boot := rfl
@[simp] theorem Dev.updTchk_pwr (f : TtaChk → TtaChk) : (d.updTchk f).tta.pwr = d.tta.pwr := rfl
@[simp] theorem Dev.updTchk_mtp (f : TtaChk → TtaChk) : (d.updTchk f).tta.mtp = d.tta.mtp := rfl
@[simp] theorem Dev.updTchk_mtpCut (f : TtaChk → TtaChk) : (d.updTchk f).tta.mtpCut = d.tta.mtpCut := rfl
@[simp] theorem Dev.updTchk_cal (f : TtaChk → TtaChk) : (d.updTchk f).tta.cal = d.tta.cal := rfl
@[simp] theorem Dev.updTchk_time (f : TtaChk → TtaChk) : (d.updTchk f).tta.time = d.tta.time := rfl
@[simp] theorem Dev.updTchk_recorder (f : TtaChk → TtaChk) : (d.updTchk f).tta.recorder = d.tta.recorder := rfl
@[simp] theorem Dev.updTchk_snap (f : TtaChk → TtaChk) : (d.updTchk f).tta.snap = d.tta.snap := rfl
@[simp] theorem Dev.updTchk_latched (f : TtaChk → TtaChk) : (d.updTchk f).tta.latched = d.tta.latched := rfl
@[simp] theorem Dev.updTchk_links (f : TtaChk → TtaChk) : (d.updTchk f).tta.links = d.tta.links := rfl
@[simp] theorem Dev.updTchk_slots (f : TtaChk → TtaChk) : (d.updTchk f).tta.slots = d.tta.slots := rfl
@[simp] theorem Dev.updTchk_arbiters (f : TtaChk → TtaChk) : (d.updTchk f).tta.arbiters = d.tta.arbiters := rfl
@[simp] theorem Dev.updTchk_fns (f : TtaChk → TtaChk) : (d.updTchk f).tta.fns = d.tta.fns := rfl
@[simp] theorem Dev.updTchk_mirrored (f : TtaChk → TtaChk) : (d.updTchk f).tta.mirrored = d.tta.mirrored := rfl
@[simp] theorem Dev.updTchk_tiles (f : TtaChk → TtaChk) : (d.updTchk f).tta.tiles = d.tta.tiles := rfl
@[simp] theorem Dev.updTchk_graphs (f : TtaChk → TtaChk) : (d.updTchk f).tta.graphs = d.tta.graphs := rfl
@[simp] theorem Dev.updTchk_hist (f : TtaChk → TtaChk) : (d.updTchk f).tta.hist = d.tta.hist := rfl
@[simp] theorem Dev.updTchk_slotsX (f : TtaChk → TtaChk) : (d.updTchk f).tta.slotsX = d.tta.slotsX := rfl
@[simp] theorem Dev.updTchk_retireDue (f : TtaChk → TtaChk) : (d.updTchk f).tta.retireDue = d.tta.retireDue := rfl
@[simp] theorem Dev.updTchk_ing (f : TtaChk → TtaChk) : (d.updTchk f).tta.ing = d.tta.ing := rfl
@[simp] theorem Dev.updTchk_twin (f : TtaChk → TtaChk) : (d.updTchk f).tta.twin = d.tta.twin := rfl
@[simp] theorem Dev.updTchk_sett (f : TtaChk → TtaChk) : (d.updTchk f).tta.sett = d.tta.sett := rfl
@[simp] theorem Dev.updTchk_captures (f : TtaChk → TtaChk) : (d.updTchk f).tta.captures = d.tta.captures := rfl
@[simp] theorem Dev.updTchk_tables (f : TtaChk → TtaChk) : (d.updTchk f).tta.tables = d.tta.tables := rfl
@[simp] theorem Dev.updTchk_wrn (f : TtaChk → TtaChk) : (d.updTchk f).tta.wrn = d.tta.wrn := rfl
@[simp] theorem Dev.updTchk_det (f : TtaChk → TtaChk) : (d.updTchk f).tta.det = d.tta.det := rfl
@[simp] theorem Dev.updTchk_chk (f : TtaChk → TtaChk) : (d.updTchk f).tta.chk = f d.tta.chk := rfl
@[simp] theorem Dev.updTchk_rpt (f : TtaChk → TtaChk) : (d.updTchk f).tta.rpt = d.tta.rpt := rfl
@[simp] theorem Dev.updTchk_cmp (f : TtaChk → TtaChk) : (d.updTchk f).tta.cmp = d.tta.cmp := rfl
@[simp] theorem Dev.updTchk_dev_tdu (f : TtaChk → TtaChk) : (d.updTchk f).tdu = d.tdu := rfl
@[simp] theorem Dev.updTchk_dev_pins (f : TtaChk → TtaChk) : (d.updTchk f).pins = d.pins := rfl
@[simp] theorem Dev.updTchk_dev_freeIx (f : TtaChk → TtaChk) : (d.updTchk f).freeIx = d.freeIx := rfl
@[simp] theorem Dev.updTchk_dev_out (f : TtaChk → TtaChk) : (d.updTchk f).out = d.out := rfl
@[simp] theorem Dev.updTchk_word (f : TtaChk → TtaChk) (sp : Space) (a : Nat) : (d.updTchk f).word sp a = d.word sp a := by cases sp <;> rfl
@[simp] theorem Dev.updTchk_get (f : TtaChk → TtaChk) (y : Fld) : (d.updTchk f).get y = d.get y := by rw [Dev.get, Dev.get, Dev.updTchk_word]
@[simp] theorem Dev.updTchk_bit (f : TtaChk → TtaChk) (y : Fld) : (d.updTchk f).bit y = d.bit y := by rw [Dev.bit, Dev.bit, Dev.updTchk_get]
@[simp] theorem Dev.updTchk_tb_tdu (f : TtaChk → TtaChk) : (d.updTchk f).tb .tdu = d.tb .tdu := rfl
@[simp] theorem Dev.updTchk_tb_tta (f : TtaChk → TtaChk) : (d.updTchk f).tb .tta = d.tb .tta := rfl
@[simp] theorem Dev.updTchk_recd_tdu (f : TtaChk → TtaChk) : (d.updTchk f).recd .tdu = d.recd .tdu := rfl
@[simp] theorem Dev.updTchk_recd_tta (f : TtaChk → TtaChk) : (d.updTchk f).recd .tta = d.recd .tta := rfl
@[simp] theorem Dev.updTchk_slotX (f : TtaChk → TtaChk) (m : Nat) : (d.updTchk f).slotX m = d.slotX m := rfl
@[simp] theorem Dev.updTchk_tile (f : TtaChk → TtaChk) (m : Nat) : (d.updTchk f).tile m = d.tile m := rfl
@[simp] theorem Dev.updTchk_graph (f : TtaChk → TtaChk) (m : Nat) : (d.updTchk f).graph m = d.graph m := rfl
@[simp] theorem Dev.updTchk_port_tta (f : TtaChk → TtaChk) (q : Fin 17) : (d.updTchk f).port (.tta q) = d.port (.tta q) := rfl
@[simp] theorem Dev.updTchk_slotTable_tdu (f : TtaChk → TtaChk) : (d.updTchk f).slotTable .tdu = d.slotTable .tdu := rfl
@[simp] theorem Dev.updTchk_slotTable_tta (f : TtaChk → TtaChk) : (d.updTchk f).slotTable .tta = d.slotTable .tta := rfl
@[simp] theorem Dev.updTchk_timeValid_tta (f : TtaChk → TtaChk) : (d.updTchk f).timeValid .tta = d.timeValid .tta := rfl
@[simp] theorem Dev.updTchk_timeValid_tdu (f : TtaChk → TtaChk) : (d.updTchk f).timeValid .tdu = d.timeValid .tdu := rfl
@[simp] theorem Dev.updTchk_nowNs_tta (f : TtaChk → TtaChk) : (d.updTchk f).nowNs .tta = d.nowNs .tta := rfl
@[simp] theorem Dev.updTchk_nowNs_tdu (f : TtaChk → TtaChk) : (d.updTchk f).nowNs .tdu = d.nowNs .tdu := rfl
@[simp] theorem Dev.updTchk_snapOf_tdu (f : TtaChk → TtaChk) : (d.updTchk f).snapOf .tdu = d.snapOf .tdu := rfl
@[simp] theorem Dev.updTchk_snapOf_tta (f : TtaChk → TtaChk) : (d.updTchk f).snapOf .tta = d.snapOf .tta := rfl
@[simp] theorem Dev.updTchk_fnq (f : TtaChk → TtaChk) (fn : Fn) : (d.updTchk f).fnq fn = d.fnq fn := by cases fn <;> rfl

/-! ### updRpt -/

@[simp] theorem Dev.updRpt_regs (f : Reports → Reports) : (d.updRpt f).tta.regs = d.tta.regs := rfl
@[simp] theorem Dev.updRpt_fuses (f : Reports → Reports) : (d.updRpt f).tta.fuses = d.tta.fuses := rfl
@[simp] theorem Dev.updRpt_boot (f : Reports → Reports) : (d.updRpt f).tta.boot = d.tta.boot := rfl
@[simp] theorem Dev.updRpt_pwr (f : Reports → Reports) : (d.updRpt f).tta.pwr = d.tta.pwr := rfl
@[simp] theorem Dev.updRpt_mtp (f : Reports → Reports) : (d.updRpt f).tta.mtp = d.tta.mtp := rfl
@[simp] theorem Dev.updRpt_mtpCut (f : Reports → Reports) : (d.updRpt f).tta.mtpCut = d.tta.mtpCut := rfl
@[simp] theorem Dev.updRpt_cal (f : Reports → Reports) : (d.updRpt f).tta.cal = d.tta.cal := rfl
@[simp] theorem Dev.updRpt_time (f : Reports → Reports) : (d.updRpt f).tta.time = d.tta.time := rfl
@[simp] theorem Dev.updRpt_recorder (f : Reports → Reports) : (d.updRpt f).tta.recorder = d.tta.recorder := rfl
@[simp] theorem Dev.updRpt_snap (f : Reports → Reports) : (d.updRpt f).tta.snap = d.tta.snap := rfl
@[simp] theorem Dev.updRpt_latched (f : Reports → Reports) : (d.updRpt f).tta.latched = d.tta.latched := rfl
@[simp] theorem Dev.updRpt_links (f : Reports → Reports) : (d.updRpt f).tta.links = d.tta.links := rfl
@[simp] theorem Dev.updRpt_slots (f : Reports → Reports) : (d.updRpt f).tta.slots = d.tta.slots := rfl
@[simp] theorem Dev.updRpt_arbiters (f : Reports → Reports) : (d.updRpt f).tta.arbiters = d.tta.arbiters := rfl
@[simp] theorem Dev.updRpt_fns (f : Reports → Reports) : (d.updRpt f).tta.fns = d.tta.fns := rfl
@[simp] theorem Dev.updRpt_mirrored (f : Reports → Reports) : (d.updRpt f).tta.mirrored = d.tta.mirrored := rfl
@[simp] theorem Dev.updRpt_tiles (f : Reports → Reports) : (d.updRpt f).tta.tiles = d.tta.tiles := rfl
@[simp] theorem Dev.updRpt_graphs (f : Reports → Reports) : (d.updRpt f).tta.graphs = d.tta.graphs := rfl
@[simp] theorem Dev.updRpt_hist (f : Reports → Reports) : (d.updRpt f).tta.hist = d.tta.hist := rfl
@[simp] theorem Dev.updRpt_slotsX (f : Reports → Reports) : (d.updRpt f).tta.slotsX = d.tta.slotsX := rfl
@[simp] theorem Dev.updRpt_retireDue (f : Reports → Reports) : (d.updRpt f).tta.retireDue = d.tta.retireDue := rfl
@[simp] theorem Dev.updRpt_ing (f : Reports → Reports) : (d.updRpt f).tta.ing = d.tta.ing := rfl
@[simp] theorem Dev.updRpt_twin (f : Reports → Reports) : (d.updRpt f).tta.twin = d.tta.twin := rfl
@[simp] theorem Dev.updRpt_sett (f : Reports → Reports) : (d.updRpt f).tta.sett = d.tta.sett := rfl
@[simp] theorem Dev.updRpt_captures (f : Reports → Reports) : (d.updRpt f).tta.captures = d.tta.captures := rfl
@[simp] theorem Dev.updRpt_tables (f : Reports → Reports) : (d.updRpt f).tta.tables = d.tta.tables := rfl
@[simp] theorem Dev.updRpt_wrn (f : Reports → Reports) : (d.updRpt f).tta.wrn = d.tta.wrn := rfl
@[simp] theorem Dev.updRpt_det (f : Reports → Reports) : (d.updRpt f).tta.det = d.tta.det := rfl
@[simp] theorem Dev.updRpt_chk (f : Reports → Reports) : (d.updRpt f).tta.chk = d.tta.chk := rfl
@[simp] theorem Dev.updRpt_rpt (f : Reports → Reports) : (d.updRpt f).tta.rpt = f d.tta.rpt := rfl
@[simp] theorem Dev.updRpt_cmp (f : Reports → Reports) : (d.updRpt f).tta.cmp = d.tta.cmp := rfl
@[simp] theorem Dev.updRpt_dev_tdu (f : Reports → Reports) : (d.updRpt f).tdu = d.tdu := rfl
@[simp] theorem Dev.updRpt_dev_pins (f : Reports → Reports) : (d.updRpt f).pins = d.pins := rfl
@[simp] theorem Dev.updRpt_dev_freeIx (f : Reports → Reports) : (d.updRpt f).freeIx = d.freeIx := rfl
@[simp] theorem Dev.updRpt_dev_out (f : Reports → Reports) : (d.updRpt f).out = d.out := rfl
@[simp] theorem Dev.updRpt_word (f : Reports → Reports) (sp : Space) (a : Nat) : (d.updRpt f).word sp a = d.word sp a := by cases sp <;> rfl
@[simp] theorem Dev.updRpt_get (f : Reports → Reports) (y : Fld) : (d.updRpt f).get y = d.get y := by rw [Dev.get, Dev.get, Dev.updRpt_word]
@[simp] theorem Dev.updRpt_bit (f : Reports → Reports) (y : Fld) : (d.updRpt f).bit y = d.bit y := by rw [Dev.bit, Dev.bit, Dev.updRpt_get]
@[simp] theorem Dev.updRpt_tb_tdu (f : Reports → Reports) : (d.updRpt f).tb .tdu = d.tb .tdu := rfl
@[simp] theorem Dev.updRpt_tb_tta (f : Reports → Reports) : (d.updRpt f).tb .tta = d.tb .tta := rfl
@[simp] theorem Dev.updRpt_recd_tdu (f : Reports → Reports) : (d.updRpt f).recd .tdu = d.recd .tdu := rfl
@[simp] theorem Dev.updRpt_recd_tta (f : Reports → Reports) : (d.updRpt f).recd .tta = d.recd .tta := rfl
@[simp] theorem Dev.updRpt_slotX (f : Reports → Reports) (m : Nat) : (d.updRpt f).slotX m = d.slotX m := rfl
@[simp] theorem Dev.updRpt_tile (f : Reports → Reports) (m : Nat) : (d.updRpt f).tile m = d.tile m := rfl
@[simp] theorem Dev.updRpt_graph (f : Reports → Reports) (m : Nat) : (d.updRpt f).graph m = d.graph m := rfl
@[simp] theorem Dev.updRpt_port_tta (f : Reports → Reports) (q : Fin 17) : (d.updRpt f).port (.tta q) = d.port (.tta q) := rfl
@[simp] theorem Dev.updRpt_slotTable_tdu (f : Reports → Reports) : (d.updRpt f).slotTable .tdu = d.slotTable .tdu := rfl
@[simp] theorem Dev.updRpt_slotTable_tta (f : Reports → Reports) : (d.updRpt f).slotTable .tta = d.slotTable .tta := rfl
@[simp] theorem Dev.updRpt_timeValid_tta (f : Reports → Reports) : (d.updRpt f).timeValid .tta = d.timeValid .tta := rfl
@[simp] theorem Dev.updRpt_timeValid_tdu (f : Reports → Reports) : (d.updRpt f).timeValid .tdu = d.timeValid .tdu := rfl
@[simp] theorem Dev.updRpt_nowNs_tta (f : Reports → Reports) : (d.updRpt f).nowNs .tta = d.nowNs .tta := rfl
@[simp] theorem Dev.updRpt_nowNs_tdu (f : Reports → Reports) : (d.updRpt f).nowNs .tdu = d.nowNs .tdu := rfl
@[simp] theorem Dev.updRpt_snapOf_tdu (f : Reports → Reports) : (d.updRpt f).snapOf .tdu = d.snapOf .tdu := rfl
@[simp] theorem Dev.updRpt_snapOf_tta (f : Reports → Reports) : (d.updRpt f).snapOf .tta = d.snapOf .tta := rfl
@[simp] theorem Dev.updRpt_fnq (f : Reports → Reports) (fn : Fn) : (d.updRpt f).fnq fn = d.fnq fn := by cases fn <;> rfl

/-! ### updCmp -/

@[simp] theorem Dev.updCmp_regs (f : Deflate → Deflate) : (d.updCmp f).tta.regs = d.tta.regs := rfl
@[simp] theorem Dev.updCmp_fuses (f : Deflate → Deflate) : (d.updCmp f).tta.fuses = d.tta.fuses := rfl
@[simp] theorem Dev.updCmp_boot (f : Deflate → Deflate) : (d.updCmp f).tta.boot = d.tta.boot := rfl
@[simp] theorem Dev.updCmp_pwr (f : Deflate → Deflate) : (d.updCmp f).tta.pwr = d.tta.pwr := rfl
@[simp] theorem Dev.updCmp_mtp (f : Deflate → Deflate) : (d.updCmp f).tta.mtp = d.tta.mtp := rfl
@[simp] theorem Dev.updCmp_mtpCut (f : Deflate → Deflate) : (d.updCmp f).tta.mtpCut = d.tta.mtpCut := rfl
@[simp] theorem Dev.updCmp_cal (f : Deflate → Deflate) : (d.updCmp f).tta.cal = d.tta.cal := rfl
@[simp] theorem Dev.updCmp_time (f : Deflate → Deflate) : (d.updCmp f).tta.time = d.tta.time := rfl
@[simp] theorem Dev.updCmp_recorder (f : Deflate → Deflate) : (d.updCmp f).tta.recorder = d.tta.recorder := rfl
@[simp] theorem Dev.updCmp_snap (f : Deflate → Deflate) : (d.updCmp f).tta.snap = d.tta.snap := rfl
@[simp] theorem Dev.updCmp_latched (f : Deflate → Deflate) : (d.updCmp f).tta.latched = d.tta.latched := rfl
@[simp] theorem Dev.updCmp_links (f : Deflate → Deflate) : (d.updCmp f).tta.links = d.tta.links := rfl
@[simp] theorem Dev.updCmp_slots (f : Deflate → Deflate) : (d.updCmp f).tta.slots = d.tta.slots := rfl
@[simp] theorem Dev.updCmp_arbiters (f : Deflate → Deflate) : (d.updCmp f).tta.arbiters = d.tta.arbiters := rfl
@[simp] theorem Dev.updCmp_fns (f : Deflate → Deflate) : (d.updCmp f).tta.fns = d.tta.fns := rfl
@[simp] theorem Dev.updCmp_mirrored (f : Deflate → Deflate) : (d.updCmp f).tta.mirrored = d.tta.mirrored := rfl
@[simp] theorem Dev.updCmp_tiles (f : Deflate → Deflate) : (d.updCmp f).tta.tiles = d.tta.tiles := rfl
@[simp] theorem Dev.updCmp_graphs (f : Deflate → Deflate) : (d.updCmp f).tta.graphs = d.tta.graphs := rfl
@[simp] theorem Dev.updCmp_hist (f : Deflate → Deflate) : (d.updCmp f).tta.hist = d.tta.hist := rfl
@[simp] theorem Dev.updCmp_slotsX (f : Deflate → Deflate) : (d.updCmp f).tta.slotsX = d.tta.slotsX := rfl
@[simp] theorem Dev.updCmp_retireDue (f : Deflate → Deflate) : (d.updCmp f).tta.retireDue = d.tta.retireDue := rfl
@[simp] theorem Dev.updCmp_ing (f : Deflate → Deflate) : (d.updCmp f).tta.ing = d.tta.ing := rfl
@[simp] theorem Dev.updCmp_twin (f : Deflate → Deflate) : (d.updCmp f).tta.twin = d.tta.twin := rfl
@[simp] theorem Dev.updCmp_sett (f : Deflate → Deflate) : (d.updCmp f).tta.sett = d.tta.sett := rfl
@[simp] theorem Dev.updCmp_captures (f : Deflate → Deflate) : (d.updCmp f).tta.captures = d.tta.captures := rfl
@[simp] theorem Dev.updCmp_tables (f : Deflate → Deflate) : (d.updCmp f).tta.tables = d.tta.tables := rfl
@[simp] theorem Dev.updCmp_wrn (f : Deflate → Deflate) : (d.updCmp f).tta.wrn = d.tta.wrn := rfl
@[simp] theorem Dev.updCmp_det (f : Deflate → Deflate) : (d.updCmp f).tta.det = d.tta.det := rfl
@[simp] theorem Dev.updCmp_chk (f : Deflate → Deflate) : (d.updCmp f).tta.chk = d.tta.chk := rfl
@[simp] theorem Dev.updCmp_rpt (f : Deflate → Deflate) : (d.updCmp f).tta.rpt = d.tta.rpt := rfl
@[simp] theorem Dev.updCmp_cmp (f : Deflate → Deflate) : (d.updCmp f).tta.cmp = f d.tta.cmp := rfl
@[simp] theorem Dev.updCmp_dev_tdu (f : Deflate → Deflate) : (d.updCmp f).tdu = d.tdu := rfl
@[simp] theorem Dev.updCmp_dev_pins (f : Deflate → Deflate) : (d.updCmp f).pins = d.pins := rfl
@[simp] theorem Dev.updCmp_dev_freeIx (f : Deflate → Deflate) : (d.updCmp f).freeIx = d.freeIx := rfl
@[simp] theorem Dev.updCmp_dev_out (f : Deflate → Deflate) : (d.updCmp f).out = d.out := rfl
@[simp] theorem Dev.updCmp_word (f : Deflate → Deflate) (sp : Space) (a : Nat) : (d.updCmp f).word sp a = d.word sp a := by cases sp <;> rfl
@[simp] theorem Dev.updCmp_get (f : Deflate → Deflate) (y : Fld) : (d.updCmp f).get y = d.get y := by rw [Dev.get, Dev.get, Dev.updCmp_word]
@[simp] theorem Dev.updCmp_bit (f : Deflate → Deflate) (y : Fld) : (d.updCmp f).bit y = d.bit y := by rw [Dev.bit, Dev.bit, Dev.updCmp_get]
@[simp] theorem Dev.updCmp_tb_tdu (f : Deflate → Deflate) : (d.updCmp f).tb .tdu = d.tb .tdu := rfl
@[simp] theorem Dev.updCmp_tb_tta (f : Deflate → Deflate) : (d.updCmp f).tb .tta = d.tb .tta := rfl
@[simp] theorem Dev.updCmp_recd_tdu (f : Deflate → Deflate) : (d.updCmp f).recd .tdu = d.recd .tdu := rfl
@[simp] theorem Dev.updCmp_recd_tta (f : Deflate → Deflate) : (d.updCmp f).recd .tta = d.recd .tta := rfl
@[simp] theorem Dev.updCmp_slotX (f : Deflate → Deflate) (m : Nat) : (d.updCmp f).slotX m = d.slotX m := rfl
@[simp] theorem Dev.updCmp_tile (f : Deflate → Deflate) (m : Nat) : (d.updCmp f).tile m = d.tile m := rfl
@[simp] theorem Dev.updCmp_graph (f : Deflate → Deflate) (m : Nat) : (d.updCmp f).graph m = d.graph m := rfl
@[simp] theorem Dev.updCmp_port_tta (f : Deflate → Deflate) (q : Fin 17) : (d.updCmp f).port (.tta q) = d.port (.tta q) := rfl
@[simp] theorem Dev.updCmp_slotTable_tdu (f : Deflate → Deflate) : (d.updCmp f).slotTable .tdu = d.slotTable .tdu := rfl
@[simp] theorem Dev.updCmp_slotTable_tta (f : Deflate → Deflate) : (d.updCmp f).slotTable .tta = d.slotTable .tta := rfl
@[simp] theorem Dev.updCmp_timeValid_tta (f : Deflate → Deflate) : (d.updCmp f).timeValid .tta = d.timeValid .tta := rfl
@[simp] theorem Dev.updCmp_timeValid_tdu (f : Deflate → Deflate) : (d.updCmp f).timeValid .tdu = d.timeValid .tdu := rfl
@[simp] theorem Dev.updCmp_nowNs_tta (f : Deflate → Deflate) : (d.updCmp f).nowNs .tta = d.nowNs .tta := rfl
@[simp] theorem Dev.updCmp_nowNs_tdu (f : Deflate → Deflate) : (d.updCmp f).nowNs .tdu = d.nowNs .tdu := rfl
@[simp] theorem Dev.updCmp_snapOf_tdu (f : Deflate → Deflate) : (d.updCmp f).snapOf .tdu = d.snapOf .tdu := rfl
@[simp] theorem Dev.updCmp_snapOf_tta (f : Deflate → Deflate) : (d.updCmp f).snapOf .tta = d.snapOf .tta := rfl
@[simp] theorem Dev.updCmp_fnq (f : Deflate → Deflate) (fn : Fn) : (d.updCmp f).fnq fn = d.fnq fn := by cases fn <;> rfl

/-! ### updTtaPwr -/

@[simp] theorem Dev.updTtaPwr_regs (f : TtaPwr → TtaPwr) : (d.updTtaPwr f).tta.regs = d.tta.regs := rfl
@[simp] theorem Dev.updTtaPwr_fuses (f : TtaPwr → TtaPwr) : (d.updTtaPwr f).tta.fuses = d.tta.fuses := rfl
@[simp] theorem Dev.updTtaPwr_boot (f : TtaPwr → TtaPwr) : (d.updTtaPwr f).tta.boot = d.tta.boot := rfl
@[simp] theorem Dev.updTtaPwr_pwr (f : TtaPwr → TtaPwr) : (d.updTtaPwr f).tta.pwr = f d.tta.pwr := rfl
@[simp] theorem Dev.updTtaPwr_mtp (f : TtaPwr → TtaPwr) : (d.updTtaPwr f).tta.mtp = d.tta.mtp := rfl
@[simp] theorem Dev.updTtaPwr_mtpCut (f : TtaPwr → TtaPwr) : (d.updTtaPwr f).tta.mtpCut = d.tta.mtpCut := rfl
@[simp] theorem Dev.updTtaPwr_cal (f : TtaPwr → TtaPwr) : (d.updTtaPwr f).tta.cal = d.tta.cal := rfl
@[simp] theorem Dev.updTtaPwr_time (f : TtaPwr → TtaPwr) : (d.updTtaPwr f).tta.time = d.tta.time := rfl
@[simp] theorem Dev.updTtaPwr_recorder (f : TtaPwr → TtaPwr) : (d.updTtaPwr f).tta.recorder = d.tta.recorder := rfl
@[simp] theorem Dev.updTtaPwr_snap (f : TtaPwr → TtaPwr) : (d.updTtaPwr f).tta.snap = d.tta.snap := rfl
@[simp] theorem Dev.updTtaPwr_latched (f : TtaPwr → TtaPwr) : (d.updTtaPwr f).tta.latched = d.tta.latched := rfl
@[simp] theorem Dev.updTtaPwr_links (f : TtaPwr → TtaPwr) : (d.updTtaPwr f).tta.links = d.tta.links := rfl
@[simp] theorem Dev.updTtaPwr_slots (f : TtaPwr → TtaPwr) : (d.updTtaPwr f).tta.slots = d.tta.slots := rfl
@[simp] theorem Dev.updTtaPwr_arbiters (f : TtaPwr → TtaPwr) : (d.updTtaPwr f).tta.arbiters = d.tta.arbiters := rfl
@[simp] theorem Dev.updTtaPwr_fns (f : TtaPwr → TtaPwr) : (d.updTtaPwr f).tta.fns = d.tta.fns := rfl
@[simp] theorem Dev.updTtaPwr_mirrored (f : TtaPwr → TtaPwr) : (d.updTtaPwr f).tta.mirrored = d.tta.mirrored := rfl
@[simp] theorem Dev.updTtaPwr_tiles (f : TtaPwr → TtaPwr) : (d.updTtaPwr f).tta.tiles = d.tta.tiles := rfl
@[simp] theorem Dev.updTtaPwr_graphs (f : TtaPwr → TtaPwr) : (d.updTtaPwr f).tta.graphs = d.tta.graphs := rfl
@[simp] theorem Dev.updTtaPwr_hist (f : TtaPwr → TtaPwr) : (d.updTtaPwr f).tta.hist = d.tta.hist := rfl
@[simp] theorem Dev.updTtaPwr_slotsX (f : TtaPwr → TtaPwr) : (d.updTtaPwr f).tta.slotsX = d.tta.slotsX := rfl
@[simp] theorem Dev.updTtaPwr_retireDue (f : TtaPwr → TtaPwr) : (d.updTtaPwr f).tta.retireDue = d.tta.retireDue := rfl
@[simp] theorem Dev.updTtaPwr_ing (f : TtaPwr → TtaPwr) : (d.updTtaPwr f).tta.ing = d.tta.ing := rfl
@[simp] theorem Dev.updTtaPwr_twin (f : TtaPwr → TtaPwr) : (d.updTtaPwr f).tta.twin = d.tta.twin := rfl
@[simp] theorem Dev.updTtaPwr_sett (f : TtaPwr → TtaPwr) : (d.updTtaPwr f).tta.sett = d.tta.sett := rfl
@[simp] theorem Dev.updTtaPwr_captures (f : TtaPwr → TtaPwr) : (d.updTtaPwr f).tta.captures = d.tta.captures := rfl
@[simp] theorem Dev.updTtaPwr_tables (f : TtaPwr → TtaPwr) : (d.updTtaPwr f).tta.tables = d.tta.tables := rfl
@[simp] theorem Dev.updTtaPwr_wrn (f : TtaPwr → TtaPwr) : (d.updTtaPwr f).tta.wrn = d.tta.wrn := rfl
@[simp] theorem Dev.updTtaPwr_det (f : TtaPwr → TtaPwr) : (d.updTtaPwr f).tta.det = d.tta.det := rfl
@[simp] theorem Dev.updTtaPwr_chk (f : TtaPwr → TtaPwr) : (d.updTtaPwr f).tta.chk = d.tta.chk := rfl
@[simp] theorem Dev.updTtaPwr_rpt (f : TtaPwr → TtaPwr) : (d.updTtaPwr f).tta.rpt = d.tta.rpt := rfl
@[simp] theorem Dev.updTtaPwr_cmp (f : TtaPwr → TtaPwr) : (d.updTtaPwr f).tta.cmp = d.tta.cmp := rfl
@[simp] theorem Dev.updTtaPwr_dev_tdu (f : TtaPwr → TtaPwr) : (d.updTtaPwr f).tdu = d.tdu := rfl
@[simp] theorem Dev.updTtaPwr_dev_pins (f : TtaPwr → TtaPwr) : (d.updTtaPwr f).pins = d.pins := rfl
@[simp] theorem Dev.updTtaPwr_dev_freeIx (f : TtaPwr → TtaPwr) : (d.updTtaPwr f).freeIx = d.freeIx := rfl
@[simp] theorem Dev.updTtaPwr_dev_out (f : TtaPwr → TtaPwr) : (d.updTtaPwr f).out = d.out := rfl
@[simp] theorem Dev.updTtaPwr_word (f : TtaPwr → TtaPwr) (sp : Space) (a : Nat) : (d.updTtaPwr f).word sp a = d.word sp a := by cases sp <;> rfl
@[simp] theorem Dev.updTtaPwr_get (f : TtaPwr → TtaPwr) (y : Fld) : (d.updTtaPwr f).get y = d.get y := by rw [Dev.get, Dev.get, Dev.updTtaPwr_word]
@[simp] theorem Dev.updTtaPwr_bit (f : TtaPwr → TtaPwr) (y : Fld) : (d.updTtaPwr f).bit y = d.bit y := by rw [Dev.bit, Dev.bit, Dev.updTtaPwr_get]
@[simp] theorem Dev.updTtaPwr_tb_tdu (f : TtaPwr → TtaPwr) : (d.updTtaPwr f).tb .tdu = d.tb .tdu := rfl
@[simp] theorem Dev.updTtaPwr_tb_tta (f : TtaPwr → TtaPwr) : (d.updTtaPwr f).tb .tta = d.tb .tta := rfl
@[simp] theorem Dev.updTtaPwr_recd_tdu (f : TtaPwr → TtaPwr) : (d.updTtaPwr f).recd .tdu = d.recd .tdu := rfl
@[simp] theorem Dev.updTtaPwr_recd_tta (f : TtaPwr → TtaPwr) : (d.updTtaPwr f).recd .tta = d.recd .tta := rfl
@[simp] theorem Dev.updTtaPwr_slotX (f : TtaPwr → TtaPwr) (m : Nat) : (d.updTtaPwr f).slotX m = d.slotX m := rfl
@[simp] theorem Dev.updTtaPwr_tile (f : TtaPwr → TtaPwr) (m : Nat) : (d.updTtaPwr f).tile m = d.tile m := rfl
@[simp] theorem Dev.updTtaPwr_graph (f : TtaPwr → TtaPwr) (m : Nat) : (d.updTtaPwr f).graph m = d.graph m := rfl
@[simp] theorem Dev.updTtaPwr_port_tta (f : TtaPwr → TtaPwr) (q : Fin 17) : (d.updTtaPwr f).port (.tta q) = d.port (.tta q) := rfl
@[simp] theorem Dev.updTtaPwr_slotTable_tdu (f : TtaPwr → TtaPwr) : (d.updTtaPwr f).slotTable .tdu = d.slotTable .tdu := rfl
@[simp] theorem Dev.updTtaPwr_slotTable_tta (f : TtaPwr → TtaPwr) : (d.updTtaPwr f).slotTable .tta = d.slotTable .tta := rfl
@[simp] theorem Dev.updTtaPwr_timeValid_tta (f : TtaPwr → TtaPwr) : (d.updTtaPwr f).timeValid .tta = d.timeValid .tta := rfl
@[simp] theorem Dev.updTtaPwr_timeValid_tdu (f : TtaPwr → TtaPwr) : (d.updTtaPwr f).timeValid .tdu = d.timeValid .tdu := rfl
@[simp] theorem Dev.updTtaPwr_nowNs_tta (f : TtaPwr → TtaPwr) : (d.updTtaPwr f).nowNs .tta = d.nowNs .tta := rfl
@[simp] theorem Dev.updTtaPwr_nowNs_tdu (f : TtaPwr → TtaPwr) : (d.updTtaPwr f).nowNs .tdu = d.nowNs .tdu := rfl
@[simp] theorem Dev.updTtaPwr_snapOf_tdu (f : TtaPwr → TtaPwr) : (d.updTtaPwr f).snapOf .tdu = d.snapOf .tdu := rfl
@[simp] theorem Dev.updTtaPwr_snapOf_tta (f : TtaPwr → TtaPwr) : (d.updTtaPwr f).snapOf .tta = d.snapOf .tta := rfl
@[simp] theorem Dev.updTtaPwr_fnq (f : TtaPwr → TtaPwr) (fn : Fn) : (d.updTtaPwr f).fnq fn = d.fnq fn := by cases fn <;> rfl

/-! ### updBoot -/

@[simp] theorem Dev.updBoot_regs (f : Boot → Boot) : (d.updBoot f).tta.regs = d.tta.regs := rfl
@[simp] theorem Dev.updBoot_fuses (f : Boot → Boot) : (d.updBoot f).tta.fuses = d.tta.fuses := rfl
@[simp] theorem Dev.updBoot_boot (f : Boot → Boot) : (d.updBoot f).tta.boot = f d.tta.boot := rfl
@[simp] theorem Dev.updBoot_pwr (f : Boot → Boot) : (d.updBoot f).tta.pwr = d.tta.pwr := rfl
@[simp] theorem Dev.updBoot_mtp (f : Boot → Boot) : (d.updBoot f).tta.mtp = d.tta.mtp := rfl
@[simp] theorem Dev.updBoot_mtpCut (f : Boot → Boot) : (d.updBoot f).tta.mtpCut = d.tta.mtpCut := rfl
@[simp] theorem Dev.updBoot_cal (f : Boot → Boot) : (d.updBoot f).tta.cal = d.tta.cal := rfl
@[simp] theorem Dev.updBoot_time (f : Boot → Boot) : (d.updBoot f).tta.time = d.tta.time := rfl
@[simp] theorem Dev.updBoot_recorder (f : Boot → Boot) : (d.updBoot f).tta.recorder = d.tta.recorder := rfl
@[simp] theorem Dev.updBoot_snap (f : Boot → Boot) : (d.updBoot f).tta.snap = d.tta.snap := rfl
@[simp] theorem Dev.updBoot_latched (f : Boot → Boot) : (d.updBoot f).tta.latched = d.tta.latched := rfl
@[simp] theorem Dev.updBoot_links (f : Boot → Boot) : (d.updBoot f).tta.links = d.tta.links := rfl
@[simp] theorem Dev.updBoot_slots (f : Boot → Boot) : (d.updBoot f).tta.slots = d.tta.slots := rfl
@[simp] theorem Dev.updBoot_arbiters (f : Boot → Boot) : (d.updBoot f).tta.arbiters = d.tta.arbiters := rfl
@[simp] theorem Dev.updBoot_fns (f : Boot → Boot) : (d.updBoot f).tta.fns = d.tta.fns := rfl
@[simp] theorem Dev.updBoot_mirrored (f : Boot → Boot) : (d.updBoot f).tta.mirrored = d.tta.mirrored := rfl
@[simp] theorem Dev.updBoot_tiles (f : Boot → Boot) : (d.updBoot f).tta.tiles = d.tta.tiles := rfl
@[simp] theorem Dev.updBoot_graphs (f : Boot → Boot) : (d.updBoot f).tta.graphs = d.tta.graphs := rfl
@[simp] theorem Dev.updBoot_hist (f : Boot → Boot) : (d.updBoot f).tta.hist = d.tta.hist := rfl
@[simp] theorem Dev.updBoot_slotsX (f : Boot → Boot) : (d.updBoot f).tta.slotsX = d.tta.slotsX := rfl
@[simp] theorem Dev.updBoot_retireDue (f : Boot → Boot) : (d.updBoot f).tta.retireDue = d.tta.retireDue := rfl
@[simp] theorem Dev.updBoot_ing (f : Boot → Boot) : (d.updBoot f).tta.ing = d.tta.ing := rfl
@[simp] theorem Dev.updBoot_twin (f : Boot → Boot) : (d.updBoot f).tta.twin = d.tta.twin := rfl
@[simp] theorem Dev.updBoot_sett (f : Boot → Boot) : (d.updBoot f).tta.sett = d.tta.sett := rfl
@[simp] theorem Dev.updBoot_captures (f : Boot → Boot) : (d.updBoot f).tta.captures = d.tta.captures := rfl
@[simp] theorem Dev.updBoot_tables (f : Boot → Boot) : (d.updBoot f).tta.tables = d.tta.tables := rfl
@[simp] theorem Dev.updBoot_wrn (f : Boot → Boot) : (d.updBoot f).tta.wrn = d.tta.wrn := rfl
@[simp] theorem Dev.updBoot_det (f : Boot → Boot) : (d.updBoot f).tta.det = d.tta.det := rfl
@[simp] theorem Dev.updBoot_chk (f : Boot → Boot) : (d.updBoot f).tta.chk = d.tta.chk := rfl
@[simp] theorem Dev.updBoot_rpt (f : Boot → Boot) : (d.updBoot f).tta.rpt = d.tta.rpt := rfl
@[simp] theorem Dev.updBoot_cmp (f : Boot → Boot) : (d.updBoot f).tta.cmp = d.tta.cmp := rfl
@[simp] theorem Dev.updBoot_dev_tdu (f : Boot → Boot) : (d.updBoot f).tdu = d.tdu := rfl
@[simp] theorem Dev.updBoot_dev_pins (f : Boot → Boot) : (d.updBoot f).pins = d.pins := rfl
@[simp] theorem Dev.updBoot_dev_freeIx (f : Boot → Boot) : (d.updBoot f).freeIx = d.freeIx := rfl
@[simp] theorem Dev.updBoot_dev_out (f : Boot → Boot) : (d.updBoot f).out = d.out := rfl
@[simp] theorem Dev.updBoot_word (f : Boot → Boot) (sp : Space) (a : Nat) : (d.updBoot f).word sp a = d.word sp a := by cases sp <;> rfl
@[simp] theorem Dev.updBoot_get (f : Boot → Boot) (y : Fld) : (d.updBoot f).get y = d.get y := by rw [Dev.get, Dev.get, Dev.updBoot_word]
@[simp] theorem Dev.updBoot_bit (f : Boot → Boot) (y : Fld) : (d.updBoot f).bit y = d.bit y := by rw [Dev.bit, Dev.bit, Dev.updBoot_get]
@[simp] theorem Dev.updBoot_tb_tdu (f : Boot → Boot) : (d.updBoot f).tb .tdu = d.tb .tdu := rfl
@[simp] theorem Dev.updBoot_tb_tta (f : Boot → Boot) : (d.updBoot f).tb .tta = d.tb .tta := rfl
@[simp] theorem Dev.updBoot_recd_tdu (f : Boot → Boot) : (d.updBoot f).recd .tdu = d.recd .tdu := rfl
@[simp] theorem Dev.updBoot_recd_tta (f : Boot → Boot) : (d.updBoot f).recd .tta = d.recd .tta := rfl
@[simp] theorem Dev.updBoot_slotX (f : Boot → Boot) (m : Nat) : (d.updBoot f).slotX m = d.slotX m := rfl
@[simp] theorem Dev.updBoot_tile (f : Boot → Boot) (m : Nat) : (d.updBoot f).tile m = d.tile m := rfl
@[simp] theorem Dev.updBoot_graph (f : Boot → Boot) (m : Nat) : (d.updBoot f).graph m = d.graph m := rfl
@[simp] theorem Dev.updBoot_port_tta (f : Boot → Boot) (q : Fin 17) : (d.updBoot f).port (.tta q) = d.port (.tta q) := rfl
@[simp] theorem Dev.updBoot_slotTable_tdu (f : Boot → Boot) : (d.updBoot f).slotTable .tdu = d.slotTable .tdu := rfl
@[simp] theorem Dev.updBoot_slotTable_tta (f : Boot → Boot) : (d.updBoot f).slotTable .tta = d.slotTable .tta := rfl
@[simp] theorem Dev.updBoot_timeValid_tta (f : Boot → Boot) : (d.updBoot f).timeValid .tta = d.timeValid .tta := rfl
@[simp] theorem Dev.updBoot_timeValid_tdu (f : Boot → Boot) : (d.updBoot f).timeValid .tdu = d.timeValid .tdu := rfl
@[simp] theorem Dev.updBoot_nowNs_tta (f : Boot → Boot) : (d.updBoot f).nowNs .tta = d.nowNs .tta := rfl
@[simp] theorem Dev.updBoot_nowNs_tdu (f : Boot → Boot) : (d.updBoot f).nowNs .tdu = d.nowNs .tdu := rfl
@[simp] theorem Dev.updBoot_snapOf_tdu (f : Boot → Boot) : (d.updBoot f).snapOf .tdu = d.snapOf .tdu := rfl
@[simp] theorem Dev.updBoot_snapOf_tta (f : Boot → Boot) : (d.updBoot f).snapOf .tta = d.snapOf .tta := rfl
@[simp] theorem Dev.updBoot_fnq (f : Boot → Boot) (fn : Fn) : (d.updBoot f).fnq fn = d.fnq fn := by cases fn <;> rfl

/-! ### updTime -/

@[simp] theorem Dev.updTime_regs (f : TtaTime → TtaTime) : (d.updTime f).tta.regs = d.tta.regs := rfl
@[simp] theorem Dev.updTime_fuses (f : TtaTime → TtaTime) : (d.updTime f).tta.fuses = d.tta.fuses := rfl
@[simp] theorem Dev.updTime_boot (f : TtaTime → TtaTime) : (d.updTime f).tta.boot = d.tta.boot := rfl
@[simp] theorem Dev.updTime_pwr (f : TtaTime → TtaTime) : (d.updTime f).tta.pwr = d.tta.pwr := rfl
@[simp] theorem Dev.updTime_mtp (f : TtaTime → TtaTime) : (d.updTime f).tta.mtp = d.tta.mtp := rfl
@[simp] theorem Dev.updTime_mtpCut (f : TtaTime → TtaTime) : (d.updTime f).tta.mtpCut = d.tta.mtpCut := rfl
@[simp] theorem Dev.updTime_cal (f : TtaTime → TtaTime) : (d.updTime f).tta.cal = d.tta.cal := rfl
@[simp] theorem Dev.updTime_time (f : TtaTime → TtaTime) : (d.updTime f).tta.time = f d.tta.time := rfl
@[simp] theorem Dev.updTime_recorder (f : TtaTime → TtaTime) : (d.updTime f).tta.recorder = d.tta.recorder := rfl
@[simp] theorem Dev.updTime_snap (f : TtaTime → TtaTime) : (d.updTime f).tta.snap = d.tta.snap := rfl
@[simp] theorem Dev.updTime_latched (f : TtaTime → TtaTime) : (d.updTime f).tta.latched = d.tta.latched := rfl
@[simp] theorem Dev.updTime_links (f : TtaTime → TtaTime) : (d.updTime f).tta.links = d.tta.links := rfl
@[simp] theorem Dev.updTime_slots (f : TtaTime → TtaTime) : (d.updTime f).tta.slots = d.tta.slots := rfl
@[simp] theorem Dev.updTime_arbiters (f : TtaTime → TtaTime) : (d.updTime f).tta.arbiters = d.tta.arbiters := rfl
@[simp] theorem Dev.updTime_fns (f : TtaTime → TtaTime) : (d.updTime f).tta.fns = d.tta.fns := rfl
@[simp] theorem Dev.updTime_mirrored (f : TtaTime → TtaTime) : (d.updTime f).tta.mirrored = d.tta.mirrored := rfl
@[simp] theorem Dev.updTime_tiles (f : TtaTime → TtaTime) : (d.updTime f).tta.tiles = d.tta.tiles := rfl
@[simp] theorem Dev.updTime_graphs (f : TtaTime → TtaTime) : (d.updTime f).tta.graphs = d.tta.graphs := rfl
@[simp] theorem Dev.updTime_hist (f : TtaTime → TtaTime) : (d.updTime f).tta.hist = d.tta.hist := rfl
@[simp] theorem Dev.updTime_slotsX (f : TtaTime → TtaTime) : (d.updTime f).tta.slotsX = d.tta.slotsX := rfl
@[simp] theorem Dev.updTime_retireDue (f : TtaTime → TtaTime) : (d.updTime f).tta.retireDue = d.tta.retireDue := rfl
@[simp] theorem Dev.updTime_ing (f : TtaTime → TtaTime) : (d.updTime f).tta.ing = d.tta.ing := rfl
@[simp] theorem Dev.updTime_twin (f : TtaTime → TtaTime) : (d.updTime f).tta.twin = d.tta.twin := rfl
@[simp] theorem Dev.updTime_sett (f : TtaTime → TtaTime) : (d.updTime f).tta.sett = d.tta.sett := rfl
@[simp] theorem Dev.updTime_captures (f : TtaTime → TtaTime) : (d.updTime f).tta.captures = d.tta.captures := rfl
@[simp] theorem Dev.updTime_tables (f : TtaTime → TtaTime) : (d.updTime f).tta.tables = d.tta.tables := rfl
@[simp] theorem Dev.updTime_wrn (f : TtaTime → TtaTime) : (d.updTime f).tta.wrn = d.tta.wrn := rfl
@[simp] theorem Dev.updTime_det (f : TtaTime → TtaTime) : (d.updTime f).tta.det = d.tta.det := rfl
@[simp] theorem Dev.updTime_chk (f : TtaTime → TtaTime) : (d.updTime f).tta.chk = d.tta.chk := rfl
@[simp] theorem Dev.updTime_rpt (f : TtaTime → TtaTime) : (d.updTime f).tta.rpt = d.tta.rpt := rfl
@[simp] theorem Dev.updTime_cmp (f : TtaTime → TtaTime) : (d.updTime f).tta.cmp = d.tta.cmp := rfl
@[simp] theorem Dev.updTime_dev_tdu (f : TtaTime → TtaTime) : (d.updTime f).tdu = d.tdu := rfl
@[simp] theorem Dev.updTime_dev_pins (f : TtaTime → TtaTime) : (d.updTime f).pins = d.pins := rfl
@[simp] theorem Dev.updTime_dev_freeIx (f : TtaTime → TtaTime) : (d.updTime f).freeIx = d.freeIx := rfl
@[simp] theorem Dev.updTime_dev_out (f : TtaTime → TtaTime) : (d.updTime f).out = d.out := rfl
@[simp] theorem Dev.updTime_word (f : TtaTime → TtaTime) (sp : Space) (a : Nat) : (d.updTime f).word sp a = d.word sp a := by cases sp <;> rfl
@[simp] theorem Dev.updTime_get (f : TtaTime → TtaTime) (y : Fld) : (d.updTime f).get y = d.get y := by rw [Dev.get, Dev.get, Dev.updTime_word]
@[simp] theorem Dev.updTime_bit (f : TtaTime → TtaTime) (y : Fld) : (d.updTime f).bit y = d.bit y := by rw [Dev.bit, Dev.bit, Dev.updTime_get]
@[simp] theorem Dev.updTime_tb_tdu (f : TtaTime → TtaTime) : (d.updTime f).tb .tdu = d.tb .tdu := rfl
@[simp] theorem Dev.updTime_recd_tdu (f : TtaTime → TtaTime) : (d.updTime f).recd .tdu = d.recd .tdu := rfl
@[simp] theorem Dev.updTime_recd_tta (f : TtaTime → TtaTime) : (d.updTime f).recd .tta = d.recd .tta := rfl
@[simp] theorem Dev.updTime_slotX (f : TtaTime → TtaTime) (m : Nat) : (d.updTime f).slotX m = d.slotX m := rfl
@[simp] theorem Dev.updTime_tile (f : TtaTime → TtaTime) (m : Nat) : (d.updTime f).tile m = d.tile m := rfl
@[simp] theorem Dev.updTime_graph (f : TtaTime → TtaTime) (m : Nat) : (d.updTime f).graph m = d.graph m := rfl
@[simp] theorem Dev.updTime_port_tta (f : TtaTime → TtaTime) (q : Fin 17) : (d.updTime f).port (.tta q) = d.port (.tta q) := rfl
@[simp] theorem Dev.updTime_slotTable_tdu (f : TtaTime → TtaTime) : (d.updTime f).slotTable .tdu = d.slotTable .tdu := rfl
@[simp] theorem Dev.updTime_slotTable_tta (f : TtaTime → TtaTime) : (d.updTime f).slotTable .tta = d.slotTable .tta := rfl
@[simp] theorem Dev.updTime_timeValid_tdu (f : TtaTime → TtaTime) : (d.updTime f).timeValid .tdu = d.timeValid .tdu := rfl
@[simp] theorem Dev.updTime_nowNs_tdu (f : TtaTime → TtaTime) : (d.updTime f).nowNs .tdu = d.nowNs .tdu := rfl
@[simp] theorem Dev.updTime_snapOf_tdu (f : TtaTime → TtaTime) : (d.updTime f).snapOf .tdu = d.snapOf .tdu := rfl
@[simp] theorem Dev.updTime_snapOf_tta (f : TtaTime → TtaTime) : (d.updTime f).snapOf .tta = d.snapOf .tta := rfl
@[simp] theorem Dev.updTime_fnq (f : TtaTime → TtaTime) (fn : Fn) : (d.updTime f).fnq fn = d.fnq fn := by cases fn <;> rfl

/-! ### updTduPwr -/

@[simp] theorem Dev.updTduPwr_regs (f : TduPwr → TduPwr) : (d.updTduPwr f).tdu.regs = d.tdu.regs := rfl
@[simp] theorem Dev.updTduPwr_fuses (f : TduPwr → TduPwr) : (d.updTduPwr f).tdu.fuses = d.tdu.fuses := rfl
@[simp] theorem Dev.updTduPwr_boot (f : TduPwr → TduPwr) : (d.updTduPwr f).tdu.boot = d.tdu.boot := rfl
@[simp] theorem Dev.updTduPwr_pwr (f : TduPwr → TduPwr) : (d.updTduPwr f).tdu.pwr = f d.tdu.pwr := rfl
@[simp] theorem Dev.updTduPwr_time (f : TduPwr → TduPwr) : (d.updTduPwr f).tdu.time = d.tdu.time := rfl
@[simp] theorem Dev.updTduPwr_recorder (f : TduPwr → TduPwr) : (d.updTduPwr f).tdu.recorder = d.tdu.recorder := rfl
@[simp] theorem Dev.updTduPwr_snap (f : TduPwr → TduPwr) : (d.updTduPwr f).tdu.snap = d.tdu.snap := rfl
@[simp] theorem Dev.updTduPwr_latched (f : TduPwr → TduPwr) : (d.updTduPwr f).tdu.latched = d.tdu.latched := rfl
@[simp] theorem Dev.updTduPwr_bank (f : TduPwr → TduPwr) : (d.updTduPwr f).tdu.bank = d.tdu.bank := rfl
@[simp] theorem Dev.updTduPwr_smp (f : TduPwr → TduPwr) : (d.updTduPwr f).tdu.smp = d.tdu.smp := rfl
@[simp] theorem Dev.updTduPwr_trc (f : TduPwr → TduPwr) : (d.updTduPwr f).tdu.trc = d.tdu.trc := rfl
@[simp] theorem Dev.updTduPwr_linkKeys (f : TduPwr → TduPwr) : (d.updTduPwr f).tdu.linkKeys = d.tdu.linkKeys := rfl
@[simp] theorem Dev.updTduPwr_chk (f : TduPwr → TduPwr) : (d.updTduPwr f).tdu.chk = d.tdu.chk := rfl
@[simp] theorem Dev.updTduPwr_link0 (f : TduPwr → TduPwr) : (d.updTduPwr f).tdu.link0 = d.tdu.link0 := rfl
@[simp] theorem Dev.updTduPwr_link1 (f : TduPwr → TduPwr) : (d.updTduPwr f).tdu.link1 = d.tdu.link1 := rfl
@[simp] theorem Dev.updTduPwr_slots (f : TduPwr → TduPwr) : (d.updTduPwr f).tdu.slots = d.tdu.slots := rfl
@[simp] theorem Dev.updTduPwr_q (f : TduPwr → TduPwr) : (d.updTduPwr f).tdu.q = d.tdu.q := rfl
@[simp] theorem Dev.updTduPwr_dev_tta (f : TduPwr → TduPwr) : (d.updTduPwr f).tta = d.tta := rfl
@[simp] theorem Dev.updTduPwr_dev_pins (f : TduPwr → TduPwr) : (d.updTduPwr f).pins = d.pins := rfl
@[simp] theorem Dev.updTduPwr_dev_freeIx (f : TduPwr → TduPwr) : (d.updTduPwr f).freeIx = d.freeIx := rfl
@[simp] theorem Dev.updTduPwr_dev_out (f : TduPwr → TduPwr) : (d.updTduPwr f).out = d.out := rfl
@[simp] theorem Dev.updTduPwr_word (f : TduPwr → TduPwr) (sp : Space) (a : Nat) : (d.updTduPwr f).word sp a = d.word sp a := by cases sp <;> rfl
@[simp] theorem Dev.updTduPwr_get (f : TduPwr → TduPwr) (y : Fld) : (d.updTduPwr f).get y = d.get y := by rw [Dev.get, Dev.get, Dev.updTduPwr_word]
@[simp] theorem Dev.updTduPwr_bit (f : TduPwr → TduPwr) (y : Fld) : (d.updTduPwr f).bit y = d.bit y := by rw [Dev.bit, Dev.bit, Dev.updTduPwr_get]
@[simp] theorem Dev.updTduPwr_tb_tdu (f : TduPwr → TduPwr) : (d.updTduPwr f).tb .tdu = d.tb .tdu := rfl
@[simp] theorem Dev.updTduPwr_tb_tta (f : TduPwr → TduPwr) : (d.updTduPwr f).tb .tta = d.tb .tta := rfl
@[simp] theorem Dev.updTduPwr_recd_tdu (f : TduPwr → TduPwr) : (d.updTduPwr f).recd .tdu = d.recd .tdu := rfl
@[simp] theorem Dev.updTduPwr_recd_tta (f : TduPwr → TduPwr) : (d.updTduPwr f).recd .tta = d.recd .tta := rfl
@[simp] theorem Dev.updTduPwr_slotX (f : TduPwr → TduPwr) (m : Nat) : (d.updTduPwr f).slotX m = d.slotX m := rfl
@[simp] theorem Dev.updTduPwr_tile (f : TduPwr → TduPwr) (m : Nat) : (d.updTduPwr f).tile m = d.tile m := rfl
@[simp] theorem Dev.updTduPwr_graph (f : TduPwr → TduPwr) (m : Nat) : (d.updTduPwr f).graph m = d.graph m := rfl
@[simp] theorem Dev.updTduPwr_port_tta (f : TduPwr → TduPwr) (q : Fin 17) : (d.updTduPwr f).port (.tta q) = d.port (.tta q) := rfl
@[simp] theorem Dev.updTduPwr_slotTable_tdu (f : TduPwr → TduPwr) : (d.updTduPwr f).slotTable .tdu = d.slotTable .tdu := rfl
@[simp] theorem Dev.updTduPwr_slotTable_tta (f : TduPwr → TduPwr) : (d.updTduPwr f).slotTable .tta = d.slotTable .tta := rfl
@[simp] theorem Dev.updTduPwr_timeValid_tta (f : TduPwr → TduPwr) : (d.updTduPwr f).timeValid .tta = d.timeValid .tta := rfl
@[simp] theorem Dev.updTduPwr_timeValid_tdu (f : TduPwr → TduPwr) : (d.updTduPwr f).timeValid .tdu = d.timeValid .tdu := rfl
@[simp] theorem Dev.updTduPwr_nowNs_tta (f : TduPwr → TduPwr) : (d.updTduPwr f).nowNs .tta = d.nowNs .tta := rfl
@[simp] theorem Dev.updTduPwr_nowNs_tdu (f : TduPwr → TduPwr) : (d.updTduPwr f).nowNs .tdu = d.nowNs .tdu := rfl
@[simp] theorem Dev.updTduPwr_snapOf_tdu (f : TduPwr → TduPwr) : (d.updTduPwr f).snapOf .tdu = d.snapOf .tdu := rfl
@[simp] theorem Dev.updTduPwr_snapOf_tta (f : TduPwr → TduPwr) : (d.updTduPwr f).snapOf .tta = d.snapOf .tta := rfl
@[simp] theorem Dev.updTduPwr_fnq (f : TduPwr → TduPwr) (fn : Fn) : (d.updTduPwr f).fnq fn = d.fnq fn := by cases fn <;> rfl

/-! ### updTduBoot -/

@[simp] theorem Dev.updTduBoot_regs (f : Boot → Boot) : (d.updTduBoot f).tdu.regs = d.tdu.regs := rfl
@[simp] theorem Dev.updTduBoot_fuses (f : Boot → Boot) : (d.updTduBoot f).tdu.fuses = d.tdu.fuses := rfl
@[simp] theorem Dev.updTduBoot_boot (f : Boot → Boot) : (d.updTduBoot f).tdu.boot = f d.tdu.boot := rfl
@[simp] theorem Dev.updTduBoot_pwr (f : Boot → Boot) : (d.updTduBoot f).tdu.pwr = d.tdu.pwr := rfl
@[simp] theorem Dev.updTduBoot_time (f : Boot → Boot) : (d.updTduBoot f).tdu.time = d.tdu.time := rfl
@[simp] theorem Dev.updTduBoot_recorder (f : Boot → Boot) : (d.updTduBoot f).tdu.recorder = d.tdu.recorder := rfl
@[simp] theorem Dev.updTduBoot_snap (f : Boot → Boot) : (d.updTduBoot f).tdu.snap = d.tdu.snap := rfl
@[simp] theorem Dev.updTduBoot_latched (f : Boot → Boot) : (d.updTduBoot f).tdu.latched = d.tdu.latched := rfl
@[simp] theorem Dev.updTduBoot_bank (f : Boot → Boot) : (d.updTduBoot f).tdu.bank = d.tdu.bank := rfl
@[simp] theorem Dev.updTduBoot_smp (f : Boot → Boot) : (d.updTduBoot f).tdu.smp = d.tdu.smp := rfl
@[simp] theorem Dev.updTduBoot_trc (f : Boot → Boot) : (d.updTduBoot f).tdu.trc = d.tdu.trc := rfl
@[simp] theorem Dev.updTduBoot_linkKeys (f : Boot → Boot) : (d.updTduBoot f).tdu.linkKeys = d.tdu.linkKeys := rfl
@[simp] theorem Dev.updTduBoot_chk (f : Boot → Boot) : (d.updTduBoot f).tdu.chk = d.tdu.chk := rfl
@[simp] theorem Dev.updTduBoot_link0 (f : Boot → Boot) : (d.updTduBoot f).tdu.link0 = d.tdu.link0 := rfl
@[simp] theorem Dev.updTduBoot_link1 (f : Boot → Boot) : (d.updTduBoot f).tdu.link1 = d.tdu.link1 := rfl
@[simp] theorem Dev.updTduBoot_slots (f : Boot → Boot) : (d.updTduBoot f).tdu.slots = d.tdu.slots := rfl
@[simp] theorem Dev.updTduBoot_q (f : Boot → Boot) : (d.updTduBoot f).tdu.q = d.tdu.q := rfl
@[simp] theorem Dev.updTduBoot_dev_tta (f : Boot → Boot) : (d.updTduBoot f).tta = d.tta := rfl
@[simp] theorem Dev.updTduBoot_dev_pins (f : Boot → Boot) : (d.updTduBoot f).pins = d.pins := rfl
@[simp] theorem Dev.updTduBoot_dev_freeIx (f : Boot → Boot) : (d.updTduBoot f).freeIx = d.freeIx := rfl
@[simp] theorem Dev.updTduBoot_dev_out (f : Boot → Boot) : (d.updTduBoot f).out = d.out := rfl
@[simp] theorem Dev.updTduBoot_word (f : Boot → Boot) (sp : Space) (a : Nat) : (d.updTduBoot f).word sp a = d.word sp a := by cases sp <;> rfl
@[simp] theorem Dev.updTduBoot_get (f : Boot → Boot) (y : Fld) : (d.updTduBoot f).get y = d.get y := by rw [Dev.get, Dev.get, Dev.updTduBoot_word]
@[simp] theorem Dev.updTduBoot_bit (f : Boot → Boot) (y : Fld) : (d.updTduBoot f).bit y = d.bit y := by rw [Dev.bit, Dev.bit, Dev.updTduBoot_get]
@[simp] theorem Dev.updTduBoot_tb_tdu (f : Boot → Boot) : (d.updTduBoot f).tb .tdu = d.tb .tdu := rfl
@[simp] theorem Dev.updTduBoot_tb_tta (f : Boot → Boot) : (d.updTduBoot f).tb .tta = d.tb .tta := rfl
@[simp] theorem Dev.updTduBoot_recd_tdu (f : Boot → Boot) : (d.updTduBoot f).recd .tdu = d.recd .tdu := rfl
@[simp] theorem Dev.updTduBoot_recd_tta (f : Boot → Boot) : (d.updTduBoot f).recd .tta = d.recd .tta := rfl
@[simp] theorem Dev.updTduBoot_slotX (f : Boot → Boot) (m : Nat) : (d.updTduBoot f).slotX m = d.slotX m := rfl
@[simp] theorem Dev.updTduBoot_tile (f : Boot → Boot) (m : Nat) : (d.updTduBoot f).tile m = d.tile m := rfl
@[simp] theorem Dev.updTduBoot_graph (f : Boot → Boot) (m : Nat) : (d.updTduBoot f).graph m = d.graph m := rfl
@[simp] theorem Dev.updTduBoot_port_tta (f : Boot → Boot) (q : Fin 17) : (d.updTduBoot f).port (.tta q) = d.port (.tta q) := rfl
@[simp] theorem Dev.updTduBoot_slotTable_tdu (f : Boot → Boot) : (d.updTduBoot f).slotTable .tdu = d.slotTable .tdu := rfl
@[simp] theorem Dev.updTduBoot_slotTable_tta (f : Boot → Boot) : (d.updTduBoot f).slotTable .tta = d.slotTable .tta := rfl
@[simp] theorem Dev.updTduBoot_timeValid_tta (f : Boot → Boot) : (d.updTduBoot f).timeValid .tta = d.timeValid .tta := rfl
@[simp] theorem Dev.updTduBoot_timeValid_tdu (f : Boot → Boot) : (d.updTduBoot f).timeValid .tdu = d.timeValid .tdu := rfl
@[simp] theorem Dev.updTduBoot_nowNs_tta (f : Boot → Boot) : (d.updTduBoot f).nowNs .tta = d.nowNs .tta := rfl
@[simp] theorem Dev.updTduBoot_nowNs_tdu (f : Boot → Boot) : (d.updTduBoot f).nowNs .tdu = d.nowNs .tdu := rfl
@[simp] theorem Dev.updTduBoot_snapOf_tdu (f : Boot → Boot) : (d.updTduBoot f).snapOf .tdu = d.snapOf .tdu := rfl
@[simp] theorem Dev.updTduBoot_snapOf_tta (f : Boot → Boot) : (d.updTduBoot f).snapOf .tta = d.snapOf .tta := rfl
@[simp] theorem Dev.updTduBoot_fnq (f : Boot → Boot) (fn : Fn) : (d.updTduBoot f).fnq fn = d.fnq fn := by cases fn <;> rfl

/-! ### updSmp -/

@[simp] theorem Dev.updSmp_regs (f : Sampling → Sampling) : (d.updSmp f).tdu.regs = d.tdu.regs := rfl
@[simp] theorem Dev.updSmp_fuses (f : Sampling → Sampling) : (d.updSmp f).tdu.fuses = d.tdu.fuses := rfl
@[simp] theorem Dev.updSmp_boot (f : Sampling → Sampling) : (d.updSmp f).tdu.boot = d.tdu.boot := rfl
@[simp] theorem Dev.updSmp_pwr (f : Sampling → Sampling) : (d.updSmp f).tdu.pwr = d.tdu.pwr := rfl
@[simp] theorem Dev.updSmp_time (f : Sampling → Sampling) : (d.updSmp f).tdu.time = d.tdu.time := rfl
@[simp] theorem Dev.updSmp_recorder (f : Sampling → Sampling) : (d.updSmp f).tdu.recorder = d.tdu.recorder := rfl
@[simp] theorem Dev.updSmp_snap (f : Sampling → Sampling) : (d.updSmp f).tdu.snap = d.tdu.snap := rfl
@[simp] theorem Dev.updSmp_latched (f : Sampling → Sampling) : (d.updSmp f).tdu.latched = d.tdu.latched := rfl
@[simp] theorem Dev.updSmp_bank (f : Sampling → Sampling) : (d.updSmp f).tdu.bank = d.tdu.bank := rfl
@[simp] theorem Dev.updSmp_smp (f : Sampling → Sampling) : (d.updSmp f).tdu.smp = f d.tdu.smp := rfl
@[simp] theorem Dev.updSmp_trc (f : Sampling → Sampling) : (d.updSmp f).tdu.trc = d.tdu.trc := rfl
@[simp] theorem Dev.updSmp_linkKeys (f : Sampling → Sampling) : (d.updSmp f).tdu.linkKeys = d.tdu.linkKeys := rfl
@[simp] theorem Dev.updSmp_chk (f : Sampling → Sampling) : (d.updSmp f).tdu.chk = d.tdu.chk := rfl
@[simp] theorem Dev.updSmp_link0 (f : Sampling → Sampling) : (d.updSmp f).tdu.link0 = d.tdu.link0 := rfl
@[simp] theorem Dev.updSmp_link1 (f : Sampling → Sampling) : (d.updSmp f).tdu.link1 = d.tdu.link1 := rfl
@[simp] theorem Dev.updSmp_slots (f : Sampling → Sampling) : (d.updSmp f).tdu.slots = d.tdu.slots := rfl
@[simp] theorem Dev.updSmp_q (f : Sampling → Sampling) : (d.updSmp f).tdu.q = d.tdu.q := rfl
@[simp] theorem Dev.updSmp_dev_tta (f : Sampling → Sampling) : (d.updSmp f).tta = d.tta := rfl
@[simp] theorem Dev.updSmp_dev_pins (f : Sampling → Sampling) : (d.updSmp f).pins = d.pins := rfl
@[simp] theorem Dev.updSmp_dev_freeIx (f : Sampling → Sampling) : (d.updSmp f).freeIx = d.freeIx := rfl
@[simp] theorem Dev.updSmp_dev_out (f : Sampling → Sampling) : (d.updSmp f).out = d.out := rfl
@[simp] theorem Dev.updSmp_word (f : Sampling → Sampling) (sp : Space) (a : Nat) : (d.updSmp f).word sp a = d.word sp a := by cases sp <;> rfl
@[simp] theorem Dev.updSmp_get (f : Sampling → Sampling) (y : Fld) : (d.updSmp f).get y = d.get y := by rw [Dev.get, Dev.get, Dev.updSmp_word]
@[simp] theorem Dev.updSmp_bit (f : Sampling → Sampling) (y : Fld) : (d.updSmp f).bit y = d.bit y := by rw [Dev.bit, Dev.bit, Dev.updSmp_get]
@[simp] theorem Dev.updSmp_tb_tdu (f : Sampling → Sampling) : (d.updSmp f).tb .tdu = d.tb .tdu := rfl
@[simp] theorem Dev.updSmp_tb_tta (f : Sampling → Sampling) : (d.updSmp f).tb .tta = d.tb .tta := rfl
@[simp] theorem Dev.updSmp_recd_tdu (f : Sampling → Sampling) : (d.updSmp f).recd .tdu = d.recd .tdu := rfl
@[simp] theorem Dev.updSmp_recd_tta (f : Sampling → Sampling) : (d.updSmp f).recd .tta = d.recd .tta := rfl
@[simp] theorem Dev.updSmp_slotX (f : Sampling → Sampling) (m : Nat) : (d.updSmp f).slotX m = d.slotX m := rfl
@[simp] theorem Dev.updSmp_tile (f : Sampling → Sampling) (m : Nat) : (d.updSmp f).tile m = d.tile m := rfl
@[simp] theorem Dev.updSmp_graph (f : Sampling → Sampling) (m : Nat) : (d.updSmp f).graph m = d.graph m := rfl
@[simp] theorem Dev.updSmp_port_tta (f : Sampling → Sampling) (q : Fin 17) : (d.updSmp f).port (.tta q) = d.port (.tta q) := rfl
@[simp] theorem Dev.updSmp_slotTable_tdu (f : Sampling → Sampling) : (d.updSmp f).slotTable .tdu = d.slotTable .tdu := rfl
@[simp] theorem Dev.updSmp_slotTable_tta (f : Sampling → Sampling) : (d.updSmp f).slotTable .tta = d.slotTable .tta := rfl
@[simp] theorem Dev.updSmp_timeValid_tta (f : Sampling → Sampling) : (d.updSmp f).timeValid .tta = d.timeValid .tta := rfl
@[simp] theorem Dev.updSmp_timeValid_tdu (f : Sampling → Sampling) : (d.updSmp f).timeValid .tdu = d.timeValid .tdu := rfl
@[simp] theorem Dev.updSmp_nowNs_tta (f : Sampling → Sampling) : (d.updSmp f).nowNs .tta = d.nowNs .tta := rfl
@[simp] theorem Dev.updSmp_nowNs_tdu (f : Sampling → Sampling) : (d.updSmp f).nowNs .tdu = d.nowNs .tdu := rfl
@[simp] theorem Dev.updSmp_snapOf_tdu (f : Sampling → Sampling) : (d.updSmp f).snapOf .tdu = d.snapOf .tdu := rfl
@[simp] theorem Dev.updSmp_snapOf_tta (f : Sampling → Sampling) : (d.updSmp f).snapOf .tta = d.snapOf .tta := rfl
@[simp] theorem Dev.updSmp_fnq (f : Sampling → Sampling) (fn : Fn) : (d.updSmp f).fnq fn = d.fnq fn := by cases fn <;> rfl

/-! ### updChk -/

@[simp] theorem Dev.updChk_regs (f : TduCheck → TduCheck) : (d.updChk f).tdu.regs = d.tdu.regs := rfl
@[simp] theorem Dev.updChk_fuses (f : TduCheck → TduCheck) : (d.updChk f).tdu.fuses = d.tdu.fuses := rfl
@[simp] theorem Dev.updChk_boot (f : TduCheck → TduCheck) : (d.updChk f).tdu.boot = d.tdu.boot := rfl
@[simp] theorem Dev.updChk_pwr (f : TduCheck → TduCheck) : (d.updChk f).tdu.pwr = d.tdu.pwr := rfl
@[simp] theorem Dev.updChk_time (f : TduCheck → TduCheck) : (d.updChk f).tdu.time = d.tdu.time := rfl
@[simp] theorem Dev.updChk_recorder (f : TduCheck → TduCheck) : (d.updChk f).tdu.recorder = d.tdu.recorder := rfl
@[simp] theorem Dev.updChk_snap (f : TduCheck → TduCheck) : (d.updChk f).tdu.snap = d.tdu.snap := rfl
@[simp] theorem Dev.updChk_latched (f : TduCheck → TduCheck) : (d.updChk f).tdu.latched = d.tdu.latched := rfl
@[simp] theorem Dev.updChk_bank (f : TduCheck → TduCheck) : (d.updChk f).tdu.bank = d.tdu.bank := rfl
@[simp] theorem Dev.updChk_smp (f : TduCheck → TduCheck) : (d.updChk f).tdu.smp = d.tdu.smp := rfl
@[simp] theorem Dev.updChk_trc (f : TduCheck → TduCheck) : (d.updChk f).tdu.trc = d.tdu.trc := rfl
@[simp] theorem Dev.updChk_linkKeys (f : TduCheck → TduCheck) : (d.updChk f).tdu.linkKeys = d.tdu.linkKeys := rfl
@[simp] theorem Dev.updChk_chk (f : TduCheck → TduCheck) : (d.updChk f).tdu.chk = f d.tdu.chk := rfl
@[simp] theorem Dev.updChk_link0 (f : TduCheck → TduCheck) : (d.updChk f).tdu.link0 = d.tdu.link0 := rfl
@[simp] theorem Dev.updChk_link1 (f : TduCheck → TduCheck) : (d.updChk f).tdu.link1 = d.tdu.link1 := rfl
@[simp] theorem Dev.updChk_slots (f : TduCheck → TduCheck) : (d.updChk f).tdu.slots = d.tdu.slots := rfl
@[simp] theorem Dev.updChk_q (f : TduCheck → TduCheck) : (d.updChk f).tdu.q = d.tdu.q := rfl
@[simp] theorem Dev.updChk_dev_tta (f : TduCheck → TduCheck) : (d.updChk f).tta = d.tta := rfl
@[simp] theorem Dev.updChk_dev_pins (f : TduCheck → TduCheck) : (d.updChk f).pins = d.pins := rfl
@[simp] theorem Dev.updChk_dev_freeIx (f : TduCheck → TduCheck) : (d.updChk f).freeIx = d.freeIx := rfl
@[simp] theorem Dev.updChk_dev_out (f : TduCheck → TduCheck) : (d.updChk f).out = d.out := rfl
@[simp] theorem Dev.updChk_word (f : TduCheck → TduCheck) (sp : Space) (a : Nat) : (d.updChk f).word sp a = d.word sp a := by cases sp <;> rfl
@[simp] theorem Dev.updChk_get (f : TduCheck → TduCheck) (y : Fld) : (d.updChk f).get y = d.get y := by rw [Dev.get, Dev.get, Dev.updChk_word]
@[simp] theorem Dev.updChk_bit (f : TduCheck → TduCheck) (y : Fld) : (d.updChk f).bit y = d.bit y := by rw [Dev.bit, Dev.bit, Dev.updChk_get]
@[simp] theorem Dev.updChk_tb_tdu (f : TduCheck → TduCheck) : (d.updChk f).tb .tdu = d.tb .tdu := rfl
@[simp] theorem Dev.updChk_tb_tta (f : TduCheck → TduCheck) : (d.updChk f).tb .tta = d.tb .tta := rfl
@[simp] theorem Dev.updChk_recd_tdu (f : TduCheck → TduCheck) : (d.updChk f).recd .tdu = d.recd .tdu := rfl
@[simp] theorem Dev.updChk_recd_tta (f : TduCheck → TduCheck) : (d.updChk f).recd .tta = d.recd .tta := rfl
@[simp] theorem Dev.updChk_slotX (f : TduCheck → TduCheck) (m : Nat) : (d.updChk f).slotX m = d.slotX m := rfl
@[simp] theorem Dev.updChk_tile (f : TduCheck → TduCheck) (m : Nat) : (d.updChk f).tile m = d.tile m := rfl
@[simp] theorem Dev.updChk_graph (f : TduCheck → TduCheck) (m : Nat) : (d.updChk f).graph m = d.graph m := rfl
@[simp] theorem Dev.updChk_port_tta (f : TduCheck → TduCheck) (q : Fin 17) : (d.updChk f).port (.tta q) = d.port (.tta q) := rfl
@[simp] theorem Dev.updChk_slotTable_tdu (f : TduCheck → TduCheck) : (d.updChk f).slotTable .tdu = d.slotTable .tdu := rfl
@[simp] theorem Dev.updChk_slotTable_tta (f : TduCheck → TduCheck) : (d.updChk f).slotTable .tta = d.slotTable .tta := rfl
@[simp] theorem Dev.updChk_timeValid_tta (f : TduCheck → TduCheck) : (d.updChk f).timeValid .tta = d.timeValid .tta := rfl
@[simp] theorem Dev.updChk_timeValid_tdu (f : TduCheck → TduCheck) : (d.updChk f).timeValid .tdu = d.timeValid .tdu := rfl
@[simp] theorem Dev.updChk_nowNs_tta (f : TduCheck → TduCheck) : (d.updChk f).nowNs .tta = d.nowNs .tta := rfl
@[simp] theorem Dev.updChk_nowNs_tdu (f : TduCheck → TduCheck) : (d.updChk f).nowNs .tdu = d.nowNs .tdu := rfl
@[simp] theorem Dev.updChk_snapOf_tdu (f : TduCheck → TduCheck) : (d.updChk f).snapOf .tdu = d.snapOf .tdu := rfl
@[simp] theorem Dev.updChk_snapOf_tta (f : TduCheck → TduCheck) : (d.updChk f).snapOf .tta = d.snapOf .tta := rfl
@[simp] theorem Dev.updChk_fnq (f : TduCheck → TduCheck) (fn : Fn) : (d.updChk f).fnq fn = d.fnq fn := by cases fn <;> rfl

/-! ### updTrc -/

@[simp] theorem Dev.updTrc_regs (f : Trace → Trace) : (d.updTrc f).tdu.regs = d.tdu.regs := rfl
@[simp] theorem Dev.updTrc_fuses (f : Trace → Trace) : (d.updTrc f).tdu.fuses = d.tdu.fuses := rfl
@[simp] theorem Dev.updTrc_boot (f : Trace → Trace) : (d.updTrc f).tdu.boot = d.tdu.boot := rfl
@[simp] theorem Dev.updTrc_pwr (f : Trace → Trace) : (d.updTrc f).tdu.pwr = d.tdu.pwr := rfl
@[simp] theorem Dev.updTrc_time (f : Trace → Trace) : (d.updTrc f).tdu.time = d.tdu.time := rfl
@[simp] theorem Dev.updTrc_recorder (f : Trace → Trace) : (d.updTrc f).tdu.recorder = d.tdu.recorder := rfl
@[simp] theorem Dev.updTrc_snap (f : Trace → Trace) : (d.updTrc f).tdu.snap = d.tdu.snap := rfl
@[simp] theorem Dev.updTrc_latched (f : Trace → Trace) : (d.updTrc f).tdu.latched = d.tdu.latched := rfl
@[simp] theorem Dev.updTrc_bank (f : Trace → Trace) : (d.updTrc f).tdu.bank = d.tdu.bank := rfl
@[simp] theorem Dev.updTrc_smp (f : Trace → Trace) : (d.updTrc f).tdu.smp = d.tdu.smp := rfl
@[simp] theorem Dev.updTrc_trc (f : Trace → Trace) : (d.updTrc f).tdu.trc = f d.tdu.trc := rfl
@[simp] theorem Dev.updTrc_linkKeys (f : Trace → Trace) : (d.updTrc f).tdu.linkKeys = d.tdu.linkKeys := rfl
@[simp] theorem Dev.updTrc_chk (f : Trace → Trace) : (d.updTrc f).tdu.chk = d.tdu.chk := rfl
@[simp] theorem Dev.updTrc_link0 (f : Trace → Trace) : (d.updTrc f).tdu.link0 = d.tdu.link0 := rfl
@[simp] theorem Dev.updTrc_link1 (f : Trace → Trace) : (d.updTrc f).tdu.link1 = d.tdu.link1 := rfl
@[simp] theorem Dev.updTrc_slots (f : Trace → Trace) : (d.updTrc f).tdu.slots = d.tdu.slots := rfl
@[simp] theorem Dev.updTrc_q (f : Trace → Trace) : (d.updTrc f).tdu.q = d.tdu.q := rfl
@[simp] theorem Dev.updTrc_dev_tta (f : Trace → Trace) : (d.updTrc f).tta = d.tta := rfl
@[simp] theorem Dev.updTrc_dev_pins (f : Trace → Trace) : (d.updTrc f).pins = d.pins := rfl
@[simp] theorem Dev.updTrc_dev_freeIx (f : Trace → Trace) : (d.updTrc f).freeIx = d.freeIx := rfl
@[simp] theorem Dev.updTrc_dev_out (f : Trace → Trace) : (d.updTrc f).out = d.out := rfl
@[simp] theorem Dev.updTrc_word (f : Trace → Trace) (sp : Space) (a : Nat) : (d.updTrc f).word sp a = d.word sp a := by cases sp <;> rfl
@[simp] theorem Dev.updTrc_get (f : Trace → Trace) (y : Fld) : (d.updTrc f).get y = d.get y := by rw [Dev.get, Dev.get, Dev.updTrc_word]
@[simp] theorem Dev.updTrc_bit (f : Trace → Trace) (y : Fld) : (d.updTrc f).bit y = d.bit y := by rw [Dev.bit, Dev.bit, Dev.updTrc_get]
@[simp] theorem Dev.updTrc_tb_tdu (f : Trace → Trace) : (d.updTrc f).tb .tdu = d.tb .tdu := rfl
@[simp] theorem Dev.updTrc_tb_tta (f : Trace → Trace) : (d.updTrc f).tb .tta = d.tb .tta := rfl
@[simp] theorem Dev.updTrc_recd_tdu (f : Trace → Trace) : (d.updTrc f).recd .tdu = d.recd .tdu := rfl
@[simp] theorem Dev.updTrc_recd_tta (f : Trace → Trace) : (d.updTrc f).recd .tta = d.recd .tta := rfl
@[simp] theorem Dev.updTrc_slotX (f : Trace → Trace) (m : Nat) : (d.updTrc f).slotX m = d.slotX m := rfl
@[simp] theorem Dev.updTrc_tile (f : Trace → Trace) (m : Nat) : (d.updTrc f).tile m = d.tile m := rfl
@[simp] theorem Dev.updTrc_graph (f : Trace → Trace) (m : Nat) : (d.updTrc f).graph m = d.graph m := rfl
@[simp] theorem Dev.updTrc_port_tta (f : Trace → Trace) (q : Fin 17) : (d.updTrc f).port (.tta q) = d.port (.tta q) := rfl
@[simp] theorem Dev.updTrc_slotTable_tdu (f : Trace → Trace) : (d.updTrc f).slotTable .tdu = d.slotTable .tdu := rfl
@[simp] theorem Dev.updTrc_slotTable_tta (f : Trace → Trace) : (d.updTrc f).slotTable .tta = d.slotTable .tta := rfl
@[simp] theorem Dev.updTrc_timeValid_tta (f : Trace → Trace) : (d.updTrc f).timeValid .tta = d.timeValid .tta := rfl
@[simp] theorem Dev.updTrc_timeValid_tdu (f : Trace → Trace) : (d.updTrc f).timeValid .tdu = d.timeValid .tdu := rfl
@[simp] theorem Dev.updTrc_nowNs_tta (f : Trace → Trace) : (d.updTrc f).nowNs .tta = d.nowNs .tta := rfl
@[simp] theorem Dev.updTrc_nowNs_tdu (f : Trace → Trace) : (d.updTrc f).nowNs .tdu = d.nowNs .tdu := rfl
@[simp] theorem Dev.updTrc_snapOf_tdu (f : Trace → Trace) : (d.updTrc f).snapOf .tdu = d.snapOf .tdu := rfl
@[simp] theorem Dev.updTrc_snapOf_tta (f : Trace → Trace) : (d.updTrc f).snapOf .tta = d.snapOf .tta := rfl
@[simp] theorem Dev.updTrc_fnq (f : Trace → Trace) (fn : Fn) : (d.updTrc f).fnq fn = d.fnq fn := by cases fn <;> rfl

/-! ### updTduTime -/

@[simp] theorem Dev.updTduTime_regs (f : TduTime → TduTime) : (d.updTduTime f).tdu.regs = d.tdu.regs := rfl
@[simp] theorem Dev.updTduTime_fuses (f : TduTime → TduTime) : (d.updTduTime f).tdu.fuses = d.tdu.fuses := rfl
@[simp] theorem Dev.updTduTime_boot (f : TduTime → TduTime) : (d.updTduTime f).tdu.boot = d.tdu.boot := rfl
@[simp] theorem Dev.updTduTime_pwr (f : TduTime → TduTime) : (d.updTduTime f).tdu.pwr = d.tdu.pwr := rfl
@[simp] theorem Dev.updTduTime_time (f : TduTime → TduTime) : (d.updTduTime f).tdu.time = f d.tdu.time := rfl
@[simp] theorem Dev.updTduTime_recorder (f : TduTime → TduTime) : (d.updTduTime f).tdu.recorder = d.tdu.recorder := rfl
@[simp] theorem Dev.updTduTime_snap (f : TduTime → TduTime) : (d.updTduTime f).tdu.snap = d.tdu.snap := rfl
@[simp] theorem Dev.updTduTime_latched (f : TduTime → TduTime) : (d.updTduTime f).tdu.latched = d.tdu.latched := rfl
@[simp] theorem Dev.updTduTime_bank (f : TduTime → TduTime) : (d.updTduTime f).tdu.bank = d.tdu.bank := rfl
@[simp] theorem Dev.updTduTime_smp (f : TduTime → TduTime) : (d.updTduTime f).tdu.smp = d.tdu.smp := rfl
@[simp] theorem Dev.updTduTime_trc (f : TduTime → TduTime) : (d.updTduTime f).tdu.trc = d.tdu.trc := rfl
@[simp] theorem Dev.updTduTime_linkKeys (f : TduTime → TduTime) : (d.updTduTime f).tdu.linkKeys = d.tdu.linkKeys := rfl
@[simp] theorem Dev.updTduTime_chk (f : TduTime → TduTime) : (d.updTduTime f).tdu.chk = d.tdu.chk := rfl
@[simp] theorem Dev.updTduTime_link0 (f : TduTime → TduTime) : (d.updTduTime f).tdu.link0 = d.tdu.link0 := rfl
@[simp] theorem Dev.updTduTime_link1 (f : TduTime → TduTime) : (d.updTduTime f).tdu.link1 = d.tdu.link1 := rfl
@[simp] theorem Dev.updTduTime_slots (f : TduTime → TduTime) : (d.updTduTime f).tdu.slots = d.tdu.slots := rfl
@[simp] theorem Dev.updTduTime_q (f : TduTime → TduTime) : (d.updTduTime f).tdu.q = d.tdu.q := rfl
@[simp] theorem Dev.updTduTime_dev_tta (f : TduTime → TduTime) : (d.updTduTime f).tta = d.tta := rfl
@[simp] theorem Dev.updTduTime_dev_pins (f : TduTime → TduTime) : (d.updTduTime f).pins = d.pins := rfl
@[simp] theorem Dev.updTduTime_dev_freeIx (f : TduTime → TduTime) : (d.updTduTime f).freeIx = d.freeIx := rfl
@[simp] theorem Dev.updTduTime_dev_out (f : TduTime → TduTime) : (d.updTduTime f).out = d.out := rfl
@[simp] theorem Dev.updTduTime_word (f : TduTime → TduTime) (sp : Space) (a : Nat) : (d.updTduTime f).word sp a = d.word sp a := by cases sp <;> rfl
@[simp] theorem Dev.updTduTime_get (f : TduTime → TduTime) (y : Fld) : (d.updTduTime f).get y = d.get y := by rw [Dev.get, Dev.get, Dev.updTduTime_word]
@[simp] theorem Dev.updTduTime_bit (f : TduTime → TduTime) (y : Fld) : (d.updTduTime f).bit y = d.bit y := by rw [Dev.bit, Dev.bit, Dev.updTduTime_get]
@[simp] theorem Dev.updTduTime_tb_tta (f : TduTime → TduTime) : (d.updTduTime f).tb .tta = d.tb .tta := rfl
@[simp] theorem Dev.updTduTime_recd_tdu (f : TduTime → TduTime) : (d.updTduTime f).recd .tdu = d.recd .tdu := rfl
@[simp] theorem Dev.updTduTime_recd_tta (f : TduTime → TduTime) : (d.updTduTime f).recd .tta = d.recd .tta := rfl
@[simp] theorem Dev.updTduTime_slotX (f : TduTime → TduTime) (m : Nat) : (d.updTduTime f).slotX m = d.slotX m := rfl
@[simp] theorem Dev.updTduTime_tile (f : TduTime → TduTime) (m : Nat) : (d.updTduTime f).tile m = d.tile m := rfl
@[simp] theorem Dev.updTduTime_graph (f : TduTime → TduTime) (m : Nat) : (d.updTduTime f).graph m = d.graph m := rfl
@[simp] theorem Dev.updTduTime_port_tta (f : TduTime → TduTime) (q : Fin 17) : (d.updTduTime f).port (.tta q) = d.port (.tta q) := rfl
@[simp] theorem Dev.updTduTime_slotTable_tdu (f : TduTime → TduTime) : (d.updTduTime f).slotTable .tdu = d.slotTable .tdu := rfl
@[simp] theorem Dev.updTduTime_slotTable_tta (f : TduTime → TduTime) : (d.updTduTime f).slotTable .tta = d.slotTable .tta := rfl
@[simp] theorem Dev.updTduTime_timeValid_tta (f : TduTime → TduTime) : (d.updTduTime f).timeValid .tta = d.timeValid .tta := rfl
@[simp] theorem Dev.updTduTime_nowNs_tta (f : TduTime → TduTime) : (d.updTduTime f).nowNs .tta = d.nowNs .tta := rfl
@[simp] theorem Dev.updTduTime_snapOf_tdu (f : TduTime → TduTime) : (d.updTduTime f).snapOf .tdu = d.snapOf .tdu := rfl
@[simp] theorem Dev.updTduTime_snapOf_tta (f : TduTime → TduTime) : (d.updTduTime f).snapOf .tta = d.snapOf .tta := rfl
@[simp] theorem Dev.updTduTime_fnq (f : TduTime → TduTime) (fn : Fn) : (d.updTduTime f).fnq fn = d.fnq fn := by cases fn <;> rfl

/-! ### setSlotX -/

@[simp] theorem Dev.setSlotX_regs (n : Nat) (x : Slot) : (d.setSlotX n x).tta.regs = d.tta.regs := rfl
@[simp] theorem Dev.setSlotX_fuses (n : Nat) (x : Slot) : (d.setSlotX n x).tta.fuses = d.tta.fuses := rfl
@[simp] theorem Dev.setSlotX_boot (n : Nat) (x : Slot) : (d.setSlotX n x).tta.boot = d.tta.boot := rfl
@[simp] theorem Dev.setSlotX_pwr (n : Nat) (x : Slot) : (d.setSlotX n x).tta.pwr = d.tta.pwr := rfl
@[simp] theorem Dev.setSlotX_mtp (n : Nat) (x : Slot) : (d.setSlotX n x).tta.mtp = d.tta.mtp := rfl
@[simp] theorem Dev.setSlotX_mtpCut (n : Nat) (x : Slot) : (d.setSlotX n x).tta.mtpCut = d.tta.mtpCut := rfl
@[simp] theorem Dev.setSlotX_cal (n : Nat) (x : Slot) : (d.setSlotX n x).tta.cal = d.tta.cal := rfl
@[simp] theorem Dev.setSlotX_time (n : Nat) (x : Slot) : (d.setSlotX n x).tta.time = d.tta.time := rfl
@[simp] theorem Dev.setSlotX_recorder (n : Nat) (x : Slot) : (d.setSlotX n x).tta.recorder = d.tta.recorder := rfl
@[simp] theorem Dev.setSlotX_snap (n : Nat) (x : Slot) : (d.setSlotX n x).tta.snap = d.tta.snap := rfl
@[simp] theorem Dev.setSlotX_latched (n : Nat) (x : Slot) : (d.setSlotX n x).tta.latched = d.tta.latched := rfl
@[simp] theorem Dev.setSlotX_links (n : Nat) (x : Slot) : (d.setSlotX n x).tta.links = d.tta.links := rfl
@[simp] theorem Dev.setSlotX_slots (n : Nat) (x : Slot) : (d.setSlotX n x).tta.slots = d.tta.slots := rfl
@[simp] theorem Dev.setSlotX_arbiters (n : Nat) (x : Slot) : (d.setSlotX n x).tta.arbiters = d.tta.arbiters := rfl
@[simp] theorem Dev.setSlotX_fns (n : Nat) (x : Slot) : (d.setSlotX n x).tta.fns = d.tta.fns := rfl
@[simp] theorem Dev.setSlotX_mirrored (n : Nat) (x : Slot) : (d.setSlotX n x).tta.mirrored = d.tta.mirrored := rfl
@[simp] theorem Dev.setSlotX_tiles (n : Nat) (x : Slot) : (d.setSlotX n x).tta.tiles = d.tta.tiles := rfl
@[simp] theorem Dev.setSlotX_graphs (n : Nat) (x : Slot) : (d.setSlotX n x).tta.graphs = d.tta.graphs := rfl
@[simp] theorem Dev.setSlotX_hist (n : Nat) (x : Slot) : (d.setSlotX n x).tta.hist = d.tta.hist := rfl
@[simp] theorem Dev.setSlotX_slotsX (n : Nat) (x : Slot) : (d.setSlotX n x).tta.slotsX = Memory.write (fun _ => {}) d.tta.slotsX n x := rfl
@[simp] theorem Dev.setSlotX_retireDue (n : Nat) (x : Slot) : (d.setSlotX n x).tta.retireDue = d.tta.retireDue := rfl
@[simp] theorem Dev.setSlotX_ing (n : Nat) (x : Slot) : (d.setSlotX n x).tta.ing = d.tta.ing := rfl
@[simp] theorem Dev.setSlotX_twin (n : Nat) (x : Slot) : (d.setSlotX n x).tta.twin = d.tta.twin := rfl
@[simp] theorem Dev.setSlotX_sett (n : Nat) (x : Slot) : (d.setSlotX n x).tta.sett = d.tta.sett := rfl
@[simp] theorem Dev.setSlotX_captures (n : Nat) (x : Slot) : (d.setSlotX n x).tta.captures = d.tta.captures := rfl
@[simp] theorem Dev.setSlotX_tables (n : Nat) (x : Slot) : (d.setSlotX n x).tta.tables = d.tta.tables := rfl
@[simp] theorem Dev.setSlotX_wrn (n : Nat) (x : Slot) : (d.setSlotX n x).tta.wrn = d.tta.wrn := rfl
@[simp] theorem Dev.setSlotX_det (n : Nat) (x : Slot) : (d.setSlotX n x).tta.det = d.tta.det := rfl
@[simp] theorem Dev.setSlotX_chk (n : Nat) (x : Slot) : (d.setSlotX n x).tta.chk = d.tta.chk := rfl
@[simp] theorem Dev.setSlotX_rpt (n : Nat) (x : Slot) : (d.setSlotX n x).tta.rpt = d.tta.rpt := rfl
@[simp] theorem Dev.setSlotX_cmp (n : Nat) (x : Slot) : (d.setSlotX n x).tta.cmp = d.tta.cmp := rfl
@[simp] theorem Dev.setSlotX_dev_tdu (n : Nat) (x : Slot) : (d.setSlotX n x).tdu = d.tdu := rfl
@[simp] theorem Dev.setSlotX_dev_pins (n : Nat) (x : Slot) : (d.setSlotX n x).pins = d.pins := rfl
@[simp] theorem Dev.setSlotX_dev_freeIx (n : Nat) (x : Slot) : (d.setSlotX n x).freeIx = d.freeIx := rfl
@[simp] theorem Dev.setSlotX_dev_out (n : Nat) (x : Slot) : (d.setSlotX n x).out = d.out := rfl
@[simp] theorem Dev.setSlotX_word (n : Nat) (x : Slot) (sp : Space) (a : Nat) : (d.setSlotX n x).word sp a = d.word sp a := by cases sp <;> rfl
@[simp] theorem Dev.setSlotX_get (n : Nat) (x : Slot) (y : Fld) : (d.setSlotX n x).get y = d.get y := by rw [Dev.get, Dev.get, Dev.setSlotX_word]
@[simp] theorem Dev.setSlotX_bit (n : Nat) (x : Slot) (y : Fld) : (d.setSlotX n x).bit y = d.bit y := by rw [Dev.bit, Dev.bit, Dev.setSlotX_get]
@[simp] theorem Dev.setSlotX_tb_tdu (n : Nat) (x : Slot) : (d.setSlotX n x).tb .tdu = d.tb .tdu := rfl
@[simp] theorem Dev.setSlotX_tb_tta (n : Nat) (x : Slot) : (d.setSlotX n x).tb .tta = d.tb .tta := rfl
@[simp] theorem Dev.setSlotX_recd_tdu (n : Nat) (x : Slot) : (d.setSlotX n x).recd .tdu = d.recd .tdu := rfl
@[simp] theorem Dev.setSlotX_recd_tta (n : Nat) (x : Slot) : (d.setSlotX n x).recd .tta = d.recd .tta := rfl
@[simp] theorem Dev.setSlotX_tile (n : Nat) (x : Slot) (m : Nat) : (d.setSlotX n x).tile m = d.tile m := rfl
@[simp] theorem Dev.setSlotX_graph (n : Nat) (x : Slot) (m : Nat) : (d.setSlotX n x).graph m = d.graph m := rfl
@[simp] theorem Dev.setSlotX_port_tta (n : Nat) (x : Slot) (q : Fin 17) : (d.setSlotX n x).port (.tta q) = d.port (.tta q) := rfl
@[simp] theorem Dev.setSlotX_slotTable_tdu (n : Nat) (x : Slot) : (d.setSlotX n x).slotTable .tdu = d.slotTable .tdu := rfl
@[simp] theorem Dev.setSlotX_slotTable_tta (n : Nat) (x : Slot) : (d.setSlotX n x).slotTable .tta = d.slotTable .tta := rfl
@[simp] theorem Dev.setSlotX_timeValid_tta (n : Nat) (x : Slot) : (d.setSlotX n x).timeValid .tta = d.timeValid .tta := rfl
@[simp] theorem Dev.setSlotX_timeValid_tdu (n : Nat) (x : Slot) : (d.setSlotX n x).timeValid .tdu = d.timeValid .tdu := rfl
@[simp] theorem Dev.setSlotX_nowNs_tta (n : Nat) (x : Slot) : (d.setSlotX n x).nowNs .tta = d.nowNs .tta := rfl
@[simp] theorem Dev.setSlotX_nowNs_tdu (n : Nat) (x : Slot) : (d.setSlotX n x).nowNs .tdu = d.nowNs .tdu := rfl
@[simp] theorem Dev.setSlotX_snapOf_tdu (n : Nat) (x : Slot) : (d.setSlotX n x).snapOf .tdu = d.snapOf .tdu := rfl
@[simp] theorem Dev.setSlotX_snapOf_tta (n : Nat) (x : Slot) : (d.setSlotX n x).snapOf .tta = d.snapOf .tta := rfl
@[simp] theorem Dev.setSlotX_fnq (n : Nat) (x : Slot) (fn : Fn) : (d.setSlotX n x).fnq fn = d.fnq fn := by cases fn <;> rfl

/-! ### setTile -/

@[simp] theorem Dev.setTile_regs (t : Nat) (x : Tile) : (d.setTile t x).tta.regs = d.tta.regs := rfl
@[simp] theorem Dev.setTile_fuses (t : Nat) (x : Tile) : (d.setTile t x).tta.fuses = d.tta.fuses := rfl
@[simp] theorem Dev.setTile_boot (t : Nat) (x : Tile) : (d.setTile t x).tta.boot = d.tta.boot := rfl
@[simp] theorem Dev.setTile_pwr (t : Nat) (x : Tile) : (d.setTile t x).tta.pwr = d.tta.pwr := rfl
@[simp] theorem Dev.setTile_mtp (t : Nat) (x : Tile) : (d.setTile t x).tta.mtp = d.tta.mtp := rfl
@[simp] theorem Dev.setTile_mtpCut (t : Nat) (x : Tile) : (d.setTile t x).tta.mtpCut = d.tta.mtpCut := rfl
@[simp] theorem Dev.setTile_cal (t : Nat) (x : Tile) : (d.setTile t x).tta.cal = d.tta.cal := rfl
@[simp] theorem Dev.setTile_time (t : Nat) (x : Tile) : (d.setTile t x).tta.time = d.tta.time := rfl
@[simp] theorem Dev.setTile_recorder (t : Nat) (x : Tile) : (d.setTile t x).tta.recorder = d.tta.recorder := rfl
@[simp] theorem Dev.setTile_snap (t : Nat) (x : Tile) : (d.setTile t x).tta.snap = d.tta.snap := rfl
@[simp] theorem Dev.setTile_latched (t : Nat) (x : Tile) : (d.setTile t x).tta.latched = d.tta.latched := rfl
@[simp] theorem Dev.setTile_links (t : Nat) (x : Tile) : (d.setTile t x).tta.links = d.tta.links := rfl
@[simp] theorem Dev.setTile_slots (t : Nat) (x : Tile) : (d.setTile t x).tta.slots = d.tta.slots := rfl
@[simp] theorem Dev.setTile_arbiters (t : Nat) (x : Tile) : (d.setTile t x).tta.arbiters = d.tta.arbiters := rfl
@[simp] theorem Dev.setTile_fns (t : Nat) (x : Tile) : (d.setTile t x).tta.fns = d.tta.fns := rfl
@[simp] theorem Dev.setTile_mirrored (t : Nat) (x : Tile) : (d.setTile t x).tta.mirrored = d.tta.mirrored := rfl
@[simp] theorem Dev.setTile_tiles (t : Nat) (x : Tile) : (d.setTile t x).tta.tiles = Memory.write (fun _ => {}) d.tta.tiles t x := rfl
@[simp] theorem Dev.setTile_graphs (t : Nat) (x : Tile) : (d.setTile t x).tta.graphs = d.tta.graphs := rfl
@[simp] theorem Dev.setTile_hist (t : Nat) (x : Tile) : (d.setTile t x).tta.hist = d.tta.hist := rfl
@[simp] theorem Dev.setTile_slotsX (t : Nat) (x : Tile) : (d.setTile t x).tta.slotsX = d.tta.slotsX := rfl
@[simp] theorem Dev.setTile_retireDue (t : Nat) (x : Tile) : (d.setTile t x).tta.retireDue = d.tta.retireDue := rfl
@[simp] theorem Dev.setTile_ing (t : Nat) (x : Tile) : (d.setTile t x).tta.ing = d.tta.ing := rfl
@[simp] theorem Dev.setTile_twin (t : Nat) (x : Tile) : (d.setTile t x).tta.twin = d.tta.twin := rfl
@[simp] theorem Dev.setTile_sett (t : Nat) (x : Tile) : (d.setTile t x).tta.sett = d.tta.sett := rfl
@[simp] theorem Dev.setTile_captures (t : Nat) (x : Tile) : (d.setTile t x).tta.captures = d.tta.captures := rfl
@[simp] theorem Dev.setTile_tables (t : Nat) (x : Tile) : (d.setTile t x).tta.tables = d.tta.tables := rfl
@[simp] theorem Dev.setTile_wrn (t : Nat) (x : Tile) : (d.setTile t x).tta.wrn = d.tta.wrn := rfl
@[simp] theorem Dev.setTile_det (t : Nat) (x : Tile) : (d.setTile t x).tta.det = d.tta.det := rfl
@[simp] theorem Dev.setTile_chk (t : Nat) (x : Tile) : (d.setTile t x).tta.chk = d.tta.chk := rfl
@[simp] theorem Dev.setTile_rpt (t : Nat) (x : Tile) : (d.setTile t x).tta.rpt = d.tta.rpt := rfl
@[simp] theorem Dev.setTile_cmp (t : Nat) (x : Tile) : (d.setTile t x).tta.cmp = d.tta.cmp := rfl
@[simp] theorem Dev.setTile_dev_tdu (t : Nat) (x : Tile) : (d.setTile t x).tdu = d.tdu := rfl
@[simp] theorem Dev.setTile_dev_pins (t : Nat) (x : Tile) : (d.setTile t x).pins = d.pins := rfl
@[simp] theorem Dev.setTile_dev_freeIx (t : Nat) (x : Tile) : (d.setTile t x).freeIx = d.freeIx := rfl
@[simp] theorem Dev.setTile_dev_out (t : Nat) (x : Tile) : (d.setTile t x).out = d.out := rfl
@[simp] theorem Dev.setTile_word (t : Nat) (x : Tile) (sp : Space) (a : Nat) : (d.setTile t x).word sp a = d.word sp a := by cases sp <;> rfl
@[simp] theorem Dev.setTile_get (t : Nat) (x : Tile) (y : Fld) : (d.setTile t x).get y = d.get y := by rw [Dev.get, Dev.get, Dev.setTile_word]
@[simp] theorem Dev.setTile_bit (t : Nat) (x : Tile) (y : Fld) : (d.setTile t x).bit y = d.bit y := by rw [Dev.bit, Dev.bit, Dev.setTile_get]
@[simp] theorem Dev.setTile_tb_tdu (t : Nat) (x : Tile) : (d.setTile t x).tb .tdu = d.tb .tdu := rfl
@[simp] theorem Dev.setTile_tb_tta (t : Nat) (x : Tile) : (d.setTile t x).tb .tta = d.tb .tta := rfl
@[simp] theorem Dev.setTile_recd_tdu (t : Nat) (x : Tile) : (d.setTile t x).recd .tdu = d.recd .tdu := rfl
@[simp] theorem Dev.setTile_recd_tta (t : Nat) (x : Tile) : (d.setTile t x).recd .tta = d.recd .tta := rfl
@[simp] theorem Dev.setTile_slotX (t : Nat) (x : Tile) (m : Nat) : (d.setTile t x).slotX m = d.slotX m := rfl
@[simp] theorem Dev.setTile_graph (t : Nat) (x : Tile) (m : Nat) : (d.setTile t x).graph m = d.graph m := rfl
@[simp] theorem Dev.setTile_port_tta (t : Nat) (x : Tile) (q : Fin 17) : (d.setTile t x).port (.tta q) = d.port (.tta q) := rfl
@[simp] theorem Dev.setTile_slotTable_tdu (t : Nat) (x : Tile) : (d.setTile t x).slotTable .tdu = d.slotTable .tdu := rfl
@[simp] theorem Dev.setTile_slotTable_tta (t : Nat) (x : Tile) : (d.setTile t x).slotTable .tta = d.slotTable .tta := rfl
@[simp] theorem Dev.setTile_timeValid_tta (t : Nat) (x : Tile) : (d.setTile t x).timeValid .tta = d.timeValid .tta := rfl
@[simp] theorem Dev.setTile_timeValid_tdu (t : Nat) (x : Tile) : (d.setTile t x).timeValid .tdu = d.timeValid .tdu := rfl
@[simp] theorem Dev.setTile_nowNs_tta (t : Nat) (x : Tile) : (d.setTile t x).nowNs .tta = d.nowNs .tta := rfl
@[simp] theorem Dev.setTile_nowNs_tdu (t : Nat) (x : Tile) : (d.setTile t x).nowNs .tdu = d.nowNs .tdu := rfl
@[simp] theorem Dev.setTile_snapOf_tdu (t : Nat) (x : Tile) : (d.setTile t x).snapOf .tdu = d.snapOf .tdu := rfl
@[simp] theorem Dev.setTile_snapOf_tta (t : Nat) (x : Tile) : (d.setTile t x).snapOf .tta = d.snapOf .tta := rfl
@[simp] theorem Dev.setTile_fnq (t : Nat) (x : Tile) (fn : Fn) : (d.setTile t x).fnq fn = d.fnq fn := by cases fn <;> rfl

/-! ### setGraph -/

@[simp] theorem Dev.setGraph_regs (h : Nat) (g : Graph) : (d.setGraph h g).tta.regs = d.tta.regs := rfl
@[simp] theorem Dev.setGraph_fuses (h : Nat) (g : Graph) : (d.setGraph h g).tta.fuses = d.tta.fuses := rfl
@[simp] theorem Dev.setGraph_boot (h : Nat) (g : Graph) : (d.setGraph h g).tta.boot = d.tta.boot := rfl
@[simp] theorem Dev.setGraph_pwr (h : Nat) (g : Graph) : (d.setGraph h g).tta.pwr = d.tta.pwr := rfl
@[simp] theorem Dev.setGraph_mtp (h : Nat) (g : Graph) : (d.setGraph h g).tta.mtp = d.tta.mtp := rfl
@[simp] theorem Dev.setGraph_mtpCut (h : Nat) (g : Graph) : (d.setGraph h g).tta.mtpCut = d.tta.mtpCut := rfl
@[simp] theorem Dev.setGraph_cal (h : Nat) (g : Graph) : (d.setGraph h g).tta.cal = d.tta.cal := rfl
@[simp] theorem Dev.setGraph_time (h : Nat) (g : Graph) : (d.setGraph h g).tta.time = d.tta.time := rfl
@[simp] theorem Dev.setGraph_recorder (h : Nat) (g : Graph) : (d.setGraph h g).tta.recorder = d.tta.recorder := rfl
@[simp] theorem Dev.setGraph_snap (h : Nat) (g : Graph) : (d.setGraph h g).tta.snap = d.tta.snap := rfl
@[simp] theorem Dev.setGraph_latched (h : Nat) (g : Graph) : (d.setGraph h g).tta.latched = d.tta.latched := rfl
@[simp] theorem Dev.setGraph_links (h : Nat) (g : Graph) : (d.setGraph h g).tta.links = d.tta.links := rfl
@[simp] theorem Dev.setGraph_slots (h : Nat) (g : Graph) : (d.setGraph h g).tta.slots = d.tta.slots := rfl
@[simp] theorem Dev.setGraph_arbiters (h : Nat) (g : Graph) : (d.setGraph h g).tta.arbiters = d.tta.arbiters := rfl
@[simp] theorem Dev.setGraph_fns (h : Nat) (g : Graph) : (d.setGraph h g).tta.fns = d.tta.fns := rfl
@[simp] theorem Dev.setGraph_mirrored (h : Nat) (g : Graph) : (d.setGraph h g).tta.mirrored = d.tta.mirrored := rfl
@[simp] theorem Dev.setGraph_tiles (h : Nat) (g : Graph) : (d.setGraph h g).tta.tiles = d.tta.tiles := rfl
@[simp] theorem Dev.setGraph_graphs (h : Nat) (g : Graph) : (d.setGraph h g).tta.graphs = assocSet h g d.tta.graphs := rfl
@[simp] theorem Dev.setGraph_hist (h : Nat) (g : Graph) : (d.setGraph h g).tta.hist = d.tta.hist := rfl
@[simp] theorem Dev.setGraph_slotsX (h : Nat) (g : Graph) : (d.setGraph h g).tta.slotsX = d.tta.slotsX := rfl
@[simp] theorem Dev.setGraph_retireDue (h : Nat) (g : Graph) : (d.setGraph h g).tta.retireDue = d.tta.retireDue := rfl
@[simp] theorem Dev.setGraph_ing (h : Nat) (g : Graph) : (d.setGraph h g).tta.ing = d.tta.ing := rfl
@[simp] theorem Dev.setGraph_twin (h : Nat) (g : Graph) : (d.setGraph h g).tta.twin = d.tta.twin := rfl
@[simp] theorem Dev.setGraph_sett (h : Nat) (g : Graph) : (d.setGraph h g).tta.sett = d.tta.sett := rfl
@[simp] theorem Dev.setGraph_captures (h : Nat) (g : Graph) : (d.setGraph h g).tta.captures = d.tta.captures := rfl
@[simp] theorem Dev.setGraph_tables (h : Nat) (g : Graph) : (d.setGraph h g).tta.tables = d.tta.tables := rfl
@[simp] theorem Dev.setGraph_wrn (h : Nat) (g : Graph) : (d.setGraph h g).tta.wrn = d.tta.wrn := rfl
@[simp] theorem Dev.setGraph_det (h : Nat) (g : Graph) : (d.setGraph h g).tta.det = d.tta.det := rfl
@[simp] theorem Dev.setGraph_chk (h : Nat) (g : Graph) : (d.setGraph h g).tta.chk = d.tta.chk := rfl
@[simp] theorem Dev.setGraph_rpt (h : Nat) (g : Graph) : (d.setGraph h g).tta.rpt = d.tta.rpt := rfl
@[simp] theorem Dev.setGraph_cmp (h : Nat) (g : Graph) : (d.setGraph h g).tta.cmp = d.tta.cmp := rfl
@[simp] theorem Dev.setGraph_dev_tdu (h : Nat) (g : Graph) : (d.setGraph h g).tdu = d.tdu := rfl
@[simp] theorem Dev.setGraph_dev_pins (h : Nat) (g : Graph) : (d.setGraph h g).pins = d.pins := rfl
@[simp] theorem Dev.setGraph_dev_freeIx (h : Nat) (g : Graph) : (d.setGraph h g).freeIx = d.freeIx := rfl
@[simp] theorem Dev.setGraph_dev_out (h : Nat) (g : Graph) : (d.setGraph h g).out = d.out := rfl
@[simp] theorem Dev.setGraph_word (h : Nat) (g : Graph) (sp : Space) (a : Nat) : (d.setGraph h g).word sp a = d.word sp a := by cases sp <;> rfl
@[simp] theorem Dev.setGraph_get (h : Nat) (g : Graph) (y : Fld) : (d.setGraph h g).get y = d.get y := by rw [Dev.get, Dev.get, Dev.setGraph_word]
@[simp] theorem Dev.setGraph_bit (h : Nat) (g : Graph) (y : Fld) : (d.setGraph h g).bit y = d.bit y := by rw [Dev.bit, Dev.bit, Dev.setGraph_get]
@[simp] theorem Dev.setGraph_tb_tdu (h : Nat) (g : Graph) : (d.setGraph h g).tb .tdu = d.tb .tdu := rfl
@[simp] theorem Dev.setGraph_tb_tta (h : Nat) (g : Graph) : (d.setGraph h g).tb .tta = d.tb .tta := rfl
@[simp] theorem Dev.setGraph_recd_tdu (h : Nat) (g : Graph) : (d.setGraph h g).recd .tdu = d.recd .tdu := rfl
@[simp] theorem Dev.setGraph_recd_tta (h : Nat) (g : Graph) : (d.setGraph h g).recd .tta = d.recd .tta := rfl
@[simp] theorem Dev.setGraph_slotX (h : Nat) (g : Graph) (m : Nat) : (d.setGraph h g).slotX m = d.slotX m := rfl
@[simp] theorem Dev.setGraph_tile (h : Nat) (g : Graph) (m : Nat) : (d.setGraph h g).tile m = d.tile m := rfl
@[simp] theorem Dev.setGraph_port_tta (h : Nat) (g : Graph) (q : Fin 17) : (d.setGraph h g).port (.tta q) = d.port (.tta q) := rfl
@[simp] theorem Dev.setGraph_slotTable_tdu (h : Nat) (g : Graph) : (d.setGraph h g).slotTable .tdu = d.slotTable .tdu := rfl
@[simp] theorem Dev.setGraph_slotTable_tta (h : Nat) (g : Graph) : (d.setGraph h g).slotTable .tta = d.slotTable .tta := rfl
@[simp] theorem Dev.setGraph_timeValid_tta (h : Nat) (g : Graph) : (d.setGraph h g).timeValid .tta = d.timeValid .tta := rfl
@[simp] theorem Dev.setGraph_timeValid_tdu (h : Nat) (g : Graph) : (d.setGraph h g).timeValid .tdu = d.timeValid .tdu := rfl
@[simp] theorem Dev.setGraph_nowNs_tta (h : Nat) (g : Graph) : (d.setGraph h g).nowNs .tta = d.nowNs .tta := rfl
@[simp] theorem Dev.setGraph_nowNs_tdu (h : Nat) (g : Graph) : (d.setGraph h g).nowNs .tdu = d.nowNs .tdu := rfl
@[simp] theorem Dev.setGraph_snapOf_tdu (h : Nat) (g : Graph) : (d.setGraph h g).snapOf .tdu = d.snapOf .tdu := rfl
@[simp] theorem Dev.setGraph_snapOf_tta (h : Nat) (g : Graph) : (d.setGraph h g).snapOf .tta = d.snapOf .tta := rfl
@[simp] theorem Dev.setGraph_fnq (h : Nat) (g : Graph) (fn : Fn) : (d.setGraph h g).fnq fn = d.fnq fn := by cases fn <;> rfl

/-! ### setTables -/

@[simp] theorem Dev.setTables_regs (l : List Table) : (d.setTables l).tta.regs = d.tta.regs := rfl
@[simp] theorem Dev.setTables_fuses (l : List Table) : (d.setTables l).tta.fuses = d.tta.fuses := rfl
@[simp] theorem Dev.setTables_boot (l : List Table) : (d.setTables l).tta.boot = d.tta.boot := rfl
@[simp] theorem Dev.setTables_pwr (l : List Table) : (d.setTables l).tta.pwr = d.tta.pwr := rfl
@[simp] theorem Dev.setTables_mtp (l : List Table) : (d.setTables l).tta.mtp = d.tta.mtp := rfl
@[simp] theorem Dev.setTables_mtpCut (l : List Table) : (d.setTables l).tta.mtpCut = d.tta.mtpCut := rfl
@[simp] theorem Dev.setTables_cal (l : List Table) : (d.setTables l).tta.cal = d.tta.cal := rfl
@[simp] theorem Dev.setTables_time (l : List Table) : (d.setTables l).tta.time = d.tta.time := rfl
@[simp] theorem Dev.setTables_recorder (l : List Table) : (d.setTables l).tta.recorder = d.tta.recorder := rfl
@[simp] theorem Dev.setTables_snap (l : List Table) : (d.setTables l).tta.snap = d.tta.snap := rfl
@[simp] theorem Dev.setTables_latched (l : List Table) : (d.setTables l).tta.latched = d.tta.latched := rfl
@[simp] theorem Dev.setTables_links (l : List Table) : (d.setTables l).tta.links = d.tta.links := rfl
@[simp] theorem Dev.setTables_slots (l : List Table) : (d.setTables l).tta.slots = d.tta.slots := rfl
@[simp] theorem Dev.setTables_arbiters (l : List Table) : (d.setTables l).tta.arbiters = d.tta.arbiters := rfl
@[simp] theorem Dev.setTables_fns (l : List Table) : (d.setTables l).tta.fns = d.tta.fns := rfl
@[simp] theorem Dev.setTables_mirrored (l : List Table) : (d.setTables l).tta.mirrored = d.tta.mirrored := rfl
@[simp] theorem Dev.setTables_tiles (l : List Table) : (d.setTables l).tta.tiles = d.tta.tiles := rfl
@[simp] theorem Dev.setTables_graphs (l : List Table) : (d.setTables l).tta.graphs = d.tta.graphs := rfl
@[simp] theorem Dev.setTables_hist (l : List Table) : (d.setTables l).tta.hist = d.tta.hist := rfl
@[simp] theorem Dev.setTables_slotsX (l : List Table) : (d.setTables l).tta.slotsX = d.tta.slotsX := rfl
@[simp] theorem Dev.setTables_retireDue (l : List Table) : (d.setTables l).tta.retireDue = d.tta.retireDue := rfl
@[simp] theorem Dev.setTables_ing (l : List Table) : (d.setTables l).tta.ing = d.tta.ing := rfl
@[simp] theorem Dev.setTables_twin (l : List Table) : (d.setTables l).tta.twin = d.tta.twin := rfl
@[simp] theorem Dev.setTables_sett (l : List Table) : (d.setTables l).tta.sett = d.tta.sett := rfl
@[simp] theorem Dev.setTables_captures (l : List Table) : (d.setTables l).tta.captures = d.tta.captures := rfl
@[simp] theorem Dev.setTables_tables (l : List Table) : (d.setTables l).tta.tables = l := rfl
@[simp] theorem Dev.setTables_wrn (l : List Table) : (d.setTables l).tta.wrn = d.tta.wrn := rfl
@[simp] theorem Dev.setTables_det (l : List Table) : (d.setTables l).tta.det = d.tta.det := rfl
@[simp] theorem Dev.setTables_chk (l : List Table) : (d.setTables l).tta.chk = d.tta.chk := rfl
@[simp] theorem Dev.setTables_rpt (l : List Table) : (d.setTables l).tta.rpt = d.tta.rpt := rfl
@[simp] theorem Dev.setTables_cmp (l : List Table) : (d.setTables l).tta.cmp = d.tta.cmp := rfl
@[simp] theorem Dev.setTables_dev_tdu (l : List Table) : (d.setTables l).tdu = d.tdu := rfl
@[simp] theorem Dev.setTables_dev_pins (l : List Table) : (d.setTables l).pins = d.pins := rfl
@[simp] theorem Dev.setTables_dev_freeIx (l : List Table) : (d.setTables l).freeIx = d.freeIx := rfl
@[simp] theorem Dev.setTables_dev_out (l : List Table) : (d.setTables l).out = d.out := rfl
@[simp] theorem Dev.setTables_word (l : List Table) (sp : Space) (a : Nat) : (d.setTables l).word sp a = d.word sp a := by cases sp <;> rfl
@[simp] theorem Dev.setTables_get (l : List Table) (y : Fld) : (d.setTables l).get y = d.get y := by rw [Dev.get, Dev.get, Dev.setTables_word]
@[simp] theorem Dev.setTables_bit (l : List Table) (y : Fld) : (d.setTables l).bit y = d.bit y := by rw [Dev.bit, Dev.bit, Dev.setTables_get]
@[simp] theorem Dev.setTables_tb_tdu (l : List Table) : (d.setTables l).tb .tdu = d.tb .tdu := rfl
@[simp] theorem Dev.setTables_tb_tta (l : List Table) : (d.setTables l).tb .tta = d.tb .tta := rfl
@[simp] theorem Dev.setTables_recd_tdu (l : List Table) : (d.setTables l).recd .tdu = d.recd .tdu := rfl
@[simp] theorem Dev.setTables_recd_tta (l : List Table) : (d.setTables l).recd .tta = d.recd .tta := rfl
@[simp] theorem Dev.setTables_slotX (l : List Table) (m : Nat) : (d.setTables l).slotX m = d.slotX m := rfl
@[simp] theorem Dev.setTables_tile (l : List Table) (m : Nat) : (d.setTables l).tile m = d.tile m := rfl
@[simp] theorem Dev.setTables_graph (l : List Table) (m : Nat) : (d.setTables l).graph m = d.graph m := rfl
@[simp] theorem Dev.setTables_port_tta (l : List Table) (q : Fin 17) : (d.setTables l).port (.tta q) = d.port (.tta q) := rfl
@[simp] theorem Dev.setTables_slotTable_tdu (l : List Table) : (d.setTables l).slotTable .tdu = d.slotTable .tdu := rfl
@[simp] theorem Dev.setTables_slotTable_tta (l : List Table) : (d.setTables l).slotTable .tta = d.slotTable .tta := rfl
@[simp] theorem Dev.setTables_timeValid_tta (l : List Table) : (d.setTables l).timeValid .tta = d.timeValid .tta := rfl
@[simp] theorem Dev.setTables_timeValid_tdu (l : List Table) : (d.setTables l).timeValid .tdu = d.timeValid .tdu := rfl
@[simp] theorem Dev.setTables_nowNs_tta (l : List Table) : (d.setTables l).nowNs .tta = d.nowNs .tta := rfl
@[simp] theorem Dev.setTables_nowNs_tdu (l : List Table) : (d.setTables l).nowNs .tdu = d.nowNs .tdu := rfl
@[simp] theorem Dev.setTables_snapOf_tdu (l : List Table) : (d.setTables l).snapOf .tdu = d.snapOf .tdu := rfl
@[simp] theorem Dev.setTables_snapOf_tta (l : List Table) : (d.setTables l).snapOf .tta = d.snapOf .tta := rfl
@[simp] theorem Dev.setTables_fnq (l : List Table) (fn : Fn) : (d.setTables l).fnq fn = d.fnq fn := by cases fn <;> rfl

/-! ### reportDue -/

@[simp] theorem Dev.reportDue_regs (x : QueuedRec) : (d.reportDue x).tta.regs = d.tta.regs := rfl
@[simp] theorem Dev.reportDue_fuses (x : QueuedRec) : (d.reportDue x).tta.fuses = d.tta.fuses := rfl
@[simp] theorem Dev.reportDue_boot (x : QueuedRec) : (d.reportDue x).tta.boot = d.tta.boot := rfl
@[simp] theorem Dev.reportDue_pwr (x : QueuedRec) : (d.reportDue x).tta.pwr = d.tta.pwr := rfl
@[simp] theorem Dev.reportDue_mtp (x : QueuedRec) : (d.reportDue x).tta.mtp = d.tta.mtp := rfl
@[simp] theorem Dev.reportDue_mtpCut (x : QueuedRec) : (d.reportDue x).tta.mtpCut = d.tta.mtpCut := rfl
@[simp] theorem Dev.reportDue_cal (x : QueuedRec) : (d.reportDue x).tta.cal = d.tta.cal := rfl
@[simp] theorem Dev.reportDue_time (x : QueuedRec) : (d.reportDue x).tta.time = d.tta.time := rfl
@[simp] theorem Dev.reportDue_recorder (x : QueuedRec) : (d.reportDue x).tta.recorder = d.tta.recorder := rfl
@[simp] theorem Dev.reportDue_snap (x : QueuedRec) : (d.reportDue x).tta.snap = d.tta.snap := rfl
@[simp] theorem Dev.reportDue_latched (x : QueuedRec) : (d.reportDue x).tta.latched = d.tta.latched := rfl
@[simp] theorem Dev.reportDue_links (x : QueuedRec) : (d.reportDue x).tta.links = d.tta.links := rfl
@[simp] theorem Dev.reportDue_slots (x : QueuedRec) : (d.reportDue x).tta.slots = d.tta.slots := rfl
@[simp] theorem Dev.reportDue_arbiters (x : QueuedRec) : (d.reportDue x).tta.arbiters = d.tta.arbiters := rfl
@[simp] theorem Dev.reportDue_fns (x : QueuedRec) : (d.reportDue x).tta.fns = d.tta.fns := rfl
@[simp] theorem Dev.reportDue_mirrored (x : QueuedRec) : (d.reportDue x).tta.mirrored = d.tta.mirrored := rfl
@[simp] theorem Dev.reportDue_tiles (x : QueuedRec) : (d.reportDue x).tta.tiles = d.tta.tiles := rfl
@[simp] theorem Dev.reportDue_graphs (x : QueuedRec) : (d.reportDue x).tta.graphs = d.tta.graphs := rfl
@[simp] theorem Dev.reportDue_hist (x : QueuedRec) : (d.reportDue x).tta.hist = d.tta.hist := rfl
@[simp] theorem Dev.reportDue_slotsX (x : QueuedRec) : (d.reportDue x).tta.slotsX = d.tta.slotsX := rfl
@[simp] theorem Dev.reportDue_retireDue (x : QueuedRec) : (d.reportDue x).tta.retireDue = d.tta.retireDue := rfl
@[simp] theorem Dev.reportDue_ing (x : QueuedRec) : (d.reportDue x).tta.ing = d.tta.ing := rfl
@[simp] theorem Dev.reportDue_twin (x : QueuedRec) : (d.reportDue x).tta.twin = d.tta.twin := rfl
@[simp] theorem Dev.reportDue_sett (x : QueuedRec) : (d.reportDue x).tta.sett = d.tta.sett := rfl
@[simp] theorem Dev.reportDue_captures (x : QueuedRec) : (d.reportDue x).tta.captures = d.tta.captures := rfl
@[simp] theorem Dev.reportDue_tables (x : QueuedRec) : (d.reportDue x).tta.tables = d.tta.tables := rfl
@[simp] theorem Dev.reportDue_wrn (x : QueuedRec) : (d.reportDue x).tta.wrn = d.tta.wrn := rfl
@[simp] theorem Dev.reportDue_det (x : QueuedRec) : (d.reportDue x).tta.det = d.tta.det := rfl
@[simp] theorem Dev.reportDue_chk (x : QueuedRec) : (d.reportDue x).tta.chk = d.tta.chk := rfl
@[simp] theorem Dev.reportDue_rpt (x : QueuedRec) : (d.reportDue x).tta.rpt = { d.tta.rpt with due := d.tta.rpt.due ++ [x] } := rfl
@[simp] theorem Dev.reportDue_cmp (x : QueuedRec) : (d.reportDue x).tta.cmp = d.tta.cmp := rfl
@[simp] theorem Dev.reportDue_dev_tdu (x : QueuedRec) : (d.reportDue x).tdu = d.tdu := rfl
@[simp] theorem Dev.reportDue_dev_pins (x : QueuedRec) : (d.reportDue x).pins = d.pins := rfl
@[simp] theorem Dev.reportDue_dev_freeIx (x : QueuedRec) : (d.reportDue x).freeIx = d.freeIx := rfl
@[simp] theorem Dev.reportDue_dev_out (x : QueuedRec) : (d.reportDue x).out = d.out := rfl
@[simp] theorem Dev.reportDue_word (x : QueuedRec) (sp : Space) (a : Nat) : (d.reportDue x).word sp a = d.word sp a := by cases sp <;> rfl
@[simp] theorem Dev.reportDue_get (x : QueuedRec) (y : Fld) : (d.reportDue x).get y = d.get y := by rw [Dev.get, Dev.get, Dev.reportDue_word]
@[simp] theorem Dev.reportDue_bit (x : QueuedRec) (y : Fld) : (d.reportDue x).bit y = d.bit y := by rw [Dev.bit, Dev.bit, Dev.reportDue_get]
@[simp] theorem Dev.reportDue_tb_tdu (x : QueuedRec) : (d.reportDue x).tb .tdu = d.tb .tdu := rfl
@[simp] theorem Dev.reportDue_tb_tta (x : QueuedRec) : (d.reportDue x).tb .tta = d.tb .tta := rfl
@[simp] theorem Dev.reportDue_recd_tdu (x : QueuedRec) : (d.reportDue x).recd .tdu = d.recd .tdu := rfl
@[simp] theorem Dev.reportDue_recd_tta (x : QueuedRec) : (d.reportDue x).recd .tta = d.recd .tta := rfl
@[simp] theorem Dev.reportDue_slotX (x : QueuedRec) (m : Nat) : (d.reportDue x).slotX m = d.slotX m := rfl
@[simp] theorem Dev.reportDue_tile (x : QueuedRec) (m : Nat) : (d.reportDue x).tile m = d.tile m := rfl
@[simp] theorem Dev.reportDue_graph (x : QueuedRec) (m : Nat) : (d.reportDue x).graph m = d.graph m := rfl
@[simp] theorem Dev.reportDue_port_tta (x : QueuedRec) (q : Fin 17) : (d.reportDue x).port (.tta q) = d.port (.tta q) := rfl
@[simp] theorem Dev.reportDue_slotTable_tdu (x : QueuedRec) : (d.reportDue x).slotTable .tdu = d.slotTable .tdu := rfl
@[simp] theorem Dev.reportDue_slotTable_tta (x : QueuedRec) : (d.reportDue x).slotTable .tta = d.slotTable .tta := rfl
@[simp] theorem Dev.reportDue_timeValid_tta (x : QueuedRec) : (d.reportDue x).timeValid .tta = d.timeValid .tta := rfl
@[simp] theorem Dev.reportDue_timeValid_tdu (x : QueuedRec) : (d.reportDue x).timeValid .tdu = d.timeValid .tdu := rfl
@[simp] theorem Dev.reportDue_nowNs_tta (x : QueuedRec) : (d.reportDue x).nowNs .tta = d.nowNs .tta := rfl
@[simp] theorem Dev.reportDue_nowNs_tdu (x : QueuedRec) : (d.reportDue x).nowNs .tdu = d.nowNs .tdu := rfl
@[simp] theorem Dev.reportDue_snapOf_tdu (x : QueuedRec) : (d.reportDue x).snapOf .tdu = d.snapOf .tdu := rfl
@[simp] theorem Dev.reportDue_snapOf_tta (x : QueuedRec) : (d.reportDue x).snapOf .tta = d.snapOf .tta := rfl
@[simp] theorem Dev.reportDue_fnq (x : QueuedRec) (fn : Fn) : (d.reportDue x).fnq fn = d.fnq fn := by cases fn <;> rfl

/-! ### setPort_tta -/

@[simp] theorem Dev.setPort_tta_regs (p : Fin 17) (l : LinkPort) : (d.setPort (.tta p) l).tta.regs = d.tta.regs := rfl
@[simp] theorem Dev.setPort_tta_fuses (p : Fin 17) (l : LinkPort) : (d.setPort (.tta p) l).tta.fuses = d.tta.fuses := rfl
@[simp] theorem Dev.setPort_tta_boot (p : Fin 17) (l : LinkPort) : (d.setPort (.tta p) l).tta.boot = d.tta.boot := rfl
@[simp] theorem Dev.setPort_tta_pwr (p : Fin 17) (l : LinkPort) : (d.setPort (.tta p) l).tta.pwr = d.tta.pwr := rfl
@[simp] theorem Dev.setPort_tta_mtp (p : Fin 17) (l : LinkPort) : (d.setPort (.tta p) l).tta.mtp = d.tta.mtp := rfl
@[simp] theorem Dev.setPort_tta_mtpCut (p : Fin 17) (l : LinkPort) : (d.setPort (.tta p) l).tta.mtpCut = d.tta.mtpCut := rfl
@[simp] theorem Dev.setPort_tta_cal (p : Fin 17) (l : LinkPort) : (d.setPort (.tta p) l).tta.cal = d.tta.cal := rfl
@[simp] theorem Dev.setPort_tta_time (p : Fin 17) (l : LinkPort) : (d.setPort (.tta p) l).tta.time = d.tta.time := rfl
@[simp] theorem Dev.setPort_tta_recorder (p : Fin 17) (l : LinkPort) : (d.setPort (.tta p) l).tta.recorder = d.tta.recorder := rfl
@[simp] theorem Dev.setPort_tta_snap (p : Fin 17) (l : LinkPort) : (d.setPort (.tta p) l).tta.snap = d.tta.snap := rfl
@[simp] theorem Dev.setPort_tta_latched (p : Fin 17) (l : LinkPort) : (d.setPort (.tta p) l).tta.latched = d.tta.latched := rfl
@[simp] theorem Dev.setPort_tta_links (p : Fin 17) (l : LinkPort) : (d.setPort (.tta p) l).tta.links = Memory.write (fun _ => {}) d.tta.links p.val l := rfl
@[simp] theorem Dev.setPort_tta_slots (p : Fin 17) (l : LinkPort) : (d.setPort (.tta p) l).tta.slots = d.tta.slots := rfl
@[simp] theorem Dev.setPort_tta_arbiters (p : Fin 17) (l : LinkPort) : (d.setPort (.tta p) l).tta.arbiters = d.tta.arbiters := rfl
@[simp] theorem Dev.setPort_tta_fns (p : Fin 17) (l : LinkPort) : (d.setPort (.tta p) l).tta.fns = d.tta.fns := rfl
@[simp] theorem Dev.setPort_tta_mirrored (p : Fin 17) (l : LinkPort) : (d.setPort (.tta p) l).tta.mirrored = d.tta.mirrored := rfl
@[simp] theorem Dev.setPort_tta_tiles (p : Fin 17) (l : LinkPort) : (d.setPort (.tta p) l).tta.tiles = d.tta.tiles := rfl
@[simp] theorem Dev.setPort_tta_graphs (p : Fin 17) (l : LinkPort) : (d.setPort (.tta p) l).tta.graphs = d.tta.graphs := rfl
@[simp] theorem Dev.setPort_tta_hist (p : Fin 17) (l : LinkPort) : (d.setPort (.tta p) l).tta.hist = d.tta.hist := rfl
@[simp] theorem Dev.setPort_tta_slotsX (p : Fin 17) (l : LinkPort) : (d.setPort (.tta p) l).tta.slotsX = d.tta.slotsX := rfl
@[simp] theorem Dev.setPort_tta_retireDue (p : Fin 17) (l : LinkPort) : (d.setPort (.tta p) l).tta.retireDue = d.tta.retireDue := rfl
@[simp] theorem Dev.setPort_tta_ing (p : Fin 17) (l : LinkPort) : (d.setPort (.tta p) l).tta.ing = d.tta.ing := rfl
@[simp] theorem Dev.setPort_tta_twin (p : Fin 17) (l : LinkPort) : (d.setPort (.tta p) l).tta.twin = d.tta.twin := rfl
@[simp] theorem Dev.setPort_tta_sett (p : Fin 17) (l : LinkPort) : (d.setPort (.tta p) l).tta.sett = d.tta.sett := rfl
@[simp] theorem Dev.setPort_tta_captures (p : Fin 17) (l : LinkPort) : (d.setPort (.tta p) l).tta.captures = d.tta.captures := rfl
@[simp] theorem Dev.setPort_tta_tables (p : Fin 17) (l : LinkPort) : (d.setPort (.tta p) l).tta.tables = d.tta.tables := rfl
@[simp] theorem Dev.setPort_tta_wrn (p : Fin 17) (l : LinkPort) : (d.setPort (.tta p) l).tta.wrn = d.tta.wrn := rfl
@[simp] theorem Dev.setPort_tta_det (p : Fin 17) (l : LinkPort) : (d.setPort (.tta p) l).tta.det = d.tta.det := rfl
@[simp] theorem Dev.setPort_tta_chk (p : Fin 17) (l : LinkPort) : (d.setPort (.tta p) l).tta.chk = d.tta.chk := rfl
@[simp] theorem Dev.setPort_tta_rpt (p : Fin 17) (l : LinkPort) : (d.setPort (.tta p) l).tta.rpt = d.tta.rpt := rfl
@[simp] theorem Dev.setPort_tta_cmp (p : Fin 17) (l : LinkPort) : (d.setPort (.tta p) l).tta.cmp = d.tta.cmp := rfl
@[simp] theorem Dev.setPort_tta_dev_tdu (p : Fin 17) (l : LinkPort) : (d.setPort (.tta p) l).tdu = d.tdu := rfl
@[simp] theorem Dev.setPort_tta_dev_pins (p : Fin 17) (l : LinkPort) : (d.setPort (.tta p) l).pins = d.pins := rfl
@[simp] theorem Dev.setPort_tta_dev_freeIx (p : Fin 17) (l : LinkPort) : (d.setPort (.tta p) l).freeIx = d.freeIx := rfl
@[simp] theorem Dev.setPort_tta_dev_out (p : Fin 17) (l : LinkPort) : (d.setPort (.tta p) l).out = d.out := rfl
@[simp] theorem Dev.setPort_tta_word (p : Fin 17) (l : LinkPort) (sp : Space) (a : Nat) : (d.setPort (.tta p) l).word sp a = d.word sp a := by cases sp <;> rfl
@[simp] theorem Dev.setPort_tta_get (p : Fin 17) (l : LinkPort) (y : Fld) : (d.setPort (.tta p) l).get y = d.get y := by rw [Dev.get, Dev.get, Dev.setPort_tta_word]
@[simp] theorem Dev.setPort_tta_bit (p : Fin 17) (l : LinkPort) (y : Fld) : (d.setPort (.tta p) l).bit y = d.bit y := by rw [Dev.bit, Dev.bit, Dev.setPort_tta_get]
@[simp] theorem Dev.setPort_tta_tb_tdu (p : Fin 17) (l : LinkPort) : (d.setPort (.tta p) l).tb .tdu = d.tb .tdu := rfl
@[simp] theorem Dev.setPort_tta_tb_tta (p : Fin 17) (l : LinkPort) : (d.setPort (.tta p) l).tb .tta = d.tb .tta := rfl
@[simp] theorem Dev.setPort_tta_recd_tdu (p : Fin 17) (l : LinkPort) : (d.setPort (.tta p) l).recd .tdu = d.recd .tdu := rfl
@[simp] theorem Dev.setPort_tta_recd_tta (p : Fin 17) (l : LinkPort) : (d.setPort (.tta p) l).recd .tta = d.recd .tta := rfl
@[simp] theorem Dev.setPort_tta_slotX (p : Fin 17) (l : LinkPort) (m : Nat) : (d.setPort (.tta p) l).slotX m = d.slotX m := rfl
@[simp] theorem Dev.setPort_tta_tile (p : Fin 17) (l : LinkPort) (m : Nat) : (d.setPort (.tta p) l).tile m = d.tile m := rfl
@[simp] theorem Dev.setPort_tta_graph (p : Fin 17) (l : LinkPort) (m : Nat) : (d.setPort (.tta p) l).graph m = d.graph m := rfl
@[simp] theorem Dev.setPort_tta_slotTable_tdu (p : Fin 17) (l : LinkPort) : (d.setPort (.tta p) l).slotTable .tdu = d.slotTable .tdu := rfl
@[simp] theorem Dev.setPort_tta_slotTable_tta (p : Fin 17) (l : LinkPort) : (d.setPort (.tta p) l).slotTable .tta = d.slotTable .tta := rfl
@[simp] theorem Dev.setPort_tta_timeValid_tta (p : Fin 17) (l : LinkPort) : (d.setPort (.tta p) l).timeValid .tta = d.timeValid .tta := rfl
@[simp] theorem Dev.setPort_tta_timeValid_tdu (p : Fin 17) (l : LinkPort) : (d.setPort (.tta p) l).timeValid .tdu = d.timeValid .tdu := rfl
@[simp] theorem Dev.setPort_tta_nowNs_tta (p : Fin 17) (l : LinkPort) : (d.setPort (.tta p) l).nowNs .tta = d.nowNs .tta := rfl
@[simp] theorem Dev.setPort_tta_nowNs_tdu (p : Fin 17) (l : LinkPort) : (d.setPort (.tta p) l).nowNs .tdu = d.nowNs .tdu := rfl
@[simp] theorem Dev.setPort_tta_snapOf_tdu (p : Fin 17) (l : LinkPort) : (d.setPort (.tta p) l).snapOf .tdu = d.snapOf .tdu := rfl
@[simp] theorem Dev.setPort_tta_snapOf_tta (p : Fin 17) (l : LinkPort) : (d.setPort (.tta p) l).snapOf .tta = d.snapOf .tta := rfl
@[simp] theorem Dev.setPort_tta_fnq (p : Fin 17) (l : LinkPort) (fn : Fn) : (d.setPort (.tta p) l).fnq fn = d.fnq fn := by cases fn <;> rfl

/-! ### setTb_tdu -/

@[simp] theorem Dev.setTb_tdu_regs (b : TimeBase) : (d.setTb .tdu b).tdu.regs = d.tdu.regs := rfl
@[simp] theorem Dev.setTb_tdu_fuses (b : TimeBase) : (d.setTb .tdu b).tdu.fuses = d.tdu.fuses := rfl
@[simp] theorem Dev.setTb_tdu_boot (b : TimeBase) : (d.setTb .tdu b).tdu.boot = d.tdu.boot := rfl
@[simp] theorem Dev.setTb_tdu_pwr (b : TimeBase) : (d.setTb .tdu b).tdu.pwr = d.tdu.pwr := rfl
@[simp] theorem Dev.setTb_tdu_time (b : TimeBase) : (d.setTb .tdu b).tdu.time = { d.tdu.time with base := b } := rfl
@[simp] theorem Dev.setTb_tdu_recorder (b : TimeBase) : (d.setTb .tdu b).tdu.recorder = d.tdu.recorder := rfl
@[simp] theorem Dev.setTb_tdu_snap (b : TimeBase) : (d.setTb .tdu b).tdu.snap = d.tdu.snap := rfl
@[simp] theorem Dev.setTb_tdu_latched (b : TimeBase) : (d.setTb .tdu b).tdu.latched = d.tdu.latched := rfl
@[simp] theorem Dev.setTb_tdu_bank (b : TimeBase) : (d.setTb .tdu b).tdu.bank = d.tdu.bank := rfl
@[simp] theorem Dev.setTb_tdu_smp (b : TimeBase) : (d.setTb .tdu b).tdu.smp = d.tdu.smp := rfl
@[simp] theorem Dev.setTb_tdu_trc (b : TimeBase) : (d.setTb .tdu b).tdu.trc = d.tdu.trc := rfl
@[simp] theorem Dev.setTb_tdu_linkKeys (b : TimeBase) : (d.setTb .tdu b).tdu.linkKeys = d.tdu.linkKeys := rfl
@[simp] theorem Dev.setTb_tdu_chk (b : TimeBase) : (d.setTb .tdu b).tdu.chk = d.tdu.chk := rfl
@[simp] theorem Dev.setTb_tdu_link0 (b : TimeBase) : (d.setTb .tdu b).tdu.link0 = d.tdu.link0 := rfl
@[simp] theorem Dev.setTb_tdu_link1 (b : TimeBase) : (d.setTb .tdu b).tdu.link1 = d.tdu.link1 := rfl
@[simp] theorem Dev.setTb_tdu_slots (b : TimeBase) : (d.setTb .tdu b).tdu.slots = d.tdu.slots := rfl
@[simp] theorem Dev.setTb_tdu_q (b : TimeBase) : (d.setTb .tdu b).tdu.q = d.tdu.q := rfl
@[simp] theorem Dev.setTb_tdu_dev_tta (b : TimeBase) : (d.setTb .tdu b).tta = d.tta := rfl
@[simp] theorem Dev.setTb_tdu_dev_pins (b : TimeBase) : (d.setTb .tdu b).pins = d.pins := rfl
@[simp] theorem Dev.setTb_tdu_dev_freeIx (b : TimeBase) : (d.setTb .tdu b).freeIx = d.freeIx := rfl
@[simp] theorem Dev.setTb_tdu_dev_out (b : TimeBase) : (d.setTb .tdu b).out = d.out := rfl
@[simp] theorem Dev.setTb_tdu_word (b : TimeBase) (sp : Space) (a : Nat) : (d.setTb .tdu b).word sp a = d.word sp a := by cases sp <;> rfl
@[simp] theorem Dev.setTb_tdu_get (b : TimeBase) (y : Fld) : (d.setTb .tdu b).get y = d.get y := by rw [Dev.get, Dev.get, Dev.setTb_tdu_word]
@[simp] theorem Dev.setTb_tdu_bit (b : TimeBase) (y : Fld) : (d.setTb .tdu b).bit y = d.bit y := by rw [Dev.bit, Dev.bit, Dev.setTb_tdu_get]
@[simp] theorem Dev.setTb_tdu_tb_tta (b : TimeBase) : (d.setTb .tdu b).tb .tta = d.tb .tta := rfl
@[simp] theorem Dev.setTb_tdu_recd_tdu (b : TimeBase) : (d.setTb .tdu b).recd .tdu = d.recd .tdu := rfl
@[simp] theorem Dev.setTb_tdu_recd_tta (b : TimeBase) : (d.setTb .tdu b).recd .tta = d.recd .tta := rfl
@[simp] theorem Dev.setTb_tdu_slotX (b : TimeBase) (m : Nat) : (d.setTb .tdu b).slotX m = d.slotX m := rfl
@[simp] theorem Dev.setTb_tdu_tile (b : TimeBase) (m : Nat) : (d.setTb .tdu b).tile m = d.tile m := rfl
@[simp] theorem Dev.setTb_tdu_graph (b : TimeBase) (m : Nat) : (d.setTb .tdu b).graph m = d.graph m := rfl
@[simp] theorem Dev.setTb_tdu_port_tta (b : TimeBase) (q : Fin 17) : (d.setTb .tdu b).port (.tta q) = d.port (.tta q) := rfl
@[simp] theorem Dev.setTb_tdu_slotTable_tdu (b : TimeBase) : (d.setTb .tdu b).slotTable .tdu = d.slotTable .tdu := rfl
@[simp] theorem Dev.setTb_tdu_slotTable_tta (b : TimeBase) : (d.setTb .tdu b).slotTable .tta = d.slotTable .tta := rfl
@[simp] theorem Dev.setTb_tdu_timeValid_tta (b : TimeBase) : (d.setTb .tdu b).timeValid .tta = d.timeValid .tta := rfl
@[simp] theorem Dev.setTb_tdu_nowNs_tta (b : TimeBase) : (d.setTb .tdu b).nowNs .tta = d.nowNs .tta := rfl
@[simp] theorem Dev.setTb_tdu_snapOf_tdu (b : TimeBase) : (d.setTb .tdu b).snapOf .tdu = d.snapOf .tdu := rfl
@[simp] theorem Dev.setTb_tdu_snapOf_tta (b : TimeBase) : (d.setTb .tdu b).snapOf .tta = d.snapOf .tta := rfl
@[simp] theorem Dev.setTb_tdu_fnq (b : TimeBase) (fn : Fn) : (d.setTb .tdu b).fnq fn = d.fnq fn := by cases fn <;> rfl

/-! ### setRecd_tdu -/

@[simp] theorem Dev.setRecd_tdu_regs (r : Recorder) : (d.setRecd .tdu r).tdu.regs = d.tdu.regs := rfl
@[simp] theorem Dev.setRecd_tdu_fuses (r : Recorder) : (d.setRecd .tdu r).tdu.fuses = d.tdu.fuses := rfl
@[simp] theorem Dev.setRecd_tdu_boot (r : Recorder) : (d.setRecd .tdu r).tdu.boot = d.tdu.boot := rfl
@[simp] theorem Dev.setRecd_tdu_pwr (r : Recorder) : (d.setRecd .tdu r).tdu.pwr = d.tdu.pwr := rfl
@[simp] theorem Dev.setRecd_tdu_time (r : Recorder) : (d.setRecd .tdu r).tdu.time = d.tdu.time := rfl
@[simp] theorem Dev.setRecd_tdu_recorder (r : Recorder) : (d.setRecd .tdu r).tdu.recorder = r := rfl
@[simp] theorem Dev.setRecd_tdu_snap (r : Recorder) : (d.setRecd .tdu r).tdu.snap = d.tdu.snap := rfl
@[simp] theorem Dev.setRecd_tdu_latched (r : Recorder) : (d.setRecd .tdu r).tdu.latched = d.tdu.latched := rfl
@[simp] theorem Dev.setRecd_tdu_bank (r : Recorder) : (d.setRecd .tdu r).tdu.bank = d.tdu.bank := rfl
@[simp] theorem Dev.setRecd_tdu_smp (r : Recorder) : (d.setRecd .tdu r).tdu.smp = d.tdu.smp := rfl
@[simp] theorem Dev.setRecd_tdu_trc (r : Recorder) : (d.setRecd .tdu r).tdu.trc = d.tdu.trc := rfl
@[simp] theorem Dev.setRecd_tdu_linkKeys (r : Recorder) : (d.setRecd .tdu r).tdu.linkKeys = d.tdu.linkKeys := rfl
@[simp] theorem Dev.setRecd_tdu_chk (r : Recorder) : (d.setRecd .tdu r).tdu.chk = d.tdu.chk := rfl
@[simp] theorem Dev.setRecd_tdu_link0 (r : Recorder) : (d.setRecd .tdu r).tdu.link0 = d.tdu.link0 := rfl
@[simp] theorem Dev.setRecd_tdu_link1 (r : Recorder) : (d.setRecd .tdu r).tdu.link1 = d.tdu.link1 := rfl
@[simp] theorem Dev.setRecd_tdu_slots (r : Recorder) : (d.setRecd .tdu r).tdu.slots = d.tdu.slots := rfl
@[simp] theorem Dev.setRecd_tdu_q (r : Recorder) : (d.setRecd .tdu r).tdu.q = d.tdu.q := rfl
@[simp] theorem Dev.setRecd_tdu_dev_tta (r : Recorder) : (d.setRecd .tdu r).tta = d.tta := rfl
@[simp] theorem Dev.setRecd_tdu_dev_pins (r : Recorder) : (d.setRecd .tdu r).pins = d.pins := rfl
@[simp] theorem Dev.setRecd_tdu_dev_freeIx (r : Recorder) : (d.setRecd .tdu r).freeIx = d.freeIx := rfl
@[simp] theorem Dev.setRecd_tdu_dev_out (r : Recorder) : (d.setRecd .tdu r).out = d.out := rfl
@[simp] theorem Dev.setRecd_tdu_word (r : Recorder) (sp : Space) (a : Nat) : (d.setRecd .tdu r).word sp a = d.word sp a := by cases sp <;> rfl
@[simp] theorem Dev.setRecd_tdu_get (r : Recorder) (y : Fld) : (d.setRecd .tdu r).get y = d.get y := by rw [Dev.get, Dev.get, Dev.setRecd_tdu_word]
@[simp] theorem Dev.setRecd_tdu_bit (r : Recorder) (y : Fld) : (d.setRecd .tdu r).bit y = d.bit y := by rw [Dev.bit, Dev.bit, Dev.setRecd_tdu_get]
@[simp] theorem Dev.setRecd_tdu_tb_tdu (r : Recorder) : (d.setRecd .tdu r).tb .tdu = d.tb .tdu := rfl
@[simp] theorem Dev.setRecd_tdu_tb_tta (r : Recorder) : (d.setRecd .tdu r).tb .tta = d.tb .tta := rfl
@[simp] theorem Dev.setRecd_tdu_recd_tta (r : Recorder) : (d.setRecd .tdu r).recd .tta = d.recd .tta := rfl
@[simp] theorem Dev.setRecd_tdu_slotX (r : Recorder) (m : Nat) : (d.setRecd .tdu r).slotX m = d.slotX m := rfl
@[simp] theorem Dev.setRecd_tdu_tile (r : Recorder) (m : Nat) : (d.setRecd .tdu r).tile m = d.tile m := rfl
@[simp] theorem Dev.setRecd_tdu_graph (r : Recorder) (m : Nat) : (d.setRecd .tdu r).graph m = d.graph m := rfl
@[simp] theorem Dev.setRecd_tdu_port_tta (r : Recorder) (q : Fin 17) : (d.setRecd .tdu r).port (.tta q) = d.port (.tta q) := rfl
@[simp] theorem Dev.setRecd_tdu_slotTable_tdu (r : Recorder) : (d.setRecd .tdu r).slotTable .tdu = d.slotTable .tdu := rfl
@[simp] theorem Dev.setRecd_tdu_slotTable_tta (r : Recorder) : (d.setRecd .tdu r).slotTable .tta = d.slotTable .tta := rfl
@[simp] theorem Dev.setRecd_tdu_timeValid_tta (r : Recorder) : (d.setRecd .tdu r).timeValid .tta = d.timeValid .tta := rfl
@[simp] theorem Dev.setRecd_tdu_timeValid_tdu (r : Recorder) : (d.setRecd .tdu r).timeValid .tdu = d.timeValid .tdu := rfl
@[simp] theorem Dev.setRecd_tdu_nowNs_tta (r : Recorder) : (d.setRecd .tdu r).nowNs .tta = d.nowNs .tta := rfl
@[simp] theorem Dev.setRecd_tdu_nowNs_tdu (r : Recorder) : (d.setRecd .tdu r).nowNs .tdu = d.nowNs .tdu := rfl
@[simp] theorem Dev.setRecd_tdu_snapOf_tdu (r : Recorder) : (d.setRecd .tdu r).snapOf .tdu = d.snapOf .tdu := rfl
@[simp] theorem Dev.setRecd_tdu_snapOf_tta (r : Recorder) : (d.setRecd .tdu r).snapOf .tta = d.snapOf .tta := rfl
@[simp] theorem Dev.setRecd_tdu_fnq (r : Recorder) (fn : Fn) : (d.setRecd .tdu r).fnq fn = d.fnq fn := by cases fn <;> rfl

/-! ### setSlotTable_tdu -/

@[simp] theorem Dev.setSlotTable_tdu_regs (x : SlotTable) : (d.setSlotTable .tdu x).tdu.regs = d.tdu.regs := rfl
@[simp] theorem Dev.setSlotTable_tdu_fuses (x : SlotTable) : (d.setSlotTable .tdu x).tdu.fuses = d.tdu.fuses := rfl
@[simp] theorem Dev.setSlotTable_tdu_boot (x : SlotTable) : (d.setSlotTable .tdu x).tdu.boot = d.tdu.boot := rfl
@[simp] theorem Dev.setSlotTable_tdu_pwr (x : SlotTable) : (d.setSlotTable .tdu x).tdu.pwr = d.tdu.pwr := rfl
@[simp] theorem Dev.setSlotTable_tdu_time (x : SlotTable) : (d.setSlotTable .tdu x).tdu.time = d.tdu.time := rfl
@[simp] theorem Dev.setSlotTable_tdu_recorder (x : SlotTable) : (d.setSlotTable .tdu x).tdu.recorder = d.tdu.recorder := rfl
@[simp] theorem Dev.setSlotTable_tdu_snap (x : SlotTable) : (d.setSlotTable .tdu x).tdu.snap = d.tdu.snap := rfl
@[simp] theorem Dev.setSlotTable_tdu_latched (x : SlotTable) : (d.setSlotTable .tdu x).tdu.latched = d.tdu.latched := rfl
@[simp] theorem Dev.setSlotTable_tdu_bank (x : SlotTable) : (d.setSlotTable .tdu x).tdu.bank = d.tdu.bank := rfl
@[simp] theorem Dev.setSlotTable_tdu_smp (x : SlotTable) : (d.setSlotTable .tdu x).tdu.smp = d.tdu.smp := rfl
@[simp] theorem Dev.setSlotTable_tdu_trc (x : SlotTable) : (d.setSlotTable .tdu x).tdu.trc = d.tdu.trc := rfl
@[simp] theorem Dev.setSlotTable_tdu_linkKeys (x : SlotTable) : (d.setSlotTable .tdu x).tdu.linkKeys = d.tdu.linkKeys := rfl
@[simp] theorem Dev.setSlotTable_tdu_chk (x : SlotTable) : (d.setSlotTable .tdu x).tdu.chk = d.tdu.chk := rfl
@[simp] theorem Dev.setSlotTable_tdu_link0 (x : SlotTable) : (d.setSlotTable .tdu x).tdu.link0 = d.tdu.link0 := rfl
@[simp] theorem Dev.setSlotTable_tdu_link1 (x : SlotTable) : (d.setSlotTable .tdu x).tdu.link1 = d.tdu.link1 := rfl
@[simp] theorem Dev.setSlotTable_tdu_slots (x : SlotTable) : (d.setSlotTable .tdu x).tdu.slots = x := rfl
@[simp] theorem Dev.setSlotTable_tdu_q (x : SlotTable) : (d.setSlotTable .tdu x).tdu.q = d.tdu.q := rfl
@[simp] theorem Dev.setSlotTable_tdu_dev_tta (x : SlotTable) : (d.setSlotTable .tdu x).tta = d.tta := rfl
@[simp] theorem Dev.setSlotTable_tdu_dev_pins (x : SlotTable) : (d.setSlotTable .tdu x).pins = d.pins := rfl
@[simp] theorem Dev.setSlotTable_tdu_dev_freeIx (x : SlotTable) : (d.setSlotTable .tdu x).freeIx = d.freeIx := rfl
@[simp] theorem Dev.setSlotTable_tdu_dev_out (x : SlotTable) : (d.setSlotTable .tdu x).out = d.out := rfl
@[simp] theorem Dev.setSlotTable_tdu_word (x : SlotTable) (sp : Space) (a : Nat) : (d.setSlotTable .tdu x).word sp a = d.word sp a := by cases sp <;> rfl
@[simp] theorem Dev.setSlotTable_tdu_get (x : SlotTable) (y : Fld) : (d.setSlotTable .tdu x).get y = d.get y := by rw [Dev.get, Dev.get, Dev.setSlotTable_tdu_word]
@[simp] theorem Dev.setSlotTable_tdu_bit (x : SlotTable) (y : Fld) : (d.setSlotTable .tdu x).bit y = d.bit y := by rw [Dev.bit, Dev.bit, Dev.setSlotTable_tdu_get]
@[simp] theorem Dev.setSlotTable_tdu_tb_tdu (x : SlotTable) : (d.setSlotTable .tdu x).tb .tdu = d.tb .tdu := rfl
@[simp] theorem Dev.setSlotTable_tdu_tb_tta (x : SlotTable) : (d.setSlotTable .tdu x).tb .tta = d.tb .tta := rfl
@[simp] theorem Dev.setSlotTable_tdu_recd_tdu (x : SlotTable) : (d.setSlotTable .tdu x).recd .tdu = d.recd .tdu := rfl
@[simp] theorem Dev.setSlotTable_tdu_recd_tta (x : SlotTable) : (d.setSlotTable .tdu x).recd .tta = d.recd .tta := rfl
@[simp] theorem Dev.setSlotTable_tdu_slotX (x : SlotTable) (m : Nat) : (d.setSlotTable .tdu x).slotX m = d.slotX m := rfl
@[simp] theorem Dev.setSlotTable_tdu_tile (x : SlotTable) (m : Nat) : (d.setSlotTable .tdu x).tile m = d.tile m := rfl
@[simp] theorem Dev.setSlotTable_tdu_graph (x : SlotTable) (m : Nat) : (d.setSlotTable .tdu x).graph m = d.graph m := rfl
@[simp] theorem Dev.setSlotTable_tdu_port_tta (x : SlotTable) (q : Fin 17) : (d.setSlotTable .tdu x).port (.tta q) = d.port (.tta q) := rfl
@[simp] theorem Dev.setSlotTable_tdu_slotTable_tta (x : SlotTable) : (d.setSlotTable .tdu x).slotTable .tta = d.slotTable .tta := rfl
@[simp] theorem Dev.setSlotTable_tdu_timeValid_tta (x : SlotTable) : (d.setSlotTable .tdu x).timeValid .tta = d.timeValid .tta := rfl
@[simp] theorem Dev.setSlotTable_tdu_timeValid_tdu (x : SlotTable) : (d.setSlotTable .tdu x).timeValid .tdu = d.timeValid .tdu := rfl
@[simp] theorem Dev.setSlotTable_tdu_nowNs_tta (x : SlotTable) : (d.setSlotTable .tdu x).nowNs .tta = d.nowNs .tta := rfl
@[simp] theorem Dev.setSlotTable_tdu_nowNs_tdu (x : SlotTable) : (d.setSlotTable .tdu x).nowNs .tdu = d.nowNs .tdu := rfl
@[simp] theorem Dev.setSlotTable_tdu_snapOf_tdu (x : SlotTable) : (d.setSlotTable .tdu x).snapOf .tdu = d.snapOf .tdu := rfl
@[simp] theorem Dev.setSlotTable_tdu_snapOf_tta (x : SlotTable) : (d.setSlotTable .tdu x).snapOf .tta = d.snapOf .tta := rfl
@[simp] theorem Dev.setSlotTable_tdu_fnq (x : SlotTable) (fn : Fn) : (d.setSlotTable .tdu x).fnq fn = d.fnq fn := by cases fn <;> rfl

/-! ### setSnap_tdu -/

@[simp] theorem Dev.setSnap_tdu_regs (x : Option SnapPending) : (d.setSnap .tdu x).tdu.regs = d.tdu.regs := rfl
@[simp] theorem Dev.setSnap_tdu_fuses (x : Option SnapPending) : (d.setSnap .tdu x).tdu.fuses = d.tdu.fuses := rfl
@[simp] theorem Dev.setSnap_tdu_boot (x : Option SnapPending) : (d.setSnap .tdu x).tdu.boot = d.tdu.boot := rfl
@[simp] theorem Dev.setSnap_tdu_pwr (x : Option SnapPending) : (d.setSnap .tdu x).tdu.pwr = d.tdu.pwr := rfl
@[simp] theorem Dev.setSnap_tdu_time (x : Option SnapPending) : (d.setSnap .tdu x).tdu.time = d.tdu.time := rfl
@[simp] theorem Dev.setSnap_tdu_recorder (x : Option SnapPending) : (d.setSnap .tdu x).tdu.recorder = d.tdu.recorder := rfl
@[simp] theorem Dev.setSnap_tdu_snap (x : Option SnapPending) : (d.setSnap .tdu x).tdu.snap = x := rfl
@[simp] theorem Dev.setSnap_tdu_latched (x : Option SnapPending) : (d.setSnap .tdu x).tdu.latched = d.tdu.latched := rfl
@[simp] theorem Dev.setSnap_tdu_bank (x : Option SnapPending) : (d.setSnap .tdu x).tdu.bank = d.tdu.bank := rfl
@[simp] theorem Dev.setSnap_tdu_smp (x : Option SnapPending) : (d.setSnap .tdu x).tdu.smp = d.tdu.smp := rfl
@[simp] theorem Dev.setSnap_tdu_trc (x : Option SnapPending) : (d.setSnap .tdu x).tdu.trc = d.tdu.trc := rfl
@[simp] theorem Dev.setSnap_tdu_linkKeys (x : Option SnapPending) : (d.setSnap .tdu x).tdu.linkKeys = d.tdu.linkKeys := rfl
@[simp] theorem Dev.setSnap_tdu_chk (x : Option SnapPending) : (d.setSnap .tdu x).tdu.chk = d.tdu.chk := rfl
@[simp] theorem Dev.setSnap_tdu_link0 (x : Option SnapPending) : (d.setSnap .tdu x).tdu.link0 = d.tdu.link0 := rfl
@[simp] theorem Dev.setSnap_tdu_link1 (x : Option SnapPending) : (d.setSnap .tdu x).tdu.link1 = d.tdu.link1 := rfl
@[simp] theorem Dev.setSnap_tdu_slots (x : Option SnapPending) : (d.setSnap .tdu x).tdu.slots = d.tdu.slots := rfl
@[simp] theorem Dev.setSnap_tdu_q (x : Option SnapPending) : (d.setSnap .tdu x).tdu.q = d.tdu.q := rfl
@[simp] theorem Dev.setSnap_tdu_dev_tta (x : Option SnapPending) : (d.setSnap .tdu x).tta = d.tta := rfl
@[simp] theorem Dev.setSnap_tdu_dev_pins (x : Option SnapPending) : (d.setSnap .tdu x).pins = d.pins := rfl
@[simp] theorem Dev.setSnap_tdu_dev_freeIx (x : Option SnapPending) : (d.setSnap .tdu x).freeIx = d.freeIx := rfl
@[simp] theorem Dev.setSnap_tdu_dev_out (x : Option SnapPending) : (d.setSnap .tdu x).out = d.out := rfl
@[simp] theorem Dev.setSnap_tdu_word (x : Option SnapPending) (sp : Space) (a : Nat) : (d.setSnap .tdu x).word sp a = d.word sp a := by cases sp <;> rfl
@[simp] theorem Dev.setSnap_tdu_get (x : Option SnapPending) (y : Fld) : (d.setSnap .tdu x).get y = d.get y := by rw [Dev.get, Dev.get, Dev.setSnap_tdu_word]
@[simp] theorem Dev.setSnap_tdu_bit (x : Option SnapPending) (y : Fld) : (d.setSnap .tdu x).bit y = d.bit y := by rw [Dev.bit, Dev.bit, Dev.setSnap_tdu_get]
@[simp] theorem Dev.setSnap_tdu_tb_tdu (x : Option SnapPending) : (d.setSnap .tdu x).tb .tdu = d.tb .tdu := rfl
@[simp] theorem Dev.setSnap_tdu_tb_tta (x : Option SnapPending) : (d.setSnap .tdu x).tb .tta = d.tb .tta := rfl
@[simp] theorem Dev.setSnap_tdu_recd_tdu (x : Option SnapPending) : (d.setSnap .tdu x).recd .tdu = d.recd .tdu := rfl
@[simp] theorem Dev.setSnap_tdu_recd_tta (x : Option SnapPending) : (d.setSnap .tdu x).recd .tta = d.recd .tta := rfl
@[simp] theorem Dev.setSnap_tdu_slotX (x : Option SnapPending) (m : Nat) : (d.setSnap .tdu x).slotX m = d.slotX m := rfl
@[simp] theorem Dev.setSnap_tdu_tile (x : Option SnapPending) (m : Nat) : (d.setSnap .tdu x).tile m = d.tile m := rfl
@[simp] theorem Dev.setSnap_tdu_graph (x : Option SnapPending) (m : Nat) : (d.setSnap .tdu x).graph m = d.graph m := rfl
@[simp] theorem Dev.setSnap_tdu_port_tta (x : Option SnapPending) (q : Fin 17) : (d.setSnap .tdu x).port (.tta q) = d.port (.tta q) := rfl
@[simp] theorem Dev.setSnap_tdu_slotTable_tdu (x : Option SnapPending) : (d.setSnap .tdu x).slotTable .tdu = d.slotTable .tdu := rfl
@[simp] theorem Dev.setSnap_tdu_slotTable_tta (x : Option SnapPending) : (d.setSnap .tdu x).slotTable .tta = d.slotTable .tta := rfl
@[simp] theorem Dev.setSnap_tdu_timeValid_tta (x : Option SnapPending) : (d.setSnap .tdu x).timeValid .tta = d.timeValid .tta := rfl
@[simp] theorem Dev.setSnap_tdu_timeValid_tdu (x : Option SnapPending) : (d.setSnap .tdu x).timeValid .tdu = d.timeValid .tdu := rfl
@[simp] theorem Dev.setSnap_tdu_nowNs_tta (x : Option SnapPending) : (d.setSnap .tdu x).nowNs .tta = d.nowNs .tta := rfl
@[simp] theorem Dev.setSnap_tdu_nowNs_tdu (x : Option SnapPending) : (d.setSnap .tdu x).nowNs .tdu = d.nowNs .tdu := rfl
@[simp] theorem Dev.setSnap_tdu_snapOf_tta (x : Option SnapPending) : (d.setSnap .tdu x).snapOf .tta = d.snapOf .tta := rfl
@[simp] theorem Dev.setSnap_tdu_fnq (x : Option SnapPending) (fn : Fn) : (d.setSnap .tdu x).fnq fn = d.fnq fn := by cases fn <;> rfl

/-! ### setLatched_tdu -/

@[simp] theorem Dev.setLatched_tdu_regs (x : Option (Memory W64)) : (d.setLatched .tdu x).tdu.regs = d.tdu.regs := rfl
@[simp] theorem Dev.setLatched_tdu_fuses (x : Option (Memory W64)) : (d.setLatched .tdu x).tdu.fuses = d.tdu.fuses := rfl
@[simp] theorem Dev.setLatched_tdu_boot (x : Option (Memory W64)) : (d.setLatched .tdu x).tdu.boot = d.tdu.boot := rfl
@[simp] theorem Dev.setLatched_tdu_pwr (x : Option (Memory W64)) : (d.setLatched .tdu x).tdu.pwr = d.tdu.pwr := rfl
@[simp] theorem Dev.setLatched_tdu_time (x : Option (Memory W64)) : (d.setLatched .tdu x).tdu.time = d.tdu.time := rfl
@[simp] theorem Dev.setLatched_tdu_recorder (x : Option (Memory W64)) : (d.setLatched .tdu x).tdu.recorder = d.tdu.recorder := rfl
@[simp] theorem Dev.setLatched_tdu_snap (x : Option (Memory W64)) : (d.setLatched .tdu x).tdu.snap = d.tdu.snap := rfl
@[simp] theorem Dev.setLatched_tdu_latched (x : Option (Memory W64)) : (d.setLatched .tdu x).tdu.latched = x := rfl
@[simp] theorem Dev.setLatched_tdu_bank (x : Option (Memory W64)) : (d.setLatched .tdu x).tdu.bank = d.tdu.bank := rfl
@[simp] theorem Dev.setLatched_tdu_smp (x : Option (Memory W64)) : (d.setLatched .tdu x).tdu.smp = d.tdu.smp := rfl
@[simp] theorem Dev.setLatched_tdu_trc (x : Option (Memory W64)) : (d.setLatched .tdu x).tdu.trc = d.tdu.trc := rfl
@[simp] theorem Dev.setLatched_tdu_linkKeys (x : Option (Memory W64)) : (d.setLatched .tdu x).tdu.linkKeys = d.tdu.linkKeys := rfl
@[simp] theorem Dev.setLatched_tdu_chk (x : Option (Memory W64)) : (d.setLatched .tdu x).tdu.chk = d.tdu.chk := rfl
@[simp] theorem Dev.setLatched_tdu_link0 (x : Option (Memory W64)) : (d.setLatched .tdu x).tdu.link0 = d.tdu.link0 := rfl
@[simp] theorem Dev.setLatched_tdu_link1 (x : Option (Memory W64)) : (d.setLatched .tdu x).tdu.link1 = d.tdu.link1 := rfl
@[simp] theorem Dev.setLatched_tdu_slots (x : Option (Memory W64)) : (d.setLatched .tdu x).tdu.slots = d.tdu.slots := rfl
@[simp] theorem Dev.setLatched_tdu_q (x : Option (Memory W64)) : (d.setLatched .tdu x).tdu.q = d.tdu.q := rfl
@[simp] theorem Dev.setLatched_tdu_dev_tta (x : Option (Memory W64)) : (d.setLatched .tdu x).tta = d.tta := rfl
@[simp] theorem Dev.setLatched_tdu_dev_pins (x : Option (Memory W64)) : (d.setLatched .tdu x).pins = d.pins := rfl
@[simp] theorem Dev.setLatched_tdu_dev_freeIx (x : Option (Memory W64)) : (d.setLatched .tdu x).freeIx = d.freeIx := rfl
@[simp] theorem Dev.setLatched_tdu_dev_out (x : Option (Memory W64)) : (d.setLatched .tdu x).out = d.out := rfl
@[simp] theorem Dev.setLatched_tdu_word (x : Option (Memory W64)) (sp : Space) (a : Nat) : (d.setLatched .tdu x).word sp a = d.word sp a := by cases sp <;> rfl
@[simp] theorem Dev.setLatched_tdu_get (x : Option (Memory W64)) (y : Fld) : (d.setLatched .tdu x).get y = d.get y := by rw [Dev.get, Dev.get, Dev.setLatched_tdu_word]
@[simp] theorem Dev.setLatched_tdu_bit (x : Option (Memory W64)) (y : Fld) : (d.setLatched .tdu x).bit y = d.bit y := by rw [Dev.bit, Dev.bit, Dev.setLatched_tdu_get]
@[simp] theorem Dev.setLatched_tdu_tb_tdu (x : Option (Memory W64)) : (d.setLatched .tdu x).tb .tdu = d.tb .tdu := rfl
@[simp] theorem Dev.setLatched_tdu_tb_tta (x : Option (Memory W64)) : (d.setLatched .tdu x).tb .tta = d.tb .tta := rfl
@[simp] theorem Dev.setLatched_tdu_recd_tdu (x : Option (Memory W64)) : (d.setLatched .tdu x).recd .tdu = d.recd .tdu := rfl
@[simp] theorem Dev.setLatched_tdu_recd_tta (x : Option (Memory W64)) : (d.setLatched .tdu x).recd .tta = d.recd .tta := rfl
@[simp] theorem Dev.setLatched_tdu_slotX (x : Option (Memory W64)) (m : Nat) : (d.setLatched .tdu x).slotX m = d.slotX m := rfl
@[simp] theorem Dev.setLatched_tdu_tile (x : Option (Memory W64)) (m : Nat) : (d.setLatched .tdu x).tile m = d.tile m := rfl
@[simp] theorem Dev.setLatched_tdu_graph (x : Option (Memory W64)) (m : Nat) : (d.setLatched .tdu x).graph m = d.graph m := rfl
@[simp] theorem Dev.setLatched_tdu_port_tta (x : Option (Memory W64)) (q : Fin 17) : (d.setLatched .tdu x).port (.tta q) = d.port (.tta q) := rfl
@[simp] theorem Dev.setLatched_tdu_slotTable_tdu (x : Option (Memory W64)) : (d.setLatched .tdu x).slotTable .tdu = d.slotTable .tdu := rfl
@[simp] theorem Dev.setLatched_tdu_slotTable_tta (x : Option (Memory W64)) : (d.setLatched .tdu x).slotTable .tta = d.slotTable .tta := rfl
@[simp] theorem Dev.setLatched_tdu_timeValid_tta (x : Option (Memory W64)) : (d.setLatched .tdu x).timeValid .tta = d.timeValid .tta := rfl
@[simp] theorem Dev.setLatched_tdu_timeValid_tdu (x : Option (Memory W64)) : (d.setLatched .tdu x).timeValid .tdu = d.timeValid .tdu := rfl
@[simp] theorem Dev.setLatched_tdu_nowNs_tta (x : Option (Memory W64)) : (d.setLatched .tdu x).nowNs .tta = d.nowNs .tta := rfl
@[simp] theorem Dev.setLatched_tdu_nowNs_tdu (x : Option (Memory W64)) : (d.setLatched .tdu x).nowNs .tdu = d.nowNs .tdu := rfl
@[simp] theorem Dev.setLatched_tdu_snapOf_tdu (x : Option (Memory W64)) : (d.setLatched .tdu x).snapOf .tdu = d.snapOf .tdu := rfl
@[simp] theorem Dev.setLatched_tdu_snapOf_tta (x : Option (Memory W64)) : (d.setLatched .tdu x).snapOf .tta = d.snapOf .tta := rfl
@[simp] theorem Dev.setLatched_tdu_fnq (x : Option (Memory W64)) (fn : Fn) : (d.setLatched .tdu x).fnq fn = d.fnq fn := by cases fn <;> rfl

/-! ### setWord_tdu -/

@[simp] theorem Dev.setWord_tdu_regs (a : Nat) (v : W64) : (d.setWord .tdu a v).tdu.regs = Memory.write (Regs.resetOf .tdu) d.tdu.regs a v := rfl
@[simp] theorem Dev.setWord_tdu_fuses (a : Nat) (v : W64) : (d.setWord .tdu a v).tdu.fuses = d.tdu.fuses := rfl
@[simp] theorem Dev.setWord_tdu_boot (a : Nat) (v : W64) : (d.setWord .tdu a v).tdu.boot = d.tdu.boot := rfl
@[simp] theorem Dev.setWord_tdu_pwr (a : Nat) (v : W64) : (d.setWord .tdu a v).tdu.pwr = d.tdu.pwr := rfl
@[simp] theorem Dev.setWord_tdu_time (a : Nat) (v : W64) : (d.setWord .tdu a v).tdu.time = d.tdu.time := rfl
@[simp] theorem Dev.setWord_tdu_recorder (a : Nat) (v : W64) : (d.setWord .tdu a v).tdu.recorder = d.tdu.recorder := rfl
@[simp] theorem Dev.setWord_tdu_snap (a : Nat) (v : W64) : (d.setWord .tdu a v).tdu.snap = d.tdu.snap := rfl
@[simp] theorem Dev.setWord_tdu_latched (a : Nat) (v : W64) : (d.setWord .tdu a v).tdu.latched = d.tdu.latched := rfl
@[simp] theorem Dev.setWord_tdu_bank (a : Nat) (v : W64) : (d.setWord .tdu a v).tdu.bank = d.tdu.bank := rfl
@[simp] theorem Dev.setWord_tdu_smp (a : Nat) (v : W64) : (d.setWord .tdu a v).tdu.smp = d.tdu.smp := rfl
@[simp] theorem Dev.setWord_tdu_trc (a : Nat) (v : W64) : (d.setWord .tdu a v).tdu.trc = d.tdu.trc := rfl
@[simp] theorem Dev.setWord_tdu_linkKeys (a : Nat) (v : W64) : (d.setWord .tdu a v).tdu.linkKeys = d.tdu.linkKeys := rfl
@[simp] theorem Dev.setWord_tdu_chk (a : Nat) (v : W64) : (d.setWord .tdu a v).tdu.chk = d.tdu.chk := rfl
@[simp] theorem Dev.setWord_tdu_link0 (a : Nat) (v : W64) : (d.setWord .tdu a v).tdu.link0 = d.tdu.link0 := rfl
@[simp] theorem Dev.setWord_tdu_link1 (a : Nat) (v : W64) : (d.setWord .tdu a v).tdu.link1 = d.tdu.link1 := rfl
@[simp] theorem Dev.setWord_tdu_slots (a : Nat) (v : W64) : (d.setWord .tdu a v).tdu.slots = d.tdu.slots := rfl
@[simp] theorem Dev.setWord_tdu_q (a : Nat) (v : W64) : (d.setWord .tdu a v).tdu.q = d.tdu.q := rfl
@[simp] theorem Dev.setWord_tdu_dev_tta (a : Nat) (v : W64) : (d.setWord .tdu a v).tta = d.tta := rfl
@[simp] theorem Dev.setWord_tdu_dev_pins (a : Nat) (v : W64) : (d.setWord .tdu a v).pins = d.pins := rfl
@[simp] theorem Dev.setWord_tdu_dev_freeIx (a : Nat) (v : W64) : (d.setWord .tdu a v).freeIx = d.freeIx := rfl
@[simp] theorem Dev.setWord_tdu_dev_out (a : Nat) (v : W64) : (d.setWord .tdu a v).out = d.out := rfl
@[simp] theorem Dev.setWord_tdu_tb_tdu (a : Nat) (v : W64) : (d.setWord .tdu a v).tb .tdu = d.tb .tdu := rfl
@[simp] theorem Dev.setWord_tdu_tb_tta (a : Nat) (v : W64) : (d.setWord .tdu a v).tb .tta = d.tb .tta := rfl
@[simp] theorem Dev.setWord_tdu_recd_tdu (a : Nat) (v : W64) : (d.setWord .tdu a v).recd .tdu = d.recd .tdu := rfl
@[simp] theorem Dev.setWord_tdu_recd_tta (a : Nat) (v : W64) : (d.setWord .tdu a v).recd .tta = d.recd .tta := rfl
@[simp] theorem Dev.setWord_tdu_slotX (a : Nat) (v : W64) (m : Nat) : (d.setWord .tdu a v).slotX m = d.slotX m := rfl
@[simp] theorem Dev.setWord_tdu_tile (a : Nat) (v : W64) (m : Nat) : (d.setWord .tdu a v).tile m = d.tile m := rfl
@[simp] theorem Dev.setWord_tdu_graph (a : Nat) (v : W64) (m : Nat) : (d.setWord .tdu a v).graph m = d.graph m := rfl
@[simp] theorem Dev.setWord_tdu_port_tta (a : Nat) (v : W64) (q : Fin 17) : (d.setWord .tdu a v).port (.tta q) = d.port (.tta q) := rfl
@[simp] theorem Dev.setWord_tdu_slotTable_tdu (a : Nat) (v : W64) : (d.setWord .tdu a v).slotTable .tdu = d.slotTable .tdu := rfl
@[simp] theorem Dev.setWord_tdu_slotTable_tta (a : Nat) (v : W64) : (d.setWord .tdu a v).slotTable .tta = d.slotTable .tta := rfl
@[simp] theorem Dev.setWord_tdu_timeValid_tta (a : Nat) (v : W64) : (d.setWord .tdu a v).timeValid .tta = d.timeValid .tta := rfl
@[simp] theorem Dev.setWord_tdu_timeValid_tdu (a : Nat) (v : W64) : (d.setWord .tdu a v).timeValid .tdu = d.timeValid .tdu := rfl
@[simp] theorem Dev.setWord_tdu_nowNs_tta (a : Nat) (v : W64) : (d.setWord .tdu a v).nowNs .tta = d.nowNs .tta := rfl
@[simp] theorem Dev.setWord_tdu_nowNs_tdu (a : Nat) (v : W64) : (d.setWord .tdu a v).nowNs .tdu = d.nowNs .tdu := rfl
@[simp] theorem Dev.setWord_tdu_snapOf_tdu (a : Nat) (v : W64) : (d.setWord .tdu a v).snapOf .tdu = d.snapOf .tdu := rfl
@[simp] theorem Dev.setWord_tdu_snapOf_tta (a : Nat) (v : W64) : (d.setWord .tdu a v).snapOf .tta = d.snapOf .tta := rfl
@[simp] theorem Dev.setWord_tdu_fnq (a : Nat) (v : W64) (fn : Fn) : (d.setWord .tdu a v).fnq fn = d.fnq fn := by cases fn <;> rfl

/-! ### setTb_tta -/

@[simp] theorem Dev.setTb_tta_regs (b : TimeBase) : (d.setTb .tta b).tta.regs = d.tta.regs := rfl
@[simp] theorem Dev.setTb_tta_fuses (b : TimeBase) : (d.setTb .tta b).tta.fuses = d.tta.fuses := rfl
@[simp] theorem Dev.setTb_tta_boot (b : TimeBase) : (d.setTb .tta b).tta.boot = d.tta.boot := rfl
@[simp] theorem Dev.setTb_tta_pwr (b : TimeBase) : (d.setTb .tta b).tta.pwr = d.tta.pwr := rfl
@[simp] theorem Dev.setTb_tta_mtp (b : TimeBase) : (d.setTb .tta b).tta.mtp = d.tta.mtp := rfl
@[simp] theorem Dev.setTb_tta_mtpCut (b : TimeBase) : (d.setTb .tta b).tta.mtpCut = d.tta.mtpCut := rfl
@[simp] theorem Dev.setTb_tta_cal (b : TimeBase) : (d.setTb .tta b).tta.cal = d.tta.cal := rfl
@[simp] theorem Dev.setTb_tta_time (b : TimeBase) : (d.setTb .tta b).tta.time = { d.tta.time with base := b } := rfl
@[simp] theorem Dev.setTb_tta_recorder (b : TimeBase) : (d.setTb .tta b).tta.recorder = d.tta.recorder := rfl
@[simp] theorem Dev.setTb_tta_snap (b : TimeBase) : (d.setTb .tta b).tta.snap = d.tta.snap := rfl
@[simp] theorem Dev.setTb_tta_latched (b : TimeBase) : (d.setTb .tta b).tta.latched = d.tta.latched := rfl
@[simp] theorem Dev.setTb_tta_links (b : TimeBase) : (d.setTb .tta b).tta.links = d.tta.links := rfl
@[simp] theorem Dev.setTb_tta_slots (b : TimeBase) : (d.setTb .tta b).tta.slots = d.tta.slots := rfl
@[simp] theorem Dev.setTb_tta_arbiters (b : TimeBase) : (d.setTb .tta b).tta.arbiters = d.tta.arbiters := rfl
@[simp] theorem Dev.setTb_tta_fns (b : TimeBase) : (d.setTb .tta b).tta.fns = d.tta.fns := rfl
@[simp] theorem Dev.setTb_tta_mirrored (b : TimeBase) : (d.setTb .tta b).tta.mirrored = d.tta.mirrored := rfl
@[simp] theorem Dev.setTb_tta_tiles (b : TimeBase) : (d.setTb .tta b).tta.tiles = d.tta.tiles := rfl
@[simp] theorem Dev.setTb_tta_graphs (b : TimeBase) : (d.setTb .tta b).tta.graphs = d.tta.graphs := rfl
@[simp] theorem Dev.setTb_tta_hist (b : TimeBase) : (d.setTb .tta b).tta.hist = d.tta.hist := rfl
@[simp] theorem Dev.setTb_tta_slotsX (b : TimeBase) : (d.setTb .tta b).tta.slotsX = d.tta.slotsX := rfl
@[simp] theorem Dev.setTb_tta_retireDue (b : TimeBase) : (d.setTb .tta b).tta.retireDue = d.tta.retireDue := rfl
@[simp] theorem Dev.setTb_tta_ing (b : TimeBase) : (d.setTb .tta b).tta.ing = d.tta.ing := rfl
@[simp] theorem Dev.setTb_tta_twin (b : TimeBase) : (d.setTb .tta b).tta.twin = d.tta.twin := rfl
@[simp] theorem Dev.setTb_tta_sett (b : TimeBase) : (d.setTb .tta b).tta.sett = d.tta.sett := rfl
@[simp] theorem Dev.setTb_tta_captures (b : TimeBase) : (d.setTb .tta b).tta.captures = d.tta.captures := rfl
@[simp] theorem Dev.setTb_tta_tables (b : TimeBase) : (d.setTb .tta b).tta.tables = d.tta.tables := rfl
@[simp] theorem Dev.setTb_tta_wrn (b : TimeBase) : (d.setTb .tta b).tta.wrn = d.tta.wrn := rfl
@[simp] theorem Dev.setTb_tta_det (b : TimeBase) : (d.setTb .tta b).tta.det = d.tta.det := rfl
@[simp] theorem Dev.setTb_tta_chk (b : TimeBase) : (d.setTb .tta b).tta.chk = d.tta.chk := rfl
@[simp] theorem Dev.setTb_tta_rpt (b : TimeBase) : (d.setTb .tta b).tta.rpt = d.tta.rpt := rfl
@[simp] theorem Dev.setTb_tta_cmp (b : TimeBase) : (d.setTb .tta b).tta.cmp = d.tta.cmp := rfl
@[simp] theorem Dev.setTb_tta_dev_tdu (b : TimeBase) : (d.setTb .tta b).tdu = d.tdu := rfl
@[simp] theorem Dev.setTb_tta_dev_pins (b : TimeBase) : (d.setTb .tta b).pins = d.pins := rfl
@[simp] theorem Dev.setTb_tta_dev_freeIx (b : TimeBase) : (d.setTb .tta b).freeIx = d.freeIx := rfl
@[simp] theorem Dev.setTb_tta_dev_out (b : TimeBase) : (d.setTb .tta b).out = d.out := rfl
@[simp] theorem Dev.setTb_tta_word (b : TimeBase) (sp : Space) (a : Nat) : (d.setTb .tta b).word sp a = d.word sp a := by cases sp <;> rfl
@[simp] theorem Dev.setTb_tta_get (b : TimeBase) (y : Fld) : (d.setTb .tta b).get y = d.get y := by rw [Dev.get, Dev.get, Dev.setTb_tta_word]
@[simp] theorem Dev.setTb_tta_bit (b : TimeBase) (y : Fld) : (d.setTb .tta b).bit y = d.bit y := by rw [Dev.bit, Dev.bit, Dev.setTb_tta_get]
@[simp] theorem Dev.setTb_tta_tb_tdu (b : TimeBase) : (d.setTb .tta b).tb .tdu = d.tb .tdu := rfl
@[simp] theorem Dev.setTb_tta_recd_tdu (b : TimeBase) : (d.setTb .tta b).recd .tdu = d.recd .tdu := rfl
@[simp] theorem Dev.setTb_tta_recd_tta (b : TimeBase) : (d.setTb .tta b).recd .tta = d.recd .tta := rfl
@[simp] theorem Dev.setTb_tta_slotX (b : TimeBase) (m : Nat) : (d.setTb .tta b).slotX m = d.slotX m := rfl
@[simp] theorem Dev.setTb_tta_tile (b : TimeBase) (m : Nat) : (d.setTb .tta b).tile m = d.tile m := rfl
@[simp] theorem Dev.setTb_tta_graph (b : TimeBase) (m : Nat) : (d.setTb .tta b).graph m = d.graph m := rfl
@[simp] theorem Dev.setTb_tta_port_tta (b : TimeBase) (q : Fin 17) : (d.setTb .tta b).port (.tta q) = d.port (.tta q) := rfl
@[simp] theorem Dev.setTb_tta_slotTable_tdu (b : TimeBase) : (d.setTb .tta b).slotTable .tdu = d.slotTable .tdu := rfl
@[simp] theorem Dev.setTb_tta_slotTable_tta (b : TimeBase) : (d.setTb .tta b).slotTable .tta = d.slotTable .tta := rfl
@[simp] theorem Dev.setTb_tta_timeValid_tdu (b : TimeBase) : (d.setTb .tta b).timeValid .tdu = d.timeValid .tdu := rfl
@[simp] theorem Dev.setTb_tta_nowNs_tdu (b : TimeBase) : (d.setTb .tta b).nowNs .tdu = d.nowNs .tdu := rfl
@[simp] theorem Dev.setTb_tta_snapOf_tdu (b : TimeBase) : (d.setTb .tta b).snapOf .tdu = d.snapOf .tdu := rfl
@[simp] theorem Dev.setTb_tta_snapOf_tta (b : TimeBase) : (d.setTb .tta b).snapOf .tta = d.snapOf .tta := rfl
@[simp] theorem Dev.setTb_tta_fnq (b : TimeBase) (fn : Fn) : (d.setTb .tta b).fnq fn = d.fnq fn := by cases fn <;> rfl

/-! ### setRecd_tta -/

@[simp] theorem Dev.setRecd_tta_regs (r : Recorder) : (d.setRecd .tta r).tta.regs = d.tta.regs := rfl
@[simp] theorem Dev.setRecd_tta_fuses (r : Recorder) : (d.setRecd .tta r).tta.fuses = d.tta.fuses := rfl
@[simp] theorem Dev.setRecd_tta_boot (r : Recorder) : (d.setRecd .tta r).tta.boot = d.tta.boot := rfl
@[simp] theorem Dev.setRecd_tta_pwr (r : Recorder) : (d.setRecd .tta r).tta.pwr = d.tta.pwr := rfl
@[simp] theorem Dev.setRecd_tta_mtp (r : Recorder) : (d.setRecd .tta r).tta.mtp = d.tta.mtp := rfl
@[simp] theorem Dev.setRecd_tta_mtpCut (r : Recorder) : (d.setRecd .tta r).tta.mtpCut = d.tta.mtpCut := rfl
@[simp] theorem Dev.setRecd_tta_cal (r : Recorder) : (d.setRecd .tta r).tta.cal = d.tta.cal := rfl
@[simp] theorem Dev.setRecd_tta_time (r : Recorder) : (d.setRecd .tta r).tta.time = d.tta.time := rfl
@[simp] theorem Dev.setRecd_tta_recorder (r : Recorder) : (d.setRecd .tta r).tta.recorder = r := rfl
@[simp] theorem Dev.setRecd_tta_snap (r : Recorder) : (d.setRecd .tta r).tta.snap = d.tta.snap := rfl
@[simp] theorem Dev.setRecd_tta_latched (r : Recorder) : (d.setRecd .tta r).tta.latched = d.tta.latched := rfl
@[simp] theorem Dev.setRecd_tta_links (r : Recorder) : (d.setRecd .tta r).tta.links = d.tta.links := rfl
@[simp] theorem Dev.setRecd_tta_slots (r : Recorder) : (d.setRecd .tta r).tta.slots = d.tta.slots := rfl
@[simp] theorem Dev.setRecd_tta_arbiters (r : Recorder) : (d.setRecd .tta r).tta.arbiters = d.tta.arbiters := rfl
@[simp] theorem Dev.setRecd_tta_fns (r : Recorder) : (d.setRecd .tta r).tta.fns = d.tta.fns := rfl
@[simp] theorem Dev.setRecd_tta_mirrored (r : Recorder) : (d.setRecd .tta r).tta.mirrored = d.tta.mirrored := rfl
@[simp] theorem Dev.setRecd_tta_tiles (r : Recorder) : (d.setRecd .tta r).tta.tiles = d.tta.tiles := rfl
@[simp] theorem Dev.setRecd_tta_graphs (r : Recorder) : (d.setRecd .tta r).tta.graphs = d.tta.graphs := rfl
@[simp] theorem Dev.setRecd_tta_hist (r : Recorder) : (d.setRecd .tta r).tta.hist = d.tta.hist := rfl
@[simp] theorem Dev.setRecd_tta_slotsX (r : Recorder) : (d.setRecd .tta r).tta.slotsX = d.tta.slotsX := rfl
@[simp] theorem Dev.setRecd_tta_retireDue (r : Recorder) : (d.setRecd .tta r).tta.retireDue = d.tta.retireDue := rfl
@[simp] theorem Dev.setRecd_tta_ing (r : Recorder) : (d.setRecd .tta r).tta.ing = d.tta.ing := rfl
@[simp] theorem Dev.setRecd_tta_twin (r : Recorder) : (d.setRecd .tta r).tta.twin = d.tta.twin := rfl
@[simp] theorem Dev.setRecd_tta_sett (r : Recorder) : (d.setRecd .tta r).tta.sett = d.tta.sett := rfl
@[simp] theorem Dev.setRecd_tta_captures (r : Recorder) : (d.setRecd .tta r).tta.captures = d.tta.captures := rfl
@[simp] theorem Dev.setRecd_tta_tables (r : Recorder) : (d.setRecd .tta r).tta.tables = d.tta.tables := rfl
@[simp] theorem Dev.setRecd_tta_wrn (r : Recorder) : (d.setRecd .tta r).tta.wrn = d.tta.wrn := rfl
@[simp] theorem Dev.setRecd_tta_det (r : Recorder) : (d.setRecd .tta r).tta.det = d.tta.det := rfl
@[simp] theorem Dev.setRecd_tta_chk (r : Recorder) : (d.setRecd .tta r).tta.chk = d.tta.chk := rfl
@[simp] theorem Dev.setRecd_tta_rpt (r : Recorder) : (d.setRecd .tta r).tta.rpt = d.tta.rpt := rfl
@[simp] theorem Dev.setRecd_tta_cmp (r : Recorder) : (d.setRecd .tta r).tta.cmp = d.tta.cmp := rfl
@[simp] theorem Dev.setRecd_tta_dev_tdu (r : Recorder) : (d.setRecd .tta r).tdu = d.tdu := rfl
@[simp] theorem Dev.setRecd_tta_dev_pins (r : Recorder) : (d.setRecd .tta r).pins = d.pins := rfl
@[simp] theorem Dev.setRecd_tta_dev_freeIx (r : Recorder) : (d.setRecd .tta r).freeIx = d.freeIx := rfl
@[simp] theorem Dev.setRecd_tta_dev_out (r : Recorder) : (d.setRecd .tta r).out = d.out := rfl
@[simp] theorem Dev.setRecd_tta_word (r : Recorder) (sp : Space) (a : Nat) : (d.setRecd .tta r).word sp a = d.word sp a := by cases sp <;> rfl
@[simp] theorem Dev.setRecd_tta_get (r : Recorder) (y : Fld) : (d.setRecd .tta r).get y = d.get y := by rw [Dev.get, Dev.get, Dev.setRecd_tta_word]
@[simp] theorem Dev.setRecd_tta_bit (r : Recorder) (y : Fld) : (d.setRecd .tta r).bit y = d.bit y := by rw [Dev.bit, Dev.bit, Dev.setRecd_tta_get]
@[simp] theorem Dev.setRecd_tta_tb_tdu (r : Recorder) : (d.setRecd .tta r).tb .tdu = d.tb .tdu := rfl
@[simp] theorem Dev.setRecd_tta_tb_tta (r : Recorder) : (d.setRecd .tta r).tb .tta = d.tb .tta := rfl
@[simp] theorem Dev.setRecd_tta_recd_tdu (r : Recorder) : (d.setRecd .tta r).recd .tdu = d.recd .tdu := rfl
@[simp] theorem Dev.setRecd_tta_slotX (r : Recorder) (m : Nat) : (d.setRecd .tta r).slotX m = d.slotX m := rfl
@[simp] theorem Dev.setRecd_tta_tile (r : Recorder) (m : Nat) : (d.setRecd .tta r).tile m = d.tile m := rfl
@[simp] theorem Dev.setRecd_tta_graph (r : Recorder) (m : Nat) : (d.setRecd .tta r).graph m = d.graph m := rfl
@[simp] theorem Dev.setRecd_tta_port_tta (r : Recorder) (q : Fin 17) : (d.setRecd .tta r).port (.tta q) = d.port (.tta q) := rfl
@[simp] theorem Dev.setRecd_tta_slotTable_tdu (r : Recorder) : (d.setRecd .tta r).slotTable .tdu = d.slotTable .tdu := rfl
@[simp] theorem Dev.setRecd_tta_slotTable_tta (r : Recorder) : (d.setRecd .tta r).slotTable .tta = d.slotTable .tta := rfl
@[simp] theorem Dev.setRecd_tta_timeValid_tta (r : Recorder) : (d.setRecd .tta r).timeValid .tta = d.timeValid .tta := rfl
@[simp] theorem Dev.setRecd_tta_timeValid_tdu (r : Recorder) : (d.setRecd .tta r).timeValid .tdu = d.timeValid .tdu := rfl
@[simp] theorem Dev.setRecd_tta_nowNs_tta (r : Recorder) : (d.setRecd .tta r).nowNs .tta = d.nowNs .tta := rfl
@[simp] theorem Dev.setRecd_tta_nowNs_tdu (r : Recorder) : (d.setRecd .tta r).nowNs .tdu = d.nowNs .tdu := rfl
@[simp] theorem Dev.setRecd_tta_snapOf_tdu (r : Recorder) : (d.setRecd .tta r).snapOf .tdu = d.snapOf .tdu := rfl
@[simp] theorem Dev.setRecd_tta_snapOf_tta (r : Recorder) : (d.setRecd .tta r).snapOf .tta = d.snapOf .tta := rfl
@[simp] theorem Dev.setRecd_tta_fnq (r : Recorder) (fn : Fn) : (d.setRecd .tta r).fnq fn = d.fnq fn := by cases fn <;> rfl

/-! ### setSlotTable_tta -/

@[simp] theorem Dev.setSlotTable_tta_regs (x : SlotTable) : (d.setSlotTable .tta x).tta.regs = d.tta.regs := rfl
@[simp] theorem Dev.setSlotTable_tta_fuses (x : SlotTable) : (d.setSlotTable .tta x).tta.fuses = d.tta.fuses := rfl
@[simp] theorem Dev.setSlotTable_tta_boot (x : SlotTable) : (d.setSlotTable .tta x).tta.boot = d.tta.boot := rfl
@[simp] theorem Dev.setSlotTable_tta_pwr (x : SlotTable) : (d.setSlotTable .tta x).tta.pwr = d.tta.pwr := rfl
@[simp] theorem Dev.setSlotTable_tta_mtp (x : SlotTable) : (d.setSlotTable .tta x).tta.mtp = d.tta.mtp := rfl
@[simp] theorem Dev.setSlotTable_tta_mtpCut (x : SlotTable) : (d.setSlotTable .tta x).tta.mtpCut = d.tta.mtpCut := rfl
@[simp] theorem Dev.setSlotTable_tta_cal (x : SlotTable) : (d.setSlotTable .tta x).tta.cal = d.tta.cal := rfl
@[simp] theorem Dev.setSlotTable_tta_time (x : SlotTable) : (d.setSlotTable .tta x).tta.time = d.tta.time := rfl
@[simp] theorem Dev.setSlotTable_tta_recorder (x : SlotTable) : (d.setSlotTable .tta x).tta.recorder = d.tta.recorder := rfl
@[simp] theorem Dev.setSlotTable_tta_snap (x : SlotTable) : (d.setSlotTable .tta x).tta.snap = d.tta.snap := rfl
@[simp] theorem Dev.setSlotTable_tta_latched (x : SlotTable) : (d.setSlotTable .tta x).tta.latched = d.tta.latched := rfl
@[simp] theorem Dev.setSlotTable_tta_links (x : SlotTable) : (d.setSlotTable .tta x).tta.links = d.tta.links := rfl
@[simp] theorem Dev.setSlotTable_tta_slots (x : SlotTable) : (d.setSlotTable .tta x).tta.slots = x := rfl
@[simp] theorem Dev.setSlotTable_tta_arbiters (x : SlotTable) : (d.setSlotTable .tta x).tta.arbiters = d.tta.arbiters := rfl
@[simp] theorem Dev.setSlotTable_tta_fns (x : SlotTable) : (d.setSlotTable .tta x).tta.fns = d.tta.fns := rfl
@[simp] theorem Dev.setSlotTable_tta_mirrored (x : SlotTable) : (d.setSlotTable .tta x).tta.mirrored = d.tta.mirrored := rfl
@[simp] theorem Dev.setSlotTable_tta_tiles (x : SlotTable) : (d.setSlotTable .tta x).tta.tiles = d.tta.tiles := rfl
@[simp] theorem Dev.setSlotTable_tta_graphs (x : SlotTable) : (d.setSlotTable .tta x).tta.graphs = d.tta.graphs := rfl
@[simp] theorem Dev.setSlotTable_tta_hist (x : SlotTable) : (d.setSlotTable .tta x).tta.hist = d.tta.hist := rfl
@[simp] theorem Dev.setSlotTable_tta_slotsX (x : SlotTable) : (d.setSlotTable .tta x).tta.slotsX = d.tta.slotsX := rfl
@[simp] theorem Dev.setSlotTable_tta_retireDue (x : SlotTable) : (d.setSlotTable .tta x).tta.retireDue = d.tta.retireDue := rfl
@[simp] theorem Dev.setSlotTable_tta_ing (x : SlotTable) : (d.setSlotTable .tta x).tta.ing = d.tta.ing := rfl
@[simp] theorem Dev.setSlotTable_tta_twin (x : SlotTable) : (d.setSlotTable .tta x).tta.twin = d.tta.twin := rfl
@[simp] theorem Dev.setSlotTable_tta_sett (x : SlotTable) : (d.setSlotTable .tta x).tta.sett = d.tta.sett := rfl
@[simp] theorem Dev.setSlotTable_tta_captures (x : SlotTable) : (d.setSlotTable .tta x).tta.captures = d.tta.captures := rfl
@[simp] theorem Dev.setSlotTable_tta_tables (x : SlotTable) : (d.setSlotTable .tta x).tta.tables = d.tta.tables := rfl
@[simp] theorem Dev.setSlotTable_tta_wrn (x : SlotTable) : (d.setSlotTable .tta x).tta.wrn = d.tta.wrn := rfl
@[simp] theorem Dev.setSlotTable_tta_det (x : SlotTable) : (d.setSlotTable .tta x).tta.det = d.tta.det := rfl
@[simp] theorem Dev.setSlotTable_tta_chk (x : SlotTable) : (d.setSlotTable .tta x).tta.chk = d.tta.chk := rfl
@[simp] theorem Dev.setSlotTable_tta_rpt (x : SlotTable) : (d.setSlotTable .tta x).tta.rpt = d.tta.rpt := rfl
@[simp] theorem Dev.setSlotTable_tta_cmp (x : SlotTable) : (d.setSlotTable .tta x).tta.cmp = d.tta.cmp := rfl
@[simp] theorem Dev.setSlotTable_tta_dev_tdu (x : SlotTable) : (d.setSlotTable .tta x).tdu = d.tdu := rfl
@[simp] theorem Dev.setSlotTable_tta_dev_pins (x : SlotTable) : (d.setSlotTable .tta x).pins = d.pins := rfl
@[simp] theorem Dev.setSlotTable_tta_dev_freeIx (x : SlotTable) : (d.setSlotTable .tta x).freeIx = d.freeIx := rfl
@[simp] theorem Dev.setSlotTable_tta_dev_out (x : SlotTable) : (d.setSlotTable .tta x).out = d.out := rfl
@[simp] theorem Dev.setSlotTable_tta_word (x : SlotTable) (sp : Space) (a : Nat) : (d.setSlotTable .tta x).word sp a = d.word sp a := by cases sp <;> rfl
@[simp] theorem Dev.setSlotTable_tta_get (x : SlotTable) (y : Fld) : (d.setSlotTable .tta x).get y = d.get y := by rw [Dev.get, Dev.get, Dev.setSlotTable_tta_word]
@[simp] theorem Dev.setSlotTable_tta_bit (x : SlotTable) (y : Fld) : (d.setSlotTable .tta x).bit y = d.bit y := by rw [Dev.bit, Dev.bit, Dev.setSlotTable_tta_get]
@[simp] theorem Dev.setSlotTable_tta_tb_tdu (x : SlotTable) : (d.setSlotTable .tta x).tb .tdu = d.tb .tdu := rfl
@[simp] theorem Dev.setSlotTable_tta_tb_tta (x : SlotTable) : (d.setSlotTable .tta x).tb .tta = d.tb .tta := rfl
@[simp] theorem Dev.setSlotTable_tta_recd_tdu (x : SlotTable) : (d.setSlotTable .tta x).recd .tdu = d.recd .tdu := rfl
@[simp] theorem Dev.setSlotTable_tta_recd_tta (x : SlotTable) : (d.setSlotTable .tta x).recd .tta = d.recd .tta := rfl
@[simp] theorem Dev.setSlotTable_tta_slotX (x : SlotTable) (m : Nat) : (d.setSlotTable .tta x).slotX m = d.slotX m := rfl
@[simp] theorem Dev.setSlotTable_tta_tile (x : SlotTable) (m : Nat) : (d.setSlotTable .tta x).tile m = d.tile m := rfl
@[simp] theorem Dev.setSlotTable_tta_graph (x : SlotTable) (m : Nat) : (d.setSlotTable .tta x).graph m = d.graph m := rfl
@[simp] theorem Dev.setSlotTable_tta_port_tta (x : SlotTable) (q : Fin 17) : (d.setSlotTable .tta x).port (.tta q) = d.port (.tta q) := rfl
@[simp] theorem Dev.setSlotTable_tta_slotTable_tdu (x : SlotTable) : (d.setSlotTable .tta x).slotTable .tdu = d.slotTable .tdu := rfl
@[simp] theorem Dev.setSlotTable_tta_timeValid_tta (x : SlotTable) : (d.setSlotTable .tta x).timeValid .tta = d.timeValid .tta := rfl
@[simp] theorem Dev.setSlotTable_tta_timeValid_tdu (x : SlotTable) : (d.setSlotTable .tta x).timeValid .tdu = d.timeValid .tdu := rfl
@[simp] theorem Dev.setSlotTable_tta_nowNs_tta (x : SlotTable) : (d.setSlotTable .tta x).nowNs .tta = d.nowNs .tta := rfl
@[simp] theorem Dev.setSlotTable_tta_nowNs_tdu (x : SlotTable) : (d.setSlotTable .tta x).nowNs .tdu = d.nowNs .tdu := rfl
@[simp] theorem Dev.setSlotTable_tta_snapOf_tdu (x : SlotTable) : (d.setSlotTable .tta x).snapOf .tdu = d.snapOf .tdu := rfl
@[simp] theorem Dev.setSlotTable_tta_snapOf_tta (x : SlotTable) : (d.setSlotTable .tta x).snapOf .tta = d.snapOf .tta := rfl
@[simp] theorem Dev.setSlotTable_tta_fnq (x : SlotTable) (fn : Fn) : (d.setSlotTable .tta x).fnq fn = d.fnq fn := by cases fn <;> rfl

/-! ### setSnap_tta -/

@[simp] theorem Dev.setSnap_tta_regs (x : Option SnapPending) : (d.setSnap .tta x).tta.regs = d.tta.regs := rfl
@[simp] theorem Dev.setSnap_tta_fuses (x : Option SnapPending) : (d.setSnap .tta x).tta.fuses = d.tta.fuses := rfl
@[simp] theorem Dev.setSnap_tta_boot (x : Option SnapPending) : (d.setSnap .tta x).tta.boot = d.tta.boot := rfl
@[simp] theorem Dev.setSnap_tta_pwr (x : Option SnapPending) : (d.setSnap .tta x).tta.pwr = d.tta.pwr := rfl
@[simp] theorem Dev.setSnap_tta_mtp (x : Option SnapPending) : (d.setSnap .tta x).tta.mtp = d.tta.mtp := rfl
@[simp] theorem Dev.setSnap_tta_mtpCut (x : Option SnapPending) : (d.setSnap .tta x).tta.mtpCut = d.tta.mtpCut := rfl
@[simp] theorem Dev.setSnap_tta_cal (x : Option SnapPending) : (d.setSnap .tta x).tta.cal = d.tta.cal := rfl
@[simp] theorem Dev.setSnap_tta_time (x : Option SnapPending) : (d.setSnap .tta x).tta.time = d.tta.time := rfl
@[simp] theorem Dev.setSnap_tta_recorder (x : Option SnapPending) : (d.setSnap .tta x).tta.recorder = d.tta.recorder := rfl
@[simp] theorem Dev.setSnap_tta_snap (x : Option SnapPending) : (d.setSnap .tta x).tta.snap = x := rfl
@[simp] theorem Dev.setSnap_tta_latched (x : Option SnapPending) : (d.setSnap .tta x).tta.latched = d.tta.latched := rfl
@[simp] theorem Dev.setSnap_tta_links (x : Option SnapPending) : (d.setSnap .tta x).tta.links = d.tta.links := rfl
@[simp] theorem Dev.setSnap_tta_slots (x : Option SnapPending) : (d.setSnap .tta x).tta.slots = d.tta.slots := rfl
@[simp] theorem Dev.setSnap_tta_arbiters (x : Option SnapPending) : (d.setSnap .tta x).tta.arbiters = d.tta.arbiters := rfl
@[simp] theorem Dev.setSnap_tta_fns (x : Option SnapPending) : (d.setSnap .tta x).tta.fns = d.tta.fns := rfl
@[simp] theorem Dev.setSnap_tta_mirrored (x : Option SnapPending) : (d.setSnap .tta x).tta.mirrored = d.tta.mirrored := rfl
@[simp] theorem Dev.setSnap_tta_tiles (x : Option SnapPending) : (d.setSnap .tta x).tta.tiles = d.tta.tiles := rfl
@[simp] theorem Dev.setSnap_tta_graphs (x : Option SnapPending) : (d.setSnap .tta x).tta.graphs = d.tta.graphs := rfl
@[simp] theorem Dev.setSnap_tta_hist (x : Option SnapPending) : (d.setSnap .tta x).tta.hist = d.tta.hist := rfl
@[simp] theorem Dev.setSnap_tta_slotsX (x : Option SnapPending) : (d.setSnap .tta x).tta.slotsX = d.tta.slotsX := rfl
@[simp] theorem Dev.setSnap_tta_retireDue (x : Option SnapPending) : (d.setSnap .tta x).tta.retireDue = d.tta.retireDue := rfl
@[simp] theorem Dev.setSnap_tta_ing (x : Option SnapPending) : (d.setSnap .tta x).tta.ing = d.tta.ing := rfl
@[simp] theorem Dev.setSnap_tta_twin (x : Option SnapPending) : (d.setSnap .tta x).tta.twin = d.tta.twin := rfl
@[simp] theorem Dev.setSnap_tta_sett (x : Option SnapPending) : (d.setSnap .tta x).tta.sett = d.tta.sett := rfl
@[simp] theorem Dev.setSnap_tta_captures (x : Option SnapPending) : (d.setSnap .tta x).tta.captures = d.tta.captures := rfl
@[simp] theorem Dev.setSnap_tta_tables (x : Option SnapPending) : (d.setSnap .tta x).tta.tables = d.tta.tables := rfl
@[simp] theorem Dev.setSnap_tta_wrn (x : Option SnapPending) : (d.setSnap .tta x).tta.wrn = d.tta.wrn := rfl
@[simp] theorem Dev.setSnap_tta_det (x : Option SnapPending) : (d.setSnap .tta x).tta.det = d.tta.det := rfl
@[simp] theorem Dev.setSnap_tta_chk (x : Option SnapPending) : (d.setSnap .tta x).tta.chk = d.tta.chk := rfl
@[simp] theorem Dev.setSnap_tta_rpt (x : Option SnapPending) : (d.setSnap .tta x).tta.rpt = d.tta.rpt := rfl
@[simp] theorem Dev.setSnap_tta_cmp (x : Option SnapPending) : (d.setSnap .tta x).tta.cmp = d.tta.cmp := rfl
@[simp] theorem Dev.setSnap_tta_dev_tdu (x : Option SnapPending) : (d.setSnap .tta x).tdu = d.tdu := rfl
@[simp] theorem Dev.setSnap_tta_dev_pins (x : Option SnapPending) : (d.setSnap .tta x).pins = d.pins := rfl
@[simp] theorem Dev.setSnap_tta_dev_freeIx (x : Option SnapPending) : (d.setSnap .tta x).freeIx = d.freeIx := rfl
@[simp] theorem Dev.setSnap_tta_dev_out (x : Option SnapPending) : (d.setSnap .tta x).out = d.out := rfl
@[simp] theorem Dev.setSnap_tta_word (x : Option SnapPending) (sp : Space) (a : Nat) : (d.setSnap .tta x).word sp a = d.word sp a := by cases sp <;> rfl
@[simp] theorem Dev.setSnap_tta_get (x : Option SnapPending) (y : Fld) : (d.setSnap .tta x).get y = d.get y := by rw [Dev.get, Dev.get, Dev.setSnap_tta_word]
@[simp] theorem Dev.setSnap_tta_bit (x : Option SnapPending) (y : Fld) : (d.setSnap .tta x).bit y = d.bit y := by rw [Dev.bit, Dev.bit, Dev.setSnap_tta_get]
@[simp] theorem Dev.setSnap_tta_tb_tdu (x : Option SnapPending) : (d.setSnap .tta x).tb .tdu = d.tb .tdu := rfl
@[simp] theorem Dev.setSnap_tta_tb_tta (x : Option SnapPending) : (d.setSnap .tta x).tb .tta = d.tb .tta := rfl
@[simp] theorem Dev.setSnap_tta_recd_tdu (x : Option SnapPending) : (d.setSnap .tta x).recd .tdu = d.recd .tdu := rfl
@[simp] theorem Dev.setSnap_tta_recd_tta (x : Option SnapPending) : (d.setSnap .tta x).recd .tta = d.recd .tta := rfl
@[simp] theorem Dev.setSnap_tta_slotX (x : Option SnapPending) (m : Nat) : (d.setSnap .tta x).slotX m = d.slotX m := rfl
@[simp] theorem Dev.setSnap_tta_tile (x : Option SnapPending) (m : Nat) : (d.setSnap .tta x).tile m = d.tile m := rfl
@[simp] theorem Dev.setSnap_tta_graph (x : Option SnapPending) (m : Nat) : (d.setSnap .tta x).graph m = d.graph m := rfl
@[simp] theorem Dev.setSnap_tta_port_tta (x : Option SnapPending) (q : Fin 17) : (d.setSnap .tta x).port (.tta q) = d.port (.tta q) := rfl
@[simp] theorem Dev.setSnap_tta_slotTable_tdu (x : Option SnapPending) : (d.setSnap .tta x).slotTable .tdu = d.slotTable .tdu := rfl
@[simp] theorem Dev.setSnap_tta_slotTable_tta (x : Option SnapPending) : (d.setSnap .tta x).slotTable .tta = d.slotTable .tta := rfl
@[simp] theorem Dev.setSnap_tta_timeValid_tta (x : Option SnapPending) : (d.setSnap .tta x).timeValid .tta = d.timeValid .tta := rfl
@[simp] theorem Dev.setSnap_tta_timeValid_tdu (x : Option SnapPending) : (d.setSnap .tta x).timeValid .tdu = d.timeValid .tdu := rfl
@[simp] theorem Dev.setSnap_tta_nowNs_tta (x : Option SnapPending) : (d.setSnap .tta x).nowNs .tta = d.nowNs .tta := rfl
@[simp] theorem Dev.setSnap_tta_nowNs_tdu (x : Option SnapPending) : (d.setSnap .tta x).nowNs .tdu = d.nowNs .tdu := rfl
@[simp] theorem Dev.setSnap_tta_snapOf_tdu (x : Option SnapPending) : (d.setSnap .tta x).snapOf .tdu = d.snapOf .tdu := rfl
@[simp] theorem Dev.setSnap_tta_fnq (x : Option SnapPending) (fn : Fn) : (d.setSnap .tta x).fnq fn = d.fnq fn := by cases fn <;> rfl

/-! ### setLatched_tta -/

@[simp] theorem Dev.setLatched_tta_regs (x : Option (Memory W64)) : (d.setLatched .tta x).tta.regs = d.tta.regs := rfl
@[simp] theorem Dev.setLatched_tta_fuses (x : Option (Memory W64)) : (d.setLatched .tta x).tta.fuses = d.tta.fuses := rfl
@[simp] theorem Dev.setLatched_tta_boot (x : Option (Memory W64)) : (d.setLatched .tta x).tta.boot = d.tta.boot := rfl
@[simp] theorem Dev.setLatched_tta_pwr (x : Option (Memory W64)) : (d.setLatched .tta x).tta.pwr = d.tta.pwr := rfl
@[simp] theorem Dev.setLatched_tta_mtp (x : Option (Memory W64)) : (d.setLatched .tta x).tta.mtp = d.tta.mtp := rfl
@[simp] theorem Dev.setLatched_tta_mtpCut (x : Option (Memory W64)) : (d.setLatched .tta x).tta.mtpCut = d.tta.mtpCut := rfl
@[simp] theorem Dev.setLatched_tta_cal (x : Option (Memory W64)) : (d.setLatched .tta x).tta.cal = d.tta.cal := rfl
@[simp] theorem Dev.setLatched_tta_time (x : Option (Memory W64)) : (d.setLatched .tta x).tta.time = d.tta.time := rfl
@[simp] theorem Dev.setLatched_tta_recorder (x : Option (Memory W64)) : (d.setLatched .tta x).tta.recorder = d.tta.recorder := rfl
@[simp] theorem Dev.setLatched_tta_snap (x : Option (Memory W64)) : (d.setLatched .tta x).tta.snap = d.tta.snap := rfl
@[simp] theorem Dev.setLatched_tta_latched (x : Option (Memory W64)) : (d.setLatched .tta x).tta.latched = x := rfl
@[simp] theorem Dev.setLatched_tta_links (x : Option (Memory W64)) : (d.setLatched .tta x).tta.links = d.tta.links := rfl
@[simp] theorem Dev.setLatched_tta_slots (x : Option (Memory W64)) : (d.setLatched .tta x).tta.slots = d.tta.slots := rfl
@[simp] theorem Dev.setLatched_tta_arbiters (x : Option (Memory W64)) : (d.setLatched .tta x).tta.arbiters = d.tta.arbiters := rfl
@[simp] theorem Dev.setLatched_tta_fns (x : Option (Memory W64)) : (d.setLatched .tta x).tta.fns = d.tta.fns := rfl
@[simp] theorem Dev.setLatched_tta_mirrored (x : Option (Memory W64)) : (d.setLatched .tta x).tta.mirrored = d.tta.mirrored := rfl
@[simp] theorem Dev.setLatched_tta_tiles (x : Option (Memory W64)) : (d.setLatched .tta x).tta.tiles = d.tta.tiles := rfl
@[simp] theorem Dev.setLatched_tta_graphs (x : Option (Memory W64)) : (d.setLatched .tta x).tta.graphs = d.tta.graphs := rfl
@[simp] theorem Dev.setLatched_tta_hist (x : Option (Memory W64)) : (d.setLatched .tta x).tta.hist = d.tta.hist := rfl
@[simp] theorem Dev.setLatched_tta_slotsX (x : Option (Memory W64)) : (d.setLatched .tta x).tta.slotsX = d.tta.slotsX := rfl
@[simp] theorem Dev.setLatched_tta_retireDue (x : Option (Memory W64)) : (d.setLatched .tta x).tta.retireDue = d.tta.retireDue := rfl
@[simp] theorem Dev.setLatched_tta_ing (x : Option (Memory W64)) : (d.setLatched .tta x).tta.ing = d.tta.ing := rfl
@[simp] theorem Dev.setLatched_tta_twin (x : Option (Memory W64)) : (d.setLatched .tta x).tta.twin = d.tta.twin := rfl
@[simp] theorem Dev.setLatched_tta_sett (x : Option (Memory W64)) : (d.setLatched .tta x).tta.sett = d.tta.sett := rfl
@[simp] theorem Dev.setLatched_tta_captures (x : Option (Memory W64)) : (d.setLatched .tta x).tta.captures = d.tta.captures := rfl
@[simp] theorem Dev.setLatched_tta_tables (x : Option (Memory W64)) : (d.setLatched .tta x).tta.tables = d.tta.tables := rfl
@[simp] theorem Dev.setLatched_tta_wrn (x : Option (Memory W64)) : (d.setLatched .tta x).tta.wrn = d.tta.wrn := rfl
@[simp] theorem Dev.setLatched_tta_det (x : Option (Memory W64)) : (d.setLatched .tta x).tta.det = d.tta.det := rfl
@[simp] theorem Dev.setLatched_tta_chk (x : Option (Memory W64)) : (d.setLatched .tta x).tta.chk = d.tta.chk := rfl
@[simp] theorem Dev.setLatched_tta_rpt (x : Option (Memory W64)) : (d.setLatched .tta x).tta.rpt = d.tta.rpt := rfl
@[simp] theorem Dev.setLatched_tta_cmp (x : Option (Memory W64)) : (d.setLatched .tta x).tta.cmp = d.tta.cmp := rfl
@[simp] theorem Dev.setLatched_tta_dev_tdu (x : Option (Memory W64)) : (d.setLatched .tta x).tdu = d.tdu := rfl
@[simp] theorem Dev.setLatched_tta_dev_pins (x : Option (Memory W64)) : (d.setLatched .tta x).pins = d.pins := rfl
@[simp] theorem Dev.setLatched_tta_dev_freeIx (x : Option (Memory W64)) : (d.setLatched .tta x).freeIx = d.freeIx := rfl
@[simp] theorem Dev.setLatched_tta_dev_out (x : Option (Memory W64)) : (d.setLatched .tta x).out = d.out := rfl
@[simp] theorem Dev.setLatched_tta_word (x : Option (Memory W64)) (sp : Space) (a : Nat) : (d.setLatched .tta x).word sp a = d.word sp a := by cases sp <;> rfl
@[simp] theorem Dev.setLatched_tta_get (x : Option (Memory W64)) (y : Fld) : (d.setLatched .tta x).get y = d.get y := by rw [Dev.get, Dev.get, Dev.setLatched_tta_word]
@[simp] theorem Dev.setLatched_tta_bit (x : Option (Memory W64)) (y : Fld) : (d.setLatched .tta x).bit y = d.bit y := by rw [Dev.bit, Dev.bit, Dev.setLatched_tta_get]
@[simp] theorem Dev.setLatched_tta_tb_tdu (x : Option (Memory W64)) : (d.setLatched .tta x).tb .tdu = d.tb .tdu := rfl
@[simp] theorem Dev.setLatched_tta_tb_tta (x : Option (Memory W64)) : (d.setLatched .tta x).tb .tta = d.tb .tta := rfl
@[simp] theorem Dev.setLatched_tta_recd_tdu (x : Option (Memory W64)) : (d.setLatched .tta x).recd .tdu = d.recd .tdu := rfl
@[simp] theorem Dev.setLatched_tta_recd_tta (x : Option (Memory W64)) : (d.setLatched .tta x).recd .tta = d.recd .tta := rfl
@[simp] theorem Dev.setLatched_tta_slotX (x : Option (Memory W64)) (m : Nat) : (d.setLatched .tta x).slotX m = d.slotX m := rfl
@[simp] theorem Dev.setLatched_tta_tile (x : Option (Memory W64)) (m : Nat) : (d.setLatched .tta x).tile m = d.tile m := rfl
@[simp] theorem Dev.setLatched_tta_graph (x : Option (Memory W64)) (m : Nat) : (d.setLatched .tta x).graph m = d.graph m := rfl
@[simp] theorem Dev.setLatched_tta_port_tta (x : Option (Memory W64)) (q : Fin 17) : (d.setLatched .tta x).port (.tta q) = d.port (.tta q) := rfl
@[simp] theorem Dev.setLatched_tta_slotTable_tdu (x : Option (Memory W64)) : (d.setLatched .tta x).slotTable .tdu = d.slotTable .tdu := rfl
@[simp] theorem Dev.setLatched_tta_slotTable_tta (x : Option (Memory W64)) : (d.setLatched .tta x).slotTable .tta = d.slotTable .tta := rfl
@[simp] theorem Dev.setLatched_tta_timeValid_tta (x : Option (Memory W64)) : (d.setLatched .tta x).timeValid .tta = d.timeValid .tta := rfl
@[simp] theorem Dev.setLatched_tta_timeValid_tdu (x : Option (Memory W64)) : (d.setLatched .tta x).timeValid .tdu = d.timeValid .tdu := rfl
@[simp] theorem Dev.setLatched_tta_nowNs_tta (x : Option (Memory W64)) : (d.setLatched .tta x).nowNs .tta = d.nowNs .tta := rfl
@[simp] theorem Dev.setLatched_tta_nowNs_tdu (x : Option (Memory W64)) : (d.setLatched .tta x).nowNs .tdu = d.nowNs .tdu := rfl
@[simp] theorem Dev.setLatched_tta_snapOf_tdu (x : Option (Memory W64)) : (d.setLatched .tta x).snapOf .tdu = d.snapOf .tdu := rfl
@[simp] theorem Dev.setLatched_tta_snapOf_tta (x : Option (Memory W64)) : (d.setLatched .tta x).snapOf .tta = d.snapOf .tta := rfl
@[simp] theorem Dev.setLatched_tta_fnq (x : Option (Memory W64)) (fn : Fn) : (d.setLatched .tta x).fnq fn = d.fnq fn := by cases fn <;> rfl

/-! ### setWord_tta -/

@[simp] theorem Dev.setWord_tta_regs (a : Nat) (v : W64) : (d.setWord .tta a v).tta.regs = Memory.write (Regs.resetOf .tta) d.tta.regs a v := rfl
@[simp] theorem Dev.setWord_tta_fuses (a : Nat) (v : W64) : (d.setWord .tta a v).tta.fuses = d.tta.fuses := rfl
@[simp] theorem Dev.setWord_tta_boot (a : Nat) (v : W64) : (d.setWord .tta a v).tta.boot = d.tta.boot := rfl
@[simp] theorem Dev.setWord_tta_pwr (a : Nat) (v : W64) : (d.setWord .tta a v).tta.pwr = d.tta.pwr := rfl
@[simp] theorem Dev.setWord_tta_mtp (a : Nat) (v : W64) : (d.setWord .tta a v).tta.mtp = d.tta.mtp := rfl
@[simp] theorem Dev.setWord_tta_mtpCut (a : Nat) (v : W64) : (d.setWord .tta a v).tta.mtpCut = d.tta.mtpCut := rfl
@[simp] theorem Dev.setWord_tta_cal (a : Nat) (v : W64) : (d.setWord .tta a v).tta.cal = d.tta.cal := rfl
@[simp] theorem Dev.setWord_tta_time (a : Nat) (v : W64) : (d.setWord .tta a v).tta.time = d.tta.time := rfl
@[simp] theorem Dev.setWord_tta_recorder (a : Nat) (v : W64) : (d.setWord .tta a v).tta.recorder = d.tta.recorder := rfl
@[simp] theorem Dev.setWord_tta_snap (a : Nat) (v : W64) : (d.setWord .tta a v).tta.snap = d.tta.snap := rfl
@[simp] theorem Dev.setWord_tta_latched (a : Nat) (v : W64) : (d.setWord .tta a v).tta.latched = d.tta.latched := rfl
@[simp] theorem Dev.setWord_tta_links (a : Nat) (v : W64) : (d.setWord .tta a v).tta.links = d.tta.links := rfl
@[simp] theorem Dev.setWord_tta_slots (a : Nat) (v : W64) : (d.setWord .tta a v).tta.slots = d.tta.slots := rfl
@[simp] theorem Dev.setWord_tta_arbiters (a : Nat) (v : W64) : (d.setWord .tta a v).tta.arbiters = d.tta.arbiters := rfl
@[simp] theorem Dev.setWord_tta_fns (a : Nat) (v : W64) : (d.setWord .tta a v).tta.fns = d.tta.fns := rfl
@[simp] theorem Dev.setWord_tta_mirrored (a : Nat) (v : W64) : (d.setWord .tta a v).tta.mirrored = d.tta.mirrored := rfl
@[simp] theorem Dev.setWord_tta_tiles (a : Nat) (v : W64) : (d.setWord .tta a v).tta.tiles = d.tta.tiles := rfl
@[simp] theorem Dev.setWord_tta_graphs (a : Nat) (v : W64) : (d.setWord .tta a v).tta.graphs = d.tta.graphs := rfl
@[simp] theorem Dev.setWord_tta_hist (a : Nat) (v : W64) : (d.setWord .tta a v).tta.hist = d.tta.hist := rfl
@[simp] theorem Dev.setWord_tta_slotsX (a : Nat) (v : W64) : (d.setWord .tta a v).tta.slotsX = d.tta.slotsX := rfl
@[simp] theorem Dev.setWord_tta_retireDue (a : Nat) (v : W64) : (d.setWord .tta a v).tta.retireDue = d.tta.retireDue := rfl
@[simp] theorem Dev.setWord_tta_ing (a : Nat) (v : W64) : (d.setWord .tta a v).tta.ing = d.tta.ing := rfl
@[simp] theorem Dev.setWord_tta_twin (a : Nat) (v : W64) : (d.setWord .tta a v).tta.twin = d.tta.twin := rfl
@[simp] theorem Dev.setWord_tta_sett (a : Nat) (v : W64) : (d.setWord .tta a v).tta.sett = d.tta.sett := rfl
@[simp] theorem Dev.setWord_tta_captures (a : Nat) (v : W64) : (d.setWord .tta a v).tta.captures = d.tta.captures := rfl
@[simp] theorem Dev.setWord_tta_tables (a : Nat) (v : W64) : (d.setWord .tta a v).tta.tables = d.tta.tables := rfl
@[simp] theorem Dev.setWord_tta_wrn (a : Nat) (v : W64) : (d.setWord .tta a v).tta.wrn = d.tta.wrn := rfl
@[simp] theorem Dev.setWord_tta_det (a : Nat) (v : W64) : (d.setWord .tta a v).tta.det = d.tta.det := rfl
@[simp] theorem Dev.setWord_tta_chk (a : Nat) (v : W64) : (d.setWord .tta a v).tta.chk = d.tta.chk := rfl
@[simp] theorem Dev.setWord_tta_rpt (a : Nat) (v : W64) : (d.setWord .tta a v).tta.rpt = d.tta.rpt := rfl
@[simp] theorem Dev.setWord_tta_cmp (a : Nat) (v : W64) : (d.setWord .tta a v).tta.cmp = d.tta.cmp := rfl
@[simp] theorem Dev.setWord_tta_dev_tdu (a : Nat) (v : W64) : (d.setWord .tta a v).tdu = d.tdu := rfl
@[simp] theorem Dev.setWord_tta_dev_pins (a : Nat) (v : W64) : (d.setWord .tta a v).pins = d.pins := rfl
@[simp] theorem Dev.setWord_tta_dev_freeIx (a : Nat) (v : W64) : (d.setWord .tta a v).freeIx = d.freeIx := rfl
@[simp] theorem Dev.setWord_tta_dev_out (a : Nat) (v : W64) : (d.setWord .tta a v).out = d.out := rfl
@[simp] theorem Dev.setWord_tta_tb_tdu (a : Nat) (v : W64) : (d.setWord .tta a v).tb .tdu = d.tb .tdu := rfl
@[simp] theorem Dev.setWord_tta_tb_tta (a : Nat) (v : W64) : (d.setWord .tta a v).tb .tta = d.tb .tta := rfl
@[simp] theorem Dev.setWord_tta_recd_tdu (a : Nat) (v : W64) : (d.setWord .tta a v).recd .tdu = d.recd .tdu := rfl
@[simp] theorem Dev.setWord_tta_recd_tta (a : Nat) (v : W64) : (d.setWord .tta a v).recd .tta = d.recd .tta := rfl
@[simp] theorem Dev.setWord_tta_slotX (a : Nat) (v : W64) (m : Nat) : (d.setWord .tta a v).slotX m = d.slotX m := rfl
@[simp] theorem Dev.setWord_tta_tile (a : Nat) (v : W64) (m : Nat) : (d.setWord .tta a v).tile m = d.tile m := rfl
@[simp] theorem Dev.setWord_tta_graph (a : Nat) (v : W64) (m : Nat) : (d.setWord .tta a v).graph m = d.graph m := rfl
@[simp] theorem Dev.setWord_tta_port_tta (a : Nat) (v : W64) (q : Fin 17) : (d.setWord .tta a v).port (.tta q) = d.port (.tta q) := rfl
@[simp] theorem Dev.setWord_tta_slotTable_tdu (a : Nat) (v : W64) : (d.setWord .tta a v).slotTable .tdu = d.slotTable .tdu := rfl
@[simp] theorem Dev.setWord_tta_slotTable_tta (a : Nat) (v : W64) : (d.setWord .tta a v).slotTable .tta = d.slotTable .tta := rfl
@[simp] theorem Dev.setWord_tta_timeValid_tta (a : Nat) (v : W64) : (d.setWord .tta a v).timeValid .tta = d.timeValid .tta := rfl
@[simp] theorem Dev.setWord_tta_timeValid_tdu (a : Nat) (v : W64) : (d.setWord .tta a v).timeValid .tdu = d.timeValid .tdu := rfl
@[simp] theorem Dev.setWord_tta_nowNs_tta (a : Nat) (v : W64) : (d.setWord .tta a v).nowNs .tta = d.nowNs .tta := rfl
@[simp] theorem Dev.setWord_tta_nowNs_tdu (a : Nat) (v : W64) : (d.setWord .tta a v).nowNs .tdu = d.nowNs .tdu := rfl
@[simp] theorem Dev.setWord_tta_snapOf_tdu (a : Nat) (v : W64) : (d.setWord .tta a v).snapOf .tdu = d.snapOf .tdu := rfl
@[simp] theorem Dev.setWord_tta_snapOf_tta (a : Nat) (v : W64) : (d.setWord .tta a v).snapOf .tta = d.snapOf .tta := rfl
@[simp] theorem Dev.setWord_tta_fnq (a : Nat) (v : W64) (fn : Fn) : (d.setWord .tta a v).fnq fn = d.fnq fn := by cases fn <;> rfl

/-! ### own -/

@[simp] theorem Dev.own_regs (i n : Nat) : (d.own i n).tdu.regs = d.tdu.regs := rfl
@[simp] theorem Dev.own_fuses (i n : Nat) : (d.own i n).tdu.fuses = d.tdu.fuses := rfl
@[simp] theorem Dev.own_boot (i n : Nat) : (d.own i n).tdu.boot = d.tdu.boot := rfl
@[simp] theorem Dev.own_pwr (i n : Nat) : (d.own i n).tdu.pwr = d.tdu.pwr := rfl
@[simp] theorem Dev.own_time (i n : Nat) : (d.own i n).tdu.time = d.tdu.time := rfl
@[simp] theorem Dev.own_recorder (i n : Nat) : (d.own i n).tdu.recorder = d.tdu.recorder := rfl
@[simp] theorem Dev.own_snap (i n : Nat) : (d.own i n).tdu.snap = d.tdu.snap := rfl
@[simp] theorem Dev.own_latched (i n : Nat) : (d.own i n).tdu.latched = d.tdu.latched := rfl
@[simp] theorem Dev.own_smp (i n : Nat) : (d.own i n).tdu.smp = d.tdu.smp := rfl
@[simp] theorem Dev.own_trc (i n : Nat) : (d.own i n).tdu.trc = d.tdu.trc := rfl
@[simp] theorem Dev.own_linkKeys (i n : Nat) : (d.own i n).tdu.linkKeys = d.tdu.linkKeys := rfl
@[simp] theorem Dev.own_chk (i n : Nat) : (d.own i n).tdu.chk = d.tdu.chk := rfl
@[simp] theorem Dev.own_link0 (i n : Nat) : (d.own i n).tdu.link0 = d.tdu.link0 := rfl
@[simp] theorem Dev.own_link1 (i n : Nat) : (d.own i n).tdu.link1 = d.tdu.link1 := rfl
@[simp] theorem Dev.own_slots (i n : Nat) : (d.own i n).tdu.slots = d.tdu.slots := rfl
@[simp] theorem Dev.own_q (i n : Nat) : (d.own i n).tdu.q = d.tdu.q := rfl
@[simp] theorem Dev.own_dev_tta (i n : Nat) : (d.own i n).tta = d.tta := rfl
@[simp] theorem Dev.own_dev_pins (i n : Nat) : (d.own i n).pins = d.pins := rfl
@[simp] theorem Dev.own_dev_freeIx (i n : Nat) : (d.own i n).freeIx = d.freeIx := rfl
@[simp] theorem Dev.own_dev_out (i n : Nat) : (d.own i n).out = d.out := rfl
@[simp] theorem Dev.own_word (i n : Nat) (sp : Space) (a : Nat) : (d.own i n).word sp a = d.word sp a := by cases sp <;> rfl
@[simp] theorem Dev.own_get (i n : Nat) (y : Fld) : (d.own i n).get y = d.get y := by rw [Dev.get, Dev.get, Dev.own_word]
@[simp] theorem Dev.own_bit (i n : Nat) (y : Fld) : (d.own i n).bit y = d.bit y := by rw [Dev.bit, Dev.bit, Dev.own_get]
@[simp] theorem Dev.own_tb_tdu (i n : Nat) : (d.own i n).tb .tdu = d.tb .tdu := rfl
@[simp] theorem Dev.own_tb_tta (i n : Nat) : (d.own i n).tb .tta = d.tb .tta := rfl
@[simp] theorem Dev.own_recd_tdu (i n : Nat) : (d.own i n).recd .tdu = d.recd .tdu := rfl
@[simp] theorem Dev.own_recd_tta (i n : Nat) : (d.own i n).recd .tta = d.recd .tta := rfl
@[simp] theorem Dev.own_slotX (i n : Nat) (m : Nat) : (d.own i n).slotX m = d.slotX m := rfl
@[simp] theorem Dev.own_tile (i n : Nat) (m : Nat) : (d.own i n).tile m = d.tile m := rfl
@[simp] theorem Dev.own_graph (i n : Nat) (m : Nat) : (d.own i n).graph m = d.graph m := rfl
@[simp] theorem Dev.own_port_tta (i n : Nat) (q : Fin 17) : (d.own i n).port (.tta q) = d.port (.tta q) := rfl
@[simp] theorem Dev.own_slotTable_tdu (i n : Nat) : (d.own i n).slotTable .tdu = d.slotTable .tdu := rfl
@[simp] theorem Dev.own_slotTable_tta (i n : Nat) : (d.own i n).slotTable .tta = d.slotTable .tta := rfl
@[simp] theorem Dev.own_timeValid_tta (i n : Nat) : (d.own i n).timeValid .tta = d.timeValid .tta := rfl
@[simp] theorem Dev.own_timeValid_tdu (i n : Nat) : (d.own i n).timeValid .tdu = d.timeValid .tdu := rfl
@[simp] theorem Dev.own_nowNs_tta (i n : Nat) : (d.own i n).nowNs .tta = d.nowNs .tta := rfl
@[simp] theorem Dev.own_nowNs_tdu (i n : Nat) : (d.own i n).nowNs .tdu = d.nowNs .tdu := rfl
@[simp] theorem Dev.own_snapOf_tdu (i n : Nat) : (d.own i n).snapOf .tdu = d.snapOf .tdu := rfl
@[simp] theorem Dev.own_snapOf_tta (i n : Nat) : (d.own i n).snapOf .tta = d.snapOf .tta := rfl
@[simp] theorem Dev.own_fnq (i n : Nat) (fn : Fn) : (d.own i n).fnq fn = d.fnq fn := by cases fn <;> rfl

/-! ### emit -/

@[simp] theorem Dev.emit_tdu (o : Out) : (d.emit o).tdu = d.tdu := rfl
@[simp] theorem Dev.emit_tta (o : Out) : (d.emit o).tta = d.tta := rfl
@[simp] theorem Dev.emit_pins (o : Out) : (d.emit o).pins = d.pins := rfl
@[simp] theorem Dev.emit_freeIx (o : Out) : (d.emit o).freeIx = d.freeIx := rfl
@[simp] theorem Dev.emit_out (o : Out) : (d.emit o).out = o :: d.out := rfl
@[simp] theorem Dev.emit_word (o : Out) (sp : Space) (a : Nat) : (d.emit o).word sp a = d.word sp a := by cases sp <;> rfl
@[simp] theorem Dev.emit_get (o : Out) (y : Fld) : (d.emit o).get y = d.get y := by rw [Dev.get, Dev.get, Dev.emit_word]
@[simp] theorem Dev.emit_bit (o : Out) (y : Fld) : (d.emit o).bit y = d.bit y := by rw [Dev.bit, Dev.bit, Dev.emit_get]
@[simp] theorem Dev.emit_tb_tdu (o : Out) : (d.emit o).tb .tdu = d.tb .tdu := rfl
@[simp] theorem Dev.emit_tb_tta (o : Out) : (d.emit o).tb .tta = d.tb .tta := rfl
@[simp] theorem Dev.emit_recd_tdu (o : Out) : (d.emit o).recd .tdu = d.recd .tdu := rfl
@[simp] theorem Dev.emit_recd_tta (o : Out) : (d.emit o).recd .tta = d.recd .tta := rfl
@[simp] theorem Dev.emit_slotX (o : Out) (m : Nat) : (d.emit o).slotX m = d.slotX m := rfl
@[simp] theorem Dev.emit_tile (o : Out) (m : Nat) : (d.emit o).tile m = d.tile m := rfl
@[simp] theorem Dev.emit_graph (o : Out) (m : Nat) : (d.emit o).graph m = d.graph m := rfl
@[simp] theorem Dev.emit_port_tta (o : Out) (q : Fin 17) : (d.emit o).port (.tta q) = d.port (.tta q) := rfl
@[simp] theorem Dev.emit_slotTable_tdu (o : Out) : (d.emit o).slotTable .tdu = d.slotTable .tdu := rfl
@[simp] theorem Dev.emit_slotTable_tta (o : Out) : (d.emit o).slotTable .tta = d.slotTable .tta := rfl
@[simp] theorem Dev.emit_timeValid_tta (o : Out) : (d.emit o).timeValid .tta = d.timeValid .tta := rfl
@[simp] theorem Dev.emit_timeValid_tdu (o : Out) : (d.emit o).timeValid .tdu = d.timeValid .tdu := rfl
@[simp] theorem Dev.emit_nowNs_tta (o : Out) : (d.emit o).nowNs .tta = d.nowNs .tta := rfl
@[simp] theorem Dev.emit_nowNs_tdu (o : Out) : (d.emit o).nowNs .tdu = d.nowNs .tdu := rfl
@[simp] theorem Dev.emit_snapOf_tdu (o : Out) : (d.emit o).snapOf .tdu = d.snapOf .tdu := rfl
@[simp] theorem Dev.emit_snapOf_tta (o : Out) : (d.emit o).snapOf .tta = d.snapOf .tta := rfl
@[simp] theorem Dev.emit_fnq (o : Out) (fn : Fn) : (d.emit o).fnq fn = d.fnq fn := by cases fn <;> rfl

/-! ### updPins -/

@[simp] theorem Dev.updPins_tdu (f : Pins → Pins) : (d.updPins f).tdu = d.tdu := rfl
@[simp] theorem Dev.updPins_tta (f : Pins → Pins) : (d.updPins f).tta = d.tta := rfl
@[simp] theorem Dev.updPins_pins (f : Pins → Pins) : (d.updPins f).pins = f d.pins := rfl
@[simp] theorem Dev.updPins_freeIx (f : Pins → Pins) : (d.updPins f).freeIx = d.freeIx := rfl
@[simp] theorem Dev.updPins_out (f : Pins → Pins) : (d.updPins f).out = d.out := rfl
@[simp] theorem Dev.updPins_word (f : Pins → Pins) (sp : Space) (a : Nat) : (d.updPins f).word sp a = d.word sp a := by cases sp <;> rfl
@[simp] theorem Dev.updPins_get (f : Pins → Pins) (y : Fld) : (d.updPins f).get y = d.get y := by rw [Dev.get, Dev.get, Dev.updPins_word]
@[simp] theorem Dev.updPins_bit (f : Pins → Pins) (y : Fld) : (d.updPins f).bit y = d.bit y := by rw [Dev.bit, Dev.bit, Dev.updPins_get]
@[simp] theorem Dev.updPins_tb_tdu (f : Pins → Pins) : (d.updPins f).tb .tdu = d.tb .tdu := rfl
@[simp] theorem Dev.updPins_tb_tta (f : Pins → Pins) : (d.updPins f).tb .tta = d.tb .tta := rfl
@[simp] theorem Dev.updPins_recd_tdu (f : Pins → Pins) : (d.updPins f).recd .tdu = d.recd .tdu := rfl
@[simp] theorem Dev.updPins_recd_tta (f : Pins → Pins) : (d.updPins f).recd .tta = d.recd .tta := rfl
@[simp] theorem Dev.updPins_slotX (f : Pins → Pins) (m : Nat) : (d.updPins f).slotX m = d.slotX m := rfl
@[simp] theorem Dev.updPins_tile (f : Pins → Pins) (m : Nat) : (d.updPins f).tile m = d.tile m := rfl
@[simp] theorem Dev.updPins_graph (f : Pins → Pins) (m : Nat) : (d.updPins f).graph m = d.graph m := rfl
@[simp] theorem Dev.updPins_port_tta (f : Pins → Pins) (q : Fin 17) : (d.updPins f).port (.tta q) = d.port (.tta q) := rfl
@[simp] theorem Dev.updPins_slotTable_tdu (f : Pins → Pins) : (d.updPins f).slotTable .tdu = d.slotTable .tdu := rfl
@[simp] theorem Dev.updPins_slotTable_tta (f : Pins → Pins) : (d.updPins f).slotTable .tta = d.slotTable .tta := rfl
@[simp] theorem Dev.updPins_timeValid_tta (f : Pins → Pins) : (d.updPins f).timeValid .tta = d.timeValid .tta := rfl
@[simp] theorem Dev.updPins_timeValid_tdu (f : Pins → Pins) : (d.updPins f).timeValid .tdu = d.timeValid .tdu := rfl
@[simp] theorem Dev.updPins_nowNs_tta (f : Pins → Pins) : (d.updPins f).nowNs .tta = d.nowNs .tta := rfl
@[simp] theorem Dev.updPins_nowNs_tdu (f : Pins → Pins) : (d.updPins f).nowNs .tdu = d.nowNs .tdu := rfl
@[simp] theorem Dev.updPins_snapOf_tdu (f : Pins → Pins) : (d.updPins f).snapOf .tdu = d.snapOf .tdu := rfl
@[simp] theorem Dev.updPins_snapOf_tta (f : Pins → Pins) : (d.updPins f).snapOf .tta = d.snapOf .tta := rfl
@[simp] theorem Dev.updPins_fnq (f : Pins → Pins) (fn : Fn) : (d.updPins f).fnq fn = d.fnq fn := by cases fn <;> rfl

/-! ### set: a register field of either part -/

@[simp] theorem Dev.set_tdu_fuses (f : Fld) (v : Nat) : (d.set f v).tdu.fuses = d.tdu.fuses := by unfold Dev.set Dev.setWord; cases f.space <;> rfl
@[simp] theorem Dev.set_tdu_boot (f : Fld) (v : Nat) : (d.set f v).tdu.boot = d.tdu.boot := by unfold Dev.set Dev.setWord; cases f.space <;> rfl
@[simp] theorem Dev.set_tdu_pwr (f : Fld) (v : Nat) : (d.set f v).tdu.pwr = d.tdu.pwr := by unfold Dev.set Dev.setWord; cases f.space <;> rfl
@[simp] theorem Dev.set_tdu_time (f : Fld) (v : Nat) : (d.set f v).tdu.time = d.tdu.time := by unfold Dev.set Dev.setWord; cases f.space <;> rfl
@[simp] theorem Dev.set_tdu_recorder (f : Fld) (v : Nat) : (d.set f v).tdu.recorder = d.tdu.recorder := by unfold Dev.set Dev.setWord; cases f.space <;> rfl
@[simp] theorem Dev.set_tdu_snap (f : Fld) (v : Nat) : (d.set f v).tdu.snap = d.tdu.snap := by unfold Dev.set Dev.setWord; cases f.space <;> rfl
@[simp] theorem Dev.set_tdu_latched (f : Fld) (v : Nat) : (d.set f v).tdu.latched = d.tdu.latched := by unfold Dev.set Dev.setWord; cases f.space <;> rfl
@[simp] theorem Dev.set_tdu_bank (f : Fld) (v : Nat) : (d.set f v).tdu.bank = d.tdu.bank := by unfold Dev.set Dev.setWord; cases f.space <;> rfl
@[simp] theorem Dev.set_tdu_smp (f : Fld) (v : Nat) : (d.set f v).tdu.smp = d.tdu.smp := by unfold Dev.set Dev.setWord; cases f.space <;> rfl
@[simp] theorem Dev.set_tdu_trc (f : Fld) (v : Nat) : (d.set f v).tdu.trc = d.tdu.trc := by unfold Dev.set Dev.setWord; cases f.space <;> rfl
@[simp] theorem Dev.set_tdu_linkKeys (f : Fld) (v : Nat) : (d.set f v).tdu.linkKeys = d.tdu.linkKeys := by unfold Dev.set Dev.setWord; cases f.space <;> rfl
@[simp] theorem Dev.set_tdu_chk (f : Fld) (v : Nat) : (d.set f v).tdu.chk = d.tdu.chk := by unfold Dev.set Dev.setWord; cases f.space <;> rfl
@[simp] theorem Dev.set_tdu_link0 (f : Fld) (v : Nat) : (d.set f v).tdu.link0 = d.tdu.link0 := by unfold Dev.set Dev.setWord; cases f.space <;> rfl
@[simp] theorem Dev.set_tdu_link1 (f : Fld) (v : Nat) : (d.set f v).tdu.link1 = d.tdu.link1 := by unfold Dev.set Dev.setWord; cases f.space <;> rfl
@[simp] theorem Dev.set_tdu_slots (f : Fld) (v : Nat) : (d.set f v).tdu.slots = d.tdu.slots := by unfold Dev.set Dev.setWord; cases f.space <;> rfl
@[simp] theorem Dev.set_tdu_q (f : Fld) (v : Nat) : (d.set f v).tdu.q = d.tdu.q := by unfold Dev.set Dev.setWord; cases f.space <;> rfl
@[simp] theorem Dev.set_tta_fuses (f : Fld) (v : Nat) : (d.set f v).tta.fuses = d.tta.fuses := by unfold Dev.set Dev.setWord; cases f.space <;> rfl
@[simp] theorem Dev.set_tta_boot (f : Fld) (v : Nat) : (d.set f v).tta.boot = d.tta.boot := by unfold Dev.set Dev.setWord; cases f.space <;> rfl
@[simp] theorem Dev.set_tta_pwr (f : Fld) (v : Nat) : (d.set f v).tta.pwr = d.tta.pwr := by unfold Dev.set Dev.setWord; cases f.space <;> rfl
@[simp] theorem Dev.set_tta_mtp (f : Fld) (v : Nat) : (d.set f v).tta.mtp = d.tta.mtp := by unfold Dev.set Dev.setWord; cases f.space <;> rfl
@[simp] theorem Dev.set_tta_mtpCut (f : Fld) (v : Nat) : (d.set f v).tta.mtpCut = d.tta.mtpCut := by unfold Dev.set Dev.setWord; cases f.space <;> rfl
@[simp] theorem Dev.set_tta_cal (f : Fld) (v : Nat) : (d.set f v).tta.cal = d.tta.cal := by unfold Dev.set Dev.setWord; cases f.space <;> rfl
@[simp] theorem Dev.set_tta_time (f : Fld) (v : Nat) : (d.set f v).tta.time = d.tta.time := by unfold Dev.set Dev.setWord; cases f.space <;> rfl
@[simp] theorem Dev.set_tta_recorder (f : Fld) (v : Nat) : (d.set f v).tta.recorder = d.tta.recorder := by unfold Dev.set Dev.setWord; cases f.space <;> rfl
@[simp] theorem Dev.set_tta_snap (f : Fld) (v : Nat) : (d.set f v).tta.snap = d.tta.snap := by unfold Dev.set Dev.setWord; cases f.space <;> rfl
@[simp] theorem Dev.set_tta_latched (f : Fld) (v : Nat) : (d.set f v).tta.latched = d.tta.latched := by unfold Dev.set Dev.setWord; cases f.space <;> rfl
@[simp] theorem Dev.set_tta_links (f : Fld) (v : Nat) : (d.set f v).tta.links = d.tta.links := by unfold Dev.set Dev.setWord; cases f.space <;> rfl
@[simp] theorem Dev.set_tta_slots (f : Fld) (v : Nat) : (d.set f v).tta.slots = d.tta.slots := by unfold Dev.set Dev.setWord; cases f.space <;> rfl
@[simp] theorem Dev.set_tta_arbiters (f : Fld) (v : Nat) : (d.set f v).tta.arbiters = d.tta.arbiters := by unfold Dev.set Dev.setWord; cases f.space <;> rfl
@[simp] theorem Dev.set_tta_fns (f : Fld) (v : Nat) : (d.set f v).tta.fns = d.tta.fns := by unfold Dev.set Dev.setWord; cases f.space <;> rfl
@[simp] theorem Dev.set_tta_mirrored (f : Fld) (v : Nat) : (d.set f v).tta.mirrored = d.tta.mirrored := by unfold Dev.set Dev.setWord; cases f.space <;> rfl
@[simp] theorem Dev.set_tta_tiles (f : Fld) (v : Nat) : (d.set f v).tta.tiles = d.tta.tiles := by unfold Dev.set Dev.setWord; cases f.space <;> rfl
@[simp] theorem Dev.set_tta_graphs (f : Fld) (v : Nat) : (d.set f v).tta.graphs = d.tta.graphs := by unfold Dev.set Dev.setWord; cases f.space <;> rfl
@[simp] theorem Dev.set_tta_hist (f : Fld) (v : Nat) : (d.set f v).tta.hist = d.tta.hist := by unfold Dev.set Dev.setWord; cases f.space <;> rfl
@[simp] theorem Dev.set_tta_slotsX (f : Fld) (v : Nat) : (d.set f v).tta.slotsX = d.tta.slotsX := by unfold Dev.set Dev.setWord; cases f.space <;> rfl
@[simp] theorem Dev.set_tta_retireDue (f : Fld) (v : Nat) : (d.set f v).tta.retireDue = d.tta.retireDue := by unfold Dev.set Dev.setWord; cases f.space <;> rfl
@[simp] theorem Dev.set_tta_ing (f : Fld) (v : Nat) : (d.set f v).tta.ing = d.tta.ing := by unfold Dev.set Dev.setWord; cases f.space <;> rfl
@[simp] theorem Dev.set_tta_twin (f : Fld) (v : Nat) : (d.set f v).tta.twin = d.tta.twin := by unfold Dev.set Dev.setWord; cases f.space <;> rfl
@[simp] theorem Dev.set_tta_sett (f : Fld) (v : Nat) : (d.set f v).tta.sett = d.tta.sett := by unfold Dev.set Dev.setWord; cases f.space <;> rfl
@[simp] theorem Dev.set_tta_captures (f : Fld) (v : Nat) : (d.set f v).tta.captures = d.tta.captures := by unfold Dev.set Dev.setWord; cases f.space <;> rfl
@[simp] theorem Dev.set_tta_tables (f : Fld) (v : Nat) : (d.set f v).tta.tables = d.tta.tables := by unfold Dev.set Dev.setWord; cases f.space <;> rfl
@[simp] theorem Dev.set_tta_wrn (f : Fld) (v : Nat) : (d.set f v).tta.wrn = d.tta.wrn := by unfold Dev.set Dev.setWord; cases f.space <;> rfl
@[simp] theorem Dev.set_tta_det (f : Fld) (v : Nat) : (d.set f v).tta.det = d.tta.det := by unfold Dev.set Dev.setWord; cases f.space <;> rfl
@[simp] theorem Dev.set_tta_chk (f : Fld) (v : Nat) : (d.set f v).tta.chk = d.tta.chk := by unfold Dev.set Dev.setWord; cases f.space <;> rfl
@[simp] theorem Dev.set_tta_rpt (f : Fld) (v : Nat) : (d.set f v).tta.rpt = d.tta.rpt := by unfold Dev.set Dev.setWord; cases f.space <;> rfl
@[simp] theorem Dev.set_tta_cmp (f : Fld) (v : Nat) : (d.set f v).tta.cmp = d.tta.cmp := by unfold Dev.set Dev.setWord; cases f.space <;> rfl
@[simp] theorem Dev.set_pins (f : Fld) (v : Nat) : (d.set f v).pins = d.pins := by unfold Dev.set Dev.setWord; cases f.space <;> rfl
@[simp] theorem Dev.set_freeIx (f : Fld) (v : Nat) : (d.set f v).freeIx = d.freeIx := by unfold Dev.set Dev.setWord; cases f.space <;> rfl
@[simp] theorem Dev.set_out (f : Fld) (v : Nat) : (d.set f v).out = d.out := by unfold Dev.set Dev.setWord; cases f.space <;> rfl

/-- A field of the aggregator's maps leaves the die unit alone, and the other way about. -/
theorem Dev.set_tdu (f : Fld) (v : Nat) (h : (f.space == Space.tdu) = false) : (d.set f v).tdu = d.tdu := by
  unfold Dev.set Dev.setWord
  cases hs : f.space <;> simp_all

theorem Dev.set_tta (f : Fld) (v : Nat) (h : (f.space == Space.tdu) = true) : (d.set f v).tta = d.tta := by
  unfold Dev.set Dev.setWord
  cases hs : f.space <;> simp_all

@[simp] theorem Dev.set_tb (f : Fld) (v : Nat) (p : Part) : (d.set f v).tb p = d.tb p := by unfold Dev.set Dev.setWord; cases f.space <;> cases p <;> rfl
@[simp] theorem Dev.set_recd (f : Fld) (v : Nat) (p : Part) : (d.set f v).recd p = d.recd p := by unfold Dev.set Dev.setWord; cases f.space <;> cases p <;> rfl
@[simp] theorem Dev.set_timeValid (f : Fld) (v : Nat) (p : Part) : (d.set f v).timeValid p = d.timeValid p := by unfold Dev.set Dev.setWord; cases f.space <;> cases p <;> rfl
@[simp] theorem Dev.set_nowNs (f : Fld) (v : Nat) (p : Part) : (d.set f v).nowNs p = d.nowNs p := by unfold Dev.set Dev.setWord; cases f.space <;> cases p <;> rfl
@[simp] theorem Dev.set_slotTable (f : Fld) (v : Nat) (p : Part) : (d.set f v).slotTable p = d.slotTable p := by unfold Dev.set Dev.setWord; cases f.space <;> cases p <;> rfl
@[simp] theorem Dev.set_snapOf (f : Fld) (v : Nat) (p : Part) : (d.set f v).snapOf p = d.snapOf p := by unfold Dev.set Dev.setWord; cases f.space <;> cases p <;> rfl
@[simp] theorem Dev.set_slotX (f : Fld) (v : Nat) (m : Nat) : (d.set f v).slotX m = d.slotX m := by unfold Dev.set Dev.setWord; cases f.space <;> rfl
@[simp] theorem Dev.set_tile (f : Fld) (v : Nat) (m : Nat) : (d.set f v).tile m = d.tile m := by unfold Dev.set Dev.setWord; cases f.space <;> rfl
@[simp] theorem Dev.set_graph (f : Fld) (v : Nat) (m : Nat) : (d.set f v).graph m = d.graph m := by unfold Dev.set Dev.setWord; cases f.space <;> rfl
@[simp] theorem Dev.set_port (f : Fld) (v : Nat) (e : LinkEnd) : (d.set f v).port e = d.port e := by unfold Dev.set Dev.setWord; cases f.space <;> cases e <;> rfl
@[simp] theorem Dev.set_fnq (f : Fld) (v : Nat) (fn : Fn) : (d.set f v).fnq fn = d.fnq fn := by unfold Dev.set Dev.setWord; cases f.space <;> cases fn <;> rfl

end Sys2Proof.Machine
end

