-- ==== Sys2Proof/Laws/Run.lean ====
section
/-! SUPPORT. How a completion is shown: a command whose meaning is a run of a function on the devices completes with what holds of the result. -/
namespace Sys2Proof.Machine

theorem completes_of_run {c : Instr} {s : State} {f : Dev → Dev} {post : Dev → Prop} (h : exec c s = s.run f) (hp : post (f s.dev)) :
    Completes c s post := ⟨f s.dev, h, hp⟩

theorem Completes.mono {c : Instr} {s : State} {p q : Dev → Prop} (h : Completes c s p) (hpq : ∀ d, p d → q d) : Completes c s q := by
  obtain ⟨d, h1, h2⟩ := h
  exact ⟨d, h1, hpq d h2⟩

/-- What a run answers is the function's result. -/
theorem completes_run_iff {c : Instr} {s : State} {f : Dev → Dev} {post : Dev → Prop} (h : exec c s = s.run f) :
    Completes c s post ↔ post (f s.dev) := by
  constructor
  · rintro ⟨d, h1, h2⟩
    rw [h, State.run] at h1
    injection h1 with h1
    injection h1 with h1 _
    rwa [h1]
  · exact completes_of_run h

/-! ## Reading a register field after another was set -/

/-- Two fields that share no bit: other register files, other words, or other bits of the same word. -/
def Fld.apart (f g : Fld) : Bool :=
  !Space.sameFile f.space g.space || decide (g.addr ≠ f.addr) || (f.ok && g.ok && Fld.bitsApart f g)

theorem Dev.get_set_apart (d : Dev) (f g : Fld) (v : Nat) (h : Fld.apart f g = true) : (d.set f v).get g = d.get g := by
  simp only [Fld.apart, Bool.or_eq_true, Bool.not_eq_true', decide_eq_true_eq, Bool.and_eq_true] at h
  rcases h with (h | h) | ⟨⟨h1, h2⟩, h3⟩
  · exact Dev.get_set_space _ _ _ _ h
  · exact Dev.get_set_addr _ _ _ _ h
  · exact Dev.get_set_bits _ _ _ _ h1 h2 h3

theorem Dev.get_bump_apart (d : Dev) (f g : Fld) (n : Nat) (h : Fld.apart f g = true) : (d.bump f n).get g = d.get g :=
  Dev.get_set_apart _ _ _ _ h

theorem Dev.get_wrapAdd_apart (d : Dev) (f g : Fld) (n : Nat) (h : Fld.apart f g = true) : (d.wrapAdd f n).get g = d.get g :=
  Dev.get_set_apart _ _ _ _ h

/-- A saturating count after it was raised. -/
theorem Dev.get_bump_same (d : Dev) (f : Fld) (n : Nat) (h : f.ok = true) : (d.bump f n).get f = min (d.get f + n) (2 ^ f.width - 1) := by
  rw [Dev.bump, Dev.get_set_same _ _ _ h]
  exact Nat.mod_eq_of_lt (Nat.lt_of_le_of_lt (Nat.min_le_right _ _) (Nat.sub_lt (by positivity) (by decide)))

/-- A wrapping count after it was raised. -/
theorem Dev.get_wrapAdd_same (d : Dev) (f : Fld) (n : Nat) (h : f.ok = true) : (d.wrapAdd f n).get f = (d.get f + n) % 2 ^ f.width :=
  Dev.get_set_same _ _ _ h

/-- A register word that an update of another word leaves. -/
theorem Dev.word_set_ne (d : Dev) (f : Fld) (v : Nat) (sp : Space) (a : Nat) (h : f.space.sameFile sp = false ∨ a ≠ f.addr) :
    (d.set f v).word sp a = d.word sp a := Dev.word_setWord_ne _ _ _ _ _ _ h

/-- A one-bit field after it was set. -/
theorem Dev.bit_setBit_same (d : Dev) (f : Fld) (b : Bool) (h : f.ok = true) (hw : f.width = 1) : (d.setBit f b).bit f = b := by
  rw [Dev.bit, Dev.setBit, Dev.get_set_same _ _ _ h, hw]
  cases b <;> rfl

end Sys2Proof.Machine
end

