-- ==== Sys2Proof/Laws/Event.lean ====
section
/-! SUPPORT. What recording an event leaves: only the recorder's queue, the count of lost records and the reports that are due change. -/
namespace Sys2Proof.Machine

variable (d : Dev) (p : Part) (perm : Bool) (r : Rec) (b c : Nat) (ps : List Nat)

/-- A record joins its source's queue, or is dropped and counted. -/
theorem Dev.queueRec_cases : (d.queueRec p perm r = d.setRecd p { d.recd p with queue := (d.recd p).queue ++ [⟨(d.tb p).tick, r, perm⟩] }) ∨
    (∃ rc, d.queueRec p perm r = (d.bump (R.recStatLost p) 1).setRecd p rc) ∨
    (∃ rc q, d.queueRec p perm r = ((d.bump (R.recStatLost p) 1).setRecd p rc).reportDue q) := by
  by_cases h : ((d.recd p).queue.filter (fun q => q.evt.source = r.source)).length < queueDepth p
  · exact .inl (if_pos h)
  · have e : d.queueRec p perm r = _ := if_neg h
    by_cases hp : p = .tta
    · exact .inr (.inr ⟨_, _, e.trans (if_pos hp)⟩)
    · exact .inr (.inl ⟨_, e.trans (if_neg hp)⟩)

/-- What neither the recorder, the count of lost records nor the due reports are part of stays. -/
theorem Dev.queueRec_keeps {α : Type} (f : Dev → α) (h1 : ∀ (x : Dev) (rc : Recorder), f (x.setRecd p rc) = f x)
    (h2 : ∀ (x : Dev) (n : Nat), f (x.bump (R.recStatLost p) n) = f x) (h3 : ∀ (x : Dev) (q : QueuedRec), f (x.reportDue q) = f x) :
    f (d.queueRec p perm r) = f d := by
  rcases Dev.queueRec_cases d p perm r with e | ⟨rc, e⟩ | ⟨rc, q, e⟩ <;> rw [e] <;> simp only [h1, h2, h3]

@[simp] theorem Dev.queueRec_tdu_fuses : (d.queueRec p perm r).tdu.fuses = d.tdu.fuses :=
  Dev.queueRec_keeps d p perm r (fun x => x.tdu.fuses) (by intro x _; cases p <;> rfl) (by intro x _; cases p <;> rfl) (by intro x _; rfl)

@[simp] theorem Dev.queueRec_tdu_boot : (d.queueRec p perm r).tdu.boot = d.tdu.boot :=
  Dev.queueRec_keeps d p perm r (fun x => x.tdu.boot) (by intro x _; cases p <;> rfl) (by intro x _; cases p <;> rfl) (by intro x _; rfl)

@[simp] theorem Dev.queueRec_tdu_pwr : (d.queueRec p perm r).tdu.pwr = d.tdu.pwr :=
  Dev.queueRec_keeps d p perm r (fun x => x.tdu.pwr) (by intro x _; cases p <;> rfl) (by intro x _; cases p <;> rfl) (by intro x _; rfl)

@[simp] theorem Dev.queueRec_tdu_time : (d.queueRec p perm r).tdu.time = d.tdu.time :=
  Dev.queueRec_keeps d p perm r (fun x => x.tdu.time) (by intro x _; cases p <;> rfl) (by intro x _; cases p <;> rfl) (by intro x _; rfl)

@[simp] theorem Dev.queueRec_tdu_snap : (d.queueRec p perm r).tdu.snap = d.tdu.snap :=
  Dev.queueRec_keeps d p perm r (fun x => x.tdu.snap) (by intro x _; cases p <;> rfl) (by intro x _; cases p <;> rfl) (by intro x _; rfl)

@[simp] theorem Dev.queueRec_tdu_latched : (d.queueRec p perm r).tdu.latched = d.tdu.latched :=
  Dev.queueRec_keeps d p perm r (fun x => x.tdu.latched) (by intro x _; cases p <;> rfl) (by intro x _; cases p <;> rfl) (by intro x _; rfl)

@[simp] theorem Dev.queueRec_tdu_bank : (d.queueRec p perm r).tdu.bank = d.tdu.bank :=
  Dev.queueRec_keeps d p perm r (fun x => x.tdu.bank) (by intro x _; cases p <;> rfl) (by intro x _; cases p <;> rfl) (by intro x _; rfl)

@[simp] theorem Dev.queueRec_tdu_smp : (d.queueRec p perm r).tdu.smp = d.tdu.smp :=
  Dev.queueRec_keeps d p perm r (fun x => x.tdu.smp) (by intro x _; cases p <;> rfl) (by intro x _; cases p <;> rfl) (by intro x _; rfl)

@[simp] theorem Dev.queueRec_tdu_trc : (d.queueRec p perm r).tdu.trc = d.tdu.trc :=
  Dev.queueRec_keeps d p perm r (fun x => x.tdu.trc) (by intro x _; cases p <;> rfl) (by intro x _; cases p <;> rfl) (by intro x _; rfl)

@[simp] theorem Dev.queueRec_tdu_linkKeys : (d.queueRec p perm r).tdu.linkKeys = d.tdu.linkKeys :=
  Dev.queueRec_keeps d p perm r (fun x => x.tdu.linkKeys) (by intro x _; cases p <;> rfl) (by intro x _; cases p <;> rfl) (by intro x _; rfl)

@[simp] theorem Dev.queueRec_tdu_chk : (d.queueRec p perm r).tdu.chk = d.tdu.chk :=
  Dev.queueRec_keeps d p perm r (fun x => x.tdu.chk) (by intro x _; cases p <;> rfl) (by intro x _; cases p <;> rfl) (by intro x _; rfl)

@[simp] theorem Dev.queueRec_tdu_link0 : (d.queueRec p perm r).tdu.link0 = d.tdu.link0 :=
  Dev.queueRec_keeps d p perm r (fun x => x.tdu.link0) (by intro x _; cases p <;> rfl) (by intro x _; cases p <;> rfl) (by intro x _; rfl)

@[simp] theorem Dev.queueRec_tdu_link1 : (d.queueRec p perm r).tdu.link1 = d.tdu.link1 :=
  Dev.queueRec_keeps d p perm r (fun x => x.tdu.link1) (by intro x _; cases p <;> rfl) (by intro x _; cases p <;> rfl) (by intro x _; rfl)

@[simp] theorem Dev.queueRec_tdu_slots : (d.queueRec p perm r).tdu.slots = d.tdu.slots :=
  Dev.queueRec_keeps d p perm r (fun x => x.tdu.slots) (by intro x _; cases p <;> rfl) (by intro x _; cases p <;> rfl) (by intro x _; rfl)

@[simp] theorem Dev.queueRec_tdu_q : (d.queueRec p perm r).tdu.q = d.tdu.q :=
  Dev.queueRec_keeps d p perm r (fun x => x.tdu.q) (by intro x _; cases p <;> rfl) (by intro x _; cases p <;> rfl) (by intro x _; rfl)

@[simp] theorem Dev.queueRec_tta_fuses : (d.queueRec p perm r).tta.fuses = d.tta.fuses :=
  Dev.queueRec_keeps d p perm r (fun x => x.tta.fuses) (by intro x _; cases p <;> rfl) (by intro x _; cases p <;> rfl) (by intro x _; rfl)

@[simp] theorem Dev.queueRec_tta_boot : (d.queueRec p perm r).tta.boot = d.tta.boot :=
  Dev.queueRec_keeps d p perm r (fun x => x.tta.boot) (by intro x _; cases p <;> rfl) (by intro x _; cases p <;> rfl) (by intro x _; rfl)

@[simp] theorem Dev.queueRec_tta_pwr : (d.queueRec p perm r).tta.pwr = d.tta.pwr :=
  Dev.queueRec_keeps d p perm r (fun x => x.tta.pwr) (by intro x _; cases p <;> rfl) (by intro x _; cases p <;> rfl) (by intro x _; rfl)

@[simp] theorem Dev.queueRec_tta_mtp : (d.queueRec p perm r).tta.mtp = d.tta.mtp :=
  Dev.queueRec_keeps d p perm r (fun x => x.tta.mtp) (by intro x _; cases p <;> rfl) (by intro x _; cases p <;> rfl) (by intro x _; rfl)

@[simp] theorem Dev.queueRec_tta_mtpCut : (d.queueRec p perm r).tta.mtpCut = d.tta.mtpCut :=
  Dev.queueRec_keeps d p perm r (fun x => x.tta.mtpCut) (by intro x _; cases p <;> rfl) (by intro x _; cases p <;> rfl) (by intro x _; rfl)

@[simp] theorem Dev.queueRec_tta_cal : (d.queueRec p perm r).tta.cal = d.tta.cal :=
  Dev.queueRec_keeps d p perm r (fun x => x.tta.cal) (by intro x _; cases p <;> rfl) (by intro x _; cases p <;> rfl) (by intro x _; rfl)

@[simp] theorem Dev.queueRec_tta_time : (d.queueRec p perm r).tta.time = d.tta.time :=
  Dev.queueRec_keeps d p perm r (fun x => x.tta.time) (by intro x _; cases p <;> rfl) (by intro x _; cases p <;> rfl) (by intro x _; rfl)

@[simp] theorem Dev.queueRec_tta_snap : (d.queueRec p perm r).tta.snap = d.tta.snap :=
  Dev.queueRec_keeps d p perm r (fun x => x.tta.snap) (by intro x _; cases p <;> rfl) (by intro x _; cases p <;> rfl) (by intro x _; rfl)

@[simp] theorem Dev.queueRec_tta_latched : (d.queueRec p perm r).tta.latched = d.tta.latched :=
  Dev.queueRec_keeps d p perm r (fun x => x.tta.latched) (by intro x _; cases p <;> rfl) (by intro x _; cases p <;> rfl) (by intro x _; rfl)

@[simp] theorem Dev.queueRec_tta_links : (d.queueRec p perm r).tta.links = d.tta.links :=
  Dev.queueRec_keeps d p perm r (fun x => x.tta.links) (by intro x _; cases p <;> rfl) (by intro x _; cases p <;> rfl) (by intro x _; rfl)

@[simp] theorem Dev.queueRec_tta_slots : (d.queueRec p perm r).tta.slots = d.tta.slots :=
  Dev.queueRec_keeps d p perm r (fun x => x.tta.slots) (by intro x _; cases p <;> rfl) (by intro x _; cases p <;> rfl) (by intro x _; rfl)

@[simp] theorem Dev.queueRec_tta_arbiters : (d.queueRec p perm r).tta.arbiters = d.tta.arbiters :=
  Dev.queueRec_keeps d p perm r (fun x => x.tta.arbiters) (by intro x _; cases p <;> rfl) (by intro x _; cases p <;> rfl) (by intro x _; rfl)

@[simp] theorem Dev.queueRec_tta_fns : (d.queueRec p perm r).tta.fns = d.tta.fns :=
  Dev.queueRec_keeps d p perm r (fun x => x.tta.fns) (by intro x _; cases p <;> rfl) (by intro x _; cases p <;> rfl) (by intro x _; rfl)

@[simp] theorem Dev.queueRec_tta_mirrored : (d.queueRec p perm r).tta.mirrored = d.tta.mirrored :=
  Dev.queueRec_keeps d p perm r (fun x => x.tta.mirrored) (by intro x _; cases p <;> rfl) (by intro x _; cases p <;> rfl) (by intro x _; rfl)

@[simp] theorem Dev.queueRec_tta_tiles : (d.queueRec p perm r).tta.tiles = d.tta.tiles :=
  Dev.queueRec_keeps d p perm r (fun x => x.tta.tiles) (by intro x _; cases p <;> rfl) (by intro x _; cases p <;> rfl) (by intro x _; rfl)

@[simp] theorem Dev.queueRec_tta_graphs : (d.queueRec p perm r).tta.graphs = d.tta.graphs :=
  Dev.queueRec_keeps d p perm r (fun x => x.tta.graphs) (by intro x _; cases p <;> rfl) (by intro x _; cases p <;> rfl) (by intro x _; rfl)

@[simp] theorem Dev.queueRec_tta_hist : (d.queueRec p perm r).tta.hist = d.tta.hist :=
  Dev.queueRec_keeps d p perm r (fun x => x.tta.hist) (by intro x _; cases p <;> rfl) (by intro x _; cases p <;> rfl) (by intro x _; rfl)

@[simp] theorem Dev.queueRec_tta_slotsX : (d.queueRec p perm r).tta.slotsX = d.tta.slotsX :=
  Dev.queueRec_keeps d p perm r (fun x => x.tta.slotsX) (by intro x _; cases p <;> rfl) (by intro x _; cases p <;> rfl) (by intro x _; rfl)

@[simp] theorem Dev.queueRec_tta_retireDue : (d.queueRec p perm r).tta.retireDue = d.tta.retireDue :=
  Dev.queueRec_keeps d p perm r (fun x => x.tta.retireDue) (by intro x _; cases p <;> rfl) (by intro x _; cases p <;> rfl) (by intro x _; rfl)

@[simp] theorem Dev.queueRec_tta_ing : (d.queueRec p perm r).tta.ing = d.tta.ing :=
  Dev.queueRec_keeps d p perm r (fun x => x.tta.ing) (by intro x _; cases p <;> rfl) (by intro x _; cases p <;> rfl) (by intro x _; rfl)

@[simp] theorem Dev.queueRec_tta_twin : (d.queueRec p perm r).tta.twin = d.tta.twin :=
  Dev.queueRec_keeps d p perm r (fun x => x.tta.twin) (by intro x _; cases p <;> rfl) (by intro x _; cases p <;> rfl) (by intro x _; rfl)

@[simp] theorem Dev.queueRec_tta_sett : (d.queueRec p perm r).tta.sett = d.tta.sett :=
  Dev.queueRec_keeps d p perm r (fun x => x.tta.sett) (by intro x _; cases p <;> rfl) (by intro x _; cases p <;> rfl) (by intro x _; rfl)

@[simp] theorem Dev.queueRec_tta_captures : (d.queueRec p perm r).tta.captures = d.tta.captures :=
  Dev.queueRec_keeps d p perm r (fun x => x.tta.captures) (by intro x _; cases p <;> rfl) (by intro x _; cases p <;> rfl) (by intro x _; rfl)

@[simp] theorem Dev.queueRec_tta_tables : (d.queueRec p perm r).tta.tables = d.tta.tables :=
  Dev.queueRec_keeps d p perm r (fun x => x.tta.tables) (by intro x _; cases p <;> rfl) (by intro x _; cases p <;> rfl) (by intro x _; rfl)

@[simp] theorem Dev.queueRec_tta_wrn : (d.queueRec p perm r).tta.wrn = d.tta.wrn :=
  Dev.queueRec_keeps d p perm r (fun x => x.tta.wrn) (by intro x _; cases p <;> rfl) (by intro x _; cases p <;> rfl) (by intro x _; rfl)

@[simp] theorem Dev.queueRec_tta_det : (d.queueRec p perm r).tta.det = d.tta.det :=
  Dev.queueRec_keeps d p perm r (fun x => x.tta.det) (by intro x _; cases p <;> rfl) (by intro x _; cases p <;> rfl) (by intro x _; rfl)

@[simp] theorem Dev.queueRec_tta_chk : (d.queueRec p perm r).tta.chk = d.tta.chk :=
  Dev.queueRec_keeps d p perm r (fun x => x.tta.chk) (by intro x _; cases p <;> rfl) (by intro x _; cases p <;> rfl) (by intro x _; rfl)

@[simp] theorem Dev.queueRec_tta_cmp : (d.queueRec p perm r).tta.cmp = d.tta.cmp :=
  Dev.queueRec_keeps d p perm r (fun x => x.tta.cmp) (by intro x _; cases p <;> rfl) (by intro x _; cases p <;> rfl) (by intro x _; rfl)

@[simp] theorem Dev.queueRec_pins : (d.queueRec p perm r).pins = d.pins :=
  Dev.queueRec_keeps d p perm r (fun x => x.pins) (by intro x _; cases p <;> rfl) (by intro x _; cases p <;> rfl) (by intro x _; rfl)

@[simp] theorem Dev.queueRec_freeIx : (d.queueRec p perm r).freeIx = d.freeIx :=
  Dev.queueRec_keeps d p perm r (fun x => x.freeIx) (by intro x _; cases p <;> rfl) (by intro x _; cases p <;> rfl) (by intro x _; rfl)

@[simp] theorem Dev.queueRec_out : (d.queueRec p perm r).out = d.out :=
  Dev.queueRec_keeps d p perm r (fun x => x.out) (by intro x _; cases p <;> rfl) (by intro x _; cases p <;> rfl) (by intro x _; rfl)


@[simp] theorem Dev.queueRec_tile (t : Nat) : (d.queueRec p perm r).tile t = d.tile t := by rw [Dev.tile, Dev.tile, Dev.queueRec_tta_tiles]
@[simp] theorem Dev.queueRec_graph (h : Nat) : (d.queueRec p perm r).graph h = d.graph h := by rw [Dev.graph, Dev.graph, Dev.queueRec_tta_graphs]
@[simp] theorem Dev.queueRec_tb (q : Part) : (d.queueRec p perm r).tb q = d.tb q := by
  cases q <;> simp [Dev.tb]
@[simp] theorem Dev.queueRec_port (e : LinkEnd) : (d.queueRec p perm r).port e = d.port e := by
  cases e <;> simp [Dev.port]
@[simp] theorem Dev.queueRec_timeValid (q : Part) : (d.queueRec p perm r).timeValid q = d.timeValid q := by cases q <;> simp [Dev.timeValid]
@[simp] theorem Dev.queueRec_nowNs (q : Part) : (d.queueRec p perm r).nowNs q = d.nowNs q := by simp [Dev.nowNs]
@[simp] theorem Dev.queueRec_slotTable (q : Part) : (d.queueRec p perm r).slotTable q = d.slotTable q := by cases q <;> simp [Dev.slotTable]

theorem Dev.setRecd_word (rc : Recorder) (sp : Space) (a : Nat) : (d.setRecd p rc).word sp a = d.word sp a := by cases p <;> cases sp <;> rfl

/-- A register word other than the part's REC_STAT. -/
theorem Dev.queueRec_word (sp : Space) (a : Nat) (h : (R.recStatLost p).space.sameFile sp = false ∨ a ≠ (R.recStatLost p).addr) :
    (d.queueRec p perm r).word sp a = d.word sp a := by
  rcases Dev.queueRec_cases d p perm r with e | ⟨rc, e⟩ | ⟨rc, q, e⟩ <;> rw [e]
  · rw [Dev.setRecd_word]
  · rw [Dev.setRecd_word, Dev.bump, Dev.word_set_ne _ _ _ _ _ h]
  · rw [Dev.reportDue_word, Dev.setRecd_word, Dev.bump, Dev.word_set_ne _ _ _ _ _ h]

/-- A register field other than LOST of the part's REC_STAT. -/
theorem Dev.queueRec_get (f : Fld) (h : Fld.apart (R.recStatLost p) f = true) : (d.queueRec p perm r).get f = d.get f := by
  have hr : ∀ (x : Dev) (rc : Recorder), (x.setRecd p rc).get f = x.get f := fun x rc => by rw [Dev.get, Dev.get, Dev.setRecd_word]
  have hq : ∀ (x : Dev) (q : QueuedRec), (x.reportDue q).get f = x.get f := fun x q => by rw [Dev.get, Dev.get, Dev.reportDue_word]
  rcases Dev.queueRec_cases d p perm r with e | ⟨rc, e⟩ | ⟨rc, q, e⟩ <;> rw [e]
  · rw [hr]
  · rw [hr, Dev.get_bump_apart _ _ _ _ h]
  · rw [hq, hr, Dev.get_bump_apart _ _ _ _ h]

@[simp] theorem Dev.event_tdu_fuses : (d.event p b c ps).tdu.fuses = d.tdu.fuses := Dev.queueRec_tdu_fuses ..
@[simp] theorem Dev.event_tdu_boot : (d.event p b c ps).tdu.boot = d.tdu.boot := Dev.queueRec_tdu_boot ..
@[simp] theorem Dev.event_tdu_pwr : (d.event p b c ps).tdu.pwr = d.tdu.pwr := Dev.queueRec_tdu_pwr ..
@[simp] theorem Dev.event_tdu_time : (d.event p b c ps).tdu.time = d.tdu.time := Dev.queueRec_tdu_time ..
@[simp] theorem Dev.event_tdu_snap : (d.event p b c ps).tdu.snap = d.tdu.snap := Dev.queueRec_tdu_snap ..
@[simp] theorem Dev.event_tdu_latched : (d.event p b c ps).tdu.latched = d.tdu.latched := Dev.queueRec_tdu_latched ..
@[simp] theorem Dev.event_tdu_bank : (d.event p b c ps).tdu.bank = d.tdu.bank := Dev.queueRec_tdu_bank ..
@[simp] theorem Dev.event_tdu_smp : (d.event p b c ps).tdu.smp = d.tdu.smp := Dev.queueRec_tdu_smp ..
@[simp] theorem Dev.event_tdu_trc : (d.event p b c ps).tdu.trc = d.tdu.trc := Dev.queueRec_tdu_trc ..
@[simp] theorem Dev.event_tdu_linkKeys : (d.event p b c ps).tdu.linkKeys = d.tdu.linkKeys := Dev.queueRec_tdu_linkKeys ..
@[simp] theorem Dev.event_tdu_chk : (d.event p b c ps).tdu.chk = d.tdu.chk := Dev.queueRec_tdu_chk ..
@[simp] theorem Dev.event_tdu_link0 : (d.event p b c ps).tdu.link0 = d.tdu.link0 := Dev.queueRec_tdu_link0 ..
@[simp] theorem Dev.event_tdu_link1 : (d.event p b c ps).tdu.link1 = d.tdu.link1 := Dev.queueRec_tdu_link1 ..
@[simp] theorem Dev.event_tdu_slots : (d.event p b c ps).tdu.slots = d.tdu.slots := Dev.queueRec_tdu_slots ..
@[simp] theorem Dev.event_tdu_q : (d.event p b c ps).tdu.q = d.tdu.q := Dev.queueRec_tdu_q ..
@[simp] theorem Dev.event_tta_fuses : (d.event p b c ps).tta.fuses = d.tta.fuses := Dev.queueRec_tta_fuses ..
@[simp] theorem Dev.event_tta_boot : (d.event p b c ps).tta.boot = d.tta.boot := Dev.queueRec_tta_boot ..
@[simp] theorem Dev.event_tta_pwr : (d.event p b c ps).tta.pwr = d.tta.pwr := Dev.queueRec_tta_pwr ..
@[simp] theorem Dev.event_tta_mtp : (d.event p b c ps).tta.mtp = d.tta.mtp := Dev.queueRec_tta_mtp ..
@[simp] theorem Dev.event_tta_mtpCut : (d.event p b c ps).tta.mtpCut = d.tta.mtpCut := Dev.queueRec_tta_mtpCut ..
@[simp] theorem Dev.event_tta_cal : (d.event p b c ps).tta.cal = d.tta.cal := Dev.queueRec_tta_cal ..
@[simp] theorem Dev.event_tta_time : (d.event p b c ps).tta.time = d.tta.time := Dev.queueRec_tta_time ..
@[simp] theorem Dev.event_tta_snap : (d.event p b c ps).tta.snap = d.tta.snap := Dev.queueRec_tta_snap ..
@[simp] theorem Dev.event_tta_latched : (d.event p b c ps).tta.latched = d.tta.latched := Dev.queueRec_tta_latched ..
@[simp] theorem Dev.event_tta_links : (d.event p b c ps).tta.links = d.tta.links := Dev.queueRec_tta_links ..
@[simp] theorem Dev.event_tta_slots : (d.event p b c ps).tta.slots = d.tta.slots := Dev.queueRec_tta_slots ..
@[simp] theorem Dev.event_tta_arbiters : (d.event p b c ps).tta.arbiters = d.tta.arbiters := Dev.queueRec_tta_arbiters ..
@[simp] theorem Dev.event_tta_fns : (d.event p b c ps).tta.fns = d.tta.fns := Dev.queueRec_tta_fns ..
@[simp] theorem Dev.event_tta_mirrored : (d.event p b c ps).tta.mirrored = d.tta.mirrored := Dev.queueRec_tta_mirrored ..
@[simp] theorem Dev.event_tta_tiles : (d.event p b c ps).tta.tiles = d.tta.tiles := Dev.queueRec_tta_tiles ..
@[simp] theorem Dev.event_tta_graphs : (d.event p b c ps).tta.graphs = d.tta.graphs := Dev.queueRec_tta_graphs ..
@[simp] theorem Dev.event_tta_hist : (d.event p b c ps).tta.hist = d.tta.hist := Dev.queueRec_tta_hist ..
@[simp] theorem Dev.event_tta_slotsX : (d.event p b c ps).tta.slotsX = d.tta.slotsX := Dev.queueRec_tta_slotsX ..
@[simp] theorem Dev.event_tta_retireDue : (d.event p b c ps).tta.retireDue = d.tta.retireDue := Dev.queueRec_tta_retireDue ..
@[simp] theorem Dev.event_tta_ing : (d.event p b c ps).tta.ing = d.tta.ing := Dev.queueRec_tta_ing ..
@[simp] theorem Dev.event_tta_twin : (d.event p b c ps).tta.twin = d.tta.twin := Dev.queueRec_tta_twin ..
@[simp] theorem Dev.event_tta_sett : (d.event p b c ps).tta.sett = d.tta.sett := Dev.queueRec_tta_sett ..
@[simp] theorem Dev.event_tta_captures : (d.event p b c ps).tta.captures = d.tta.captures := Dev.queueRec_tta_captures ..
@[simp] theorem Dev.event_tta_tables : (d.event p b c ps).tta.tables = d.tta.tables := Dev.queueRec_tta_tables ..
@[simp] theorem Dev.event_tta_wrn : (d.event p b c ps).tta.wrn = d.tta.wrn := Dev.queueRec_tta_wrn ..
@[simp] theorem Dev.event_tta_det : (d.event p b c ps).tta.det = d.tta.det := Dev.queueRec_tta_det ..
@[simp] theorem Dev.event_tta_chk : (d.event p b c ps).tta.chk = d.tta.chk := Dev.queueRec_tta_chk ..
@[simp] theorem Dev.event_tta_cmp : (d.event p b c ps).tta.cmp = d.tta.cmp := Dev.queueRec_tta_cmp ..
@[simp] theorem Dev.event_pins : (d.event p b c ps).pins = d.pins := Dev.queueRec_pins ..
@[simp] theorem Dev.event_freeIx : (d.event p b c ps).freeIx = d.freeIx := Dev.queueRec_freeIx ..
@[simp] theorem Dev.event_out : (d.event p b c ps).out = d.out := Dev.queueRec_out ..
@[simp] theorem Dev.event_tile (t : Nat) : (d.event p b c ps).tile t = d.tile t := Dev.queueRec_tile ..
@[simp] theorem Dev.event_graph (t : Nat) : (d.event p b c ps).graph t = d.graph t := Dev.queueRec_graph ..
@[simp] theorem Dev.event_tb (t : Part) : (d.event p b c ps).tb t = d.tb t := Dev.queueRec_tb ..
@[simp] theorem Dev.event_port (t : LinkEnd) : (d.event p b c ps).port t = d.port t := Dev.queueRec_port ..
@[simp] theorem Dev.event_timeValid (t : Part) : (d.event p b c ps).timeValid t = d.timeValid t := Dev.queueRec_timeValid ..
@[simp] theorem Dev.event_nowNs (t : Part) : (d.event p b c ps).nowNs t = d.nowNs t := Dev.queueRec_nowNs ..
@[simp] theorem Dev.event_slotTable (t : Part) : (d.event p b c ps).slotTable t = d.slotTable t := Dev.queueRec_slotTable ..
theorem Dev.event_word (sp : Space) (a : Nat) (h : (R.recStatLost p).space.sameFile sp = false ∨ a ≠ (R.recStatLost p).addr) :
    (d.event p b c ps).word sp a = d.word sp a := Dev.queueRec_word _ _ _ _ _ _ h
theorem Dev.event_get (f : Fld) (h : Fld.apart (R.recStatLost p) f = true) : (d.event p b c ps).get f = d.get f := Dev.queueRec_get _ _ _ _ _ h
theorem Dev.event_bit (f : Fld) (h : Fld.apart (R.recStatLost p) f = true) : (d.event p b c ps).bit f = d.bit f := by
  rw [Dev.bit, Dev.bit, Dev.event_get _ _ _ _ _ _ h]

@[simp] theorem Dev.eventPerm_tdu_fuses : (d.eventPerm p b c ps).tdu.fuses = d.tdu.fuses := Dev.queueRec_tdu_fuses ..
@[simp] theorem Dev.eventPerm_tdu_boot : (d.eventPerm p b c ps).tdu.boot = d.tdu.boot := Dev.queueRec_tdu_boot ..
@[simp] theorem Dev.eventPerm_tdu_pwr : (d.eventPerm p b c ps).tdu.pwr = d.tdu.pwr := Dev.queueRec_tdu_pwr ..
@[simp] theorem Dev.eventPerm_tdu_time : (d.eventPerm p b c ps).tdu.time = d.tdu.time := Dev.queueRec_tdu_time ..
@[simp] theorem Dev.eventPerm_tdu_snap : (d.eventPerm p b c ps).tdu.snap = d.tdu.snap := Dev.queueRec_tdu_snap ..
@[simp] theorem Dev.eventPerm_tdu_latched : (d.eventPerm p b c ps).tdu.latched = d.tdu.latched := Dev.queueRec_tdu_latched ..
@[simp] theorem Dev.eventPerm_tdu_bank : (d.eventPerm p b c ps).tdu.bank = d.tdu.bank := Dev.queueRec_tdu_bank ..
@[simp] theorem Dev.eventPerm_tdu_smp : (d.eventPerm p b c ps).tdu.smp = d.tdu.smp := Dev.queueRec_tdu_smp ..
@[simp] theorem Dev.eventPerm_tdu_trc : (d.eventPerm p b c ps).tdu.trc = d.tdu.trc := Dev.queueRec_tdu_trc ..
@[simp] theorem Dev.eventPerm_tdu_linkKeys : (d.eventPerm p b c ps).tdu.linkKeys = d.tdu.linkKeys := Dev.queueRec_tdu_linkKeys ..
@[simp] theorem Dev.eventPerm_tdu_chk : (d.eventPerm p b c ps).tdu.chk = d.tdu.chk := Dev.queueRec_tdu_chk ..
@[simp] theorem Dev.eventPerm_tdu_link0 : (d.eventPerm p b c ps).tdu.link0 = d.tdu.link0 := Dev.queueRec_tdu_link0 ..
@[simp] theorem Dev.eventPerm_tdu_link1 : (d.eventPerm p b c ps).tdu.link1 = d.tdu.link1 := Dev.queueRec_tdu_link1 ..
@[simp] theorem Dev.eventPerm_tdu_slots : (d.eventPerm p b c ps).tdu.slots = d.tdu.slots := Dev.queueRec_tdu_slots ..
@[simp] theorem Dev.eventPerm_tdu_q : (d.eventPerm p b c ps).tdu.q = d.tdu.q := Dev.queueRec_tdu_q ..
@[simp] theorem Dev.eventPerm_tta_fuses : (d.eventPerm p b c ps).tta.fuses = d.tta.fuses := Dev.queueRec_tta_fuses ..
@[simp] theorem Dev.eventPerm_tta_boot : (d.eventPerm p b c ps).tta.boot = d.tta.boot := Dev.queueRec_tta_boot ..
@[simp] theorem Dev.eventPerm_tta_pwr : (d.eventPerm p b c ps).tta.pwr = d.tta.pwr := Dev.queueRec_tta_pwr ..
@[simp] theorem Dev.eventPerm_tta_mtp : (d.eventPerm p b c ps).tta.mtp = d.tta.mtp := Dev.queueRec_tta_mtp ..
@[simp] theorem Dev.eventPerm_tta_mtpCut : (d.eventPerm p b c ps).tta.mtpCut = d.tta.mtpCut := Dev.queueRec_tta_mtpCut ..
@[simp] theorem Dev.eventPerm_tta_cal : (d.eventPerm p b c ps).tta.cal = d.tta.cal := Dev.queueRec_tta_cal ..
@[simp] theorem Dev.eventPerm_tta_time : (d.eventPerm p b c ps).tta.time = d.tta.time := Dev.queueRec_tta_time ..
@[simp] theorem Dev.eventPerm_tta_snap : (d.eventPerm p b c ps).tta.snap = d.tta.snap := Dev.queueRec_tta_snap ..
@[simp] theorem Dev.eventPerm_tta_latched : (d.eventPerm p b c ps).tta.latched = d.tta.latched := Dev.queueRec_tta_latched ..
@[simp] theorem Dev.eventPerm_tta_links : (d.eventPerm p b c ps).tta.links = d.tta.links := Dev.queueRec_tta_links ..
@[simp] theorem Dev.eventPerm_tta_slots : (d.eventPerm p b c ps).tta.slots = d.tta.slots := Dev.queueRec_tta_slots ..
@[simp] theorem Dev.eventPerm_tta_arbiters : (d.eventPerm p b c ps).tta.arbiters = d.tta.arbiters := Dev.queueRec_tta_arbiters ..
@[simp] theorem Dev.eventPerm_tta_fns : (d.eventPerm p b c ps).tta.fns = d.tta.fns := Dev.queueRec_tta_fns ..
@[simp] theorem Dev.eventPerm_tta_mirrored : (d.eventPerm p b c ps).tta.mirrored = d.tta.mirrored := Dev.queueRec_tta_mirrored ..
@[simp] theorem Dev.eventPerm_tta_tiles : (d.eventPerm p b c ps).tta.tiles = d.tta.tiles := Dev.queueRec_tta_tiles ..
@[simp] theorem Dev.eventPerm_tta_graphs : (d.eventPerm p b c ps).tta.graphs = d.tta.graphs := Dev.queueRec_tta_graphs ..
@[simp] theorem Dev.eventPerm_tta_hist : (d.eventPerm p b c ps).tta.hist = d.tta.hist := Dev.queueRec_tta_hist ..
@[simp] theorem Dev.eventPerm_tta_slotsX : (d.eventPerm p b c ps).tta.slotsX = d.tta.slotsX := Dev.queueRec_tta_slotsX ..
@[simp] theorem Dev.eventPerm_tta_retireDue : (d.eventPerm p b c ps).tta.retireDue = d.tta.retireDue := Dev.queueRec_tta_retireDue ..
@[simp] theorem Dev.eventPerm_tta_ing : (d.eventPerm p b c ps).tta.ing = d.tta.ing := Dev.queueRec_tta_ing ..
@[simp] theorem Dev.eventPerm_tta_twin : (d.eventPerm p b c ps).tta.twin = d.tta.twin := Dev.queueRec_tta_twin ..
@[simp] theorem Dev.eventPerm_tta_sett : (d.eventPerm p b c ps).tta.sett = d.tta.sett := Dev.queueRec_tta_sett ..
@[simp] theorem Dev.eventPerm_tta_captures : (d.eventPerm p b c ps).tta.captures = d.tta.captures := Dev.queueRec_tta_captures ..
@[simp] theorem Dev.eventPerm_tta_tables : (d.eventPerm p b c ps).tta.tables = d.tta.tables := Dev.queueRec_tta_tables ..
@[simp] theorem Dev.eventPerm_tta_wrn : (d.eventPerm p b c ps).tta.wrn = d.tta.wrn := Dev.queueRec_tta_wrn ..
@[simp] theorem Dev.eventPerm_tta_det : (d.eventPerm p b c ps).tta.det = d.tta.det := Dev.queueRec_tta_det ..
@[simp] theorem Dev.eventPerm_tta_chk : (d.eventPerm p b c ps).tta.chk = d.tta.chk := Dev.queueRec_tta_chk ..
@[simp] theorem Dev.eventPerm_tta_cmp : (d.eventPerm p b c ps).tta.cmp = d.tta.cmp := Dev.queueRec_tta_cmp ..
@[simp] theorem Dev.eventPerm_pins : (d.eventPerm p b c ps).pins = d.pins := Dev.queueRec_pins ..
@[simp] theorem Dev.eventPerm_freeIx : (d.eventPerm p b c ps).freeIx = d.freeIx := Dev.queueRec_freeIx ..
@[simp] theorem Dev.eventPerm_out : (d.eventPerm p b c ps).out = d.out := Dev.queueRec_out ..
@[simp] theorem Dev.eventPerm_tile (t : Nat) : (d.eventPerm p b c ps).tile t = d.tile t := Dev.queueRec_tile ..
@[simp] theorem Dev.eventPerm_graph (t : Nat) : (d.eventPerm p b c ps).graph t = d.graph t := Dev.queueRec_graph ..
@[simp] theorem Dev.eventPerm_tb (t : Part) : (d.eventPerm p b c ps).tb t = d.tb t := Dev.queueRec_tb ..
@[simp] theorem Dev.eventPerm_port (t : LinkEnd) : (d.eventPerm p b c ps).port t = d.port t := Dev.queueRec_port ..
@[simp] theorem Dev.eventPerm_timeValid (t : Part) : (d.eventPerm p b c ps).timeValid t = d.timeValid t := Dev.queueRec_timeValid ..
@[simp] theorem Dev.eventPerm_nowNs (t : Part) : (d.eventPerm p b c ps).nowNs t = d.nowNs t := Dev.queueRec_nowNs ..
@[simp] theorem Dev.eventPerm_slotTable (t : Part) : (d.eventPerm p b c ps).slotTable t = d.slotTable t := Dev.queueRec_slotTable ..
theorem Dev.eventPerm_word (sp : Space) (a : Nat) (h : (R.recStatLost p).space.sameFile sp = false ∨ a ≠ (R.recStatLost p).addr) :
    (d.eventPerm p b c ps).word sp a = d.word sp a := Dev.queueRec_word _ _ _ _ _ _ h
theorem Dev.eventPerm_get (f : Fld) (h : Fld.apart (R.recStatLost p) f = true) : (d.eventPerm p b c ps).get f = d.get f := Dev.queueRec_get _ _ _ _ _ h
theorem Dev.eventPerm_bit (f : Fld) (h : Fld.apart (R.recStatLost p) f = true) : (d.eventPerm p b c ps).bit f = d.bit f := by
  rw [Dev.bit, Dev.bit, Dev.eventPerm_get _ _ _ _ _ _ h]


end Sys2Proof.Machine
end

