-- ==== Sys2Proof/Laws/Lanes.lean ====
section
/-! SUPPORT. Laws of lanes: reading a lane of a packed word. -/
namespace Sys2Proof.Machine

theorem laneAt_lt (w i : Nat) (x : W64) : laneAt w i x < 2 ^ w := Nat.mod_lt _ (by positivity)

/-- The number that `packLanes` packs. -/
def packNat (w : Nat) (l : List Nat) : Nat := l.foldr (fun x acc => x % 2 ^ w + 2 ^ w * acc) 0

theorem packNat_lt (w : Nat) (l : List Nat) : packNat w l < 2 ^ (w * l.length) := by
  induction l with
  | nil => simp [packNat]
  | cons a t ih =>
    have ha : a % 2 ^ w < 2 ^ w := Nat.mod_lt _ (by positivity)
    have : packNat w (a :: t) = a % 2 ^ w + 2 ^ w * packNat w t := rfl
    rw [this, List.length_cons, Nat.mul_add, Nat.mul_one, pow_add, Nat.mul_comm (2 ^ (w * t.length))]
    calc a % 2 ^ w + 2 ^ w * packNat w t < 2 ^ w + 2 ^ w * packNat w t := by omega
      _ = 2 ^ w * (packNat w t + 1) := by ring
      _ ≤ 2 ^ w * 2 ^ (w * t.length) := Nat.mul_le_mul_left _ ih

theorem packNat_lane (w : Nat) (l : List Nat) (k : Nat) (hk : k < l.length) : packNat w l / 2 ^ (w * k) % 2 ^ w = l.getD k 0 % 2 ^ w := by
  induction l generalizing k with
  | nil => simp at hk
  | cons a t ih =>
    have ha : a % 2 ^ w < 2 ^ w := Nat.mod_lt _ (by positivity)
    have h0 : packNat w (a :: t) = a % 2 ^ w + 2 ^ w * packNat w t := rfl
    cases k with
    | zero => rw [h0]; simp [Nat.add_mul_mod_self_left]
    | succ j =>
      have : 2 ^ (w * (j + 1)) = 2 ^ w * 2 ^ (w * j) := by rw [← pow_add]; congr 1; ring
      rw [h0, this, ← Nat.div_div_eq_div_mul, Nat.add_mul_div_left _ _ (by positivity), Nat.div_eq_of_lt ha, Nat.zero_add]
      simpa using ih j (by simpa using hk)

/-- Lane `k` of a packed word. -/
theorem laneAt_packLanes (w : Nat) (l : List Nat) (k : Nat) (hk : k < l.length) (hw : w * l.length ≤ 64) :
    laneAt w k (packLanes w l) = l.getD k 0 % 2 ^ w := by
  have hlt : packNat w l < 2 ^ 64 := Nat.lt_of_lt_of_le (packNat_lt w l) (Nat.pow_le_pow_right (by decide) hw)
  unfold laneAt packLanes
  rw [BitVec.toNat_ofNat]
  change packNat w l % 2 ^ 64 / _ % _ = _
  rw [Nat.mod_eq_of_lt hlt, packNat_lane w l k hk]

theorem lanes_length (w : Nat) (x : W64) : (lanes w x).length = 64 / w := by simp [lanes]

theorem lanes_getD (w : Nat) (x : W64) (k : Nat) (hk : k < 64 / w) : (lanes w x).getD k 0 = laneAt w k x := by
  simp [lanes, List.getD, hk]

theorem laneAt_map1 (w : Nat) (g : Nat → Nat) (a : W64) (k : Nat) (hk : k < 64 / w) :
    laneAt w k (map1 w g a) = g (laneAt w k a) % 2 ^ w := by
  have hl : ((lanes w a).map g).length = 64 / w := by simp [lanes_length]
  rw [map1, laneAt_packLanes w _ k (by omega) (by rw [hl]; exact Nat.mul_div_le 64 w)]
  congr 1
  simp [lanes, hk]

theorem laneAt_map2 (w : Nat) (g : Nat → Nat → Nat) (a b : W64) (k : Nat) (hk : k < 64 / w) :
    laneAt w k (map2 w g a b) = g (laneAt w k a) (laneAt w k b) % 2 ^ w := by
  have hl : (List.zipWith g (lanes w a) (lanes w b)).length = 64 / w := by simp [lanes_length]
  rw [map2, laneAt_packLanes w _ k (by omega) (by rw [hl]; exact Nat.mul_div_le 64 w)]
  congr 1
  simp [lanes, hk]

theorem laneAt_map3 (w : Nat) (g : Nat → Nat → Nat → Nat) (a b c : W64) (k : Nat) (hk : k < 64 / w) :
    laneAt w k (map3 w g a b c) = g (laneAt w k a) (laneAt w k b) (laneAt w k c) % 2 ^ w := by
  have hl : (List.zipWith (fun g z => g z) (List.zipWith g (lanes w a) (lanes w b)) (lanes w c)).length = 64 / w := by simp [lanes_length]
  rw [map3, laneAt_packLanes w _ k (by omega) (by rw [hl]; exact Nat.mul_div_le 64 w)]
  congr 1
  simp [lanes, hk]

theorem wrapTo_lt (w : Nat) (v : Int) : wrapTo w v < 2 ^ w := by
  unfold wrapTo
  have h1 := Int.emod_lt_of_pos v (show (0 : Int) < 2 ^ w by positivity)
  have h0 := Int.emod_nonneg v (show (2 : Int) ^ w ≠ 0 by positivity)
  zify
  rw [Int.toNat_of_nonneg h0]
  exact h1

end Sys2Proof.Machine
end

