-- ==== Sys2Proof/Laws/Tile.lean ====
section
/-! SUPPORT. Laws of the tile instructions: a tile that is ready executes, and an instruction that only changes its tile has the frame
`TileFrame`. -/
namespace Sys2Proof.Machine

@[simp] theorem Dev.setTile_tile_same (d : Dev) (t : Nat) (x : Tile) : (d.setTile t x).tile t = x := by
  simp [Dev.tile, Dev.setTile]

theorem Dev.setTile_tile_ne (d : Dev) (t u : Nat) (x : Tile) (h : u ≠ t) : (d.setTile t x).tile u = d.tile u := by
  simp [Dev.tile, Dev.setTile, Memory.read_write_ne, h]

@[simp] theorem Dev.cnt_tile (d : Dev) (i n u : Nat) : (d.cnt i n).tile u = d.tile u := by
  simp [Dev.cnt, Dev.wrapAdd]

theorem cntField_ok (i : Nat) : (R.TTA_CNT_VALUE.at i).ok = true := by simp [Fld.ok, R.TTA_CNT_VALUE, Fld.at]

/-- A ready tile without errors runs the instruction's body. -/
theorem Dev.tileStep_ready (t : Fin 10240) (i : Instr) (body : Dev → Dev × Bool) (s : State) (h : TileReady t i s) :
    Dev.tileStep t.val i {} body s.dev = if (body s.dev).2 then (body s.dev).1.insnDone t.val i else (body s.dev).1 := by
  obtain ⟨hw, hs, hheld, ht⟩ := h
  have hpc : ((s.dev.tile t.val).task.isSome && tileEncode i != some ((s.dev.tile t.val).insnAt (s.dev.tile t.val).pc)) = false := by
    rcases ht with ht | ht <;> simp [ht]
  simp only [Dev.tileStep, hw, hs, hpc, hheld, List.foldl_nil, Option.isSome_none, Bool.or_self, Bool.false_eq_true, if_false]
  rfl

/-- The completion of an instruction on a tile `x`. -/
theorem Dev.insnDone_tile (t : Nat) (i : Instr) (d : Dev) : (d.insnDone t i).tile t = (d.tile t).stepped i := by
  simp [Dev.insnDone, Dev.updTile, Tile.stepped]

theorem Dev.insnDone_updTile_frame (t : Fin 10240) (i : Instr) (g : Tile → Tile) (s : State) :
    TileFrame t i s ((s.dev.updTile t.val g).insnDone t.val i) := by
  have hc : (s.dev.updTile t.val g).get (R.TTA_CNT_VALUE.at 12) = s.dev.get (R.TTA_CNT_VALUE.at 12) := by simp [Dev.updTile]
  refine ⟨?_, ?_, ?_, ?_, ?_, ?_, ?_, ?_⟩
  · simp only [Dev.insnDone, Dev.updTile, Dev.setTile_dev_tdu, Dev.cnt, Dev.wrapAdd]
    rw [Dev.set_tdu _ _ _ rfl, Dev.setTile_dev_tdu]
  · simp [Dev.insnDone, Dev.updTile, Dev.cnt, Dev.wrapAdd]
  · simp [Dev.insnDone, Dev.updTile, Dev.cnt, Dev.wrapAdd]
  · simp [Dev.insnDone, Dev.updTile, Dev.cnt, Dev.wrapAdd]
  · simp [Dev.insnDone, Dev.updTile, Dev.cnt, Dev.wrapAdd]
  · intro u hu
    simp [Dev.insnDone, Dev.updTile, Dev.setTile_tile_ne, hu]
  · intro a ha
    simp only [Dev.insnDone, Dev.updTile, Dev.setTile_word, Dev.cnt, Dev.wrapAdd]
    unfold Dev.set
    rw [Dev.word_setWord_ne _ _ _ _ _ _ (.inr ha), Dev.setTile_word]
  · simp only [Dev.insnDone, Dev.updTile, Dev.setTile_get, Dev.cnt, Dev.wrapAdd]
    rw [Dev.get_set_same _ _ _ (cntField_ok 12)]
    rfl

/-- An instruction that only changes its tile. -/
theorem State.tileLocal_completes (t : Fin 10240) (i : Instr) (g : Tile → Tile) (s : State) (hl : tileLegal i = true) (h : TileReady t i s) :
    ∃ d : Dev, s.tileLocal t i {} g = .next { s with dev := d } ∧ d.tile t.val = (g (s.dev.tile t.val)).stepped i ∧ TileFrame t i s d := by
  refine ⟨(s.dev.updTile t.val g).insnDone t.val i, ?_, ?_, Dev.insnDone_updTile_frame t i g s⟩
  · simp only [State.tileLocal, State.tileInsn, hl, if_true, State.run, Dev.tileStep_ready t i _ s h]
  · rw [Dev.insnDone_tile]
    simp [Dev.updTile]

/-- A reserved encoding is refused (R247). -/
theorem State.tileInsn_refused (t : Fin 10240) (i : Instr) (x : TileEcc) (body : Dev → Dev × Bool) (s : State) (h : tileLegal i = false) :
    s.tileInsn t i x body = .refused .illegalEncoding := by simp [State.tileInsn, h]

end Sys2Proof.Machine
end

