-- ==== Sys2Proof/Tests/Slice0.lean ====
section
/-! SUPPORT. The model's own tests: the well-formedness smoke tests, worked examples of the spec, and a witness for the hypotheses of the
statements. -/
namespace Sys2Proof.Tests
open Sys2Proof.Machine
set_option maxRecDepth 100000
set_option Elab.async false

/-! ## Small states -/

/-- The state after reset with the device changed. -/
def st (f : Dev → Dev) : State := { dev := f State.reset.dev, pending := [] }

/-- A good link header. -/
def hdr (cls : Fin 8) (prot : Bool) : RxHdr :=
  { crcOk := true, tagOk := true, prot := prot, fwd := none, seq := 0, cls := cls, len := 0, allotIdx := 0 }

/-- A port that is UP. -/
def up (e : LinkEnd) (d : Dev) : Dev := (d.set (tlState e) 6).updPort e fun l => { l with phase := 6 }

/-- Tile 0 as given. -/
def tile0 (x : Tile) : State := st fun d => d.setTile 0 x

/-- A tile inside a task whose instruction at the program counter is `i`. -/
def taskTile (i : Instr) : Tile :=
  { task := some 0, sram := [(4, { v := ((tileEncode i).getD 0).zeroExtend 64, p := false })], pc := 8, code := [(4, 1)] }

/-- The spec's format R operands with the lane type `ty`. -/
def r (ty : BitVec 4) (c : BitVec 5 := 0) : RFmt := { ty := ty, d := 1, a := 2, b := 3, c := c }
def im (ty : BitVec 4) (imm : BitVec 10) : IFmt := { ty := ty, d := 1, a := 2, imm := imm }

/-- The time of the aggregator, or of the die unit, is LOCKED with domain A in force. -/
def lockTta (d : Dev) : Dev := { d with tta := { d.tta with time := { d.tta.time with base := { d.tta.time.base with domA := { state := .locked } } } } }
def lockTdu (d : Dev) : Dev :=
  { d with tdu := { d.tdu with time := { d.tdu.time with state := .locked, base := { d.tdu.time.base with domA := { state := .locked } } } } }

/-- A frame of a class. -/
def frm (c : Fin 8) (seq : Nat) : Frame := { payload := .stamps [], cls := c, prot := true, fwd := none, allotIdx := 0, len := 0, seq := seq, sentAt := 0 }

/-- A descriptor of the PF. -/
def desc : Desc := { fn := .pf, ring := 0, index := 0, flags := 0, allot := 0, tag := 0, length := 0, slackUs := 0 }

/-- The state with a device of its own. -/
def dv (d : Dev) : State := { dev := d, pending := [] }
def leads (b : Bool) (d : Dev) : Dev := d.setBit R.TTA_TIME_STAT_LEAD b

/-- Slot `n` holds an allotment of a class in a state (2 ACTIVE). -/
def slotIn (n allot cls state : Nat) (d : Dev) : Dev :=
  ((d.set (R.TTA_ALT_ENTRY_STATE.at n) state).set (R.TTA_ALT_ENTRY_ALLOT_ID.at n) allot).set (R.TTA_ALT_ENTRY_CLASS.at n) cls

/-- A descriptor, and rings that take buffers of any length. -/
def dq (fn : Fn) (allot : BitVec 16) (len : BitVec 24) : Desc := { desc with fn := fn, allot := allot, length := len }
def bufs (fn : Fn) (d : Dev) : Dev := d.set (qBuf fn 0) 0xFFFFFF

/-- The descriptor can start and complete, as one test. -/
def runs (op : Nat) (q : Desc) (d : Dev) : Bool :=
  !d.fenceHolds q && (d.headerCheck op q == none) && decide (q.fn ≠ .tdu) && !(d.fnq q.fn).orphans.contains (q.ring.val, q.index.toNat) &&
  ((d.fnq q.fn).quiesce == none)

theorem runs_ok {op : Nat} {q : Desc} {d : Dev} (h : runs op q d = true) : DescRuns op q d := by
  unfold runs at h
  simp only [Bool.and_eq_true, Bool.not_eq_true', beq_iff_eq, decide_eq_true_eq] at h
  exact ⟨h.1.1.1.1, h.1.1.1.2, h.1.1.2, h.1.2, fun w e => by rw [h.2] at e; cases e⟩

/-! ## Tiles -/

/-- One legal encoding of each tile instruction, at the limits of the lane types. -/
def tileSamples : List Instr :=
  [.nop 0 ⟨0, 0, 0, 0, 0⟩ {}, .add 0 (r 0) {}, .add 0 (r 7) {}, .sub 0 (r 3) {}, .adds 0 (r 0) {}, .subs 0 (r 7) {}, .mul 0 (r 1) {}, .mulh 0 (r 6) {},
   .min 0 (r 2) {}, .max 0 (r 5) {}, .and 0 (r 7) {}, .or 0 (r 7) {}, .xor 0 (r 7) {}, .shl 0 (r 4) {}, .shr 0 (r 3) {}, .cmplt 0 (r 0) {},
   .cmpeq 0 (r 7) {}, .sel 0 (r 7 4) {}, .addi 0 (im 0 0x200) {}, .liq 0 ⟨3, 1, 0xFFFF⟩ {}, .clz 0 { r 4 with b := 0 } {},
   .popc 0 { r 7 with b := 0 } {}] ++
  [.lidx 0 { im 7 3 with a := 0 } {}, .fadd 0 (r 10) {}, .fsub 0 (r 11) {}, .fmul 0 (r 12) {}, .fma 0 (r 12) {}, .fmin 0 (r 10) {}, .fmax 0 (r 11) {},
   .fdiv 0 (r 12) {}, .fsqrt 0 { r 12 with b := 0 } {}, .fcmplt 0 (r 10) {}, .fcmpeq 0 (r 12) {}, .fsgn 0 (r 12 2) {},
   .cvt 0 { r 12 8 with b := 3 } {}, .cvt 0 { r 8 12 with b := 3 } {}, .dot 0 (r 8 9) {}, .dot 0 (r 12 12) {}] ++
  [.accClr 0 { r 0 with a := 0, b := 0 } {}, .accAdd 0 { r 12 with b := 0 } {}, .accRd 0 { r 12 16 with b := 0 } {}, .accMrg 0 { r 0 with b := 0 } {},
   .accLd 0 (im 0 0) {}, .accSt 0 (im 0 0) {}, .ld 0 (im 7 0x1FF) {}, .st 0 (im 7 0) {}, .gld 0 (r 6) {}, .nput 0 (im 7 31) {},
   .inrd 0 { im 7 31 with a := 0 } {}, .hbkt 0 { r 7 with b := 0 } {}, .hadd 0 { r 7 with d := 0 } {}, .twalk 0 (r 0 1) {}, .xfer 0 { im 0 0 with d := 0 } {},
   .swait 0 ⟨1, 0⟩ {}, .ssig 0 ⟨1, 0⟩ {}, .loop 0 ⟨1, 1⟩ {}, .end_ 0 ⟨0, 0, 0, 0, 0⟩ {}]

theorem witness_tile_instructions : ∀ i ∈ tileSamples, tileLegal i = true ∧ TileReady 0 i State.reset := by
  simp only [TileReady]
  decide +kernel

theorem witness_tile_in_task : TileReady 0 (.add 0 (r 7) {}) (tile0 (taskTile (.add 0 (r 7) {}))) := by
  simp only [TileReady]
  decide +kernel

theorem witness_tile_refused : tileLegal (.add 0 (r 8) {}) = false ∧ tileLegal (.cvt 0 { r 12 8 with b := 4 } {}) = false := by decide +kernel

theorem witness_tile_words : tileEncode (.addi 0 (im 7 1) {}) = some 0x11708801 ∧ tileDecode 0 0x11708801 = some (.addi 0 (im 7 1) {}) := by decide +kernel

theorem witness_rounding : (fmtOf 8).finite ((fmtOf 8).round false true 1 0) = true ∧ (fmtOf 8).finite ((fmtOf 8).round false false 1 9) = false ∧
    (fmtOf 12).finite ((fmtOf 12).round false false 1 (-150)) = true ∧ (fmtOf 12).finite ((fmtOf 12).round false false 1 128) = false := by
  decide +kernel

theorem witness_convert : tileLegal (.cvt 0 { r 12 8 with b := 3 } {}) = true ∧ tyWidth 8 < tyWidth 12 ∧
    tileLegal (.cvt 0 { r 8 12 with b := 3 } {}) = true ∧ tyWidth 8 ≤ tyWidth 12 ∧ tileLegal (.cvt 0 { r 8 8 with b := 0 } {}) = true := by
  decide +kernel

/-- A tile whose register 2 holds the last word of SRAM. -/
def edgeTile : Tile := ({} : Tile).setReg 2 { v := 8191, p := false }

theorem witness_accumulator_addresses :
    (0 ≤ edgeTile.addr 2 (-5) ∧ edgeTile.addr 2 (-5) + 5 < 8192) ∧ (8192 ≤ edgeTile.addr 2 (-4) + 5) ∧ ({} : Tile).addr 2 (-1) < 0 ∧
    (∀ k, k < 6 → edgeTile.storable (edgeTile.addr 2 (-5) + (k : Nat)) = true) ∧
    (∃ k, k < 6 ∧ edgeTile.storable (edgeTile.addr 2 (-4) + (k : Nat)) = false) :=
  ⟨by decide +kernel, by decide +kernel, by decide +kernel, by decide +kernel, 5, by decide +kernel⟩

theorem witness_accumulator_lanes : (fmtOf 12).finite 0x7F7FFFFF = true ∧ (fmtOf 8).finite 0x7E = true ∧ (fmtOf 12).dec 0x7FC00000 = .nan ∧
    (fmtOf 8).dec 0x7F = .nan ∧ (fmtOf 12).dec 0x7F800000 = .inf false ∧ (fmtOf 9).dec 0xFC = .inf true := by decide +kernel

theorem witness_accumulator_order : ([(12, ⟨1, false⟩), (8, ⟨2, true⟩)] : List (Nat × TWord)).Perm [(8, ⟨2, true⟩), (12, ⟨1, false⟩)] := by
  decide

theorem witness_tile_memory :
    (0 ≤ edgeTile.addr 2 0 ∧ edgeTile.addr 2 0 < 8192) ∧ 8192 ≤ edgeTile.addr 2 1 ∧ edgeTile.addr 0 (-1) < 0 ∧
    edgeTile.storable (edgeTile.addr 2 0) = true ∧ edgeTile.storable (edgeTile.addr 2 1) = false ∧
    (taskTile (.nop 0 ⟨0, 0, 0, 0, 0⟩ {})).storable 4 = false ∧
    (∀ k, k < 64 / tyWidth 6 → 0 ≤ edgeTile.addr 2 ((laneAt 16 k 0 * tyWidth 6 / 64 : Nat) : Int) ∧
      edgeTile.addr 2 ((laneAt 16 k 0 * tyWidth 6 / 64 : Nat) : Int) < 8192) ∧
    edgeTile.storable (edgeTile.addr 2 (bucketOf 0)) = true ∧ edgeTile.storable (edgeTile.addr 2 (bucketOf 2)) = false := by
  decide +kernel

theorem witness_tree_walk : tileLegal (.twalk 0 (r 0 1) {}) = true ∧
    ∀ node, node < 2 ^ 1 - 1 → (edgeTile.direction false (edgeTile.addr 0 0) (edgeTile.addr 2 0) 1 node).2.2 = [] := by decide +kernel

/-- A tile in use by graph 0 with a task under way, whose list ends there; its graph in slot 1 with one object and a run. -/
def useTile (x : Tile) : Tile := { x with use := some ⟨0, 0, false⟩ }
def graph0 : Graph :=
  { slot := 1, gid := 3, state := 2, plan := { lists := [[.endList]], objs := [9] }, run := some { no := 1, epoch := 8, index := [5] } }
def graphTile (x : Tile) (d : Dev) : Dev :=
  ((d.setTile 0 (useTile x)).setGraph 0 graph0).set (R.TTA_SYNC_TYPE.at 9) 1

theorem witness_tile_control :
    (∀ n : Fin 2, let i : Instr := .loop 0 ⟨BitVec.ofNat 12 n.val, 1⟩ {}
      tileLegal i = true ∧ TileReady 0 i (tile0 (taskTile i)) ∧ ((tile0 (taskTile i)).dev.tile 0).task.isSome = true) ∧
    ({ ({} : Tile) with loops := [⟨1, 0, 0, 1⟩, ⟨1, 0, 0, 1⟩, ⟨1, 0, 0, 1⟩, ⟨2, 1, 0, 1⟩] }).loops[3]? = some ⟨2, 1, 0, 1⟩ ∧
    (State.reset.dev.tile 0).loops[3]? = none := by
  simp only [TileReady]
  decide +kernel

theorem witness_end :
    let i : Instr := .end_ 0 ⟨0, 0, 0, 0, 0⟩ {}
    let s : State := st (graphTile (taskTile i))
    TileReady 0 i s ∧ (s.dev.tile 0).task = some 0 ∧ (s.dev.tile 0).use = some ⟨0, 0, false⟩ ∧ s.dev.graph 0 = some graph0 ∧
    s.dev.shadowOf 0 = none ∧ s.dev.listEntry 0 = some .endList := by
  simp only [TileReady]
  decide +kernel

/-- A transfer in flight: gather or another kind of one word to word 100, its descriptor at word 0. -/
def xf (kind status words : Nat) : Xfer :=
  { id := 0, addr := 0, kind := kind, obj := 9, words := words, remote := indexBase 0, loc := 100, deadline := 0, status := status,
    mirror := false, round := none }

theorem witness_xfer :
    ((State.reset.dev.tile 0).xfers.length < 4 ∧ State.reset.dev.isShadow 0 = false) ∧
    (let s := tile0 { ({} : Tile) with xfers := [xf 0 0 1, xf 0 0 1, xf 1 0 1, xf 3 0 1] }
     TileReady 0 (.xfer 0 { im 0 0 with d := 0 } {}) s ∧ 4 ≤ (s.dev.tile 0).xfers.length) := by
  simp only [TileReady]
  decide +kernel

theorem witness_xfer_complete (kind : Fin 4) (_h : kind.val ≠ 2) (status : Fin 2) :
    let f := xf kind.val (status.val * 4) 1
    let s := st (graphTile { ({} : Tile) with xfers := [f] })
    (s.dev.tile 0).xfers.find? (fun g => g.id == f.id && !g.mirror && g.round.isNone) = some f ∧ s.dev.shadowOf 0 = none ∧
    s.dev.ownObj 0 f.obj = true ∧ s.dev.get (R.TTA_SYNC_TYPE.at f.obj) = 1 ∧ (s.dev.tile 0).storable (f.addr : Int) = true ∧
    (f.addr < f.loc ∧ ∀ i, i < min f.words (8192 - f.loc) → (s.dev.tile 0).storable ((f.loc + i : Nat) : Int) = true) ∧
    s.dev.pageAwaited f.remote (8 * f.words) = false ∧ f.loc + f.words ≤ 8192 := by
  revert kind status
  decide +kernel

theorem witness_gather : ∃ st_ ws d₁, (st (graphTile { ({} : Tile) with xfers := [xf 0 0 1] })).dev.gather 1 0 (indexBase 0) 1 = ((st_, ws), d₁) ∧
    ws.length = 1 := ⟨_, _, _, rfl, by decide +kernel⟩

theorem witness_inbox :
    (let s := State.reset
     s.dev.isShadow 0 = false ∧ s.dev.shadowOf 1 = none ∧ ((s.dev.tile 1).inboxWord 31).full = false ∧ ((s.dev.tile 0).inboxWord 31).full = false) ∧
    (let s := st fun d => d.updTile 1 (·.setInbox 31 { full := true })
     TileReady 0 (.nput 0 (im 7 31) {}) s ∧ ((s.dev.tile 1).inboxWord 31).full = true ∧ (0 : Nat) / 16 * 16 + 1 = 1) ∧
    (let x : Tile := ({ ({} : Tile) with wait := some (.inbox (.inrd 0 { im 7 31 with a := 0 } {})) }).setInbox 31 { full := true }
     x.stopped = false ∧ (x.inboxWord 31).full = true ∧ x.inq.find? (fun e => e.1 == 31) = none) := by
  simp only [TileReady]
  decide +kernel

theorem witness_sync :
    (let s := st (graphTile {})
     TileReady 0 (.ssig 0 ⟨255, 9⟩ {}) s ∧ TileReady 0 (.swait 0 ⟨1, 9⟩ {}) s ∧ s.dev.isShadow 0 = false ∧ s.dev.ownObj 0 9 = true ∧
     s.dev.get (R.TTA_SYNC_TYPE.at 9) = 1 ∧ s.dev.get (R.TTA_SYNC_TARGET.at 9) ≤ s.dev.get (R.TTA_SYNC_VALUE.at 9) ∧ s.dev.get (R.TTA_SYNC_VALUE.at 9) < 1 ∧
     s.dev.ownObj 0 10 = false) ∧
    (let s := st fun d => ((graphTile {}) d).set (R.TTA_SYNC_TYPE.at 9) 2
     s.dev.get (R.TTA_SYNC_TYPE.at 9) = 2 ∧ s.dev.ownObj 0 9 = true) ∧
    (let s := st fun d => (((graphTile { ({} : Tile) with wait := some (.sync 9 1) }) d)).set (R.TTA_SYNC_VALUE.at 9) 1
     (s.dev.tile 0).wait = some (.sync 9 1) ∧ (s.dev.tile 0).stopped = false ∧ s.dev.swaitDone 9 1 = true) := by
  simp only [TileReady]
  decide +kernel

/-! ## Links -/

/-- A TRAIN frame of version 1. -/
def train (role port : BitVec 8) (id : BitVec 16) : Train :=
  { version := 1, minVersion := 1, role := role, port := port, ttaId := id, lanes := 0xF, credS := 128, credW := 1024 }

/-- A port in a training state. -/
def phase (e : LinkEnd) (n : Nat) (d : Dev) : Dev := (d.set (tlState e) n).updPort e fun l => { l with phase := n }

theorem witness_die_index : State.reset.dev.tta.mirrored = [] ∧
    (let d := phase (.tdu 0) 4 State.reset.dev
     (d.port (.tdu 0)).phase = 4 ∧ (train 1 15 0x3FFE).ttaId.toNat % 2 = 0 ∧ d.bit R.TDU_DIE_VALID = false ∧ d.get (tlState (.tdu 0)) ≠ 0 ∧
     (train 1 15 0x3FFF).ttaId.toNat % 2 ≠ 0) ∧
    (let d := (phase (.tdu 1) 4 State.reset.dev).set (tlState (.tdu 0)) 0
     (d.port (.tdu 1)).phase = 4 ∧ (train 1 15 1).ttaId.toNat % 2 = 1 ∧ d.get (tlState (.tdu 0)) = 0) ∧
    (let d := ((phase (.tdu 0) 4 State.reset.dev).setBit R.TDU_DIE_VALID true).set R.TDU_DIE_DIE 3
     d.bit R.TDU_DIE_VALID = true ∧ d.get R.TDU_DIE_DIE ≠ (train 1 15 0).port.toNat) := by decide +kernel

theorem witness_training_start :
    (let d := State.reset.dev.setBit R.TTA_BOOT_CTL_TRAY_GO true
     d.get (tlState (.tta 15)) = 0 ∧ d.portAllowed (.tta 15) = true ∧ laneMask (.tta 15) - (laneMask (.tta 15) &&& d.get (tlRetired (.tta 15))) ≠ 0) ∧
    (let d := ((State.reset.dev.setBit R.TTA_BOOT_CTL_TRAY_GO true).setBit (tlEnable (.tta 16)) true).updPort (.tta 16) fun l => { l with retryWait := true }
     d.portAllowed (.tta 16) = true ∧ (d.port (.tta 16)).retryWait = true ∧ (d.port (.tta 16)).refused = false ∧ d.bit (tlEnable (.tta 16)) = true) ∧
    ((up (.tdu 1) State.reset.dev).get (tlState (.tdu 1)) ≠ 0) := by decide +kernel

theorem witness_training_states :
    (∀ n : Fin 6, ((phase (.tta 16) n.val State.reset.dev).port (.tta 16)).phase = n.val) ∧
    ((State.reset.dev.set (tlActive (.tta 16)) 0xFF).get (tlActive (.tta 16)) &&& (0x80#8).toNat ≠ 0) ∧
    ((State.reset.dev.set (tlActive (.tta 16)) 0xFF).get (tlActive (.tta 16)) -
      ((State.reset.dev.set (tlActive (.tta 16)) 0xFF).get (tlActive (.tta 16)) &&& (0x7F#8).toNat) ≠ 0) ∧
    (let d := (phase (.tta 16) 4 State.reset.dev).set R.TTA_CAPS_LINK_VER 1
     (train 1 16 0).role.toNat = 1 ∧ (d.ownTrain (.tta 16)).minVersion.toNat ≤ min (d.ownTrain (.tta 16)).version.toNat (train 1 16 0).version.toNat ∧
     (train 1 16 0).minVersion.toNat ≤ min (d.ownTrain (.tta 16)).version.toNat (train 1 16 0).version.toNat ∧ d.get (tlState (.tta 16)) ≠ 0 ∧
     (train 2 16 0).role.toNat = 2 ∧
     min (d.ownTrain (.tta 16)).version.toNat ({ train 1 16 0 with version := 9, minVersion := 9 } : Train).version.toNat <
       ({ train 1 16 0 with version := 9, minVersion := 9 } : Train).minVersion.toNat) ∧
    (let d := (phase (.tta 0) 2 State.reset.dev).updPort (.tta 0) fun l => { l with inRetrain := true, tries := 1 }
     (d.port (.tta 0)).phase = 2 ∧ d.get (tlState (.tta 0)) ≠ 0 ∧ (d.port (.tta 0)).inRetrain = true ∧ (d.port (.tta 0)).tries < 2) := by
  decide +kernel

/-- Port 0 of the aggregator UP with four active lanes and a frame in each replay buffer. -/
def upLink : Dev := ((up (.tta 0) State.reset.dev).set (tlActive (.tta 0)) 0xF).updPort (.tta 0) fun l =>
  { l with strict := { l.strict with replay := [frm 0 5] }, weighted := { l.weighted with replay := [frm 7 6] } }

theorem witness_link_up : upLink.tta.mirrored = [] ∧ upLink.get (tlState (.tta 0)) = 6 ∧ (upLink.port (.tta 0)).clrPending = false ∧
    (∀ n, n < 4 → (upLink.get (tlActive (.tta 0))).testBit n = true ∧ upLink.get (tlActive (.tta 0)) - (upLink.get (tlActive (.tta 0)) &&& 2 ^ n) ≠ 0) ∧
    frm 0 5 ∈ (upLink.port (.tta 0)).strict.replay ∧ (upLink.port (.tta 0)).strict.replayRun = none ∧
    ((upLink.port (.tta 0)).space true).replay = frm 0 5 :: [] ∧ ((upLink.port (.tta 0)).space true).resendFrom = none ∧
    ((upLink.port (.tta 0)).space false).replay = frm 7 6 :: [] ∧ ((upLink.port (.tta 0)).space false).replayRun = none ∧
    (frm 0 5).sentAt + 800 ≤ 800 := by decide +kernel

theorem witness_frame_boundary :
    (let d := upLink.updPort (.tta 0) fun l => { l with queue := [frm 0 0], strict := { credLimit := 128 } }
     let P := d.port (.tta 0)
     d.isUp (.tta 0) = true ∧ d.tdu.smp.spill = [] ∧ d.tdu.smp.held = [] ∧ d.tdu.smp.stampQueue = [] ∧ P.current = none ∧ P.strict.resendFrom = none ∧
     P.weighted.resendFrom = none ∧ P.head 0 = some (frm 0 0) ∧ P.creditsOk (frm 0 0) = true ∧ P.replayRoom (frm 0 0) = true) ∧
    (upLink.port (.tta 0)).queue = [] ∧
    (let P := (upLink.updPort (.tta 0) fun l => { l with strict := { l.strict with resendFrom := some 5 } }).port (.tta 0)
     P.current = none ∧ P.strict.resendFrom = some 5 ∧ P.strict.replay.find? (fun x => x.seq = 5) = some (frm 0 5)) ∧
    (let P := (upLink.updPort (.tta 0) fun l => { l with current := some (frm 3 0, false) }).port (.tta 0)
     P.current = some (frm 3 0, false) ∧ (frm 3 0).cls.val < 4 ∧ P.queue = []) := by decide +kernel

theorem witness_egress_selection :
    (State.reset.dev.selectClass (.tta 0) { ({} : LinkPort) with queue := [frm 2 0], strict := { credLimit := 128 }, tokens2 := 1 } = some 2) ∧
    (State.reset.dev.selectClass (.tta 0) { ({} : LinkPort) with queue := [frm 2 0], strict := { credLimit := 128 } } = none) ∧
    ((State.reset.dev.set (tlActive (.tta 0)) 0xF).selectClass (.tta 0)
      { ({} : LinkPort) with queue := [frm 4 0, frm 7 0], weighted := { credLimit := 128 }, tagW0 := 2 ^ 47 - 1 } = some 7) := by decide +kernel

theorem witness_slot_table :
    ((lockTta State.reset.dev).timeValid .tta = true ∧ (lockTta State.reset.dev).bit R.TTA_EGR_SLOT_CTL_PENDING = false) ∧
    ((State.reset.dev.setBit R.TTA_EGR_SLOT_CTL_PENDING true).bit R.TTA_EGR_SLOT_CTL_PENDING = true) ∧
    (∀ p, p = Part.tdu ∨ p = Part.tta →
      let d := (lockTdu (lockTta State.reset.dev)).setSlotTable p { next := some (10000000, []) }
      (d.slotTable p).next = some (10000000, []) ∧ (d.advance p 10000000).timeValid p = true ∧ 10000000 ≤ (d.advance p 10000000).nowNs p) := by
  refine ⟨by decide +kernel, by decide +kernel, ?_⟩
  rintro p (rfl | rfl) <;> decide +kernel

theorem witness_arbiters :
    (State.reset.dev.setBit R.TTA_ARB_CTL_MODE true).bit R.TTA_ARB_CTL_MODE = true ∧
    (State.reset.dev.setBit R.TTA_ARB_CTL_MODE false).bit R.TTA_ARB_CTL_MODE = false ∧
    (Memory.read (fun _ => ({} : Arbiter)) State.reset.dev.tta.arbiters 0).pending ++ [(⟨⟨1, none, 5⟩, State.reset.dev.slackDeadline, none⟩ : ArbPending)] ≠ [] := by
  decide +kernel

theorem witness_quiet_windows :
    fitsBeforeQuiet { active := [⟨true, 10, 5⟩] } 9000 1000 = true ∧ fitsBeforeQuiet { active := [⟨true, 10, 5⟩] } 9000 1001 = false ∧
    fitsBeforeQuiet { active := [], next := some (10000000, [⟨true, 0, 5⟩]) } 9999000 1000 = true ∧ (9999000 < 10000000) := by decide +kernel

theorem witness_frame_acceptance :
    (let d := up (.tdu 1) State.reset.dev
     d.isUp (.tdu 1) = true ∧ (d.acceptFrame (.tdu 1) true (hdr 0 true)).1 = true ∧
     (d.acceptFrame (.tdu 1) true { hdr 7 true with crcOk := false }).1 = false ∧
     (d.acceptFrame (.tdu 1) true { hdr 7 true with seq := 4095 }).1 = false ∧ seqLater 4095 0 = false ∧
     (d.acceptFrame (.tdu 1) true { hdr 7 true with tagOk := false }).1 = false ∧ ((d.port (.tdu 1)).space false).tagFailed ≠ some 0) ∧
    State.reset.dev.isUp (.tdu 1) = false ∧
    (((up (.tdu 1) State.reset.dev).updPort (.tdu 1) fun l => { l with strict := { l.strict with tagFailed := some 0 } }).port (.tdu 1)).strict.tagFailed = some 0 := by
  decide +kernel

/-! ## The die unit -/

/-- A die unit whose port 0 is UP, out of reset, in D0. -/
def tduUp : Dev := up (.tdu 0) State.reset.dev

/-- Allotment index `a` mapped to an allotment of class `c`. -/
def mapIx (a c : Nat) (d : Dev) : Dev := (d.setBit (R.TDU_ALLOT_MAP_VALID.at a) true).set (R.TDU_ALLOT_MAP_CLASS.at a) c

theorem witness_tdu_control : TakesControl 0 (some (hdr 2 true)) tduUp ∧ TakesControl 0 none tduUp ∧ tduUp.tdu.time.srcPort = 0 ∧
    tduUp.mapValid 63 = false ∧ (mapIx 1 0 tduUp).mapValid 1 = true ∧ (tduUp.tslot 7).shadow = none ∧ tduUp.tstate 7 = 0 ∧
    R.TDU_TRC_SLOT_CFG_VALID.read (maskPut (tduUp.word .tdu 0x6878) (BitVec.allOnes 64) (BitVec.allOnes 64)) ≠ 0 ∧
    RecorderRoom .tdu { dev := tduUp, pending := [] } ∧ tduUp.bit R.TDU_SNAP_STAT_BUSY = false ∧
    ((lockTdu tduUp).timeValid .tdu = true ∧ (lockTdu tduUp).nowNs .tdu < 1) ∧ tduUp.timeValid .tdu = false := by
  simp only [TakesControl, Accepts, RecorderRoom]
  decide +kernel

/-- A hint of pipeline 63. -/
def hint : Hint := { version := 1, flags := 0, pipe := 63, stage := 0, slotNum := 0, excess := 0, stamp := 0, forecast := 0 }

theorem witness_hints : Accepts (.tdu 0) (hdr 1 true) tduUp ∧ tduUp.tdu.smp.hints = [] ∧
    (tduUp.tdu.smp.unpaired.find? fun e => e.1 = hint.pipe.val) = none ∧ (List.replicate 255 (0, hint)).length < 256 ∧
    256 ≤ (List.replicate 256 (0, hint)).length ∧
    ([(63, 1, hint)].find? fun e => e.1 = hint.pipe.val) = some (hint.pipe.val, 1, hint) ∧
    80000 < ((80001#32) - hint.stamp).toNat ∧ ((80000#32) - hint.stamp).toNat ≤ 80000 := by
  simp only [Accepts]
  decide +kernel

theorem witness_test_order : let d := (tduUp.set (R.TDU_CHK_CLASS_FIRST_UNIT.at 15) 7).set (R.TDU_CHK_CLASS_UNIT_COUNT.at 15) 1
    Accepts (.tdu 0) (hdr 2 true) d ∧ (∃ u c, c < 16 ∧ (0x8000#16).toNat.testBit c = true ∧ d.get (R.TDU_CHK_CLASS_FIRST_UNIT.at c) ≤ u ∧
      u < d.get (R.TDU_CHK_CLASS_FIRST_UNIT.at c) + d.get (R.TDU_CHK_CLASS_UNIT_COUNT.at c)) ∧
    ∀ c : Nat, (0x0000#16).toNat.testBit c = false := by
  refine ⟨by simp only [Accepts]; decide +kernel, ⟨7, 15, by decide +kernel⟩, by simp⟩

/-- The 64 bytes of a CNT_SNAP descriptor with a buffer of 256 bytes. -/
def cntSnap : List Byte := [0x71] ++ List.replicate 8 0 ++ [1] ++ List.replicate 54 0

theorem witness_ring_descriptor : Accepts (.tdu 0) (hdr 5 true) tduUp ∧ cntSnap.length = 64 ∧ leAt cntSnap 0 1 = 0x71 ∧
    (BitVec.ofNat 8 (leAt cntSnap 1 1)).getLsbD 1 = false ∧ leAt cntSnap 2 2 = 0 ∧ 256 ≤ leAt cntSnap 8 3 ∧ leAt cntSnap 24 8 % 64 = 0 ∧
    leAt (List.replicate 64 (0#8)) 0 1 ≠ 0x71 := by
  simp only [Accepts]
  decide +kernel

theorem witness_fast_pack : (65535 < 65536) ∧ (List.replicate 64 (2 ^ 64 - 1)).length ≤ 64 ∧ (∀ w ∈ List.replicate 64 (2 ^ 64 - 1), w < 2 ^ 64) ∧
    (List.replicate 16 (0#8)).length = 16 := by decide +kernel

/-- A die unit that samples: its host domain is released, it is in D0, its time is LOCKED. -/
def tduRun : Dev := { lockTdu tduUp with tdu := { (lockTdu tduUp).tdu with smp := { (lockTdu tduUp).tdu.smp with hostReset := false, trcReset := false } } }

theorem witness_counting : tduRun.inD0 = true ∧ tduRun.tdu.smp.hostReset = false ∧ tduRun.slotReady = true ∧ tduRun.radioIndex = none ∧
    ((mapIx 63 1 tduRun).radioIndex = some 63 ∧ (mapIx 63 1 tduRun).tdu.smp.stampQueue = [] ∧ ((mapIx 63 1 tduRun).port (.tdu 0)).queue = [] ∧
      ((mapIx 63 1 tduRun).port (.tdu 1)).queue = [] ∧ (mapIx 63 1 tduRun).isUp (.tdu 0) = true ∧ (mapIx 63 1 tduRun).isUp (.tdu 1) = false) ∧
    (let d := (mapIx 63 1 tduRun).updPort (.tdu 0) fun l => { l with queue := [frm 0 0] }
     d.isUp (.tdu 0) = true ∧ frm 0 0 ∈ (d.port (.tdu 0)).queue ∧ (frm 0 0).cls = 0) := by decide +kernel

theorem witness_epoch_boundary : tduRun.tdu.chk.stepQ = [] ∧ (tduUp.advance .tdu 7).timeValid .tdu = false ∧
    (tduRun.advance .tdu 250000).timeValid .tdu = true ∧ (tduRun.setBit R.TDU_SMP_STAT_RUNNING true).bit R.TDU_SMP_STAT_RUNNING = true ∧
    tduRun.tdu.smp.hostReset = false ∧ tduRun.tdu.smp.spillLevel ≤ 3 ∧ tduRun.bit R.TDU_SMP_STAT_RUNNING = false ∧
    (tduRun.advance .tdu 250000).nowNs .tdu % 1000000000 / 250000 ≠ 0 ∧ tduRun.bit R.TDU_SMP_CFG_ENABLE = false ∧ tduRun.tdu.smp.strictOn = [] := by
  decide +kernel

/-- The die unit with these memory requests and spilled frames. -/
def tduMem (reqs : List MemReq) (spill : List Frame) : Dev :=
  { tduRun with tdu := { tduRun.tdu with smp := { tduRun.tdu.smp with memReqs := reqs, spill := spill } } }

theorem witness_memory_port :
    (tduRun.tdu.smp.memReqs.find? fun r => r.tag = 63) = none ∧
    ((tduMem [⟨63, .ring 2 0⟩] []).tdu.smp.spill = [] ∧ (tduMem [⟨63, .ring 2 0⟩] []).tdu.smp.memReqs = [⟨63, .ring 2 0⟩]) ∧
    ((tduMem [⟨63, .spillWrite 0⟩] [frm 7 0]).tdu.smp.spill = [frm 7 0] ∧
      (tduMem [⟨63, .spillWrite 0⟩] [frm 7 0]).tdu.smp.memReqs = [⟨63, .spillWrite (frm 7 0).born⟩]) ∧
    (tduMem [⟨63, .spillRead 0⟩] [frm 7 0]).tdu.smp.memReqs = [⟨63, .spillRead (frm 7 0).born⟩] ∧
    (tduRun.get R.TDU_PWR_STAT_STATE < 2 ∧ tduRun.tdu.smp.hostReset = false ∧ tduRun.tdu.chk.flight = [] ∧ RecorderRoom .tdu { dev := tduRun, pending := [] }) ∧
    (tduUp.tdu.smp.hostReset = true) ∧ (tduRun.set R.TDU_PWR_STAT_STATE 2).get R.TDU_PWR_STAT_STATE = 2 ∧ tduRun.tdu.smp.trcReset = false := by
  simp only [RecorderRoom]
  decide +kernel

/-! ## Trace and checking in the die unit -/

/-- Index 5 is mapped to allotment 7 and a grant covers source 3 of it, for trace and for precise samples, up to privilege 2. -/
def granted (d : Dev) : Dev :=
  let d := (mapIx 5 1 d).set (R.TDU_ALLOT_MAP_ALLOT_ID.at 5) 7
  { d with tdu := { d.tdu with trc := { d.tdu.trc with grants := [⟨7, 15, 1, 8, 0, 1, 0⟩] } } }

/-- Trace slot 2 for index 5 with a ring of 64 KiB in a state. -/
def slot2 (state : Nat) (d : Dev) : Dev :=
  (((d.setBit (R.TDU_TRC_SLOT_CFG_VALID.at 2) true).set (R.TDU_TRC_SLOT_CFG_ALLOT_IDX.at 2) 5).set (R.TDU_TRC_SLOT_CFG_SIZE_64K.at 2) 1).setTstate 2 state

def traceIn (priv : BitVec 2) (first : Bool) : TraceIn :=
  { lane := 0, word := 1, src := 3, priv := priv, allot := 5, first := first, pd := false, wk := false }

/-- A die unit that records for index 5 in slot 2. -/
def tduTrace (state : Nat) : Dev := slot2 state (granted tduRun)

theorem witness_trace_words : tduRun.tdu.smp.trcReset = false ∧ tduUp.tdu.smp.trcReset = true ∧ tduRun.get R.TDU_PWR_STAT_STATE < 2 ∧
    tduRun.laneRun 0 = none ∧ tduRun.psLane 0 = none ∧ tduRun.tdu.smp.psMask.getLsbD 3 = false ∧ tduRun.grantCovers false 5 3 2 = false ∧
    (granted tduRun).grantCovers false 5 3 2 = true ∧ (granted tduRun).grantCovers true 5 3 2 = true ∧ (granted tduRun).slotOf 5 = none ∧
    (∀ n : Fin 5, (tduTrace n.val).slotOf 5 = some 2 ∧ (tduTrace n.val).tstate 2 = n.val) ∧ ((tduTrace 1).tslot 2).restartSync = false ∧
    ((tduTrace 1).tslot 2).written < ((tduTrace 1).tslot 2).syncEnd + 4096 ∧ max (tduTrace 1).tdu.trc.cycle (1048575 % 2 ^ 48) - 0 ≤ 1048575 ∧
    0 < (tduTrace 1).get (R.TDU_TRC_SLOT_CFG_SIZE_64K.at 2) := by decide +kernel

/-- A run of `n` words under way on lane 0 for slot 2. -/
def run2 (n : Nat) : TrcRun := { slot := 2, src := 3, priv := 0, first := true, delta := 0, words := List.replicate n 0 }

theorem witness_trace_runs : (∀ n : Fin 15, ((tduTrace 1).setLaneRun 0 (some (run2 n.val))).laneRun 0 = some (run2 n.val)) ∧
    ((tduTrace 1).setLaneRun 0 (some (run2 14))).slotOf 5 = some 2 ∧ (run2 14).src = (traceIn 0 false).src.val ∧
    (run2 14).priv = (traceIn 0 false).priv.toNat ∧ (run2 13).words.length < 14 ∧ (run2 14).words.length = 14 := by decide +kernel

/-- A precise record of `n` words under way on lane 0. -/
def pre (n : Nat) : PsPartial := { src := 3, allot := 5, priv := 2, stamp := 0, words := List.replicate n 0 }
def tduPs (d : Dev) : Dev := { d with tdu := { d.tdu with smp := { d.tdu.smp with psMask := 8, psLane0 := some (pre 2) } } }

theorem witness_precise : (tduPs tduRun).tdu.smp.psMask.getLsbD 3 = true ∧ (tduPs tduRun).psLane 0 = some (pre 2) ∧ (tduPs tduRun).laneRun 0 = none ∧
    (pre 2).src = (traceIn 2 false).src.val ∧ (pre 2).priv < 4 ∧ (pre 2).allot < 64 ∧ (pre 1).words.length < 2 ∧ (pre 2).words.length = 2 ∧
    (tduPs tduRun).tdu.time.state ≠ .unset ∧ (tduPs tduRun).grantCovers true 5 3 2 = false ∧ (tduPs (granted tduRun)).grantCovers true 5 3 2 = true ∧
    (tduPs tduRun).tdu.smp.psBuf.length < 4096 ∧ tduRun.psLane 0 = none := by decide +kernel

/-- A trigger on its way to slot 2, of the last cause. -/
def trg (start stop : Bool) : TrcTrig := { slots := 2 ^ 2, start := start, stop := stop, cause := 4, origin := none }
def tduTrg (state : Nat) (start stop : Bool) : Dev :=
  let d := ((tduTrace state).set (R.TDU_TRC_SLOT_CFG_START_MASK.at 2) 16).set (R.TDU_TRC_SLOT_CFG_STOP_MASK.at 2) 16
  { d with tdu := { d.tdu with trc := { d.tdu.trc with trigs := [trg start stop] } } }

theorem witness_triggers : ∀ n : Fin 5, let d := tduTrg n.val true false
    d.tdu.smp.trcReset = false ∧ d.tdu.trc.trigs = [trg true false] ∧ d.tvalid 2 = true ∧ 0 < d.get (R.TDU_TRC_SLOT_CFG_SIZE_64K.at 2) ∧
    d.tdu.trc.lane0 = none ∧ d.tdu.trc.lane1 = none ∧ (d.get (R.TDU_TRC_SLOT_CFG_START_MASK.at 2)).testBit 4 = true ∧
    (d.get (R.TDU_TRC_SLOT_CFG_STOP_MASK.at 2)).testBit 4 = true ∧ d.tstate 2 = n.val ∧ d.tdu.time.state ≠ .unset ∧ (d.tslot 2).d2Lost = 0 ∧
    (d.tslot 2).restartSync = false ∧ (d.tslot 2).written < (d.tslot 2).syncEnd + 4096 ∧
    (d.get (R.TDU_TRC_SLOT_CFG_START_MASK.at 2)).testBit 3 = false ∧ (d.get (R.TDU_TRC_SLOT_CFG_STOP_MASK.at 2)).testBit 3 = false := by decide +kernel

/-- Slot 2 drains a capture of one packet of one word, of which `sent` bytes were sent. -/
def drains (sent : Nat) (shadow : Option W64) : Dev :=
  (tduTrace 4).setTslot 2 { packets := [⟨0, [1], true, false, 0⟩], sent := sent, shadow := shadow }

theorem witness_trace_segment : ∀ n : Fin 2, let d := drains (8 * n.val) none
    d.tvalid 2 = true ∧ d.tstate 2 = 4 ∧ d.isUp (.tdu 0) = true ∧ (d.port (.tdu 0)).queue = [] ∧ (d.port (.tdu 1)).queue = [] ∧
    (wordBytes (((d.tslot 2).packets.map (·.words)).flatten)).length = 8 ∧ (d.tslot 2).sent = 8 * n.val ∧ (d.tslot 2).shadow = none ∧
    d.bit (R.TDU_TRC_SLOT_CFG_REARM.at 2) = false ∧ ((drains 8 (some 0)).tslot 2).shadow = some 0 ∧ R.TDU_TRC_SLOT_CFG_REARM.read 0 = 0 := by
  decide +kernel

theorem witness_grant_expiry : ((tduTrace 1).advance .tdu 1000000000).secondsA .tdu = 1 ∧ (tduTrace 1).tdu.trc.grants = [⟨7, 15, 1, 8, 0, 1, 0⟩] ∧
    RecorderRoom .tdu { dev := tduTrace 1, pending := [] } ∧ (tduTrace 1).mapId ((tduTrace 1).tallot 2) = 7 ∧ (tduTrace 1).tvalid 3 = false := by
  simp only [RecorderRoom]
  decide +kernel

/-- Index 5 checks step 9 with class (units 16 to 19) and a SEED. -/
def tduChk : Dev := (tduRun.updIdx 5 fun x => { x with openStep := some 9, map := some [(16, 4)], seed := some 1,
                                                       steps := [{ step := 9, k := 0 }] }).set (R.TDU_CHK_K_K_EFF.at 5) 1

theorem witness_check_items : tduChk.inD0 = true ∧ (tduChk.chkIdx 5).seed = some 1 ∧ (tduChk.chkIdx 5).openStep = some (9#32).toNat ∧
    classOf ((tduChk.chkIdx 5).map.getD tduChk.tdu.chk.force) 19 = some (16, 4) ∧ classOf ((tduChk.chkIdx 5).map.getD tduChk.tdu.chk.force) 20 = none ∧
    (16 ≤ 17 ∧ 17 < 16 + 4 ∧ 17 ≠ 19 ∧ tduChk.unitOut 17 = false) ∧ (16 ≤ 18 ∧ 18 < 16 + 4 ∧ 18 ≠ 19 ∧ tduChk.unitOut 18 = false) ∧
    tduChk.get (R.TDU_CHK_K_K_EFF.at 5) = 1 ∧ (tduChk.set (R.TDU_CHK_K_K_EFF.at 5) 0).get (R.TDU_CHK_K_K_EFF.at 5) = 0 ∧
    (crc32c (leBytes 6 0 ++ leBytes 4 9 ++ leBytes 4 1)).toNat % 2 ^ 1 ≠ (crc32c (leBytes 6 4 ++ leBytes 4 9 ++ leBytes 4 1)).toNat % 2 ^ 1 ∧
    tduChk.tdu.chk.flight.length < 1024 ∧ 9 ≠ (10#32).toNat ∧ classOf [(16, 2)] 17 = some (16, 2) := by decide +kernel

/-- An item of index 5 in flight: unit 19, shadow unit 17, third unit 18. -/
def flight0 (su tu : Option Nat) (sh : Option (Option W64)) : ChkFlight :=
  { item := 0, unit := 19, allot := 5, step := 9, sig := 7, stamp := 0, cls := (16, 4), bins := (0, 32), shadowUnit := su, thirdUnit := tu, shadow := sh }
def tduFlight (f : ChkFlight) (due : List (Nat × Nat × Bool)) : Dev := tduChk.updChk fun c => { c with flight := [f], due := due }

theorem witness_check_request :
    (tduFlight (flight0 none none none) [(0, 5, false)]).tdu.chk.due = [((flight0 none none none).item, (flight0 none none none).allot, false)] ∧
    (tduFlight (flight0 none none none) [(0, 5, false)]).inD0 = true ∧ (tduFlight (flight0 none none none) []).unitOut 16 = false ∧
    (((tduFlight (flight0 none none none) []).updUnit 16 fun x => { x with withdrawn := true }).unitOut 16 = true) := by decide +kernel

theorem witness_check_votes :
    (let d := tduFlight (flight0 (some 17) none none) []
     d.tdu.chk.flight = [flight0 (some 17) none none] ∧ (flight0 (some 17) none none).item = (0#48).toNat ∧ d.tdu.chk.stepQ = [] ∧
     (d.chkIdx 5).steps = [{ step := 9, k := 0 }] ∧ (0, 5, true) ∉ d.tdu.chk.due ∧ RecorderRoom .tdu { dev := d, pending := [] }) ∧
    (∀ x : Fin 2, let v : Option W64 := if x = 0 then none else some 8
     let f := flight0 (some 17) (some 18) (some v)
     let d := (tduFlight f []).set R.TTA_CHK_CFG_BLAME_MAX 2
     d.tdu.chk.flight = [f] ∧ f.shadowUnit = some 17 ∧ v ≠ some f.sig ∧ f.thirdUnit = some 18 ∧ (d.chkUnit 17).withdrawn = false ∧
     (d.chkUnit 17).blame + 1 < d.get R.TTA_CHK_CFG_BLAME_MAX ∧ (d.chkUnit 17).timeouts < 2) := by
  simp only [RecorderRoom]
  decide +kernel

theorem witness_step_end : tduChk.inD0 = true ∧ tduChk.tdu.chk.stepQ = [] ∧ (tduChk.chkIdx 5).steps = [{ step := (9#32).toNat, k := 0 }] ∧
    tduChk.tdu.time.state = .locked ∧ tduChk.tdu.smp.psBuf.length < 4096 ∧ tduUp.inD0 = false ∧
    RecorderRoom .tdu { dev := tduChk, pending := [] } := by
  simp only [RecorderRoom]
  decide +kernel

theorem witness_tests :
    (let d := tduChk.updChk fun c => { c with testing := some 4095 }
     d.tdu.chk.testing = some 4095 ∧ d.tdu.chk.testQ = [] ∧ d.tdu.chk.periodicDue = false ∧ d.tdu.chk.orders = [] ∧ RecorderRoom .tdu { dev := d, pending := [] } ∧
     (d.chkUnit 4095).withdrawn = false) ∧
    (let d := (((mapIx 0 1 tduRun).set R.TDU_CHK_TEST_RADIO_CLASSES 0x8000).set (R.TDU_CHK_CLASS_FIRST_UNIT.at 15) 0).set (R.TDU_CHK_CLASS_UNIT_COUNT.at 15) 1
     d.tdu.chk.testing = none ∧ d.tdu.chk.testQ = [] ∧ d.radioIndex = some 0 ∧ (d.get R.TDU_CHK_TEST_RADIO_CLASSES).testBit 15 = true ∧
     d.get (R.TDU_CHK_CLASS_FIRST_UNIT.at 15) ≤ (d.tdu.chk.lastPeriodic + 1 + 0) % 4096 ∧
     (d.tdu.chk.lastPeriodic + 1 + 0) % 4096 < d.get (R.TDU_CHK_CLASS_FIRST_UNIT.at 15) + d.get (R.TDU_CHK_CLASS_UNIT_COUNT.at 15)) ∧
    tduRun.radioIndex = none := by
  simp only [RecorderRoom]
  decide +kernel

/-! ## Time -/

theorem witness_paced : State.reset.dev.tta.time.base.paced ∧
    ({ State.reset.dev.tta.time.base with bridge := ⟨2 ^ 60, 0, 1⟩, domA := { rate := -2 ^ 31, state := .locked } } : TimeBase).paced := by
  unfold TimeBase.paced
  refine ⟨⟨by decide +kernel, ?_, by decide +kernel⟩, ⟨by decide +kernel, ?_, by decide +kernel⟩⟩ <;> (intro e r h; exact absurd h (by simp [TimeBase.dom, State.reset]))

/-- The aggregator leads, both domains in a state, A in force. -/
def lead2 (a b : DomState) : Dev :=
  let d := leads true (State.reset.dev.setBit R.TTA_TIME_CTL_AUTO false)
  { d with tta := { d.tta with time := { d.tta.time with base := { d.tta.time.base with domA := { state := a }, domB := { state := b } } } } }

theorem witness_time_domains : (∀ a ∈ [DomState.unset, .locked, .holdover], (lead2 a .unset).leads = true ∧ (lead2 a .unset).synceLock .a = false ∧
      (lead2 a .unset).bit R.TTA_TIME_CTL_AUTO = false ∧ ((lead2 a .unset).tta.time.base.dom .a).state = a ∧
      Dom.a = (lead2 a .unset).tta.time.base.inForce ∧ Dom.b ≠ (lead2 a .unset).tta.time.base.inForce ∧ (lead2 a .unset).tta.time.noAnchor = false ∧
      RecorderRoomFor 2 .tta (dv (lead2 a .unset)) ∧ (lead2 a .unset).tta.time.base.plan = none) ∧
    ((lead2 .locked .unset).setBit (R.TTA_TIME_DOM_CTL_SYNCE_LOCK.at 1) true).synceLock .b = true ∧
    max (lead2 .locked .locked).tta.time.base.tick 999999 < 0 + max 1 (min 1000 0) * 1000000 ∧
    0 + max 1 (min 1000 0) * 1000000 ≤ max (lead2 .locked .locked).tta.time.base.tick 1000000 ∧
    ((lead2 .locked .locked).setBit R.TTA_TIME_CTL_AUTO true).bit R.TTA_TIME_CTL_AUTO = true ∧
    ((lead2 .locked .locked).tta.time.base.dom Dom.a.other).state = .locked ∧ 0 ≤ (lead2 .locked .locked).tta.time.base.present := by
  simp only [RecorderRoomFor]
  decide +kernel

theorem witness_switch_request :
    (({ (lead2 .locked .locked).tta.time.base with plan := some ⟨10000, .b⟩ } : TimeBase).plan ≠ none) ∧
    ((lead2 .locked .locked).tta.time.base.plan = none ∧ Dom.b ≠ (lead2 .locked .locked).tta.time.base.inForce) ∧
    ((lead2 .locked .unset).tta.time.base.dom .b).state = .unset ∧ ((lead2 .locked .holdover).tta.time.base.dom .b).state ≠ .unset ∧
    ((lead2 .unset .locked).tta.time.base.dom (lead2 .unset .locked).tta.time.base.inForce).state = .unset ∧
    (let d := lead2 .locked .locked
     ¬ max 1 (d.get R.TTA_TIME_CTL_MAX_BRIDGE_MS) * 1000000 * 2 ^ 40 <
       (d.tta.time.base.present - (d.tta.time.base.dom .b).timeAt d.tta.time.base.tick).natAbs) ∧
    (let d := lead2 .locked .locked
     let b : TimeBase := { d.tta.time.base with domB := { ofs := 2 ^ 80, state := .locked } }
     max 1 (d.get R.TTA_TIME_CTL_MAX_BRIDGE_MS) * 1000000 * 2 ^ 40 < (b.present - (b.dom .b).timeAt b.tick).natAbs) ∧
    (leads false State.reset.dev).leads = false := by decide +kernel

/-- A part with a switch to B planned at 10 µs; its domains in a state. -/
def planned (p : Part) (a b : DomState) : Dev :=
  let d := lockTdu (leads true (State.reset.dev.setBit R.TTA_TIME_CTL_AUTO false))
  d.setTb p { d.tb p with domA := { state := a }, domB := { state := b }, plan := some ⟨10000, .b⟩ }

theorem witness_switch_at : ∀ p ∈ [Part.tdu, .tta], ((State.reset.dev.advance p 5).tb p).plan = none ∧
    (∀ b ∈ [DomState.unset, .locked], let e := (planned p .locked b).advance p 10000
      (e.tb p).plan = some ⟨10000, .b⟩ ∧ e.timeValid p = true ∧ 10000 * 2 ^ 40 ≤ (e.tb p).present ∧ ((e.tb p).dom .b).state = b ∧
      RecorderRoomFor 2 p (dv (planned p .locked b)) ∧ (planned p .locked b).bit R.TTA_TIME_CTL_AUTO = false ∧
      (planned p .locked b).tta.time.noAnchor = false ∧ ∀ k, k < 8 → e.tlive k = false) ∧
    ((((planned p .locked .locked).advance p 9999).tb p).present < 10000 * 2 ^ 40) ∧
    (((planned p .unset .locked).advance p 5).timeValid p = false ∧ ((planned p .unset .locked).advance p 5).tdu.time.state ≠ .unset) := by
  simp only [RecorderRoomFor]
  decide +kernel

theorem witness_bridge : ∀ p ∈ [Part.tdu, .tta],
    (let d := (planned p .locked .locked).setTb p { (planned p .locked .locked).tb p with bridge := ⟨1, 0, 50⟩ }
     ((d.advance p 1000000).tb p).bridgeNow = 0 ∧ ((d.advance p 1000000).tb p).bridge.amt ≠ 0 ∧ ((d.advance p 0).tb p).bridgeNow ≠ 0) ∧
    ((planned p .locked .locked).tb p).bridge.amt = 0 ∧ ((planned p .locked .locked).tb p).own.amt = 0 := by decide +kernel

theorem witness_whole_second : (State.reset.dev.advance .tta 7).timeValid .tta = false ∧ ((planned .tta .locked .locked).advance .tta 1000000000).timeValid .tta = true ∧
    (planned .tta .locked .locked).bit R.TTA_COMPAT_NO_ANCHOR = false ∧
    ((planned .tta .locked .locked).setBit R.TTA_COMPAT_NO_ANCHOR true).bit R.TTA_COMPAT_NO_ANCHOR = true ∧
    ((planned .tdu .locked .locked).advance .tdu 1000000000).timeValid .tdu = true := by decide +kernel

/-- PTP instances 0 and 1 on port 3, instance 1 for domain number 44 and time domain B. -/
def ptp (d : Dev) : Dev :=
  let one (i : Nat) (d : Dev) : Dev := ((d.set (R.TTA_PTP_CFG_ENABLE.at i) 1).set (R.TTA_PTP_CFG_PORT_MASK.at i) 8).set (R.TTA_PTP_CFG_PROFILE.at i) 0
  ((((one 1 (one 0 d)).set (R.TTA_PTP_CFG_DOMAIN_NUM.at 0) 24).set (R.TTA_PTP_CFG_DOMAIN_NUM.at 1) 44).set (R.TTA_PTP_CFG_TIME_DOM.at 0) 0).set (R.TTA_PTP_CFG_TIME_DOM.at 1) 1

theorem witness_ptp : (let g (f : Fld) (i : Nat) := (ptp State.reset.dev).get (f.at i)
      g R.TTA_PTP_CFG_ENABLE 0 = 1 ∧ g R.TTA_PTP_CFG_PROFILE 0 < 2 ∧ (g R.TTA_PTP_CFG_PORT_MASK 0).testBit 3 = true ∧ g R.TTA_PTP_CFG_DOMAIN_NUM 0 = 24 ∧
      g R.TTA_PTP_CFG_PROFILE 0 = 0 ∧ g R.TTA_PTP_CFG_ENABLE 1 = 1 ∧ g R.TTA_PTP_CFG_TIME_DOM 0 ≠ g R.TTA_PTP_CFG_TIME_DOM 1 ∧
      g R.TTA_PTP_CFG_DOMAIN_NUM 0 ≠ g R.TTA_PTP_CFG_DOMAIN_NUM 1 ∧ g R.TTA_PTP_CFG_DOMAIN_NUM 1 = 44 ∧ (g R.TTA_PTP_CFG_PORT_MASK 1).testBit 3 = true) ∧
    State.reset.dev.get (R.TTA_PTP_CFG_ENABLE.at 0) ≠ 1 ∧ State.reset.dev.bit R.TTA_POS_LOCKED = false ∧
    (State.reset.dev.setBit R.TTA_POS_LOCKED true).bit R.TTA_POS_LOCKED = true := by decide +kernel

theorem witness_recovered_clock : (let d := (leads true State.reset.dev).set (R.TTA_TIME_DOM_CTL_SYNCE_SRC.at 1) 4
      1 ≤ d.get (R.TTA_TIME_DOM_CTL_SYNCE_SRC.at 1) ∧ d.get (R.TTA_TIME_DOM_CTL_SYNCE_SRC.at 1) ≤ 4 ∧ d.tta.time.synceLostB = false ∧
      (d.setBit (R.TTA_TIME_DOM_CTL_SYNCE_LOCK.at 1) true).synceLock .b = true ∧ d.leads = true ∧ d.synceLock .b = false ∧ RecorderRoom .tta (dv d)) ∧
    State.reset.dev.get (R.TTA_TIME_DOM_CTL_SYNCE_SRC.at 0) = 0 ∧
    ({ State.reset.dev.tta.time with synceLostA := true } : TtaTime).synceLostA = true := by
  simp only [RecorderRoom]
  decide +kernel

theorem witness_pps : State.reset.dev.bit R.TTA_PPS_CFG_IN_EN = false ∧ (State.reset.dev.setBit R.TTA_PPS_CFG_IN_EN true).bit R.TTA_PPS_CFG_IN_EN = true ∧
    State.reset.dev.tta.time.ppsSeen = false ∧ max 0 499999999 < State.reset.dev.get R.TTA_PPS_IN_TICK + 500000000 ∧
    ¬ max 0 500000000 < State.reset.dev.get R.TTA_PPS_IN_TICK + 500000000 := by decide +kernel

/-- A TIME message: domain A in force and LOCKED, of a lead. -/
def timeMsg (lead : Bool) (st : DomState) : TimeMsg :=
  { inForce := .a, stA := st, stB := .unset, lead := lead, switchTo := none, seq := 0, latPs := 0, latDone := true, slewPpm := 50, ta := 0, tb := 0, bridge := 0 }

theorem witness_time_messages_die :
    (AcceptsPlain (.tdu 0) (hdr 1 false) tduUp ∧ (timeMsg true .locked).usable = true ∧ tduUp.tdu.time.state = .unset ∧ tduUp.tdu.time.usable = 0 ∧
      tduUp.tdu.chk.stepQ = [] ∧ RecorderRoomFor 4 .tdu (dv tduUp) ∧ (timeMsg true .unset).usable = false ∧ tduUp.tdu.time.srcPort = 0) ∧
    ((lockTdu tduUp).tdu.time.state ≠ .unset ∧ (lockTdu tduUp).tdu.time.state = .locked ∧
      (timeMsg true .locked).inForce = ((lockTdu tduUp).advance .tdu 5).tdu.time.base.inForce ∧ Dom.b ≠ ((lockTdu tduUp).advance .tdu 5).tdu.time.base.inForce) ∧
    (((phase (.tdu 0) 5 State.reset.dev).port (.tdu 0)).phase = 5 ∧ ((phase (.tdu 0) 5 State.reset.dev).port (.tdu 0)).echoes < 63) := by
  simp only [AcceptsPlain, RecorderRoomFor]
  decide +kernel

theorem witness_time_messages_twin :
    (AcceptsPlain (.tta 16) (hdr 1 false) (leads false (up (.tta 16) State.reset.dev)) ∧ (leads false (up (.tta 16) State.reset.dev)).leads = false ∧
      ((leads false (up (.tta 16) State.reset.dev)).advance .tta 5).tta.time.base.valid = false ∧ (timeMsg true .locked).lead = true ∧
      (timeMsg true .locked).usable = true) ∧
    ((lockTta State.reset.dev).advance .tta 5).tta.time.base.valid = true := by
  simp only [AcceptsPlain]
  decide +kernel

/-- Port 15 in a phase with `n` exchanges measured and t1 taken. -/
def echoing (ph n : Nat) : Dev :=
  let d := phase (.tta 15) ph State.reset.dev
  { d with tta := { d.tta with time := { d.tta.time with echo := [(15, { t1 := some 0, count := n, trained := 500 })] } } }

theorem witness_echo :
    (assocGet 15 (echoing 6 0).tta.time.echo = some { t1 := some 0, count := 0, trained := 500 } ∧ AcceptsPlain (.tta 15) (hdr 1 false) (echoing 6 0) ∧
      RecorderRoomFor 2 .tta (dv (echoing 6 0))) ∧
    (let twice : Int := ((max 0 101 : Nat) : Int) - 0 - (50 - 50)
     (([twice].sum * 500) / 1).toNat = 50500 ∧ 50500 < 2 ^ 24 ∧ 50500 > 500 + 1000) ∧
    (((echoing 5 1).port (.tta 15)).phase = 5 ∧ ((echoing 5 63).port (.tta 15)).phase = 5) := by
  simp only [AcceptsPlain, RecorderRoomFor]
  decide +kernel

theorem witness_time_timeouts : State.reset.dev.tdu.time.state ≠ .locked ∧ (lockTdu State.reset.dev).tdu.time.state = .locked ∧
    RecorderRoom .tdu (dv (lockTdu State.reset.dev)) := by
  simp only [RecorderRoom]
  decide +kernel

/-! ## Frames at the aggregator, and the twins -/

/-- A chunk that holds a whole block of one word, of epoch 1. -/
def blkHdr (ver stamp n : Nat) : List Byte := leBytes 1 ver ++ [0, 0, 0] ++ leBytes 4 stamp ++ [0, 0] ++ leBytes 2 n ++ [0, 0, 0, 0]
def chunk (ver : Nat) : List Byte := encodeChunk 1 (some (blkHdr ver 250000 1)) true 0 [5]
def rxUp (p : Fin 17) : Dev := lockTta (up (.tta p) State.reset.dev)

theorem witness_data_frame : AcceptsHere 15 (hdr 7 true) (rxUp 15) ∧ ((rxUp 15).unpackOf (unpackKey 15 15 7)).isOpen = false := by
  simp only [AcceptsHere, Accepts]
  decide +kernel

theorem witness_data_chunk : (∃ c, readChunk (chunk 1) = some c ∧ c.len = (chunk 1).length ∧ c.hdr = true ∧ c.last = true ∧ leAt (c.rest.take 16) 0 1 = 1 ∧
      c.nwords = 1 ∧ c.off = 0 ∧ c.words 1 = some [5] ∧ leAt (c.rest.take 16) 10 2 = 1) ∧
    ∃ c, readChunk (chunk 3) = some c ∧ c.hdr = true ∧ leAt (c.rest.take 16) 0 1 = 3 :=
  ⟨⟨_, rfl, by decide +kernel⟩, ⟨_, rfl, by decide +kernel⟩⟩

theorem witness_data_frame_epoch : (rxUp 15).dieEnabled 15 = true ∧ (rxUp 15).get R.TTA_PWR_STAT_STATE = 0 ∧
    ((rxUp 15).advance .tta 250000).timeValid .tta = true ∧
    (250000 * (1 : Int) ≤ extendStamp ((rxUp 15).advance .tta 250000).ttaNs 250000 + 1000 ∧
      extendStamp ((rxUp 15).advance .tta 250000).ttaNs 250000 ≤ 250000 * (1 : Int) + 1000 ∧
      extendStamp ((rxUp 15).advance .tta 250000).ttaNs 250000 ≤ ((rxUp 15).advance .tta 250000).ttaNs + 1000000) ∧
    (rxUp 15).epochPast 1 = false ∧ (((rxUp 15).epoch? 1).getD {}).blocks = [] ∧ ((up (.tta 15) State.reset.dev).advance .tta 0).timeValid .tta = false ∧
    RecorderRoom .tta (dv (rxUp 15)) := by
  simp only [RecorderRoom]
  decide +kernel

theorem witness_bad_chunk : Accepts (.tta 15) (hdr 7 true) (rxUp 15) ∧ readChunk [0] = none ∧
    (({ (rxUp 15).tta.ing with otherDown := [15] } : Ingest).otherDown.contains 15 = true) ∧ (up (.tta 16) (rxUp 15)).isUp (.tta 16) = true ∧
    (rxUp 15).tta.ing.otherDown.contains 15 = false := by
  simp only [Accepts]
  decide +kernel

theorem witness_stamp_frame : AcceptsHere 16 (hdr 0 true) (rxUp 16) ∧ assocGet (16 * 64 + 63) [(16 * 64 + 63, 5)] = some 5 ∧
    assocGet (16 * 64 + 63) (rxUp 16).tta.det.routes = none ∧ ((rxUp 16).setGraph 5 graph0).graph 5 = some graph0 ∧ graph0.stamps.length < 256 ∧
    256 ≤ ({ graph0 with stamps := List.replicate 256 [] } : Graph).stamps.length := by
  simp only [AcceptsHere, Accepts]
  decide +kernel

/-- A record with its CRC. -/
def record (code : BitVec 16) (p0 p1 : BitVec 32) : Rec :=
  Rec.sealed { code := code, flags := 0, source := 1, stamp := 0, p0 := p0, p1 := p1, p2 := 0, p3 := 0, p4 := 0, crc := 0 }

theorem witness_record_frame : AcceptsHere 3 (hdr 2 true) (rxUp 3) ∧ (record 0x3111 0 0).crc = (record 0x3111 0 0).sealed.crc ∧
    ({ record 0x3111 0 0 with crc := (record 0x3111 0 0).crc + 1 } : Rec).crc ≠ (record 0x3111 0 0).sealed.crc ∧ (rxUp 3).tta.time.noAnchor = false ∧
    ({ (rxUp 3).tta.time with noAnchor := true } : TtaTime).noAnchor = true ∧ (record 0x2002 1 0).p0.toNat ≠ (rxUp 3).twinNo ∧
    2 ≤ (record 0x0101 0 2).p1.toNat ∧ upDie 3 (hdr 2 true) = 3 ∧ RecorderRoomFor 2 .tta (dv (rxUp 3)) := by
  simp only [AcceptsHere, Accepts, RecorderRoomFor]
  decide +kernel

theorem witness_sett_frame : AcceptsPlain (.tdu 0) (hdr 2 false) tduUp ∧ AcceptsPlain (.tta 15) (hdr 2 false) (rxUp 15) ∧ tduUp.tdu.trc.grants.length < 8 := by
  simp only [AcceptsPlain]
  decide +kernel

theorem witness_control_ack : Accepts (.tta 15) (hdr 2 true) (rxUp 15) ∧ Completable desc (rxUp 15) ∧ (⟨15, 7, some (0x14, desc)⟩ : CtlWait).tag = (7#32).toNat := by
  simp only [Accepts, Completable]
  refine ⟨by decide +kernel, ⟨by decide +kernel, by decide +kernel, ?_⟩, by decide +kernel⟩
  have h : ((rxUp 15).fnq desc.fn).quiesce = none := by decide +kernel
  simp [h]

theorem witness_check_frames : ([14, 15].erase 15 ≠ []) ∧ (15 ∈ [14, 15]) ∧ (rxUp 15).canNotify .lodge 6 = false ∧
    (((rxUp 15).fnq .lodge).backlog.filter fun e => e.1 ≥ 5).length + 9 ≤ 4096 ∧ (List.replicate 48 (0 : W64)).length = 48 := by decide +kernel

theorem witness_ring_frames : Accepts (.tta 0) (hdr 5 true) (rxUp 0) ∧ (⟨0, desc, 0x71, 0, [], none⟩ : Mirrored).q.fn = .pf ∧
    (⟨0, desc, 0x71, 0, [], some []⟩ : Mirrored).wb = some [] := by
  simp only [Accepts]
  decide +kernel

/-- Slot 1 ACTIVE with allotment 7 and graph 3 at handle 0. -/
def hasGraph (d : Dev) : Dev := (slotIn 1 7 0 2 d).setGraph 0 graph0

theorem witness_checkpoint_frame : (hasGraph State.reset.dev).graphNamed 7 3 = some 0 ∧ (hasGraph State.reset.dev).graph 0 = some graph0 ∧
    (hasGraph (State.reset.dev.set R.TTA_TWIN_STAT_STATE 2)).twinState ≠ 3 ∧ graph0.ckptLen ≠ some (ckptBytes [(0, [])]).length ∧
    (ckptBytes [(0, [1#8])]).length = 1 := by decide +kernel

/-- A heard partner message over fabric Ethernet for epoch 1. -/
def tw (v : BitVec 8) : TwinHdr := { path := .eth, version := v, sender := 1, epochSec := 0, epochIdx := 1 }
def paired (lead : Bool) : Dev := leads lead (hasGraph ((State.reset.dev.set R.TTA_TWIN_STAT_STATE 0).set R.TTA_CAPS_TWIN_VER 2))
def withEpoch (e : Epoch) (d : Dev) : Dev := { d with tta := { d.tta with ing := { d.tta.ing with epochs := [(1, e)] } } }

theorem witness_twin_hears : Hears (tw 2) (dv (paired true)) ∧ Hears (tw 1) (dv (paired false)) ∧ (paired true).twinState = 0 ∧ (paired true).withdrawn = false ∧
    (paired true).leads = true ∧ (paired false).leads = false ∧
    Hears { tw 2 with path := .link (hdr 0 false) } (dv (up (.tta 16) (paired true))) := by
  simp only [Hears, AcceptsPlain]
  refine ⟨⟨Or.inl rfl, by decide +kernel, by decide +kernel⟩, ⟨Or.inl rfl, by decide +kernel, by decide +kernel⟩, by decide +kernel, by decide +kernel, by decide +kernel,
    by decide +kernel, ⟨Or.inr ⟨hdr 0 false, rfl, by decide +kernel⟩, by decide +kernel, by decide +kernel⟩⟩

theorem witness_twin_epochs : (paired true).epoch? 1 = none ∧ (paired true).epochPast 1 = false ∧
    (withEpoch {} (paired true)).epoch? 1 = some {} ∧ (withEpoch { closed := true } (paired true)).epoch? 1 = some { closed := true } ∧
    mapsIn [] ({ closed := true } : Epoch).maps = true ∧ ({ closed := true, fillDue := true } : Epoch).fillsDone = true ∧
    ({ closed := true, propose := some [⟨0, 1⟩] } : Epoch).fillsDone = false ∧ ((withEpoch {} (paired true)).tta.ing.epochs.map (·.1)).Pairwise (· < ·) := by
  decide +kernel

theorem witness_twin_messages : (paired true).graphNamed ((paired true).slotAllot graph0.slot) graph0.gid = some 0 ∧ (paired true).graph 0 = some graph0 ∧
    (paired true).slotHolding 8 = none ∧ (ckptBytes graph0.ckptIn).length ≠ 1 ∧ (ckptBytes graph0.ckptIn).length = 0 ∧
    (paired true).graphOf 1 3 = some 0 ∧ ({ graph0 with run := none } : Graph).run = none ∧
    (tw 5).version.toNat ≠ (paired true).get R.TTA_CAPS_TWIN_VER ∧ (tw 5).version.toNat + 1 ≠ (paired true).get R.TTA_CAPS_TWIN_VER ∧
    RecorderRoom .tta (dv (paired true)) := by
  simp only [RecorderRoom]
  decide +kernel

/-! ## Twin loss, ingest and allotments -/

/-- A twin in a state that has heard nothing, with a query of its partner out or not. -/
def quiet (st_ : Nat) (lead querying seen : Bool) : Dev :=
  let d := leads lead (State.reset.dev.set R.TTA_TWIN_STAT_STATE st_)
  { d with tta := { d.tta with twin := { d.tta.twin with querying := querying, seen := seen } } }

theorem witness_partner_silent : (let d := quiet 0 true false false
      max d.tta.time.base.tick 1 < d.tta.twin.lastMsg + max 50 (min 10000 (d.get R.TTA_TWIN_CFG_LOSS_US)) * 1000 ∧
      ¬ (max d.tta.time.base.tick 10000000 < d.tta.twin.lastMsg + max 50 (min 10000 (d.get R.TTA_TWIN_CFG_LOSS_US)) * 1000) ∧
      d.twinState ≠ 2 ∧ d.tta.twin.querying = false ∧ d.withdrawn = false) ∧
    (∀ lead seen : Bool, (quiet 0 lead true seen).tta.twin.querying = true ∧ (quiet 0 lead true seen).tta.ing.epochs = [] ∧
      RecorderRoom .tta (dv (quiet 0 lead true seen)) ∧ (quiet 0 lead true seen).tta.twin.seen = seen ∧ (quiet 0 lead true seen).twinState = 0 ∧
      (quiet 0 lead true seen).leads = lead ∧ (quiet 1 lead true seen).twinState = 1) := by
  simp only [RecorderRoom]
  decide +kernel

/-- A graph that a failover replays up to epoch 8. -/
def catching : Dev := (quiet 2 true false false).setGraph 0 { graph0 with catchUp := some 8 }

theorem witness_failover : (∃ e ∈ catching.tta.graphs, ∃ c, e.2.catchUp = some c ∧ (e.2.run.isSome = true ∨ e.2.state = 2 ∧ e.2.nextEpoch ≤ c)) ∧
    (¬ ∃ e ∈ (quiet 2 true false false).tta.graphs, ∃ c, e.2.catchUp = some c ∧ (e.2.run.isSome = true ∨ e.2.state = 2 ∧ e.2.nextEpoch ≤ c)) ∧
    ({ (quiet 2 true false false).tta.twin with failFrom := some 0 } : Twin).failFrom = some 0 :=
  ⟨⟨(0, { graph0 with catchUp := some 8 }), by decide +kernel, 8, by decide +kernel⟩, by
    have h0 : (quiet 2 true false false).tta.graphs = [] := by decide +kernel
    simp [h0], by decide +kernel⟩

/-- A follower that rejoins. -/
def joining : Dev := (hasGraph ((quiet 3 false false false).set R.TTA_CAPS_TWIN_VER 2))

theorem witness_log_sync : Hears (tw 2) (dv joining) ∧ joining.twinState = 3 ∧ joining.leads = false ∧ joining.tta.ing.epochs = [] ∧
    (([⟨4, [], 0⟩] : List LogEntry).map (·.epoch)).Nodup ∧
    (∀ e ∈ joining.tta.graphs, e.2.isRadio joining = false ∧ e.2.plan.stamp = false ∧ 1 ≤ e.2.state ∧ joining.slotActive e.2.slot = true ∧ e.2.standby = none) ∧
    joining.tta.graphs ≠ [] ∧ (quiet 3 false false false).tta.graphs = [] := by
  refine ⟨⟨Or.inl rfl, by decide +kernel, by decide +kernel⟩, by decide +kernel, by decide +kernel, by decide +kernel, by decide +kernel, by decide +kernel, by decide +kernel,
    by decide +kernel⟩

/-- Slot 255 with the block `x` of its own. -/
def slotBlk (x : Slot) (d : Dev) : Dev := { d with tta := { d.tta with slotsX := [(255, x)] } }

theorem witness_ingest_boundary : (State.reset.dev.advance .tta 250000).timeValid .tta = false ∧
    (let d := slotBlk { rotate := some (1, some desc) } (slotIn 255 7 0 2 (lockTta State.reset.dev))
     let e := d.advance .tta 250000
     e.timeValid .tta = true ∧ d.tta.ing.boundary < e.ttaNs / 250000 ∧ d.tta.graphs = [] ∧ d.tta.retireDue = [] ∧ d.tta.tables = [] ∧ 1 ≤ e.ttaNs / 250000 ∧
     d.storeGen 255 < 255) ∧
    (let d := slotBlk { due := true, newSet := [639], clusters := [0] } (slotIn 255 7 0 3 (lockTta State.reset.dev))
     d.slotState 255 = 3 ∧ d.workGen 255 < 0xFFFF ∧ RecorderRoom .tta (dv d)) := by
  simp only [RecorderRoom]
  decide +kernel

theorem witness_rotation_descriptor : Completable desc (slotBlk { rotate := some (1, some desc) } (slotIn 255 7 0 2 (lockTta State.reset.dev))) :=
  (runs_ok (op := 0x10) (q := dq .pf 0 1) (by decide +kernel)).2.2

theorem witness_watermark : (let d := lockTta (quiet 2 true false false)
      ¬ (d.advance .tta 450000).ttaNs < 1 * 250000 + d.tta.ing.hold * 1000 ∧ (d.advance .tta 449999).ttaNs < 1 * 250000 + d.tta.ing.hold * 1000 ∧
      (d.advance .tta 450000).timeValid .tta = true ∧ ((d.epoch? 1).getD {}).closed = false ∧ ((d.epoch? 1).getD {}).blocks = [] ∧ d.epochPast 1 = false ∧
      (d.tta.ing.epochs.map (·.1)).Pairwise (· < ·) ∧ d.twinState = 2 ∧ d.leads = true) ∧
    (let d := lockTta (quiet 0 false false false)
     d.twinState = 0 ∧ d.withdrawn = false ∧ ((d.epoch? 1).getD {}).have_ = none ∧ ((d.epoch? 1).getD {}).propose = none ∧ ((d.epoch? 1).getD {}).fillDue = false) ∧
    (∀ lead : Bool, let d := withEpoch { closed := true } (lockTta (quiet 0 lead false false))
      d.epoch? 1 = some { closed := true } ∧ 1 * 250000 + (d.tta.ing.hold + d.tta.ing.fill) * 1000 ≤ (d.advance .tta 950000).ttaNs ∧ d.leads = lead ∧ d.epoch? 2 = none) := by
  decide +kernel

/-- The first 17 clusters executed steps in the window, at one rate. -/
theorem witness_cluster_window :
    (State.reset.dev.rateM 639 = 0 ∧ State.reset.dev.get (R.TTA_FAB_CLU_STATE.at 639) = 0 ∧ Memory.read (fun _ => 0) State.reset.dev.tta.ing.low 639 < 3) ∧
    (let d := ((List.range 17).foldl (fun (d : Dev) k => (List.range 16).foldl (fun (d : Dev) j => d.setTile (16 * k + j) { steps := 1500000000 }) d) State.reset.dev)
     d.rateM 0 ≠ 0 ∧ d.rateM 16 = d.rateM 0) := by
  decide +kernel

theorem witness_channel_errors :
    (let d := { State.reset.dev with tta := { State.reset.dev.tta with ing := { State.reset.dev.tta.ing with chErrs := List.replicate 3 (63, 0, true) } } }
     4 ≤ (d.tta.ing.chErrs.filter fun e => decide (e.1 = 63 ∧ e.2.2 = true ∧ 86399999999999 < e.2.1 + 86400000000000)).length + 1 ∧
     ¬ 4 ≤ (d.tta.ing.chErrs.filter fun e => decide (e.1 = 63 ∧ e.2.2 = true ∧ 86400000000000 < e.2.1 + 86400000000000)).length + 1 ∧
     d.bit (R.TTA_MEM_CH_RETIRED.at 63) = false ∧ RecorderRoom .tta (dv d)) ∧
    (lockTta State.reset.dev).tta.time.base.domA.state ≠ .unset ∧ State.reset.dev.tta.time.base.domA.state = .unset := by
  simp only [RecorderRoom]
  decide +kernel

/-- The PF opens, closes and re-binds. -/
theorem witness_allot_open : DescRuns 0x08 (dq .pf 7 50) (bufs .pf State.reset.dev) ∧ State.reset.dev.parked = false ∧
    ((State.reset.dev.slotState 255 = 0 ∧ State.reset.dev.slotHolding 7 = none ∧ State.reset.dev.clusterFree 639 = true ∧ State.reset.dev.diesFull = false) ∧
     (slotIn 5 7 0 2 State.reset.dev).slotHolding 7 = some 5 ∧ (slotIn 5 7 1 2 State.reset.dev).slotClass 5 = 1) ∧
    ((List.range ((50 - 48) / 2)).map fun i => leAt (List.replicate 48 (0#8) ++ leBytes 2 639) (48 + 2 * i) 2) = [639] :=
  ⟨runs_ok (by decide +kernel), by decide +kernel, by decide +kernel, by decide +kernel⟩

theorem witness_allot_close : DescRuns 0x09 (dq .pf 7 1) (slotIn 5 7 0 2 State.reset.dev) ∧ DescRuns 0x09 (dq (.vf 5) 7 1) (slotIn 5 7 0 2 State.reset.dev) ∧
    (slotIn 5 7 0 3 State.reset.dev).slotState 5 = 3 ∧ (slotIn 5 7 0 2 State.reset.dev).fnState (.vf 5) = 0 ∧
    ((slotIn 5 7 0 2 State.reset.dev).setFnState 5 2).fnState (.vf 5) = 2 ∧ ((slotIn 5 7 0 3 State.reset.dev).slotX 5).heldClose = none ∧
    (slotIn 0 7 0 2 State.reset.dev).slotHolding 7 = some 0 :=
  ⟨runs_ok (by decide +kernel), runs_ok (by decide +kernel), by decide +kernel⟩

theorem witness_rebind : DescRuns 0x0A (dq .pf 7 2) (bufs .pf (slotIn 5 7 0 2 State.reset.dev)) ∧ (slotIn 5 7 0 2 State.reset.dev).slotHolding 7 = some 5 ∧
    (slotIn 5 7 0 2 State.reset.dev).slotState 5 = 2 ∧ (slotIn 5 7 0 1 State.reset.dev).slotState 5 ≠ 2 ∧ (slotIn 5 7 0 2 State.reset.dev).workGen 5 ≠ 0xFFFF ∧
    (slotIn 5 7 0 2 State.reset.dev).clusterFree 0 = true ∧ (2#24).toNat % 2 = 0 ∧ (3#24).toNat % 2 ≠ 0 :=
  ⟨runs_ok (by decide +kernel), by decide +kernel⟩

/-! ## The Sett, queues and functions -/

theorem witness_rebind_complete :
    (let d := slotBlk { sealed := true, seq := some (0x0A, desc) } (slotIn 255 7 0 3 State.reset.dev)
     d.slotState 255 = 3 ∧ (d.slotX 255).sealed = true ∧ (d.slotX 255).readmit = [] ∧ (d.slotX 255).seq = some (0x0A, desc) ∧ (d.slotX 255).heldClose = none ∧
     RecorderRoom .tta (dv d)) ∧
    (let d := slotBlk { sealed := true, heldClose := some desc } (slotIn 255 7 0 3 State.reset.dev)
     d.slotState 255 = 3 ∧ (d.slotX 255).sealed = true ∧ (d.slotX 255).seq = none ∧ (d.slotX 255).heldClose = some desc) ∧
    (let d := slotBlk { seq := some (0x09, desc) } (slotIn 255 7 0 4 State.reset.dev)
     d.slotState 255 = 4 ∧ (d.slotX 255).due = false ∧ (d.slotX 255).seq = some (0x09, desc) ∧ (d.slotX 255).rotate = none ∧ RecorderRoom .tta (dv d)) ∧
    State.reset.dev.slotState 255 ≠ 3 ∧ State.reset.dev.slotState 255 ≠ 4 := by
  simp only [RecorderRoom]
  decide +kernel

theorem witness_rebind_descriptor : Completable desc (slotBlk { sealed := true, seq := some (0x0A, desc) } (slotIn 255 7 0 3 State.reset.dev)) ∧
    Completable desc (slotBlk { seq := some (0x09, desc) } (slotIn 255 7 0 4 State.reset.dev)) :=
  ⟨(runs_ok (op := 0x10) (q := dq .pf 0 1) (by decide +kernel)).2.2, (runs_ok (op := 0x10) (q := dq .pf 0 1) (by decide +kernel)).2.2⟩

theorem witness_rotate_store : DescRuns 0x0B (dq (.vf 255) 7 1) (leads true (slotIn 255 7 0 2 State.reset.dev)) ∧
    (leads true (slotIn 255 7 0 2 State.reset.dev)).slotState (descSlot (dq (.vf 255) 7 1)) = 2 ∧ (slotIn 255 7 0 3 State.reset.dev).slotState 255 ≠ 2 ∧
    (slotIn 255 7 0 2 State.reset.dev).storeGen 255 ≠ 255 ∧ ((slotIn 255 7 0 2 State.reset.dev).set (R.TTA_ALT_ENTRY_STORE_GEN.at 255) 255).storeGen 255 = 255 ∧
    ((slotIn 255 7 0 2 State.reset.dev).slotX 255).rotate = none ∧ (leads true State.reset.dev).leads = true ∧ State.reset.dev.withdrawn = false :=
  ⟨runs_ok (by decide +kernel), by decide +kernel⟩

/-- An SPDM request of the PF's DOE mailbox, in a session or outside, and a Sett with that session and connection. -/
def spdm (s : Option (BitVec 32)) : SpdmReq := { doe := none, session := s, mutualAuth := true, keyDigest := [] }
def sett (level : Nat) (secured : Bool) (d : Dev) : Dev :=
  { d with tta := { d.tta with sett := { d.tta.sett with conn := [(0, level)], sessions := [⟨5, none, secured, true, []⟩] } } }

theorem witness_spdm : (∀ n : Fin 4, (sett n.val true State.reset.dev).spdmLevel (spdm none) = n.val) ∧ State.reset.dev.spdmLevel (spdm none) = 0 ∧
    (sett 3 true State.reset.dev).sessionOf (spdm (some 5)) = some ⟨5, none, true, true, []⟩ ∧
    (sett 3 false State.reset.dev).sessionOf (spdm (some 5)) = some ⟨5, none, false, true, []⟩ ∧ State.reset.dev.sessionOf (spdm (some 5)) = none ∧
    State.reset.dev.tta.sett.sessions.length < 256 ∧ 256 ≤ (List.replicate 256 (⟨5, none, true, true, []⟩ : Session)).length ∧
    (∀ e ∈ (sett 3 true State.reset.dev).tta.sett.sessions, ∀ f ∈ (sett 3 true State.reset.dev).tta.sett.sessions, e.id = f.id → e = f) := by decide +kernel

theorem witness_keys :
    (let d := sett 3 true (slotIn 255 7 0 1 State.reset.dev)
     d.slotHolding 7 = some 255 ∧ d.slotState 255 = 1 ∧ d.sessionOf (spdm (some 5)) = some ⟨5, none, true, true, []⟩ ∧ (d.slotX 255).digest = []) ∧
    (State.reset.dev.slotHolding 9 = none) ∧
    (let d := sett 3 true State.reset.dev
     ({ d with tta := { d.tta with sett := { d.tta.sett with platform := some 1 } } } : Dev).tta.sett.platform = some 1 ∧ d.tta.sett.platform = none) ∧
    ((slotIn 0 0 0 1 State.reset.dev).tta.sett.platform = none ∧ (slotIn 0 0 0 1 State.reset.dev).slotState 0 = 1 ∧ RecorderRoom .tta (dv State.reset.dev) ∧
     (slotIn 0 0 0 2 State.reset.dev).slotState 0 ≠ 1) ∧
    State.reset.dev.ttaId = 0 ∧ (4#3).getLsbD 0 = false ∧ (4#3).getLsbD 1 = false ∧ (4#3).getLsbD 2 = true ∧ (2#3).getLsbD 1 = true := by
  simp only [RecorderRoom]
  decide +kernel

/-- A function with ring `r` enabled and `n` entries between CI and PI. -/
def ringOn (fn : Fn) (r n : Nat) (d : Dev) : Dev := (d.setBit (qEn fn r) true).set (qPi fn r) n

theorem witness_doorbell : ringExists (.vf 255) 6 = true ∧ ringExists (.vf 255) 7 = false ∧ ringCmd (.vf 255) 3 = true ∧ ringCmd (.vf 255) 4 = false ∧
    ((64 + 65536 - State.reset.dev.get (qPi (.vf 255) 3)) % 65536 + State.reset.dev.ringUsed (.vf 255) 3 ≤ State.reset.dev.ringEntries (.vf 255) 3) ∧
    ¬ ((65 + 65536 - State.reset.dev.get (qPi (.vf 255) 3)) % 65536 + State.reset.dev.ringUsed (.vf 255) 3 ≤ State.reset.dev.ringEntries (.vf 255) 3) ∧
    (let d := (ringOn (.vf 255) 5 64 State.reset.dev).updFnq (.vf 255) fun q => { q with backlog := [(5, [1])] }
     (d.fnq (.vf 255)).backlog.filter (fun e => decide (e.1 = 5)) = [(5, [1])] ∧ d.ringOpen (.vf 255) 5 = true ∧ d.fnState (.vf 255) ≠ 3 ∧
     (1 + 65536 - d.get (qCi (.vf 255) 5)) % 65536 ≤ d.ringUsed (.vf 255) 5 ∧ (d.get (qPi (.vf 255) 5) + 65536 - 1) % 65536 < d.ringEntries (.vf 255) 5) ∧
    RecorderRoom .tta State.reset := by
  simp only [RecorderRoom]
  decide +kernel

theorem witness_fetch : (let d := ringOn (.vf 255) 3 1 State.reset.dev
      ringExists (.vf 255) 3 = true ∧ ringCmd (.vf 255) 3 = true ∧ d.ringOpen (.vf 255) 3 = true ∧ d.ringUsed (.vf 255) 3 ≠ 0 ∧ d.canReserve (.vf 255) 3 = true ∧
      d.fnState (.vf 255) = 0 ∧ opAllowed (leAt [0x20] 0 1) (.vf 255) 3 = true ∧ opAllowed (leAt [0x08] 0 1) (.vf 255) 3 = false ∧
      (d.fnq (.vf 255)).orphans.contains (3, d.get (qCi (.vf 255) 3)) = false ∧ RecorderRoom .tta (dv d)) ∧
    (let d := (ringOn .pf 16 1 State.reset.dev).set R.TTA_TDU_MIRROR_PORT 1
     ringCmd .pf 16 = true ∧ d.ringOpen .pf 16 = true ∧ d.canReserve .pf 16 = true ∧ (d.get R.TTA_TDU_MIRROR_PORT).testBit ((16 - 16) / 3) = true ∧
     opAllowed (leAt [0x70] 0 1) .pf 16 = true) ∧
    State.reset.dev.ringOpen (.vf 255) 3 = false := by
  simp only [RecorderRoom]
  decide +kernel

/-- A descriptor behind another one of its ring, with FENCE. -/
def fenced : Desc := { dq .pf 0 1 with flags := 2, index := 1 }

theorem witness_header_checks :
    (let d := State.reset.dev.updFnq .pf fun q => { q with inflight := [(0, 0), (0, 1)] }
     d.fenceHolds fenced = true ∧ (fenced.ring.val, fenced.index.toNat) ∈ (d.fnq .pf).inflight) ∧
    State.reset.dev.fenceHolds (dq .pf 0 1) = false ∧ opAllowed 0x0B .pf 0 = false ∧ opAllowed 0x10 .pf 0 = true ∧ (dq .pf 0 0).length = 0 ∧
    State.reset.dev.get (qBuf .pf 0) < (dq .pf 0 0xFFFFFF).length.toNat ∧ State.reset.dev.allotAllowed 0x10 (dq .pf 7 1) = false := by decide +kernel

theorem witness_header_completable : Completable (dq .pf 0 1) State.reset.dev := (runs_ok (op := 0x10) (by decide +kernel)).2.2

theorem witness_ring_enable : ringExists (.vf 255) 6 = true ∧ State.reset.dev.bit (qEn (.vf 255) 6) = false ∧ (ringOn (.vf 255) 6 0 State.reset.dev).bit (qEn (.vf 255) 6) = true ∧
    (State.reset.dev.fnq (.vf 255)).backlog = [] ∧
    (((ringOn (.vf 255) 3 1 State.reset.dev).updFnq (.vf 255) fun q => { q with inflight := [(3, 0)] }).fnq (.vf 255)).inflight = [(3, 0)] ∧
    (State.reset.dev.fnq .pf).quiesce = none := by decide +kernel

/-- A VF whose allotment 7 is ACTIVE in slot 255, with a history region to read. -/
def reader : Dev := slotIn 255 7 0 2 (lockTta State.reset.dev)

theorem witness_hist_read : DescRuns 0x20 (dq (.vf 255) 7 4096) (bufs (.vf 255) reader) ∧ reader.dieEnabled 15 = true ∧ reader.slotState 255 = 2 ∧
    (reader.tta.ing.epochs.map (·.1)).Pairwise (· < ·) ∧ reader.pageAwaited (regionBase 1) (regionSize 1) = false ∧ ¬ (3 < (3#8).toNat) ∧ 3 < (4#8).toNat :=
  ⟨runs_ok (by decide +kernel), by decide +kernel⟩

/-- A taken epoch 1 with one block of the allotment on die 15. -/
def aBlock : Block := { hdr := blkHdr 1 250000 1, words := [5], chunks := [], allotIdx := 0, cls := 7, allot := 7 }
def holdsEpoch : Dev := { reader with tta := { reader.tta with ing := { reader.tta.ing with epochs := [(1, { blocks := [(15 * 384, aBlock)], taken := true })] } } }

theorem witness_hist_blocks :
    (holdsEpoch.tta.ing.epochs.filter fun (e : Nat × Epoch) => e.2.taken && decide (1 ≤ e.1 ∧ e.1 < 2)).map (·.1) = List.range' 1 (2 - 1) ∧
    (aBlock.allot = 7 ∧ aBlock.mark = 0 ∧ 15 * 384 / 384 = 15 ∧ leAt aBlock.hdr 0 1 = 1 ∧ leAt aBlock.hdr 8 2 < 0 + 1 ∧ 0 < leAt aBlock.hdr 8 2 + leAt aBlock.hdr 10 2) ∧
    holdsEpoch.storeGen 255 ≤ aBlock.gen ∧ aBlock.gen < (holdsEpoch.set (R.TTA_ALT_ENTRY_STORE_GEN.at 255) 1).storeGen 255 ∧
    (aBlock.hdr ++ aBlock.words.flatMap (leBytes 8)).length = 24 := by decide +kernel

/-- Tier entries of interval 1 and a log that has gone on. -/
def holdsTier : Dev := { reader with tta := { reader.tta with ing := { reader.tta.ing with
    tiers := [⟨1, 15 * 65536, 1, 7, 0, List.replicate 32 0⟩, ⟨2, 15 * 65536, 1, 7, 0, List.replicate 32 0⟩], log := [⟨4000 * 120, [], 0⟩] } } }

theorem witness_hist_tiers : ((holdsTier.tta.ing.log.getLast?.map (·.epoch)).getD 0) / 4000 = 120 ∧
    (holdsTier.tta.ing.tiers.find? fun e => decide (e.tier = 1 ∧ e.stream = 15 * 65536 + (0 + 0) ∧ e.allot = 7 ∧ e.interval = 1)) =
      some ⟨1, 15 * 65536, 1, 7, 0, List.replicate 32 0⟩ ∧ (∀ e ∈ holdsTier.tta.ing.tiers, e.bytes.length = 32) := by decide +kernel

/-- A whole capture of 16 bytes. -/
def aCapture : Capture := { die := 15, slot := 0, allot := 7, capture := 3, bytes := [(0, List.replicate 16 1)], last := true }

theorem witness_hist_capture : aCapture.content.length = 16 ∧ aCapture.content.drop 8 ≠ [] ∧ aCapture.content.drop 16 = [] ∧
    min (aCapture.content.drop 8).length 7 / 8 * 8 = 0 ∧ min (aCapture.content.drop 8).length 8 / 8 * 8 ≠ 0 := by decide +kernel

theorem witness_die_copies : State.reset.dev.fenceHolds (dq .tdu 0 1) = false ∧
    (∀ op ∈ [0x70, 0x71, 0x72], (State.reset.dev.set (qBuf .tdu 0) 0xFFFFFF).headerCheck op (dq .tdu 0 1) = none) ∧
    (∀ p : Fin 2, State.reset.dev.headerCheck 0x71 { dq .tdu 0 1 with ring := ⟨16 + p.val, by omega⟩ } = none) ∧
    State.reset.dev.tdu.q.orphans.contains (0, 0) = false ∧ (⟨15, { dq .pf 0 1 with index := 9 }, 0x70, 0, [], none⟩ : Mirrored).q.index = 9 := by decide +kernel

theorem witness_mirror_timeout : Completable { dq .pf 0 1 with index := 9 } State.reset.dev := (runs_ok (op := 0x10) (by decide +kernel)).2.2

/-- VF 255 in a state. -/
def vfIn (st_ : Nat) : Dev := (slotIn 255 7 0 2 State.reset.dev).set (R.TTA_FN_STAT_STATE.at 254) st_

theorem witness_functions : (∀ n : Fin 4, (vfIn n.val).fnState (.vf 255) = n.val ∧ RecorderRoomFor 2 .tta (dv (vfIn n.val)) ∧ ((vfIn n.val).fnq (.vf 255)).inflight = [] ∧
      ((vfIn n.val).fnq (.vf 255)).orphans = [] ∧ ((vfIn n.val).fnq (.vf 255)).backlog = [] ∧ ((vfIn n.val).fnq (.vf 255)).tdi = 0 ∧
      ((vfIn n.val).fnq (.vf 255)).quiesce = none ∧ (vfIn n.val).slotState 255 = 2 ∧ (vfIn n.val).workGen 255 ≠ 0xFFFF) ∧
    (((vfIn 2).updFnq (.vf 255) fun q => { q with tdi := 2, inflight := [(0, 0)] }).fnq (.vf 255)).tdi = 2 ∧
    (let d := ringOn (.vf 255) 6 63 ((vfIn 3).updFnq (.vf 255) fun q => { q with backlog := [(6, [1])] })
     (d.fnq (.vf 255)).backlog = [(6, [1])] ∧ d.ringOpen (.vf 255) 6 = true ∧ d.ringUsed (.vf 255) 6 < d.ringEntries (.vf 255) 6) := by
  simp only [RecorderRoomFor]
  decide +kernel

theorem witness_function_descriptors : ∀ op ∈ [0x10, 0x11, 0x12, 0x13, 0x14, 0x15], ∀ n : Fin 4, DescRuns op (dq .pf 0 496) (bufs .pf (vfIn n.val)) :=
  fun op h n => runs_ok ((by decide +kernel : ∀ op ∈ [0x10, 0x11, 0x12, 0x13, 0x14, 0x15], ∀ n : Fin 4, runs op (dq .pf 0 496) (bufs .pf (vfIn n.val)) = true) op h n)

/-- The header of an image of allotment 7 with no record. -/
def fnImage : List Byte := [1, 0] ++ leBytes 2 7 ++ [0, 0, 0, 0] ++ List.replicate 8 0 ++ leBytes 4 0 ++ leBytes 4 224 ++ List.replicate 232 0

theorem witness_fn_restore : (dq .pf 0 496).length.toNat = 272 + leAt fnImage 20 4 ∧ leAt fnImage 2 2 = (vfIn 3).slotAllot 255 ∧ leAt fnImage 4 1 = (vfIn 3).storeGen 255 ∧
    leAt fnImage 16 4 + 0 ≤ 4096 ∧ leAt fnImage 2 2 ≠ (slotIn 255 8 0 2 State.reset.dev).slotAllot 255 := by decide +kernel

/-! ## Trace slots, grants and graphs -/

/-- Die 15 is enabled, its port UP, with allotment 7 of slot 255 at index 63. -/
def dieUp (d : Dev) : Dev :=
  up (.tta 15) ((slotIn 255 7 0 2 d).set (R.TTA_TL_CTL_ENABLE.at 15) 1 |> fun d => { d with tta := { d.tta with sett := { d.tta.sett with dieMap := [(15 * 64 + 63, 7)] } } })
/-- The same with trace slots already on it. -/
def dieTrace (l : List (Nat × Nat × W64)) (d : Dev) : Dev := { dieUp d with tta := { (dieUp d).tta with sett := { (dieUp d).tta.sett with traceSlots := l } } }
def cfgFor (ix base size : Nat) : W64 :=
  R.TDU_TRC_SLOT_CFG_SIZE_64K.put (R.TDU_TRC_SLOT_CFG_BASE_64K.put (R.TDU_TRC_SLOT_CFG_ALLOT_IDX.put (R.TDU_TRC_SLOT_CFG_VALID.put 0 1) ix) base) size
def withGrant (d : Dev) : Dev :=
  { d with tta := { d.tta with sett := { d.tta.sett with grants := [⟨15, { allot := 7, flags := 8, dieMask := 0x8000, sources := 0, notBefore := 0, notAfter := 9, serial := 3 }⟩] } } }
/-- A TTA that orders alone, or with its twin. -/
def alone (d : Dev) : Dev := (leads true d).set R.TTA_TWIN_STAT_STATE 2
def both (lead : Bool) (d : Dev) : Dev := up (.tta 16) (leads lead (d.set R.TTA_TWIN_STAT_STATE 0))

theorem witness_orders : (let d := alone State.reset.dev; d.ordersAlone ∧ d.cutFollower = false) ∧ (∀ b : Bool, let d := both b State.reset.dev; d.twinState = 0 ∧ d.twinLinked ∧ d.leads = b) ∧
    (let d := leads false (State.reset.dev.set R.TTA_TWIN_STAT_STATE 1); d.cutFollower = true) := by
  simp only [Dev.ordersAlone, Dev.twinLinked]
  decide +kernel

theorem witness_trace_slot : DescRuns 0x28 (dq (.vf 255) 7 1) (withGrant (dieUp (alone State.reset.dev))) ∧
    (let d := withGrant (dieUp (alone State.reset.dev))
     descSlot (dq (.vf 255) 7 1) = 255 ∧ d.slotState 255 = 2 ∧ d.dieEnabled 15 = true ∧ d.indexOn 15 7 = some 63 ∧ d.isUp (ttaEnd 15) = true ∧ d.slotAllot 255 = 7 ∧
     (∃ g ∈ d.tta.sett.grants, g.grant.allot = 7 ∧ g.die = 15 ∧ g.grant.flags.testBit 3 = true) ∧ d.slotClass 255 ≠ 1 ∧ (0x10#8).getLsbD 4 = true ∧
     d.placeTrace 15 63 32 = some (0, 0) ∧ d.placeTrace 15 63 33 = none ∧ d.placeTrace 15 63 0 = none ∧ (∀ e ∈ d.dieTraceSlots 15, e.2.2.2 ≠ 63)) ∧
    (let d := withGrant (dieTrace [(15, 7, cfgFor 63 0 32)] (alone State.reset.dev))
     (d.dieTraceSlots 15).filter (fun e => decide (e.2.2.2 = 63)) = [(7, 0, 32, 63)] ∧ d.placeTrace 15 63 1 = some (7, 0)) ∧
    (let d := withGrant (dieTrace [(15, 0, cfgFor 1 0 31)] (alone State.reset.dev)); d.placeTrace 15 63 1 = some (1, 31) ∧ d.placeTrace 15 63 2 = none) ∧
    (dieUp State.reset.dev).indexOn 15 8 = none ∧ (dieUp State.reset.dev).tta.sett.grants = [] ∧ State.reset.dev.dieEnabled 16 = false :=
  ⟨runs_ok (by decide +kernel), by decide +kernel⟩

theorem witness_trace_trig : DescRuns 0x29 (dq (.vf 255) 7 1) (dieTrace [(15, 7, cfgFor 63 0 32)] State.reset.dev) ∧
    (let d := dieTrace [(15, 7, cfgFor 63 0 32)] State.reset.dev
     (0x8000#16).getLsbD 15 = true ∧ d.isUp (ttaEnd 15) = true ∧ d.indexOn 15 (d.slotAllot 255) = some 63 ∧
     (d.dieTraceSlots 15).find? (fun e => decide (e.2.2.2 = 63)) = some (7, 0, 32, 63) ∧ d.slotState 255 = 2 ∧ d.isUp (ttaEnd 0) = false) ∧
    State.reset.dev.slotState 255 ≠ 2 :=
  ⟨runs_ok (by decide +kernel), by decide +kernel⟩

/-- A grant of allotment 7 on die 15, valid in second 0, with a FLAGS value, a serial and a version. -/
def grantOf (ver flags serial from_ until_ : Nat) (hs ps : Bool) : GrantImage :=
  { bytes := [BitVec.ofNat 8 ver, BitVec.ofNat 8 flags] ++ leBytes 2 7 ++ leBytes 2 0x8000 ++ [0, 0] ++ leBytes 8 1 ++ leBytes 6 from_ ++ leBytes 6 until_ ++ leBytes 4 serial ++
      List.replicate 128 0, holderSig := hs, platformSig := ps }

theorem witness_grant_install : DescRuns 0x2A (dq (.vf 255) 7 160) (bufs (.vf 255) (dieUp (lockTta State.reset.dev))) ∧
    (let d := lockTta (slotBlk { minSerial := 3 } (dieUp State.reset.dev))
     let bs := (grantOf 1 8 3 0 1 true false).bytes
     bs.length = 160 ∧ leAt bs 0 1 = 1 ∧ leAt bs 1 1 = 8 ∧ leAt bs 6 2 = 0 ∧ (∀ i : Fin 32, leAt bs (32 + i.val) 1 = 0) ∧ 8 % 4 = 0 ∧
     d.slotHolding (leAt bs 2 2) = some 255 ∧ d.slotState 255 = 2 ∧ (d.slotX 255).minSerial ≤ leAt bs 28 4 ∧ leAt bs 16 6 ≤ d.secondsA .tta ∧ d.secondsA .tta < leAt bs 22 6 ∧
     ((List.range 16).filter fun p => (leAt bs 4 2).testBit p && d.dieEnabled p) = [15] ∧ d.isUp (ttaEnd 15) = true ∧ RecorderRoom .tta (dv d) ∧
     ¬ (d.slotX 255).minSerial ≤ leAt (grantOf 1 8 2 0 1 true false).bytes 28 4 ∧ ¬ d.secondsA .tta < leAt (grantOf 1 8 3 0 0 true false).bytes 22 6 ∧
     leAt (grantOf 2 8 3 0 1 true false).bytes 0 1 ≠ 1 ∧ leAt (grantOf 1 15 3 0 1 true true).bytes 1 1 % 4 ≠ 0 ∧ leAt (grantOf 1 16 3 0 1 true true).bytes 1 1 = 16 ∧
     (State.reset.dev.slotHolding 7 = none) ∧
     8 ≤ ((List.replicate 8 (⟨15, { allot := 7, flags := 8, dieMask := 0x8000, sources := 0, notBefore := 0, notAfter := 9, serial := 3 }⟩ : SentGrant)).filter
       fun x => decide (x.die = 15 ∧ d.secondsA .tta < x.grant.notAfter)).length) := by
  refine ⟨runs_ok (by decide +kernel), ?_⟩
  simp only [RecorderRoom]
  decide +kernel

theorem witness_grant_serial : DescRuns 0x2B (dq (.vf 255) 7 1) (dieUp (alone State.reset.dev)) ∧ DescRuns 0x2B (dq (.vf 255) 7 1) (both false (dieUp State.reset.dev)) ∧
    (dieUp State.reset.dev).slotState 255 = 2 ∧ (slotIn 255 7 0 3 State.reset.dev).slotState 255 ≠ 2 ∧
    ((let d := dieUp (alone State.reset.dev); d.ordersAlone ∧ d.cutFollower = false ∧ d.isUp (ttaEnd 15) = true)) := by
  refine ⟨runs_ok (by decide +kernel), runs_ok (by decide +kernel), by decide +kernel, by decide +kernel, ?_⟩
  simp only [Dev.ordersAlone]
  decide +kernel

/-- Slot 255 holds the RADIO allotment, with a graph that stamps start. -/
def radio (d : Dev) : Dev := (slotIn 255 7 1 2 (dieUp d)).setGraph 1023 { slot := 255, gid := 9, plan := { stamp := true } }

theorem witness_slot_route : DescRuns 0x48 (dq (.vf 255) 7 1) (radio (alone State.reset.dev)) ∧
    (let d := radio (alone State.reset.dev)
     d.slotState 255 = 2 ∧ d.slotClass 255 = 1 ∧ d.graphOf 255 9 = some 1023 ∧ (∃ g, d.graph 1023 = some g ∧ g.plan.stamp = true) ∧ d.dieEnabled 15 = true ∧ d.tta.det.routes = []) ∧
    State.reset.dev.graphOf 255 9 = none ∧ (hasGraph State.reset.dev).slotClass 1 ≠ 1 :=
  ⟨runs_ok (by decide +kernel), ⟨by decide +kernel, by decide +kernel, by decide +kernel, ⟨_, rfl, by decide +kernel⟩, by decide +kernel⟩, by decide +kernel⟩
/-- The image of a graph of allotment `allot` with one task of one END, and, where `two`, a second task and an edge each way between them. -/
def image (allot gid : Nat) (two : Bool) : List Byte :=
  let n := if two then 2 else 1
  let e := if two then 32 else 0
  let task : List Byte := leBytes 4 0 ++ leBytes 2 1 ++ leBytes 2 0 ++ leBytes 4 0xFFFFFFFF ++ leBytes 4 1 ++ leBytes 4 0 ++ leBytes 2 0xFFFF ++ List.replicate 10 0
  let edge (a b : Nat) : List Byte := leBytes 2 a ++ leBytes 2 b ++ List.replicate 12 0
  let body := (List.replicate n task).flatten ++ (if two then edge 0 1 ++ edge 1 0 else []) ++
    leBytes 4 ((tileEncode (.end_ 0 ⟨0, 0, 0, 0, 0⟩ {})).getD 0).toNat ++ leBytes 4 0
  let head := [1, 0, 0, 0] ++ leBytes 2 allot ++ leBytes 2 gid ++ leBytes 2 n ++ leBytes 2 1 ++ leBytes 4 (e / 16) ++ leBytes 2 0 ++ leBytes 2 1 ++
    leBytes 4 (64 + 32 * n + e + 8) ++ leBytes 4 64 ++ leBytes 4 (64 + 32 * n) ++ leBytes 4 (64 + 32 * n + e) ++ leBytes 4 (64 + 32 * n + e + 8) ++
    leBytes 4 (64 + 32 * n + e + 8) ++ leBytes 4 0 ++ List.replicate 12 0
  head ++ leBytes 4 (crc32c (head ++ List.replicate 4 0 ++ body)).toNat ++ body

/-- A graph descriptor of slot 255, and its states. -/
def gq : Desc := dq (.vf 255) 7 104
def gdev : Dev := bufs (.vf 255) (slotBlk { clusters := [638, 639] } (slotIn 255 7 0 2 State.reset.dev))
def ofPlan : Except Bool Plan → Plan
  | .ok p => p
  | .error _ => {}
/-- A RUNNING graph of the image above, at handle 1023. -/
def ranG (st_ : Nat) : Graph := { slot := 255, gid := 9, state := st_, plan := ofPlan (logicalPlan (image 7 9 false) false false) }
def gHeld (g : Graph) : Dev := gdev.setGraph 1023 g

theorem witness_graph_admit :
    (let d := gdev
     d.unfenced gq = true ∧ d.headerCheck 0x30 gq = none ∧ d.headerCheck 0x31 gq = none ∧ d.slotState 255 = 2 ∧ d.parked = false ∧ ¬ 1024 ≤ d.tta.graphs.length ∧
     ¬ regionSize 4 < d.plansUsed + 104 ∧ d.headerCheck 0x30 { gq with length := 0 } ≠ none ∧ (slotIn 255 7 0 1 State.reset.dev).slotState 255 ≠ 2 ∧
     RecorderRoom .tta (dv d)) := by
  simp only [RecorderRoom]
  decide +kernel

theorem witness_graph_completes : Completable gq gdev := (runs_ok (op := 0x30) (by decide +kernel)).2.2

theorem witness_graph_image :
    leAt (image 7 9 false) 4 2 = gdev.slotAllot 255 ∧ leAt (image 7 9 false) 1 1 % 2 = 0 ∧ leAt (image 8 9 false) 4 2 ≠ gdev.slotAllot 255 ∧
    imageOk (image 7 9 false) 104 = true ∧ imageOk (image 7 9 false) 103 = false ∧ gdev.graphOf 255 9 = none ∧ (gHeld (ranG 2)).graphOf 255 9 = some 1023 ∧
    imageOk (image 7 9 true) 168 = true ∧ logicalPlan (image 7 9 true) false false = .error false := by decide +kernel

theorem witness_graph_plan : ∃ pl, logicalPlan (image 7 9 false) false false = .ok pl ∧ leAt pl.image 6 2 = 9 := ⟨_, rfl, by decide +kernel⟩

theorem witness_graph_replace : (gHeld (ranG 2)).graph 1023 = some (ranG 2) ∧ (ranG 2).replace = none ∧ ({ ranG 2 with replace := some { plan := {}, actSec := 0, q := gq } } : Graph).replace ≠ none := by decide +kernel

theorem witness_graph_remove : DescRuns 0x32 gq (gHeld (ranG 2)) ∧ Completable desc (gHeld (ranG 2)) ∧ desc ≠ gq ∧ (ranG 2).run = none ∧ (ranG 2).pauseQ = none ∧ (ranG 2).removeQ = none :=
  ⟨runs_ok (by decide +kernel), (runs_ok (op := 0x10) (q := dq .pf 0 1) (by decide +kernel)).2.2, by decide +kernel⟩

/-- An admission that waits, whose plan fits cluster 639. -/
theorem witness_admission_done :
    (let g := { ranG 0 with admitQ := some gq }
     let e := (gHeld g).set R.TTA_SCHED_STAT_BUSY 0
     g.state = 0 ∧ g.removeQ = none ∧ (e.placePlan 255 g.plan).map (fun x => (x.1.phys, x.1.shadows)) = some ([10208], [10224]) ∧ g.plan.stamp = false ∧
     (slotIn 255 7 0 2 State.reset.dev).placePlan 255 g.plan = none ∧ RecorderRoom .tta (dv (gHeld g)) ∧ e.slotClass 255 ≠ 1 ∧
     ((gHeld g).set R.TTA_TWIN_STAT_STATE 1).twinState = 1 ∧ g.firstRun = none ∧ State.reset.dev.graph 1023 = none) := by
  simp only [RecorderRoom]
  decide +kernel

/-! ## Runs and saves -/

/-- A graph in a state at handle 1023 whose tile is tile 10239, with a run or without. -/
def runG (st_ : Nat) (run : Option Run) : Graph :=
  { ranG st_ with run := run, primary := true, nextEpoch := 8, runNo := 3, plan := { (ranG st_).plan with phys := [10239], objs := [65534, 65535], lists := [[.endList]], q := 4 } }
def run8 : Run := { no := 2, epoch := 4, index := [5] }
def saveOf (g : Graph) : GraphSave := { run := 2, epoch := 4, boundary := true, image := g.plan.image, tiles := [{ pc := 4 }] }

theorem witness_pause (st_ : Fin 5) : (∀ op ∈ [0x33, 0x34, 0x35, 0x36], DescRuns op gq (gHeld (runG st_.val none))) ∧
    (gHeld (runG st_.val none)).graphOf (descSlot gq) 9 = some 1023 ∧ (runG st_.val none).state = st_.val ∧ (runG st_.val none).cutOff = false ∧ (runG st_.val none).plan.stamp = false :=
  ⟨fun op h => runs_ok ((by decide +kernel : ∀ st_ : Fin 5, ∀ op ∈ [0x33, 0x34, 0x35, 0x36], runs op gq (gHeld (runG st_.val none)) = true) st_ op h),
   (by decide +kernel : ∀ st_ : Fin 5, (gHeld (runG st_.val none)).graphOf (descSlot gq) 9 = some 1023 ∧ (runG st_.val none).state = st_.val ∧ (runG st_.val none).cutOff = false ∧ (runG st_.val none).plan.stamp = false) st_⟩

theorem witness_resume_restore : (gHeld (runG 4 none)).logHolds (runG 4 none) = true ∧
    (let d : Dev := { gHeld (runG 4 none) with tta := { (gHeld (runG 4 none)).tta with ing := { (gHeld (runG 4 none)).tta.ing with log := [⟨9, [], 0⟩] } } }
     d.logHolds (runG 4 none) = false) ∧
    (saveOf (runG 4 none)).storeGen = (gHeld (runG 4 none)).storeGen 255 ∧ (saveOf (runG 4 none)).image = (runG 4 none).plan.image ∧
    (saveOf (runG 4 none)).storeGen ≠ (((gHeld (runG 4 none)).set (R.TTA_ALT_ENTRY_STORE_GEN.at 255) 1)).storeGen 255 ∧ (runG 4 none).plan.image ≠ [] ∧
    (runG 4 none).plan.allTiles.Nodup ∧ (runG 4 none).plan.allTiles[0]? = some 10239 ∧ (saveOf (runG 4 none)).tiles[0]? = some { pc := 4 } ∧ (runG 4 none).saved = none := by
  decide +kernel

theorem witness_pause_done : (∀ op ∈ [0x33, 0x35],
      let g := { runG 3 none with pauseQ := some (op, desc) }
      g.state = 3 ∧ (∀ t ∈ g.plan.phys, ((gHeld g).tile t).xfers = []) ∧ g.removeQ = none ∧ RecorderRoom .tta (dv (gHeld g))) ∧
    Completable desc (gHeld (runG 3 none)) ∧ (runG 2 none).state ≠ 3 := by
  refine ⟨?_, (runs_ok (op := 0x10) (q := dq .pf 0 1) (by decide +kernel)).2.2, by decide +kernel⟩
  simp only [RecorderRoom]
  decide +kernel

/-- The log has the epoch that closes the graph's next run. -/
def logged (g : Graph) : Dev := { gHeld g with tta := { (gHeld g).tta with ing := { (gHeld g).tta.ing with log := [⟨5, [], 0⟩, ⟨8, [], 0⟩] } } }

theorem witness_run_start :
    (let g := runG 2 none
     let d := logged g
     d.graph 1023 = some g ∧ g.testTiles = [] ∧ g.state = 2 ∧ g.redo = [] ∧ d.slotState 255 < 3 ∧ g.primary = true ∧ (∃ l ∈ d.tta.ing.log, l.epoch = 8) ∧ d.jobHolds g 8 = false ∧
     d.logBytes ≤ 2 ^ 28 ∧ g.logHeld = false ∧ (slotIn 255 7 0 3 State.reset.dev).slotState 255 = 3 ∧ RecorderRoom .tta (dv d) ∧
     ((d.set (R.TTA_SYNC_TYPE.at 65534) 2).set (R.TTA_SYNC_TYPE.at 65535) 3).get (R.TTA_SYNC_TYPE.at g.plan.runObj) = 2 ∧
     ((d.set (R.TTA_SYNC_TYPE.at 65534) 2).set (R.TTA_SYNC_TYPE.at 65535) 3).get (R.TTA_SYNC_TYPE.at g.plan.commitObj) = 3) ∧
    (let g := { runG 2 none with redo := [(2, 4, 1, true)] }; g.redo = [(2, 4, 1, true)]) ∧
    (let g := { runG 2 none with plan := { (runG 2 none).plan with stamp := true }, stamps := [[1, 2, 3, 4]] }; g.plan.stamp = true ∧ g.stamps = [[1, 2, 3, 4]]) ∧
    (let r : Replace := { plan := (runG 2 none).plan, actSec := 0, q := desc, own := true, at_ := some 4 }; r.at_ = some 4 ∧ 4 + (runG 2 none).plan.q ≤ 8 ∧ r.plan.phys.Nodup ∧ ∀ t ∈ r.plan.phys, t ∉ r.plan.shadows) := by
  simp only [RecorderRoom]
  decide +kernel

/-- A round log of more than 256 MiB exists. -/
theorem witness_full_round_log : ∃ d : Dev, 2 ^ 28 < d.logBytes := by
  have h : ∀ n : Nat, (gHeld { runG 2 none with log := [{ epoch := 8, group := 0, sub := 0, replay := 0, words := List.replicate n ⟨0, false⟩, status := 0 }] }).logBytes = 8 * n := fun n => by
    show ([[8 * (List.replicate n (⟨0, false⟩ : TWord)).length].sum]).sum = _
    simp
  refine ⟨_, lt_of_lt_of_eq ?_ (h (2 ^ 25 + 1)).symm⟩
  norm_num

/-- An edge of two words from task 0 of one tile to task 1 of another. -/
def copyG : Graph :=
  { runG 2 (some run8) with plan := { (runG 2 none).plan with phys := [10239, 10238], lists := [[.copy 0]], edges := [⟨0, 1, 0, 2, 2⟩], place := [0, 1], winAt := [8, 16], edgeObjs := [(1, 9)] } }

theorem witness_edge_copy :
    (let d := (gHeld copyG).setTile 10239 { use := some ⟨1023, 0, false⟩ }
     d.listEntry 10239 = some (.copy 0) ∧ d.tileGraph 10239 = some (1023, copyG) ∧ (d.tile 10239).task = none ∧ (d.tile 10239).stopped = false ∧ d.isShadow 10239 = false ∧
     copyG.plan.edges[0]? = some ⟨0, 1, 0, 2, 2⟩ ∧ (d.set (R.TTA_SYNC_TYPE.at 9) 1).get (R.TTA_SYNC_TYPE.at 9) = 1 ∧ d.shadowOf 10238 ≠ some 5) ∧
    State.reset.dev.listEntry 10239 = none := by decide +kernel

theorem witness_run_end (void : Bool) :
    let g := runG 2 (some { run8 with epoch := 4 })
    let d := ((gHeld { g with plan := { g.plan with shadows := [] } }).setTile 10239 { use := some ⟨1023, 0, false⟩ }).set (R.TTA_SYNC_VALUE.at 65535) (if void then 256 else 0)
    (∀ t ∈ g.plan.allTiles, d.listEntry t = some .endList ∧ (d.tile t).task = none ∧ (d.tile t).xfers = []) ∧ (d.commitMismatch g.plan.commitObj ≠ 0 ↔ void = true) ∧
    g.run = some run8 ∧ run8.reexec = false ∧ g.plan.stamp = false ∧ run8.job = none ∧ run8.poisoned = false ∧ g.redoRun = none ∧ g.removeQ = none ∧ g.past = [] ∧ g.held = [] ∧ g.ckpts = [] ∧
    g.ckptDue 4 = false ∧ run8.replay < 255 ∧ ((dv d).dev.recd .tta).queue.length < queueDepth .tta := by
  revert void
  decide +kernel

/-! ## Tables -/

/-- Slot 255 with a table of two rows of four words. -/
def tbl : Table := { slot := 255, tid := 9, offset := 0, rows := 2, rowWords := 4, kind := 0, entity := 0 }
def tabs (t : Table) (d : Dev) : Dev := { d with tta := { d.tta with tables := [t] } }
def tq (len : BitVec 24) : Desc := dq (.vf 255) 7 len
def tdev (f : Dev → Dev) : Dev := bufs (.vf 255) (tabs tbl (slotIn 255 7 0 2 (f State.reset.dev)))

theorem witness_table_completes : Completable (tq 64) (tdev alone) ∧ Completable (tq 64) (tdev (both true)) := by
  exact ⟨(runs_ok (op := 0x38) (by decide +kernel)).2.2, (runs_ok (op := 0x38) (by decide +kernel)).2.2⟩

theorem witness_table_create : (∀ op ∈ [0x38, 0x39, 0x3A, 0x3B], (tdev alone).unfenced (tq 64) = true ∧ (tdev alone).headerCheck op (tq 64) = none ∧ (tdev alone).headerCheck op (tq 0) ≠ none) ∧
    (tdev alone).slotState 255 = 2 ∧ (slotIn 255 7 0 3 State.reset.dev).slotState 255 ≠ 2 ∧ (4096 : Nat) % 4096 = 0 ∧ (4 : Nat) % 4 = 0 ∧
    (64 + 8 * 4096 * 16 + 4095) / 4096 * 4096 = 528384 ∧ 4096 + 2 * 528384 ≤ areaSize 2 ∧ (∀ t ∈ (tdev alone).tta.tables, 4096 + 2 * 528384 ≤ t.offset ∨ t.offset + 2 * t.wb ≤ 8192) ∧
    (tdev alone).tta.tables.length < 4096 ∧ ((tdev alone).tta.tables.filter fun t => decide (t.slot = 255)).length < 256 ∧ RecorderRoom .tta (dv (tdev alone)) := by
  simp only [RecorderRoom]
  decide +kernel

theorem witness_table_write : (tdev alone).table 255 9 = some tbl ∧ (64 : Nat) % (8 * tbl.rowWords) = 0 ∧ ¬ tbl.rows < 0 + 64 / (8 * tbl.rowWords) ∧ tbl.rows < 1 + 64 / (8 * tbl.rowWords) ∧
    tbl.retained = none ∧ tbl.due = none ∧ tbl.asked = none ∧ tbl.shadow.rowGens = [] ∧ tbl.shadow.storeGen ≠ (tdev fun d => d.set (R.TTA_ALT_ENTRY_STORE_GEN.at 255) 1).storeGen 255 ∧
    (List.replicate 64 (0 : Byte)).length = 64 ∧ (tdev alone).table 255 8 = none := by decide +kernel

theorem witness_table_windows : (∀ ns, ns ∈ [250000, 250001] → (({ tbl with retained := some ns } : Table).retained = some ns)) ∧ ((tdev alone).advance .tta 250000).ttaNs = 250000 ∧
    (∃ t ∈ (tabs { tbl with gone := some 250000 } State.reset.dev).tta.tables, t.slot = 255 ∧ t.tid = 9 ∧ ∃ ns, t.gone = some ns ∧ ns ≤ 250000) :=
  ⟨fun _ _ => rfl, by decide +kernel, { tbl with gone := some 250000 }, by decide +kernel, rfl, rfl, 250000, rfl, by decide⟩

theorem witness_table_boundary : let d := tabs { tbl with due := some (1, false) } (lockTta State.reset.dev)
    (d.advance .tta 250000).timeValid .tta = true ∧ (d.advance .tta 250000).ttaNs / 250000 = 1 ∧ d.tta.ing.boundary < 1 ∧ d.tta.graphs = [] ∧ d.tta.retireDue = [] ∧ d.tta.slotsX = [] ∧
    d.tta.tables = [{ tbl with due := some (1, false) }] ∧ ((dv d).dev.recd .tta).queue.length < queueDepth .tta := by decide +kernel

/-! ## The fleet -/

/-- A TTA in the fleet as TTA `id`, with allotment 7 in slot 255 and both ARKs. -/
def fleet (id : Nat) (d : Dev) : Dev :=
  let d := ((((slotIn 255 7 0 2 d).setWord .tta R.TTA_POS.base (BitVec.ofNat 64 id)).setBit R.TTA_POS_LOCKED true).setBit R.TTA_SETT_PKEY_HELD true).set R.TTA_CAPS_WRN_VER 2
  { d with tta := { d.tta with sett := { d.tta.sett with platform := some 1, arks := [(255, 1)] } } }
def good : PktAuth := { inst := 1, ctr := 2, tagOk := true }

theorem witness_hears : (∀ v : Fin 2, HearsPacket 7 (v.val + 1) good (fleet 0 State.reset.dev)) ∧ (fleet 0 State.reset.dev).fleetReady = true ∧ State.reset.dev.fleetReady = false ∧
    (3 : Nat) ≠ (fleet 0 State.reset.dev).get R.TTA_CAPS_WRN_VER ∧ (fleet 0 State.reset.dev).ttaId = 0 ∧ (fleet 16383 State.reset.dev).ttaId = 16383 := by
  refine ⟨?_, by decide +kernel⟩
  intro v
  refine ⟨by decide +kernel, ?_, by decide +kernel, 255, by decide +kernel⟩
  revert v
  decide +kernel

theorem witness_hears_platform : HearsPacket 0 2 good ((fleet 0 State.reset.dev).set (R.TTA_ALT_ENTRY_STATE.at 0) 2) := ⟨by decide +kernel, by decide +kernel, by decide +kernel, 0, by decide +kernel⟩

/-- A job of allotment 7 over trays 0 and 1 with one graph and one group, and its description. -/
def jobBytes : List Byte :=
  [1, 0, 1, 1] ++ leBytes 2 7 ++ List.replicate 58 0 ++ ([3] ++ List.replicate 1023 0) ++ (leBytes 2 9 ++ List.replicate 6 0 ++ List.replicate 48 0) ++
    (leBytes 2 1 ++ [2, 0] ++ leBytes 4 8)
def job (st_ : Nat) : Job := { allot := 7, id := 65535, slot := 255, state := st_, desc := jobBytes, trays := [0, 1], entry := 63 }
def deciding (outcome : Nat) : Decided := { allot := 7, id := 65535, desc := jobBytes, trays := [0, 1], attempt := 1, goNs := 250000, outcome := outcome, reqTag := 4, origin := 2 }
def wr (f : Warren → Warren) (d : Dev) : Dev := { d with tta := { d.tta with wrn := f d.tta.wrn } }
def jobs (st_ : Nat) (x : List Decided) (d : Dev) : Dev := wr (fun w => { w with jobs := [job st_], deciding := x }) d
def root (st_ outcome : Nat) : Dev := leads true (jobs st_ [deciding outcome] (fleet 0 State.reset.dev))

/-- A round of the job, and a Warren header of it. -/
def key0 (group : Nat) : RoundKey := { allot := 7, job := 65535, epoch := 8, group := group, sub := 0, replay := 0 }
def wh (level : BitVec 8) (group sender : BitVec 16) (cnt : BitVec 8) : WrnHdr :=
  { version := 2, flags := 0, level := level, allot := 7, job := 0xFFFF, epochSec := 0, epochIdx := 8, group := group, sub := 0, replay := 0, sender := sender, segIdx := 0, segCnt := cnt,
    length := 8, kind := 0 }
def wordSeg : List Byte := leBytes 8 5 ++ leBytes 8 0

theorem witness_round : (wh 1 1 2 1).key = key0 1 ∧ payloadWords 8 wordSeg = [⟨5, false⟩] ∧ (root 1 1).jobOf 7 65535 = some (job 1) ∧ ((root 1 1).roundSeen (key0 1)).result = none ∧
    (root 1 1).openStates < 16384 ∧ parentTray [0, 1] 1 1 = (root 1 1).ownTray ∧ treeLevels [0, 1] = 1 ∧ parentTray [0, 1] 1 1 ≠ (leads true (fleet 2 State.reset.dev)).ownTray ∧
    (let m := (root 1 1).mergeOf (key0 1) 1; m.parts = [] ∧ m.inputs = [] ∧ m.done = false ∧
      ({ m with kind := 1, inputs := [(1, [⟨5, false⟩])] } : Merge).complete [0, 1] 0 = false ∧ ({ m with kind := 1, inputs := [(0, []), (1, [⟨5, false⟩])] } : Merge).complete [0, 1] 0 = true) ∧
    parentTray ((List.range 17).map fun i => i) 1 16 = 16 ∧ treeLevels (List.range 17) = 2 ∧ parentTray (List.range 17) 2 16 = 0 ∧
    ((root 1 1).slotX 255).wrnCtr < 2 ^ 64 ∧ (root 1 1).slotHolding 7 = some 255 ∧ (root 1 1).roundSeen (key0 1) = { key := key0 1 } := by decide +kernel

theorem witness_round_states : (root 1 1).replayCurrent (key0 1) ∧ (root 1 1).objsNumbered ∧
    ¬ (wr (fun w => { w with rounds := [{ key := { key0 1 with replay := 1 } }] }) (root 1 1)).replayCurrent (key0 1) ∧
    (let d := wr (fun w => { w with rounds := [{ key := key0 1, result := some [⟨5, false⟩], copy := some [⟨5, false⟩], own := some [⟨6, false⟩] }] }) (root 1 1)
     (d.roundSeen (key0 1)).result = some [⟨5, false⟩] ∧ (d.roundSeen (key0 1)).copy = some [⟨5, false⟩] ∧ (d.roundSeen (key0 1)).own = some [⟨6, false⟩]) := by
  refine ⟨⟨by decide +kernel, by decide +kernel⟩, ?_, ?_, by decide +kernel⟩
  · intro t x h
    have : ((root 1 1).tile t).xfers = [] := by
      unfold Dev.tile
      show (Memory.read _ [] t : Tile).xfers = []
      rfl
    rw [this] at h
    cases h
  · intro h
    exact absurd (h.2 { key := { key0 1 with replay := 1 } } (by decide +kernel) ⟨rfl, rfl, rfl, rfl⟩) (by decide)

/-- The round's transfer of tile 10239 of a graph at handle 1023, whose run is a run of the job. -/
def jobRun : Run := { no := 2, epoch := 8, job := some 65535 }
def roundXfer : Xfer := { id := 0, addr := 8, kind := 2, obj := 9, words := 1, remote := 0, loc := 100, deadline := 0, status := 0, mirror := false, round := some (1, 0) }
def atRound : Dev :=
  ((((root 1 1).setGraph 1023 { runG 2 (some jobRun) with plan := { (runG 2 none).plan with objs := [9, 65534, 65535] } }).setTile 10239 { use := some ⟨1023, 0, false⟩, xfers := [roundXfer] }).set
    (R.TTA_SYNC_TYPE.at 9) 1)

theorem witness_result : jobGraphs (job 1).desc = [(9, List.replicate 48 0)] ∧ atRound.graphOf 255 9 = some 1023 ∧ (atRound.graph 1023).bind (·.run) = some jobRun ∧ jobRun.reexec = false ∧
    (∀ u ∈ [10239], ((atRound.tile u).xfers.filter fun (f : Xfer) => f.round = some (1, 0)) = [roundXfer]) ∧ atRound.shadowOf 10239 = none ∧ atRound.ownObj 10239 9 = true ∧
    atRound.get (R.TTA_SYNC_TYPE.at 9) = 1 ∧ (atRound.tile 10239).storable (8 : Int) = true ∧ (root 1 1).jobOf 7 65534 = none := by decide +kernel

theorem witness_vote (void : Bool) : let g := { runG 2 none with past := [⟨{ jobRun with replay := if void then 255 else 0 }, none⟩] }
    let d := (root 1 1).setGraph 1023 g
    g.run = none ∧ g.held = [] ∧ g.ckpts = [] ∧ g.plan.commitObj < 65536 ∧ (jobGraphs (job 1).desc)[0]? = some (9, List.replicate 48 0) ∧ d.graphOf 255 9 = some 1023 ∧
    (([⟨if void then 1 else 0, false⟩] : List TWord).getD 0 {}).v.getLsbD 0 = void ∧ RecorderRoomFor 2 .tta (dv d) := by
  simp only [RecorderRoomFor]
  revert void
  decide +kernel

/-- A packet that waits for its ACK. -/
def pkt (sends : Nat) : Packet := { no := 5, proto := 1, dst := 2, hdr := [1, 0x16] ++ List.replicate 26 0 ++ leBytes 4 4, body := [], allot := 7, job := 65535, sends := sends, inst := 0, ctr := 0 }

theorem witness_packets : (let d := wr (fun w => { w with outbox := [pkt 1] }) (root 1 1)
      d.packet 5 = some (pkt 1) ∧ d.packet 4 = none ∧ d.isSuspect 7 65535 2 = false ∧ (2#16).toNat = (pkt 1).dst ∧ 1 < max 1 (d.get R.TTA_WRN_CFG_TRIES)) ∧
    (wr (fun w => { w with suspects := [(suspectKey 7 65535, 2)] }) (root 1 1)).isSuspect 7 65535 2 = true ∧ max 1 ((root 1 1).get R.TTA_WRN_CFG_TRIES) ≤ (pkt 255).sends ∧
    ((job 1).readies = [] ∧ readyKeys [0, 1] 1 0 ≠ []) ∧ HearsPacket (pkt 1).allot 2 good (root 1 1) := by
  refine ⟨by decide +kernel, by decide +kernel, by decide +kernel, by decide +kernel, by decide +kernel, by decide +kernel, by decide +kernel, 255, by decide +kernel⟩

def bh (sender : BitVec 16) (flags level status : BitVec 8) (attempt : BitVec 8 := 1) : BstHdr :=
  { version := 2, flags := flags, level := level, allot := 7, job := 0xFFFF, attempt := attempt, status := status, failTta := 0xFFFF, timeSec := 0, timeNs := 250000, sender := sender, length := 0, reqTag := 4 }
def jq : Desc := dq (.vf 255) 7 1152

theorem witness_job_start : (let d := bufs (.vf 255) (leads true (fleet 0 State.reset.dev))
      d.unfenced jq = true ∧ d.headerCheck 0x40 jq = none ∧ d.slotState 255 = 2 ∧ jobDescOk jobBytes 1152 (d.slotAllot 255) d.ownTray = true ∧ jobDescOk jobBytes 1152 8 0 = false ∧
      ¬ 4 ≤ (d.heldJobs.filter fun j => j.allot = 7).length ∧ rootTray (jobTrays jobBytes) = 0 ∧ d.leads = true ∧ d.tta.wrn.deciding = [] ∧ d.partnerId ≠ d.ttaId ∧
      RecorderRoom .tta (dv d) ∧ 1088 ≤ jobBytes.length) ∧
    (let d := wr (fun w => { w with jobs := (List.range 4).map fun i => { job 1 with id := i + 1 } }) (fleet 0 State.reset.dev); 4 ≤ (d.heldJobs.filter fun j => j.allot = 7).length) ∧
    (root 1 0).tta.wrn.deciding = [deciding 0] ∧ (deciding 0).noneAt = none := by
  simp only [RecorderRoom]
  decide +kernel

theorem witness_job_descriptors : DescRuns 0x41 jq (bufs (.vf 255) (root 1 1)) ∧ Completable jq (bufs (.vf 255) (root 1 1)) :=
  ⟨runs_ok (by decide +kernel), (runs_ok (op := 0x40) (q := jq) (by decide +kernel)).2.2⟩

/-- TTA 2 of tray 1, a member whose parent is tray 0, with the job's graph running. -/
def member (d : Dev) : Dev := d.setGraph 1023 (runG 2 none)

theorem witness_prepare : (let d := member (fleet 2 State.reset.dev)
      parentTray (jobTrays jobBytes) 1 d.ownTray ≠ d.ownTray ∧ d.jobOf 7 65535 = none ∧ d.slotHolding 7 = some 255 ∧ d.slotState 255 = 2 ∧ d.graphOf 255 9 = some 1023 ∧ d.heldJobs = [] ∧
      (runG 2 none).plan.stamp = false ∧ 250000 < (d.advance .tta 230000).ttaNs + 20001 ∧ ¬ 250000 < (d.advance .tta 230000).ttaNs + 20000 ∧ (bh 0 0 1 0).ns = 250000) ∧
    (let d := wr (fun w => { w with jobs := [job 0] }) (fleet 2 State.reset.dev)
     d.jobOf 7 65535 = some (job 0) ∧ (job 0).attempt < (bh 0 0 1 0 2).attempt.toNat ∧ (bh 0 0 1 0).attempt.toNat ≤ (job 0).attempt) := by decide +kernel

/-- A description that names the graph with any digest, such as that of its image. -/
theorem witness_prepare_digest (h : List Byte) (n : h.length = 48) : jobGraphs (jobBytes.take 1096 ++ (h ++ jobBytes.drop 1144)) = [(9, h)] := by
  have a : (jobBytes.take 1096).length = 1096 := by decide +kernel
  have le (i k : Nat) (w : i + k ≤ 1096) : leAt (jobBytes.take 1096 ++ (h ++ jobBytes.drop 1144)) i k = leAt (jobBytes.take 1096) i k := by
    unfold leAt
    rw [List.drop_append_of_le_length (by omega), List.take_append_of_le_length (by rw [List.length_drop]; omega)]
  have one : leAt (jobBytes.take 1096) 2 1 = 1 := by decide +kernel
  have nine : leAt (jobBytes.take 1096) 1088 2 = 9 := by decide +kernel
  have body : ((jobBytes.take 1096 ++ (h ++ jobBytes.drop 1144)).drop (1096 + 56 * 0)).take 48 = h := by
    rw [List.drop_append, a, List.drop_eq_nil_of_le (by omega)]
    simp [n]
  unfold jobGraphs
  rw [le 2 1 (by omega), one]
  show [(leAt _ (1088 + 56 * 0) 2, _)] = _
  rw [le 1088 2 (by omega), nine, body]

theorem witness_ready : (let d := root 0 0
      d.jobOf 7 65535 = some (job 0) ∧ (job 0).attempt = (bh 2 0 1 0).attempt.toNat ∧ treeLevels (job 0).trays = 1 ∧ parentTray (job 0).trays 1 (trayOf 2) = d.ownTray ∧ (job 0).readies = [] ∧
      1 ∉ (job 0).readyDone ∧ d.decidedJob 7 65535 = some (deciding 0) ∧ (deciding 0).outcome = 0 ∧ (job 0).entry < 64 ∧
      d.readyComplete { job 0 with readies := [(1, 2, 0, 0xFFFF)] } 1 = false ∧
      d.readyComplete { job 0 with readies := [(1, 0, 0, 0xFFFF), (1, 1, 0, 0xFFFF), (1, 2, 0, 0xFFFF), (1, 3, 0, 0xFFFF)] } 1 = true ∧ (d.advance .tta 0).ttaNs < 250000 - (2000 * 1 + 4000)) ∧
    ([(1, 2, 0, 0xFFFF)].find? fun r : Nat × Nat × Nat × Nat => r.1 == 1 && r.2.1 == 2) = some (1, 2, 0, 0xFFFF) ∧ (4#8).toNat ≠ 0 := by decide +kernel

theorem witness_outcomes : (∀ n : Fin 5, (wr (fun w => { w with jobs := [job n.val] }) (fleet 2 State.reset.dev)).jobOf 7 65535 = some (job n.val) ∧ (job n.val).state = n.val) ∧
    (wr (fun w => { w with origins := [(7, 4, false, jq)] }) (fleet 0 State.reset.dev)).tta.wrn.origins = [(7, 4, false, jq)] ∧ leAt (job 0).desc 10 2 = (fleet 0 State.reset.dev).ttaId ∧
    (bh 0 4 0 4).flags.getLsbD 2 = true ∧ (fleet 2 State.reset.dev).jobOf 7 65535 = none := by decide +kernel

theorem witness_job_end : (∀ o : Fin 4, let d := root 1 o.val
      d.jobOf 7 65535 = some (job 1) ∧ rootTray (job 1).trays = d.ownTray ∧ d.leads = true ∧ d.decidedJob 7 65535 = some (deciding o.val) ∧ (deciding o.val).outcome = o.val ∧ d.tta.wrn.origins = []) ∧
    (bh 2 8 0 0).flags.getLsbD 3 = true ∧ (bh 2 0 0 0).flags.getLsbD 3 = false ∧ (bh 2 8 0 0).sender.toNat ≠ (root 1 1).ttaId ∧
    (deciding 0).allot = 7 ∧ (deciding 0).reqTag = (bh 2 0 0 0).reqTag.toNat ∧ (deciding 0).origin = (bh 2 0 0 0).sender.toNat := by decide +kernel

theorem witness_deadline : (deciding 0).goNs - (2000 * treeLevels (deciding 0).trays + 4000) ≤ ((root 0 0).advance .tta 244000).ttaNs ∧
    ¬ (deciding 0).goNs - (2000 * treeLevels (deciding 0).trays + 4000) ≤ ((root 0 0).advance .tta 243999).ttaNs ∧
    max 1 (min 16 (((root 0 0).set R.TTA_WRN_CFG_ATTEMPTS 1).get R.TTA_WRN_CFG_ATTEMPTS)) ≤ (deciding 0).attempt ∧
    ¬ max 1 (min 16 (((root 0 0).set R.TTA_WRN_CFG_ATTEMPTS 2).get R.TTA_WRN_CFG_ATTEMPTS)) ≤ (deciding 0).attempt ∧ (∃ u ∈ groupInputs [0, 1] 1 0, u = 1) ∧ (job 0).readies = [] ∧
    ((dv (root 0 0)).dev.recd .tta).queue.length + 1 < queueDepth .tta := by decide +kernel

theorem witness_timers : (let d := (root 0 0).set R.TTA_WRN_CFG_QUERY_MS 1
      ¬ (0 + max 1 (d.get R.TTA_WRN_CFG_QUERY_MS) * 1000000 ≤ (d.advance .tta 999999).ttaNs) ∧ 0 + max 1 (d.get R.TTA_WRN_CFG_QUERY_MS) * 1000000 ≤ (d.advance .tta 1000000).ttaNs ∧ (job 0).goNs = 0) ∧
    (let d := wr (fun w => { w with outbox := [pkt 1], origins := [(7, 4, false, jq)] }) (fleet 0 State.reset.dev)
     (d.tta.wrn.outbox.find? fun (p : Packet) => p.proto == 1 && leAt p.hdr 1 1 == 0x16 && leAt p.hdr 28 4 == 4) = some (pkt 1)) ∧
    (let d := atRound
     (job 2).endNs + 1000000 ≤ (d.advance .tta 1000000).ttaNs ∧ ¬ (job 2).endNs + 1000000 ≤ (d.advance .tta 999999).ttaNs ∧ d.tta.chk.votes = [] ∧
     (∀ u ∈ [10239], ((d.tile u).xfers.filter fun (f : Xfer) => f.round.isSome) = [roundXfer]) ∧ ((runG 2 (some jobRun)).isRadio d = false) ∧ jobRun.job = some 65535) := by decide +kernel

/-- A budget message of tray `tray` about die 15, and a keeper. -/
def bm (tray : BitVec 16) (flags result : BitVec 8) : BudgetMsg :=
  { version := 2, flags := flags, cause := 0, tray := tray, die := 15, result := result, serial := 3, sender := 2, used := 1, budget := 4, grantSec := 0 }
def keeper (tw : Nat) : Dev := leads true (((fleet 0 State.reset.dev).set (R.TTA_ALT_ENTRY_STATE.at 0) 2).set R.TTA_TWIN_STAT_STATE tw)
def det (f : Detect → Detect) (d : Dev) : Dev := { d with tta := { d.tta with det := f d.tta.det } }

theorem witness_budget : (∀ t : Fin 3, HearsPacket 0 (bm 1 0 0).version.toNat good (keeper t.val) ∧ (keeper t.val).ownTray % 32 = 0 ∧ (keeper t.val).leads = true ∧ (keeper t.val).twinState = t.val) ∧
    (fleet 2 State.reset.dev).ownTray % 32 ≠ 0 ∧
    assocGet (bm 1 1 0).sender.toNat (det (fun x => { x with lastReq := [(2, 3)] }) (keeper 2)).tta.det.lastReq = some (bm 1 1 0).serial.toNat ∧ (bm 1 1 0).flags.getLsbD 0 = true ∧
    ((keeper 2).set R.TTA_DET_CFG_BUDGET 1).get R.TTA_DET_CFG_BUDGET = 1 ∧ (keeper 2).bit R.TTA_EXPEL_STAT_LOG_LOST = false ∧ (keeper 2).tta.det.budget = [] ∧
    (bm 0 0 0).tray.toNat = (keeper 2).ownTray ∧ (bm 1 0 0).tray.toNat ≠ (keeper 2).ownTray ∧ (bm 0 0 0).die.toNat < 16 ∧
    ([(1, 15, 0)].filter fun g : Nat × Nat × Nat => decide (0 < g.2.2 + max 1 (min 168 ((keeper 2).get R.TTA_DET_CFG_WINDOW_H)) * 3600)) = [(1, 15, 0)] ∧
    ((dv (keeper 2)).dev.recd .tta).queue.length + 1 < queueDepth .tta ∧ (∀ n : Fin 4, ((keeper 2).set (R.TTA_DIE_STATE_STATE.at 15) n.val).dieState 15 = n.val) := by
  refine ⟨?_, by decide +kernel⟩
  intro t
  refine ⟨⟨by revert t; decide +kernel, by revert t; decide +kernel, by decide +kernel, 0, by revert t; decide +kernel, ?_⟩, by revert t; decide +kernel⟩
  revert t
  decide +kernel

theorem witness_budget_state : assocGet 15 (det (fun x => { x with asked := [(15, 3)] }) State.reset.dev).tta.det.asked = some 3 ∧ assocGet 5 (det (fun x => { x with pendingGrants := [(5, bm 1 0 0)] }) State.reset.dev).tta.det.pendingGrants = some (bm 1 0 0) ∧
    (wr (fun w => { w with outbox := [{ pkt 1 with proto := 2, allot := 0 }] }) (keeper 0)).packet 5 = some { pkt 1 with proto := 2, allot := 0 } ∧ (bm 1 0 0).sender.toNat = (pkt 1).dst ∧
    (slotIn 255 7 0 2 (dieUp State.reset.dev)).slotsOn 15 = [255] ∧ State.reset.dev.slotsOn 15 = [] ∧ (dieUp State.reset.dev).isUp (ttaEnd 15) = true := by decide +kernel

/-! ## Checking, events and snapshots -/

theorem witness_check_set : DescRuns 0x50 (dq (.vf 255) 7 1) (dieUp State.reset.dev) ∧ (dieUp State.reset.dev).slotState 255 = 2 ∧
    ((List.range 16).filter fun die => (dieUp State.reset.dev).isUp (ttaEnd die) && ((dieUp State.reset.dev).indexOn die 7).isSome) = [15] ∧
    ((List.range 16).filter fun die => (slotIn 255 7 0 2 State.reset.dev).isUp (ttaEnd die) && ((slotIn 255 7 0 2 State.reset.dev).indexOn die 7).isSome) = [] ∧
    (slotIn 255 7 0 2 State.reset.dev).tta.chk.ctl = [] ∧ (slotIn 255 7 0 1 State.reset.dev).slotState 255 ≠ 2 :=
  ⟨runs_ok (by decide +kernel), by decide +kernel⟩

theorem witness_step_reopen : DescRuns 0x51 (dq (.vf 255) 7 1) (slotIn 255 7 0 2 State.reset.dev) := runs_ok (by decide +kernel)

theorem witness_gate_boundary : let d := slotBlk { reopen := some (3, 1) } (lockTta State.reset.dev)
    (d.advance .tta 250000).timeValid .tta = true ∧ d.tta.ing.boundary < (d.advance .tta 250000).ttaNs / 250000 ∧ 1 ≤ (d.advance .tta 250000).ttaNs / 250000 ∧ d.tta.graphs = [] ∧
    d.tta.retireDue = [] ∧ d.tta.tables = [] ∧ d.tta.slotsX = [(255, { reopen := some (3, 1) })] ∧ ¬ 2 ≤ (d.advance .tta 250000).ttaNs / 250000 ∧
    (d.gateOpen 255 = false ∨ d.gateOpen 255 = true) ∧ ((dv d).dev.recd .tta).queue.length < queueDepth .tta := by decide +kernel

theorem witness_field_test : DescRuns 0x52 (dq (.vf 255) 7 1) (dieUp State.reset.dev) ∧ (dieUp State.reset.dev).indexOn 15 7 ≠ none ∧ (dieUp State.reset.dev).indexOn 0 7 = none ∧
    (0x8000#16).getLsbD 15 = true ∧ ((List.range 16).filter fun die => (0x8000#16).getLsbD die && (dieUp State.reset.dev).isUp (ttaEnd die)) = [15] ∧ (dieUp State.reset.dev).tta.chk.tests = [] ∧
    (∃ t ∈ [({ q := desc, tag := 1, dies := [15], failures := 0 } : TestWait)], ∃ die ∈ t.dies, die = 15) :=
  ⟨runs_ok (by decide +kernel), by decide +kernel⟩

theorem witness_sweep : State.reset.dev.tileFree ((State.reset.dev.tta.chk.sweep + 0) % 10240) = true ∧
    ({ State.reset.dev with tta := { State.reset.dev.tta with chk := { State.reset.dev.tta.chk with sweep := 10239 } } } : Dev).tileFree (10239 % 10240) = true ∧
    (State.reset.dev.get (R.TTA_FAB_CLU_TILE_RET.at 639)).testBit 15 = false := by decide +kernel

/-- Every tile of a full fabric is in use. -/
theorem witness_full_fabric : ∃ d : Dev, ∀ t, t < 10240 → d.tileFree t = false := by
  have w : ∀ n t, t < n → (Memory.read (fun _ => ({} : Tile)) ((List.range n).map fun i => (i, { use := some ⟨0, i, false⟩ })) t).use ≠ none := fun n t h => by
    have e : ∀ (l : List Nat), t ∈ l → (Memory.read (fun _ => ({} : Tile)) (l.map fun i => (i, { use := some ⟨0, i, false⟩ })) t).use ≠ none := fun l => by
      induction l with
      | nil => intro m; cases m
      | cons a l ih =>
        intro m
        simp only [List.map_cons, Memory.read]
        split
        · simp
        · rename_i ne
          exact ih (by rcases List.mem_cons.mp m with r | r; exact absurd r.symm ne; exact r)
    exact e _ (List.mem_range.mpr h)
  refine ⟨{ State.reset.dev with tta := { State.reset.dev.tta with tiles := (List.range 10240).map fun i => (i, { use := some ⟨0, i, false⟩ }) } }, fun t h => ?_⟩
  have u := w 10240 t h
  unfold Dev.tileFree Dev.tile
  rcases e : (Memory.read (fun _ => ({} : Tile)) ((List.range 10240).map fun i => (i, ({ use := some ⟨0, i, false⟩ } : Tile))) t).use with _ | x
  · exact absurd e u
  · simp

/-- A recorder of part `p` with events in its queue. -/
def evt (p : Part) (code : BitVec 16) : QueuedRec := { arrived := 1, evt := { code := code, flags := 0, source := match p with | .tta => 0x8F | .tdu => 3, stamp := 9, p0 := 0, p1 := 0, p2 := 0, p3 := 0, p4 := 0, crc := 0 }, permAsked := false }
def rec_ (p : Part) (f : Recorder → Recorder) (d : Dev) : Dev := d.setRecd p (f (d.recd p))
def evts (p : Part) (l : List QueuedRec) (d : Dev) : Dev := rec_ p (fun r => { r with queue := l }) d

theorem witness_event_record : (∀ p ∈ [Part.tta, .tdu], let d := up (.tdu 1) (evts p [evt p 0x0999, evt p 0x2000] State.reset.dev)
      nextRec (d.recd p).queue = some (evt p 0x0999) ∧ (evt p 0x0999) ∈ (d.recd p).queue ∧ d.tta.rpt.due = [] ∧ d.bit R.TTA_RPT_CFG_ENABLE = false ∧ d.isUp (.tdu 1) = true ∧
      d.bit (recFrozen p) = false ∧ d.bit (snapMatchEn p) = false ∧ d.get (recCircNext p) < circSize p ∧ d.get (recPermFill p) + 1 < permSize p ∧
      (d.set (recCircNext p) (circSize p - 1)).get (recCircNext p) + 1 = circSize p ∧ (d.set (recPermFill p) (permSize p - 1)).get (recPermFill p) + 1 = permSize p ∧
      (d.setBit (recFrozen p) true).bit (recFrozen p) = true ∧ (d.recd p).staging.length < stagingSize p ∧ (evts p [] d).recd p = { d.recd p with queue := [] }) ∧
    (let d := evts .tdu [evt .tdu 0x2000] State.reset.dev
     d.isUp (.tdu 0) = false ∧ d.isUp (.tdu 1) = false ∧ (d.recd .tdu).queue = [evt .tdu 0x2000] ∧ (evt .tdu 0x2000).evt.code ≠ 0x4050) ∧
    0x80 ≤ (evt .tta 0).evt.source.toNat := by decide +kernel

/-- The event's code is one of the permanent ones, of the TDU's own, or matched by no register; and the staging buffer may be full. -/
theorem witness_staging : ∀ p ∈ [Part.tta, .tdu], stagingSize p ≤ (List.replicate (stagingSize p) (evt p 0)).length ∧
    ¬ (∃ i, i < 4 ∧ (State.reset.dev.word (match p with | .tta => .tta | .tdu => .tdu) ((match p with | .tta => R.TTA_REC_PERM_MATCH.base | .tdu => R.TDU_REC_PERM_MATCH.base) + 8 * i)).getLsbD 32 = true) := by
  decide +kernel

theorem witness_thaw : ∀ p ∈ [Part.tta, .tdu], let d := rec_ p (fun r => { r with staging := [evt p 0x2000] }) (State.reset.dev.setBit (recFrozen p) true)
    d.bit (recFrozen p) = true ∧ (d.recd p).staging = [evt p 0x2000] ∧ (d.recd p).freezeDrops = 0 ∧ d.bit (snapMatchEn p) = false ∧ d.get (recCircNext p) + 3 < circSize p ∧
    0 < ((rec_ p (fun r => { r with freezeDrops := 1 }) d).recd p).freezeDrops := by decide +kernel

def rpts (f : Reports → Reports) (d : Dev) : Dev := { d with tta := { d.tta with rpt := f d.tta.rpt } }
def aReport (sends : Nat) : Report := { num := 7, source := 0, coalesced := 0, evt := (evt .tta 0x2000).evt, stampSec := 0, stampNs := 0, sends := sends }

theorem witness_reports : (let d := rpts (fun x => { x with due := [evt .tta 0x2000] }) ((State.reset.dev.setBit R.TTA_RPT_CFG_ENABLE true).set R.TTA_RPT_CFG_RANGE_MASK 4)
      (d.recd .tta).queue = [] ∧ d.tta.rpt.due = [evt .tta 0x2000] ∧ d.bit R.TTA_RPT_CFG_ENABLE = true ∧ (d.get R.TTA_RPT_CFG_RANGE_MASK).testBit (0x2000 / 4096) = true ∧
      (if d.tta.rpt.second = d.tta.time.base.tick / 1000000000 then d.tta.rpt.inSecond else 0) < 1024 ∧
      1024 ≤ (rpts (fun x => { x with inSecond := 1024 }) d).tta.rpt.inSecond ∧ (d.get R.TTA_RPT_CFG_RANGE_MASK).testBit (0x1FFF / 4096) = false) ∧
    (let d := rpts (fun x => { x with out := [aReport 1] }) State.reset.dev
     (∃ r ∈ d.tta.rpt.out, r.num = 7) ∧ (d.tta.rpt.out.find? fun r => r.num = 7) = some (aReport 1) ∧ (aReport 1).sends < 8 ∧ 8 ≤ (aReport 8).sends ∧ ∀ r ∈ d.tta.rpt.out, r.num ≠ 8) := by
  decide +kernel

/-- A snapshot that waits, or whose marker wave runs. -/
def snap (p : Part) (x : SnapPending) (d : Dev) : Dev := (match p with
  | .tta => { d with tta := { d.tta with snap := some x } }
  | .tdu => { d with tdu := { d.tdu with snap := some x } }).setBit (snapBusy p) true

theorem witness_snapshots : (∀ p ∈ [Part.tta, .tdu], State.reset.dev.bit (snapBusy p) = false ∧ State.reset.dev.timeValid p = false ∧ (lockTdu (lockTta State.reset.dev)).timeValid p = true ∧
      (snap p { tNs := 1000, source := 1 } State.reset.dev).snapOf p = some { tNs := 1000, source := 1 } ∧ (snap p { tNs := 1000, source := 1 } State.reset.dev).bit (snapBusy p) = true ∧
      State.reset.dev.snapOf p = none ∧ ((snap p { tNs := 1000, source := 1 } State.reset.dev).recd p).queue.length < queueDepth p ∧
      ((lockTdu (lockTta State.reset.dev)).advance p 33000).nowNs p ≥ 1000 ∧ (State.reset.dev.advance p 0).nowNs p < 1000) ∧
    (up (.tta 15) (State.reset.dev.setBit R.TTA_SNAP_CTL_INCL_TDU true)).bit R.TTA_SNAP_CTL_INCL_TDU = true := by decide +kernel

theorem witness_snap_match : ∀ p ∈ [Part.tta, .tdu],
    let a := match p with | .tta => R.TTA_SNAP_MATCH.base | .tdu => R.TDU_SNAP_MATCH.base
    let sp : Space := match p with | .tta => .tta | .tdu => .tdu
    let d := (evts p [evt p 0x2000] (lockTdu (lockTta (State.reset.dev.setWord sp a 0xF0002000)))).setBit (snapMatchEn p) true
    nextRec (d.recd p).queue = some (evt p 0x2000) ∧ d.bit (recFrozen p) = false ∧ d.bit (snapMatchEn p) = true ∧
      (d.word sp a).toNat % 2 ^ 16 &&& ((d.word sp a).toNat / 2 ^ 16 % 2 ^ 16) = 0x2000 &&& ((d.word sp a).toNat / 2 ^ 16 % 2 ^ 16) ∧ d.bit (snapBusy p) = false ∧ d.timeValid p = true := by
  decide +kernel

theorem witness_tile_capture : (let d := snap .tta { tNs := 0, source := 1, wave := true } ((gHeld (runG 2 none)).setTile 10239 { use := some ⟨1023, 0, false⟩ })
      d.tta.snap = some { tNs := 0, source := 1, wave := true } ∧ (d.tile 10239).use = some ⟨1023, 0, false⟩ ∧ d.graph 1023 = some (runG 2 none) ∧ (d.tile 10239).xfers = [] ∧ d.tileRetired 10239 = false) ∧
    State.reset.dev.tta.snap = none := by decide +kernel

/-- In the state after reset no tile is bound. -/
theorem witness_snap_complete : ∀ t, ((snap .tta { tNs := 0, source := 1, wave := true } State.reset.dev).tile t).use = none := fun _ => rfl

/-! ## The engine, power and resets -/

/-- A job of system memory that the engine has taken. -/
def cj (op : BitVec 8) : CmpJob := { op := op, flags := 0, allot := 0, reserved := false, src := 0x3F00000000, srcLen := 8, dst := 0x3FFFFFFFF8, dstCap := 8 }
def cmp (posted : List (List Nat)) (taken : Nat) (d : Dev) : Dev := { d with tta := { d.tta with cmp := ⟨posted, taken⟩ } }

theorem witness_cmp_ring : 2 ^ max 4 (min 8 (State.reset.dev.get R.TTA_CMP_RING_CFG_SIZE_LOG2)) < (257#16).toNat ∧
    (0 + 65536 - State.reset.dev.get R.TTA_CMP_RING_CFG_CI) % 65536 ≤ 256 ∧ (cmp [[]] 1 State.reset.dev).tta.cmp.posted.length = 1 ∧ State.reset.dev.bit R.TTA_CMP_RING_CFG_ENABLE = false ∧
    (State.reset.dev.setBit R.TTA_CMP_RING_CFG_ENABLE true).bit R.TTA_CMP_RING_CFG_ENABLE = true := by decide +kernel

theorem witness_cmp_checks : (let d := cmp [[]] 1 (slotIn 0 0 0 2 State.reset.dev)
      d.tta.cmp.taken ≠ 0 ∧ d.pageAwaited 0x3F00000000 8 = false ∧ d.slotHolding 0 = some 0 ∧ d.slotState 0 ≠ 4 ∧ (∀ l ∈ d.tta.cmp.posted.head?, 0 ∉ l) ∧
      0x3F00000000 ≤ (cj 1).src.toNat ∧ (cj 1).dst.toNat + (cj 1).dstCap.toNat ≤ 0x4000000000 ∧ (cj 1).src.toNat % 32 = 0 ∧ d.histStale (d.storeGen 0) 0x3F00000000 1 = false) ∧
    (∃ l ∈ (cmp [[0]] 1 State.reset.dev).tta.cmp.posted.head?, 0 ∈ l) ∧ (slotIn 0 0 0 4 State.reset.dev).slotState 0 = 4 ∧ State.reset.dev.slotHolding 7 = none ∧ State.reset.dev.tta.cmp.taken = 0 := by
  decide +kernel

theorem witness_inflate : (inflate [1, 1, 0, 0xFE, 0xFF, 5] 1).err = none ∧ (inflate [1, 1, 0, 0xFE, 0xFF, 5] 1).bytes = [5] ∧ (inflate [7] 1).err ≠ none ∧ ([] : List Byte) ≠ [5] := by decide +kernel

/-- The die unit and the aggregator after their start-up. -/
def started (d : Dev) : Dev := { d with tdu := { d.tdu with boot := { seq := none, loading := false, order := 3 } }, tta := { d.tta with boot := { seq := none, loading := false, order := 11 } } }
def tpwr (x : TduPwr) (d : Dev) : Dev := { d with tdu := { d.tdu with pwr := x } }
def apwr (x : TtaPwr) (d : Dev) : Dev := { d with tta := { d.tta with pwr := x } }
def pm (v : BitVec 2) (d : Dev) : Dev := { d with pins := { d.pins with pmReq := v } }

theorem witness_pm_req : (∀ n : Fin 4, ∀ w : Bool, let d := (started State.reset.dev |>.set R.TDU_PWR_STAT_STATE n.val).setBit R.TDU_PWR_STAT_WOKE w
      d.tdu.pwr.trans = 0 ∧ d.tdu.boot.seq = none ∧ d.tdu.pwr.wakes = 0 ∧ d.bit R.TDU_PWR_STAT_IN_TRANS = false ∧ d.get R.TDU_PWR_STAT_STATE = n.val ∧ d.bit R.TDU_PWR_STAT_WOKE = w ∧
      (d.recd .tdu).queue.length < queueDepth .tdu) ∧ (tpwr { trans := 1 } State.reset.dev).tdu.pwr.trans ≠ 0 := by decide +kernel

theorem witness_d_states : (∀ t : Fin 4, ∀ k : Fin 4, (tpwr { trans := k.val, target := t.val, wakes := 7 } (started (pm 3 State.reset.dev))).tdu.pwr = { trans := k.val, target := t.val, wakes := 7 }) ∧
    (started (pm 3 State.reset.dev)).tdu.boot.seq = none ∧ (pm 3 State.reset.dev).pins.pmReq = 3 ∧ State.reset.dev.bit R.TDU_PWR_STAT_WOKE = false ∧ State.reset.dev.tdu.chk.flight = [] ∧
    State.reset.dev.tdu.recorder.queue = [] ∧ State.reset.dev.bit (recFrozen .tdu) = false ∧ State.reset.dev.bit (snapMatchEn .tdu) = false ∧ (up (.tdu 1) State.reset.dev).isUp (.tdu 1) = true ∧
    (∀ p : Fin 2, State.reset.dev.get (tlState (.tdu p)) = 0 ∧ State.reset.dev.bit (tlEnable (.tdu p)) = true ∧ (State.reset.dev.port (.tdu p)).refused = false ∧ (State.reset.dev.port (.tdu p)).parked = false ∧
      laneMask (.tdu p) - (laneMask (.tdu p) &&& State.reset.dev.get (tlRetired (.tdu p))) ≠ 0) ∧ (State.reset.dev.set R.TDU_PWR_STAT_STATE 2).get R.TDU_PWR_STAT_STATE = 2 ∧ (up (.tdu 1) State.reset.dev).get (tlState (.tdu 1)) ≠ 0 := by
  decide +kernel

theorem witness_avs : (∀ a b : Bool, (apwr { avs := some { rail := 1, target := 750, again := a, busy := b } } State.reset.dev).tta.pwr.avs = some { rail := 1, target := 750, again := a, busy := b }) ∧
    State.reset.dev.tta.pwr.avs = none ∧ (760 : Nat) ≤ 750 + 10 ∧ (750 : Nat) ≤ 740 + 10 ∧ ¬ (761 : Nat) ≤ 750 + 10 := by decide +kernel

theorem witness_throttle : (let d := (State.reset.dev.set R.TTA_THROT_CFG_HOT_C 100).set R.TTA_THROT_CFG_FLOOR_MV 600
      let rail := if d.get R.TTA_AVS_STAT_RAIL_MV = 0 then 750 else d.get R.TTA_AVS_STAT_RAIL_MV
      d.bit R.TTA_AVS_STAT_AVS_FAIL = false ∧ d.tta.pwr.avs = none ∧ ((d.get R.TTA_THROT_CFG_HOT_C : Nat) : Int) ≤ (100#8).toInt ∧ max 550 (d.get R.TTA_THROT_CFG_FLOOR_MV) < rail ∧
      (∀ k, k < 640 → (BitVec.ofNat 8 (d.get (R.TTA_FAB_CLU_TEMP_C.at k))).toInt ≤ (100#8).toInt) ∧ (99#8).toInt < ((d.get R.TTA_THROT_CFG_HOT_C : Nat) : Int) ∧
      ((d.set R.TTA_AVS_STAT_RAIL_MV 600).get R.TTA_AVS_STAT_RAIL_MV = 600) ∧ ((d.set R.TTA_AVS_CTL_TARGET_MV 850).get R.TTA_AVS_CTL_TARGET_MV = 850)) := by decide +kernel

theorem witness_tta_power : (∀ n : Fin 3, let d := started (State.reset.dev.set R.TTA_PWR_STAT_STATE n.val)
      d.get R.TTA_PWR_STAT_STATE = n.val ∧ d.tta.pwr.trans = 0 ∧ d.tta.graphs = [] ∧ (∀ k, k < 256 → k ≠ 0 → d.slotState k = 0) ∧ (d.recd .tta).queue.length < queueDepth .tta) ∧
    (slotIn 255 7 0 2 State.reset.dev).slotState 255 ≠ 0 ∧ (gHeld (runG 2 none)).tta.graphs ≠ [] ∧ (∃ k : Fin 256, (gHeld (runG 2 none)).slotState k.val ≠ 0) ∧
    ((State.reset.dev.setGraph 0 (runG 2 none)).tta.graphs ≠ []) ∧ (up (.tta 15) State.reset.dev).isUp (ttaEnd 15) = true ∧ (0x101#64).getLsbD 8 = true ∧ (0x102#64).toNat % 4 = 2 := by decide +kernel

theorem witness_tta_entry : (∀ t : Fin 3, ∀ k : Fin 3, ∀ r ∈ [none, some 1, some 2], let d := apwr { trans := k.val, target := t.val, wakes := 63, request := r } (started State.reset.dev)
      d.tta.pwr.trans = k.val ∧ d.tta.pwr.target = t.val ∧ d.tta.pwr.wakes < 64 ∧ d.tta.pwr.request = r ∧ d.tta.mirrored = [] ∧ (d.tta.recorder.queue.filter fun q => q.evt.source = 1).length + 2 ≤ 16) ∧
    (∀ p : Fin 17, (State.reset.dev.setBit R.TTA_BOOT_CTL_TRAY_GO true).get (tlState (.tta p)) = 0 ∧ (State.reset.dev.port (.tta p)).refused = false ∧
      laneMask (.tta p) - (laneMask (.tta p) &&& State.reset.dev.get (tlRetired (.tta p))) ≠ 0 ∧ State.reset.dev.bit (tlEnable (.tta p)) = true) ∧
    (State.reset.dev.setBit R.TTA_BOOT_CTL_TRAY_GO true).bit R.TTA_BOOT_CTL_TRAY_GO = true ∧ ((State.reset.dev.set R.TTA_PWR_STAT_SLEEPING 0x10000).get R.TTA_PWR_STAT_SLEEPING).testBit 16 = true := by decide +kernel

theorem witness_wake_packet : (rpts (fun x => { x with key := [(0, 1)] }) (fleet 3 State.reset.dev)).tta.rpt.key ≠ [] ∧ (3#16).toNat = (fleet 3 State.reset.dev).ttaId ∧
    (fleet 3 State.reset.dev).get R.TTA_PWR_SEQ_SEQ < (BitVec.allOnes 64).toNat ∧ ¬ (fleet 3 State.reset.dev).get R.TTA_PWR_SEQ_SEQ < (0#64).toNat := by decide +kernel

theorem witness_levels : (∀ l : Fin 3, ∀ p ∈ [Part.tta, .tdu], let f : Fuses := { levels := BitVec.ofNat 30 (l.val * (8 + 64 + 4096 + 32768)), debugEnable := true, secFuse := 0, variant := 0, serial := 0 }
      f.levels.toNat / 8 ^ 1 % 8 = l.val ∧ f.levels.toNat / 8 ^ 5 % 8 = l.val ∧ (p = .tta ∨ p = .tdu)) ∧ (0xA5C30101#64).toNat / 2 ^ 16 % 2 ^ 16 = 0xA5C3 ∧ (0xA5C30101#64).getLsbD 8 = true ∧
    (0xA5C30101#64).toNat % 8 = 1 ∧ (0xA5C30102#64).toNat % 8 = 2 := by decide +kernel

theorem witness_reset_state : (let d := up (.tdu 0) (started State.reset.dev)
      d.canonical ∧ (∃ p : Fin 2, TakesControl p none d) ∧ d.tdu.boot.seq = none ∧ d.tta.boot.seq = none ∧ (d.recd .tdu).queue.length < queueDepth .tdu) ∧
    (∃ l, State.reset.dev.tta.boot.seq = some l ∧ l < 1) ∧ (∃ l, State.reset.dev.tdu.boot.seq = some l ∧ l < 1) ∧
    (State.reset.dev.tta.boot.loading = true ∧ 1 ≤ ({ State.reset.dev.tta.boot with order := 1 } : Boot).order) := by
  refine ⟨⟨?_, ⟨0, by simp only [TakesControl]; decide +kernel⟩, by decide +kernel⟩, ⟨0, by decide +kernel⟩, ⟨0, by decide +kernel⟩, by decide +kernel⟩
  simp only [Dev.canonical, Dev.epochsSorted]
  decide +kernel

/-- The aggregator's sequence stands after order `o`, a reset of level `l` under way or none. -/
def atOrder (o : Nat) (l : Option Nat) (d : Dev) : Dev :=
  { (d.set R.TTA_BOOT_STAT_ORDER o) with tta := { (d.set R.TTA_BOOT_STAT_ORDER o).tta with boot := { d.tta.boot with seq := l, order := o } } }

theorem witness_orders_due : (∀ o : Fin 14, ∀ l ∈ [none, some 0, some 1, some 2], let d := atOrder o.val l State.reset.dev
      d.get R.TTA_BOOT_STAT_ORDER = o.val ∧ d.tta.boot.seq = l ∧ d.pins.thermTripLow = false ∧ (d.recd .tta).queue.length < queueDepth .tta) ∧
    ((State.reset.dev.setBit R.TTA_POS_LOCKED true).bit R.TTA_POS_LOCKED = true) ∧ (State.reset.dev.set R.TTA_BOOT_STAT_FAILS 3).get R.TTA_BOOT_STAT_FAILS = 3 ∧ State.reset.dev.get R.TTA_BOOT_STAT_FAILS ≠ 3 ∧
    (∀ o : Fin 4, let d : Dev := { State.reset.dev with tdu := { State.reset.dev.tdu with boot := { seq := some 0, loading := false, order := o.val } } }
     d.tdu.boot.order = o.val ∧ d.dState = 0 ∧ (d.setBit R.TDU_FUSE_STAT_DONE true).bit R.TDU_FUSE_STAT_DONE = true ∧ d.tdu.pwr.trans = 0 ∧ d.bit R.TDU_PWR_STAT_WOKE = false) := by decide +kernel

theorem witness_sweeps : (∀ k : Fin 2, let d := { (atOrder 7 (some 2) State.reset.dev) with tta := { (atOrder 7 (some 2) State.reset.dev).tta with boot := { seq := if k = 0 then some 2 else some 0, sweep := true, sweepTest := k = 1, order := 7 } } }
      d.tta.boot.sweep = true ∧ d.tta.boot.seq = (if k = 0 then some 2 else some 0) ∧ d.get (R.TTA_FAB_CLU_STATE.at 639) ≠ 2 ∧ d.bit (R.TTA_MEM_CH_RETIRED.at 63) = false) ∧
    (0x8000000000000000#64 = BitVec.ofNat 64 (2 ^ 63)) := by decide +kernel

def withBoot (b : Boot) (d : Dev) : Dev := { d with tta := { d.tta with boot := b } }
def load (reads : List (Fin 4)) (stored : BitVec 32) : FuseLoad :=
  { failedReads := reads, contents := { levels := 0, debugEnable := true, secFuse := 3, variant := 0, serial := 0 }, calStored := stored, calComputed := 0, boundaryMv := 750 }

theorem witness_fuses : (let d := withBoot { seq := some 0, loading := true, order := 1 } State.reset.dev
      d.tta.boot.loading = true ∧ 1 ≤ d.tta.boot.order ∧ d.tta.mtp = none ∧ d.tta.mtpCut = false) ∧ (∃ k ∈ (load [0, 3] 0).failedReads, k = 3) ∧ (¬ ∃ k ∈ (load [2, 1] 0).failedReads, k = 3) ∧ (load [2] 5).calStored ≠ (load [2] 5).calComputed ∧
    ((State.reset.dev.recd .tta).queue.filter fun q => q.evt.source = 1).length + 4 ≤ 16 ∧ State.reset.dev.bit R.TTA_CAL_STAT_BUSY = false ∧ (State.reset.dev.set R.TTA_CAL_STAT_PROGRAMS 100).get R.TTA_CAL_STAT_PROGRAMS = 100 ∧
    State.reset.dev.get R.TTA_CAL_STAT_PROGRAMS < 100 ∧ (State.reset.dev.setBit R.TTA_BOOT_STAT_BOOTED true).bit R.TTA_BOOT_STAT_BOOTED = true := by decide +kernel

def fw (form key sig hash : Bool) (sec : BitVec 8) : FwImage := { formOk := form, bodyBytes := 3145472, keyOk := key, sigOk := sig, hashOk := hash, secVersion := sec, fwVersion := 1, linkVer := 1, twinVer := 1, wrnVer := 1 }

theorem witness_firmware : (∀ n : Fin 4, let d := withBoot { seq := none, loading := false, order := 5, fetching := true, attempt := n.val, starting := true } (State.reset.dev.set R.TTA_BOOT_STAT_ORDER 5)
      d.tta.boot.seq = none ∧ d.tta.boot.fetching = true ∧ d.tta.boot.attempt = n.val ∧ d.tta.boot.starting = true ∧ d.bit R.TTA_BOOT_STAT_RECOVERY = false ∧ d.get R.TTA_BOOT_STAT_ORDER = 5 ∧
      (d.setBit R.TTA_BOOT_STAT_RECOVERY true).bit R.TTA_BOOT_STAT_RECOVERY = true ∧ d.tta.recorder.queue = [] ∧ d.bit (recFrozen .tta) = false ∧ d.bit (snapMatchEn .tta) = false ∧
      d.get (recPermFill .tta) + 3 < permSize .tta) ∧
    State.reset.dev.tta.fuses.secFuse.toNat ≤ (fw true true true true 255).secVersion.toNat ∧ (fw true true true true 0).bodyBytes ≤ 3145472 ∧ ¬ (3145473 ≤ (3145472 : Nat)) := by decide +kernel

theorem witness_firmware_canonical : (withBoot { seq := none, loading := false, order := 5, fetching := true } State.reset.dev).canonical := by
  simp only [Dev.canonical, Dev.epochsSorted]
  decide +kernel

theorem witness_registers : pfRow 0x1FFFF8 = none ∧ (∃ r i, pfRow R.TTA_WRN_CFG.base = some (r, i)) ∧ (∃ r i, findRow R.vfRows R.VF_Q_BASE.base = some (r, i)) ∧ (∃ r i, findRow R.tduRows R.TDU_SMP_CFG.base = some (r, i)) ∧
    findRow R.tduRows 0xFFF8 = none ∧ (let d : Dev := { State.reset.dev with tdu := { State.reset.dev.tdu with smp := { State.reset.dev.tdu.smp with hostReset := false } } }; d.tdu.smp.hostReset = false ∧ d.dState < 2) ∧
    (ringOn .pf 3 0 State.reset.dev).bit (qEn .pf 3) = true ∧ State.reset.dev.bit R.TTA_POS_LOCKED = false ∧ (0x8000#64).getLsbD 15 = true := by
  refine ⟨by decide +kernel, ⟨_, _, rfl⟩, ⟨_, _, rfl⟩, ⟨_, _, rfl⟩, by decide +kernel⟩

theorem witness_step_invariant : let s : State := { dev := up (.tta 15) State.reset.dev, pending := [.trayGo, .add 10239 ⟨0, 0, 0, 0, 0⟩ {}] }
    s.dev.canonical ∧ s.queueLegal := by
  simp only [Dev.canonical, Dev.epochsSorted, State.queueLegal]
  decide +kernel

/-! ## Well-formed commands: each check refuses an ill-formed term -/

theorem test_wellformed_bins : (Instr.bins 0 (hdr 0 true) 0 (List.replicate 48 0)).wellFormed = true ∧ (Instr.bins 0 (hdr 0 true) 0 (List.replicate 47 0)).wellFormed = false := by decide +kernel

def win : SlotWin := { valid := false, startUs := 0, lenUs := 0 }
theorem test_wellformed_slot_table : (Instr.slotTable 0 none 0 false 0 (List.replicate 32 win)).wellFormed = true ∧ (Instr.slotTable 0 none 0 false 0 (List.replicate 33 win)).wellFormed = false := by decide +kernel

theorem test_wellformed_maps : (Instr.propose (tw 2) [⟨0, 0⟩, ⟨15, 0⟩] 0).wellFormed = true ∧ (Instr.propose (tw 2) [⟨15, 0⟩, ⟨15, 1⟩] 0).wellFormed = false ∧
    (Instr.haveMsg (tw 2) [⟨15, 0⟩, ⟨15, 1⟩] 0).wellFormed = false ∧ (Instr.decide (tw 2) [⟨15, 0⟩, ⟨15, 1⟩] 0).wellFormed = false := by decide +kernel

theorem test_wellformed_grant : (Instr.grantInstall desc 0 (.grant ⟨List.replicate 160 0, true, true⟩)).wellFormed = true ∧
    (Instr.grantInstall desc 0 (.grant ⟨List.replicate 159 0, true, true⟩)).wellFormed = false := by decide +kernel

def hint0 : Hint := { version := 1, flags := 0, pipe := 0, stage := 0, slotNum := 0, excess := 0, stamp := 0, forecast := 0 }
def stamp0 : StageStamp := { pipe := 0, last := false, stage := 0, slotNum := 0, stamp := 0 }
theorem test_wellformed_counts : (Instr.hintFrame (.tdu 0) (hdr 0 true) (List.replicate 4 hint0)).wellFormed = true ∧ (Instr.hintFrame (.tdu 0) (hdr 0 true) (List.replicate 5 hint0)).wellFormed = false ∧
    (Instr.hintFrame (.tdu 0) (hdr 0 true) []).wellFormed = false ∧ (Instr.stampFrame 0 (hdr 0 true) (List.replicate 16 stamp0) 0).wellFormed = true ∧
    (Instr.stampFrame 0 (hdr 0 true) (List.replicate 17 stamp0) 0).wellFormed = false ∧ (Instr.stampFrame 0 (hdr 0 true) [] 0).wellFormed = false := by decide +kernel

theorem test_wellformed_tile : (Instr.add 0 (r 1) {}).wellFormed = true ∧ (Instr.add 0 (r 13) {}).wellFormed = false := by decide +kernel

/-! ## The spec's own examples -/

/-- R443: the check value over the ASCII bytes 123456789. -/
theorem test_crc32c : crc32c [0x31, 0x32, 0x33, 0x34, 0x35, 0x36, 0x37, 0x38, 0x39] = 0xE3069283 := by decide +kernel

/-- R259: buckets 101 and 64 of 3 and 2, bucket 0 of 0 and 1, and the overflow bucket. -/
theorem test_buckets : bucketOf 3 = 101 ∧ bucketOf 2 = 64 ∧ bucketOf 0 = 0 ∧ bucketOf 1 = 0 ∧ bucketOf (2 ^ 32) = 2047 ∧ bucketOf (2 ^ 32 - 1) = 2047 := by decide +kernel

/-- Chapter 9, FP32 460.0 and 470.0 to E4M3 without and with SAT. -/
theorem test_e4m3_overflow : cvtLane 12 8 false 0x43E60000 = 0x7E ∧ cvtLane 12 8 true 0x43E60000 = 0x7E ∧ cvtLane 12 8 false 0x43EB0000 = 0x7F ∧ cvtLane 12 8 true 0x43EB0000 = 0x7E := by decide +kernel

/-- Chapter 11, the worked example: a walk through an equal feature, a NaN and a category, at TREE_NAN 0 and 1. -/
def treeTile : Tile :=
  (({ ({} : Tile) with sram := [(2000, ⟨0x3F400000, false⟩), (2002, ⟨0x0001000042200000, false⟩), (2005, ⟨0x6002000000000000, false⟩), (2006, ⟨0x0003000000000000, false⟩), (2007, ⟨0x12, false⟩),
    (3000, ⟨0x3F400000, false⟩), (3001, ⟨0x7FC00000, false⟩), (3002, ⟨0x8000000000000004, false⟩), (3003, ⟨0x80000000, false⟩)] } : Tile).setReg 2 ⟨2000, false⟩).setReg 3 ⟨3000, false⟩
theorem test_tree_walk : (match exec (.twalk 0 (r 0 3) {}) (tile0 treeTile) with | .next s => (s.dev.tile 0).reg 1 | _ => {}) = ⟨4, false⟩ ∧
    (match exec (.twalk 0 (r 0 3) {}) (st fun d => (d.setTile 0 treeTile).setBit R.TTA_COMPAT_TREE_NAN true) with | .next s => (s.dev.tile 0).reg 1 | _ => {}) = ⟨7, false⟩ := by decide +kernel

/-- Chapter 6, the worked example: the stamp 1 ns before the switch extends with the anchor of order 4, and the stamps of its times. -/
theorem test_stamp_extends : extendStamp (1750000001 * 10 ^ 9) 0xA086BCBF = 1750000000 * 10 ^ 9 + 999799999 ∧ stampOf (1750000000 * 10 ^ 9) = 0x64EF0000 ∧
    stampOf (1750000000 * 10 ^ 9 + 999800000) = 0xA086BCC0 ∧ stampOf (1750000001 * 10 ^ 9) = 0xA089CA00 ∧ stampOf (1750000001 * 10 ^ 9 + 7399620) = 0xA0FAB2C4 := by decide +kernel

/-- Chapter 12, the worked example: 40 trays from tray 0x60 make two levels, with parent trays 0x60, 0x70 and 0x80. -/
theorem test_tree_of_trays : let ts := List.range' 0x60 40
    treeLevels ts = 2 ∧ parentTray ts 1 0x6F = 0x60 ∧ parentTray ts 1 0x7F = 0x70 ∧ parentTray ts 1 0x82 = 0x80 ∧ parentTray ts 2 0x80 = 0x60 ∧ rootTray ts = 0x60 := by decide +kernel

/-- An idle block answers the step with a tick of both parts, and a command in front of the queue is taken. -/
theorem test_step : (match step State.reset with | .next s => decide ((s.dev.tb .tta).tick = 1 ∧ s.pending = []) | _ => false) = true ∧
    (match step { dev := State.reset.dev, pending := [.trayGo, .bootOk] } with | .next s => s.dev.bit R.TTA_BOOT_CTL_TRAY_GO && decide (s.pending = [.bootOk]) | _ => false) = true := by decide +kernel

/-- A reserved encoding is refused, and a legal one in the same place runs. -/
theorem test_illegal : (match exec (.add 0 (r 13) {}) State.reset with | .refused _ => true | _ => false) = true ∧ (match exec (.add 0 (r 1) {}) State.reset with | .next _ => true | _ => false) = true := by
  decide +kernel

end Sys2Proof.Tests
end

section
/-! SUPPORT. What the tile's arithmetic instructions compute: from the model's function on words to the value of each lane, for the integer
lane instructions, FMA and DOT, and CVT. -/
namespace Sys2Proof.Machine

/-! ## From an instruction that changes its tile to `TileWrites` -/

/-- An instruction whose meaning writes one register of its tile. -/
theorem tileWrites_of_tileLocal {mk : Fin 10240 → Instr} {r : BitVec 5} {poison : Tile → Bool} {good : Tile → W64 → Prop} (val : Tile → W64)
    (hexec : ∀ t s, exec (mk t) s = s.tileLocal t (mk t) {} fun x => x.setReg r { v := val x, p := poison x })
    (hgood : ∀ t x, tileLegal (mk t) = true → good x (val x)) : TileWrites mk r poison good := by
  intro t s hl hr _
  obtain ⟨d, hd, htile, hframe⟩ := State.tileLocal_completes t (mk t) _ s hl hr
  exact ⟨d, (hexec t s).trans hd, val _, hgood t _ hl, htile, hframe⟩

/-- A one-source instruction that maps a function over the lanes of A. -/
theorem laneOp1_of_map1 {mk : Fin 10240 → RFmt → Instr} {g : Nat → Nat → Nat} (op : Nat → Nat → Nat)
    (hexec : ∀ t f s, exec (mk t f) s = s.tileLocal t (mk t f) {} (Tile.op1 f.d f.a (map1 (tyWidth f.ty.toNat) (op f.ty.toNat))))
    (hlane : ∀ ty a, op ty a % 2 ^ tyWidth ty = g ty a) : LaneOp1 mk g := by
  intro f
  refine tileWrites_of_tileLocal _ (fun t s => hexec t f s) fun _ x _ k hk => ?_
  rw [laneAt_map1 _ _ _ _ hk, hlane]

/-- A two-source instruction that maps a function over the lanes of A and B. -/
theorem laneOp2_of_map2 {mk : Fin 10240 → RFmt → Instr} {g : Nat → Nat → Nat → Nat} (op : Nat → Nat → Nat → Nat)
    (hexec : ∀ t f s, exec (mk t f) s = s.tileLocal t (mk t f) {} (Tile.op2 f (map2 (tyWidth f.ty.toNat) (op f.ty.toNat))))
    (hlane : ∀ ty a b, a < 2 ^ tyWidth ty → b < 2 ^ tyWidth ty → op ty a b % 2 ^ tyWidth ty = g ty a b) : LaneOp2 mk g := by
  intro f
  refine tileWrites_of_tileLocal _ (fun t s => hexec t f s) fun _ x _ k hk => ?_
  rw [laneAt_map2 _ _ _ _ _ hk, hlane _ _ _ (laneAt_lt _ _ _) (laneAt_lt _ _ _)]

/-! ## Integer lanes (R240) -/

theorem wrapTo_congr {w : Nat} {u v : Int} (h : u ≡ v [ZMOD 2 ^ w]) : wrapTo w u = wrapTo w v := congrArg Int.toNat h

theorem wrapTo_natCast (w n : Nat) : wrapTo w n = n % 2 ^ w := by
  rw [wrapTo]
  exact_mod_cast Int.toNat_natCast (n % 2 ^ w)

@[simp] theorem wrapTo_mod (w : Nat) (v : Int) : wrapTo w v % 2 ^ w = wrapTo w v := Nat.mod_eq_of_lt (wrapTo_lt w v)

theorem sInt_modEq (w x : Nat) : sInt w x ≡ x [ZMOD 2 ^ w] := by
  unfold sInt
  split
  · rfl
  · exact Int.sub_emod_right _ _

/-- The value of a lane and its bits agree modulo 2^w, for signed and unsigned types. -/
theorem intOf_modEq (ty x : Nat) : intOf ty x ≡ x [ZMOD 2 ^ tyWidth ty] := by
  unfold intOf
  split
  · exact sInt_modEq _ _
  · rfl

theorem wrapTo_intOf {ty x : Nat} (hx : x < 2 ^ tyWidth ty) : wrapTo (tyWidth ty) (intOf ty x) = x := by
  rw [wrapTo_congr (intOf_modEq ty x), wrapTo_natCast, Nat.mod_eq_of_lt hx]

theorem wrapTo_intOf_add (ty a b : Nat) : wrapTo (tyWidth ty) (intOf ty a + intOf ty b) = (a + b) % 2 ^ tyWidth ty := by
  rw [wrapTo_congr ((intOf_modEq ty a).add (intOf_modEq ty b)), ← Nat.cast_add, wrapTo_natCast]

theorem wrapTo_intOf_mul (ty a b : Nat) : wrapTo (tyWidth ty) (intOf ty a * intOf ty b) = a * b % 2 ^ tyWidth ty := by
  rw [wrapTo_congr ((intOf_modEq ty a).mul (intOf_modEq ty b)), ← Nat.cast_mul, wrapTo_natCast]

/-- A difference wraps as the sum with the complement of the subtrahend. -/
theorem wrapTo_intOf_sub {ty b : Nat} (a : Nat) (hb : b < 2 ^ tyWidth ty) :
    wrapTo (tyWidth ty) (intOf ty a - intOf ty b) = (a + 2 ^ tyWidth ty - b) % 2 ^ tyWidth ty := by
  have hcast : ((a + 2 ^ tyWidth ty - b : Nat) : Int) = a - b + 2 ^ tyWidth ty := by
    rw [Nat.cast_sub (by omega)]
    push_cast
    ring
  have hmod : (a - b : Int) ≡ (a + 2 ^ tyWidth ty - b : Nat) [ZMOD 2 ^ tyWidth ty] := by
    rw [hcast]
    exact (Int.add_emod_right _ _).symm
  rw [wrapTo_congr ((intOf_modEq ty a).sub (intOf_modEq ty b)), wrapTo_congr hmod, wrapTo_natCast]

theorem wrapTo_min_intOf {ty a b : Nat} (ha : a < 2 ^ tyWidth ty) (hb : b < 2 ^ tyWidth ty) :
    wrapTo (tyWidth ty) (min (intOf ty a) (intOf ty b)) = if intOf ty a ≤ intOf ty b then a else b := by
  rw [min_def]
  split
  · exact wrapTo_intOf ha
  · exact wrapTo_intOf hb

theorem wrapTo_max_intOf {ty a b : Nat} (ha : a < 2 ^ tyWidth ty) (hb : b < 2 ^ tyWidth ty) :
    wrapTo (tyWidth ty) (max (intOf ty a) (intOf ty b)) = if intOf ty a ≤ intOf ty b then b else a := by
  rw [max_def]
  split
  · exact wrapTo_intOf hb
  · exact wrapTo_intOf ha

theorem satTo_lt (ty : Nat) (v : Int) : satTo ty v < 2 ^ tyWidth ty := wrapTo_lt _ _

/-- SHR is logical for unsigned types and arithmetic for signed ones. -/
theorem shrLane_eq {ty a : Nat} (n : Nat) (ha : a < 2 ^ tyWidth ty) :
    shrLane ty a n = if 4 ≤ ty then a / 2 ^ n else wrapTo (tyWidth ty) (sInt (tyWidth ty) a / 2 ^ n) := by
  unfold shrLane intOf
  by_cases h : ty < 4
  · rw [if_pos h, if_neg (by omega)]
  · rw [if_neg h, if_pos (by omega)]
    have hcast : (a : Int) / 2 ^ n = (a / 2 ^ n : Nat) := by push_cast; rfl
    rw [hcast, wrapTo_natCast, Nat.mod_eq_of_lt ((Nat.div_le_self _ _).trans_lt ha)]

theorem shrLane_lt (ty a n : Nat) : shrLane ty a n < 2 ^ tyWidth ty := wrapTo_lt _ _

theorem maskIf_lt (w : Nat) (b : Bool) : maskIf w b < 2 ^ w := by
  have hpos : 0 < 2 ^ w := Nat.two_pow_pos w
  cases b
  · exact hpos
  · exact Nat.sub_lt hpos Nat.one_pos

theorem clz_lt (w x : Nat) : clz w x < 2 ^ w := by
  have hle : clz w x ≤ w := by
    unfold clz
    split <;> omega
  exact hle.trans_lt Nat.lt_two_pow_self

theorem popc_lt (w x : Nat) : popc w x < 2 ^ w := by
  have hle : popc w x ≤ w := (List.length_filter_le _ _).trans_eq List.length_range
  exact hle.trans_lt Nat.lt_two_pow_self

theorem laneOp2_add : LaneOp2 (.add · · {}) fun ty a b => (a + b) % 2 ^ tyWidth ty := by
  refine laneOp2_of_map2 (fun ty a b => wrapTo (tyWidth ty) (intOf ty a + intOf ty b)) (fun _ _ _ => rfl) fun ty a b _ _ => ?_
  rw [wrapTo_mod, wrapTo_intOf_add]

theorem laneOp2_sub : LaneOp2 (.sub · · {}) fun ty a b => (a + 2 ^ tyWidth ty - b) % 2 ^ tyWidth ty := by
  refine laneOp2_of_map2 (fun ty a b => wrapTo (tyWidth ty) (intOf ty a - intOf ty b)) (fun _ _ _ => rfl) fun ty a b _ hb => ?_
  rw [wrapTo_mod, wrapTo_intOf_sub a hb]

theorem laneOp2_mul : LaneOp2 (.mul · · {}) fun ty a b => a * b % 2 ^ tyWidth ty := by
  refine laneOp2_of_map2 (fun ty a b => wrapTo (tyWidth ty) (intOf ty a * intOf ty b)) (fun _ _ _ => rfl) fun ty a b _ _ => ?_
  rw [wrapTo_mod, wrapTo_intOf_mul]

theorem laneOp2_adds : LaneOp2 (.adds · · {}) fun ty a b => satTo ty (intOf ty a + intOf ty b) :=
  laneOp2_of_map2 (fun ty a b => satTo ty (intOf ty a + intOf ty b)) (fun _ _ _ => rfl) fun ty _ _ _ _ => Nat.mod_eq_of_lt (satTo_lt ty _)

theorem laneOp2_subs : LaneOp2 (.subs · · {}) fun ty a b => satTo ty (intOf ty a - intOf ty b) :=
  laneOp2_of_map2 (fun ty a b => satTo ty (intOf ty a - intOf ty b)) (fun _ _ _ => rfl) fun ty _ _ _ _ => Nat.mod_eq_of_lt (satTo_lt ty _)

theorem laneOp2_mulh : LaneOp2 (.mulh · · {}) fun ty a b => wrapTo (tyWidth ty) (intOf ty a * intOf ty b / 2 ^ tyWidth ty) :=
  laneOp2_of_map2 (fun ty a b => wrapTo (tyWidth ty) (intOf ty a * intOf ty b / 2 ^ tyWidth ty)) (fun _ _ _ => rfl)
    fun _ _ _ _ _ => wrapTo_mod _ _

theorem laneOp2_min : LaneOp2 (.min · · {}) fun ty a b => if intOf ty a ≤ intOf ty b then a else b := by
  refine laneOp2_of_map2 (fun ty a b => wrapTo (tyWidth ty) (min (intOf ty a) (intOf ty b))) (fun _ _ _ => rfl) fun ty a b ha hb => ?_
  rw [wrapTo_mod, wrapTo_min_intOf ha hb]

theorem laneOp2_max : LaneOp2 (.max · · {}) fun ty a b => if intOf ty a ≤ intOf ty b then b else a := by
  refine laneOp2_of_map2 (fun ty a b => wrapTo (tyWidth ty) (max (intOf ty a) (intOf ty b))) (fun _ _ _ => rfl) fun ty a b ha hb => ?_
  rw [wrapTo_mod, wrapTo_max_intOf ha hb]

theorem laneOp2_shl : LaneOp2 (.shl · · {}) fun ty a b => a * 2 ^ (b % tyWidth ty) % 2 ^ tyWidth ty :=
  laneOp2_of_map2 (fun ty a b => a * 2 ^ (b % tyWidth ty) % 2 ^ tyWidth ty) (fun _ _ _ => rfl) fun _ _ _ _ _ => Nat.mod_mod _ _

theorem laneOp2_shr : LaneOp2 (.shr · · {}) fun ty a b =>
    if 4 ≤ ty then a / 2 ^ (b % tyWidth ty) else wrapTo (tyWidth ty) (sInt (tyWidth ty) a / 2 ^ (b % tyWidth ty)) := by
  refine laneOp2_of_map2 (fun ty a b => shrLane ty a (b % tyWidth ty)) (fun _ _ _ => rfl) fun ty a b ha _ => ?_
  rw [Nat.mod_eq_of_lt (shrLane_lt ty a _), shrLane_eq _ ha]

theorem laneOp2_cmplt : LaneOp2 (.cmplt · · {}) fun ty a b => if intOf ty a < intOf ty b then 2 ^ tyWidth ty - 1 else 0 := by
  refine laneOp2_of_map2 (fun ty a b => maskIf (tyWidth ty) (decide (intOf ty a < intOf ty b))) (fun _ _ _ => rfl) fun ty a b _ _ => ?_
  rw [Nat.mod_eq_of_lt (maskIf_lt _ _)]
  simp [maskIf]

theorem laneOp2_cmpeq : LaneOp2 (.cmpeq · · {}) fun ty a b => if a = b then 2 ^ tyWidth ty - 1 else 0 := by
  refine laneOp2_of_map2 (fun ty a b => maskIf (tyWidth ty) (a == b)) (fun _ _ _ => rfl) fun ty a b _ _ => ?_
  rw [Nat.mod_eq_of_lt (maskIf_lt _ _)]
  simp [maskIf]

theorem laneOp1_clz : LaneOp1 (.clz · · {}) fun ty a => if a = 0 then tyWidth ty else tyWidth ty - 1 - Nat.log2 a :=
  laneOp1_of_map1 (fun ty => clz (tyWidth ty)) (fun _ _ _ => rfl) fun _ a => Nat.mod_eq_of_lt (clz_lt _ a)

theorem laneOp1_popc : LaneOp1 (.popc · · {}) fun ty a => ((List.range (tyWidth ty)).filter fun i => a.testBit i).length :=
  laneOp1_of_map1 (fun ty => popc (tyWidth ty)) (fun _ _ _ => rfl) fun _ a => Nat.mod_eq_of_lt (popc_lt _ a)

/-- ADDI adds the sign-extended immediate to each lane. -/
theorem tileWrites_addi (f : IFmt) : TileWrites (fun t => .addi t f {}) f.d (fun x => (x.reg f.a).p) fun x v =>
    ∀ k, k < 64 / tyWidth f.ty.toNat → laneAt (tyWidth f.ty.toNat) k v =
      wrapTo (tyWidth f.ty.toNat) (laneAt (tyWidth f.ty.toNat) k (x.reg f.a).v + f.imm.toInt) := by
  refine tileWrites_of_tileLocal
    (fun x => map1 (tyWidth f.ty.toNat) (fun a => wrapTo (tyWidth f.ty.toNat) (a + f.imm.toInt)) (x.reg f.a).v)
    (fun _ _ => rfl) fun _ x _ k hk => ?_
  rw [laneAt_map1 _ _ _ _ hk, wrapTo_mod]

/-- Settles O5: each instruction maps a function over the lanes, and the function's value fits the lane. -/
theorem tileIntegerLanes : Obligations.TileIntegerLanes :=
  ⟨laneOp2_add, laneOp2_sub, laneOp2_mul, laneOp2_adds, laneOp2_subs, laneOp2_mulh, laneOp2_min, laneOp2_max, laneOp2_shl, laneOp2_shr,
    laneOp2_cmplt, laneOp2_cmpeq, laneOp1_clz, laneOp1_popc, tileWrites_addi⟩

/-! ## Encodings fit the width of their format (R234) -/

/-- The special encodings of a format lie below its sign bit. -/
theorem fmtOf_encodings_lt (ty : Nat) : (fmtOf ty).nan < 2 ^ ((fmtOf ty).w - 1) ∧ (fmtOf ty).maxEnc + 1 < 2 ^ ((fmtOf ty).w - 1) := by
  unfold fmtOf
  split <;> decide

theorem fmtOf_width {ty : Nat} (h8 : 8 ≤ ty) (h12 : ty ≤ 12) : (fmtOf ty).w = tyWidth ty := by
  interval_cases ty <;> rfl

theorem fmtOf_width_pos (ty : Nat) : 0 < (fmtOf ty).w := by
  unfold fmtOf
  split <;> decide

/-- A magnitude below the sign bit, with the sign in place, fits the format. -/
theorem Fmt.sign_add_lt {F : Fmt} (s : Bool) {m : Nat} (hm : m < 2 ^ (F.w - 1)) (hw : 0 < F.w) : F.sign s + m < 2 ^ F.w := by
  have hpow : 2 ^ F.w = 2 ^ (F.w - 1) + 2 ^ (F.w - 1) := by
    rw [← Nat.mul_two, Nat.two_pow_pred_mul_two hw]
  cases s
  · rw [Fmt.sign, if_neg Bool.false_ne_true]
    omega
  · rw [Fmt.sign, if_pos rfl]
    omega

theorem fmtOf_sign_add_lt {ty m : Nat} (s : Bool) (hm : m ≤ (fmtOf ty).maxEnc + 1) : (fmtOf ty).sign s + m < 2 ^ (fmtOf ty).w :=
  Fmt.sign_add_lt s (hm.trans_lt (fmtOf_encodings_lt ty).2) (fmtOf_width_pos ty)

theorem fmtOf_nan_lt (ty : Nat) : (fmtOf ty).nan < 2 ^ (fmtOf ty).w :=
  (fmtOf_encodings_lt ty).1.trans_le (Nat.pow_le_pow_right Nat.two_pos (Nat.sub_le _ _))

theorem fmtOf_overflow_lt (ty : Nat) (sat s : Bool) : (fmtOf ty).overflow sat s < 2 ^ (fmtOf ty).w := by
  unfold Fmt.overflow
  split
  · exact fmtOf_sign_add_lt s (Nat.le_succ _)
  · split
    · exact fmtOf_sign_add_lt s le_rfl
    · exact fmtOf_nan_lt ty

theorem fmtOf_round_lt (ty : Nat) (sat s : Bool) (m : Nat) (e : Int) (sticky : Bool) :
    (fmtOf ty).round sat s m e sticky < 2 ^ (fmtOf ty).w := by
  unfold Fmt.round
  split
  · exact fmtOf_sign_add_lt (m := 0) s (Nat.zero_le _)
  · dsimp only
    split
    · exact fmtOf_overflow_lt ty sat s
    · next hfits => exact fmtOf_sign_add_lt s ((Nat.le_of_not_lt hfits).trans (Nat.le_succ _))

theorem fmtOf_enc_lt (ty : Nat) (sat : Bool) (v : FVal) : (fmtOf ty).enc sat v < 2 ^ (fmtOf ty).w := by
  cases v with
  | nan => exact fmtOf_nan_lt ty
  | inf s =>
    rw [Fmt.enc]
    split
    · exact fmtOf_sign_add_lt s le_rfl
    · exact fmtOf_overflow_lt ty sat s
  | fin s m e => exact fmtOf_round_lt ty sat s m e false

/-! ## FMA and DOT (R245) -/

theorem laneOp3_fma : LaneOp3 (.fma · · {}) fun ty a b c =>
    (fmtOf ty).enc false ((((fmtOf ty).dec a).mul ((fmtOf ty).dec b)).add ((fmtOf ty).dec c)) := by
  intro f
  refine tileWrites_of_tileLocal
    (fun x => map3 (fmtOf f.ty.toNat).w (fmtOf f.ty.toNat).fma (x.reg f.a).v (x.reg f.b).v (x.reg f.d).v) (fun _ _ => rfl)
    fun t x hl k hk => ?_
  have hty : 10 ≤ f.ty.toNat ∧ f.ty.toNat ≤ 12 := by simpa [tileLegal, tyFloat] using hl
  have hw : (fmtOf f.ty.toNat).w = tyWidth f.ty.toNat := fmtOf_width (by omega) hty.2
  rw [← hw] at hk ⊢
  rw [laneAt_map3 _ _ _ _ _ _ hk]
  exact Nat.mod_eq_of_lt (fmtOf_enc_lt _ false _)

/-- One step of DOT: the product of lane `i` of A and of B is added to the FP32 accumulator and rounded once. -/
def dotStep (tyA tyB : Nat) (a b : W64) (acc i : Nat) : Nat :=
  (fmtOf 12).enc false
    ((((fmtOf tyA).dec (laneAt (tyWidth tyA) i a)).mul ((fmtOf tyB).dec (laneAt (tyWidth tyA) i b))).add ((fmtOf 12).dec acc))

/-- DOT's word is the accumulator after the step of every lane in ascending order. -/
theorem dotWord_eq (tyA tyB : Nat) (a b d : W64) :
    dotWord tyA tyB a b d = BitVec.ofNat 64 ((List.range (64 / tyWidth tyA)).foldl (dotStep tyA tyB a b) (laneAt 32 0 d)) := by
  simp only [dotWord, lanes, List.zip_map', List.foldl_map]
  rfl

/-- The accumulator of DOT stays an FP32 encoding. -/
theorem foldl_dotStep_lt (tyA tyB : Nat) (a b : W64) (l : List Nat) {acc : Nat} (hacc : acc < 2 ^ 32) :
    l.foldl (dotStep tyA tyB a b) acc < 2 ^ 32 := by
  induction l generalizing acc with
  | nil => exact hacc
  | cons i l ih => exact ih (fmtOf_enc_lt 12 false _)

/-- A word below 2^32 has its value in its lower half and 0 in its upper half. -/
theorem laneAt_ofNat_of_lt {n : Nat} (h : n < 2 ^ 32) : laneAt 32 0 (BitVec.ofNat 64 n) = n ∧ laneAt 32 1 (BitVec.ofNat 64 n) = 0 := by
  simp only [laneAt, BitVec.toNat_ofNat]
  omega

theorem tileWrites_dot (f : RFmt) : TileWrites (.dot · f {}) f.d (fun x => (x.reg f.a).p || (x.reg f.b).p || (x.reg f.d).p) fun x v =>
    laneAt 32 1 v = 0 ∧
    laneAt 32 0 v = (List.range (64 / tyWidth f.ty.toNat)).foldl
      (dotStep f.ty.toNat (f.c.toNat % 16) (x.reg f.a).v (x.reg f.b).v) (laneAt 32 0 (x.reg f.d).v) := by
  refine tileWrites_of_tileLocal
    (fun x => dotWord f.ty.toNat (f.c.toNat % 16) (x.reg f.a).v (x.reg f.b).v (x.reg f.d).v) (fun _ _ => rfl) fun _ x _ => ?_
  rw [dotWord_eq]
  exact (laneAt_ofNat_of_lt (foldl_dotStep_lt _ _ _ _ _ (laneAt_lt 32 0 _))).symm

/-- Settles O8: FMA lane by lane, DOT by its chain of rounded steps. -/
theorem tileFusedMultiplyAdd : Obligations.TileFusedMultiplyAdd := ⟨laneOp3_fma, tileWrites_dot⟩

/-! ## CVT (R239, R253) -/

theorem toInt_lt (ty : Nat) (v : FVal) : v.toInt ty < 2 ^ tyWidth ty := by
  cases v with
  | nan => exact Nat.two_pow_pos _
  | inf s => exact satTo_lt ty _
  | fin s m e => exact satTo_lt ty _

/-- A converted lane fits the destination's lane. -/
theorem cvtLane_lt {dst : Nat} (src : Nat) (sat : Bool) (x : Nat) (hdst : dst ≤ 12) : cvtLane src dst sat x < 2 ^ tyWidth dst := by
  have hfloat (h8 : 8 ≤ dst) {y : Nat} (hy : y < 2 ^ (fmtOf dst).w) : y < 2 ^ tyWidth dst := fmtOf_width h8 hdst ▸ hy
  unfold cvtLane
  split
  · dsimp only
    split
    · next h8 => exact hfloat h8 (fmtOf_enc_lt dst sat _)
    · exact toInt_lt dst _
  · dsimp only
    split
    · next h8 => exact hfloat h8 (fmtOf_round_lt dst sat _ _ _ _)
    · split
      · exact satTo_lt dst _
      · exact wrapTo_lt _ _

/-- Lane `i` of a word packed from a function of the lane's number. -/
theorem laneAt_packLanes_range {w n i : Nat} (g : Nat → Nat) (hi : i < n) (hw : w * n ≤ 64) (hg : g i < 2 ^ w) :
    laneAt w i (packLanes w ((List.range n).map g)) = g i := by
  rw [laneAt_packLanes w _ i (by simpa using hi) (by simpa using hw)]
  simpa [List.getD, hi] using Nat.mod_eq_of_lt hg

/-- To a wider type, lanes g·n to g·n+n−1 of A fill D (R253). -/
theorem laneAt_cvtWord_wider {src dst i : Nat} (g : Nat) (sat : Bool) (a old : W64) (hdst : dst ≤ 12) (hlt : tyWidth src < tyWidth dst)
    (hi : i < 64 / tyWidth dst) :
    laneAt (tyWidth dst) i (cvtWord src dst g sat a old) = cvtLane src dst sat (laneAt (tyWidth src) (g * (64 / tyWidth dst) + i) a) := by
  simp only [cvtWord, max_eq_right hlt.le, if_pos hlt]
  exact laneAt_packLanes_range _ hi (Nat.mul_div_le 64 _) (cvtLane_lt _ _ _ hdst)

/-- To a type that is not wider, lanes 0 to n−1 of A fill lanes g·n to g·n+n−1 of D, and the other lanes of D stay (R253). -/
theorem laneAt_cvtWord_notWider {src dst i : Nat} (g : Nat) (sat : Bool) (a old : W64) (hdst : dst ≤ 12) (hle : tyWidth dst ≤ tyWidth src)
    (hi : i < 64 / tyWidth dst) :
    laneAt (tyWidth dst) i (cvtWord src dst g sat a old) =
      if g * (64 / tyWidth src) ≤ i ∧ i < (g + 1) * (64 / tyWidth src) then
        cvtLane src dst sat (laneAt (tyWidth src) (i - g * (64 / tyWidth src)) a)
      else laneAt (tyWidth dst) i old := by
  simp only [cvtWord, max_eq_left hle, if_neg (Nat.not_lt.mpr hle), Nat.add_one_mul]
  refine laneAt_packLanes_range _ hi (Nat.mul_div_le 64 _) ?_
  split
  · exact cvtLane_lt _ _ _ hdst
  · exact laneAt_lt _ _ _

/-- What a legal CVT says of its types and its lane group. -/
theorem cvt_legal {t : Fin 10240} {f : RFmt} (hl : tileLegal (.cvt t f {}) = true) :
    f.ty.toNat ≤ 12 ∧ (f.b.toNat + 1) * (64 / max (tyWidth (f.c.toNat % 16)) (tyWidth f.ty.toNat)) ≤
      64 / min (tyWidth (f.c.toNat % 16)) (tyWidth f.ty.toNat) := by
  simp only [tileLegal, cvtOk, Bool.and_eq_true, decide_eq_true_eq] at hl
  exact ⟨hl.1.1, hl.2⟩

theorem tileWrites_cvt_wider (f : RFmt) (hlt : tyWidth (f.c.toNat % 16) < tyWidth f.ty.toNat) :
    TileWrites (.cvt · f {}) f.d (fun x => (x.reg f.a).p) fun x v => ∀ i, i < 64 / tyWidth f.ty.toNat →
      laneAt (tyWidth f.ty.toNat) i v =
        cvtLane (f.c.toNat % 16) f.ty.toNat (f.c.getLsbD 4)
          (laneAt (tyWidth (f.c.toNat % 16)) (f.b.toNat * (64 / tyWidth f.ty.toNat) + i) (x.reg f.a).v) := by
  have hcvt : Tile.cvt f = fun x => x.setReg f.d
      { v := cvtWord (f.c.toNat % 16) f.ty.toNat f.b.toNat (f.c.getLsbD 4) (x.reg f.a).v (x.reg f.d).v, p := (x.reg f.a).p } := by
    funext x
    simp [Tile.cvt, Nat.not_le.mpr hlt]
  exact tileWrites_of_tileLocal _ (fun t s => congrArg (s.tileLocal t (.cvt t f {}) {}) hcvt)
    fun t x hl i hi => laneAt_cvtWord_wider _ _ _ _ (cvt_legal hl).1 hlt hi

theorem tileWrites_cvt_notWider (f : RFmt) (hle : tyWidth f.ty.toNat ≤ tyWidth (f.c.toNat % 16)) :
    TileWrites (.cvt · f {}) f.d (fun x => (x.reg f.a).p || (x.reg f.d).p) fun x v => ∀ i, i < 64 / tyWidth f.ty.toNat →
      let n := 64 / tyWidth (f.c.toNat % 16)
      laneAt (tyWidth f.ty.toNat) i v =
        if f.b.toNat * n ≤ i ∧ i < (f.b.toNat + 1) * n then
          cvtLane (f.c.toNat % 16) f.ty.toNat (f.c.getLsbD 4) (laneAt (tyWidth (f.c.toNat % 16)) (i - f.b.toNat * n) (x.reg f.a).v)
        else laneAt (tyWidth f.ty.toNat) i (x.reg f.d).v := by
  have hcvt : Tile.cvt f = fun x => x.setReg f.d
      { v := cvtWord (f.c.toNat % 16) f.ty.toNat f.b.toNat (f.c.getLsbD 4) (x.reg f.a).v (x.reg f.d).v
        p := (x.reg f.a).p || (x.reg f.d).p } := by
    funext x
    simp [Tile.cvt, hle]
  exact tileWrites_of_tileLocal _ (fun t s => congrArg (s.tileLocal t (.cvt t f {}) {}) hcvt)
    fun t x hl i hi => laneAt_cvtWord_notWider _ _ _ _ (cvt_legal hl).1 hle hi

/-- Settles O9: the lane group lies in range, and each lane of D comes from the group or stays. -/
theorem tileConvert : Obligations.TileConvert := ⟨fun _ hl => (cvt_legal hl).2, tileWrites_cvt_wider, tileWrites_cvt_notWider⟩

end Sys2Proof.Machine
end
